-- ==== Sys2Proof/Word.lean ====
section
/-! DEFINITION. The word types of the Terkor and their plainest arithmetic (00 R3, R5, R9). -/
namespace Sys2Proof

/-- One byte (R4). -/
abbrev Byte := BitVec 8

/-- One 32-bit register word, one lane of a vector register or one scalar (R16). -/
abbrev Word := BitVec 32

/-- A 64-bit value, held in an even/odd pair (R5), or an address. -/
abbrev Dword := BitVec 64

/-- `{hi, lo}` of R9: the pair of R5, odd register in the upper half. -/
def pair (hi lo : Word) : Dword := hi ++ lo

/-- Bits [31:0] of a 64-bit value. -/
def lo32 (x : Dword) : Word := x.setWidth 32

/-- Bits [63:32] of a 64-bit value. -/
def hi32 (x : Dword) : Word := x.extractLsb' 32 32

end Sys2Proof
end

