-- ==== Sys2Proof/Machine/Fp.lean ====
section
/-! DEFINITION. Element formats, the one rounding function, conversions and error-feedback narrowing
(03 R67 to R84), over exact values: a finite value is sign, magnitude and power of two, with unbounded integers. -/
namespace Sys2Proof.Machine

/-- The floating-point element formats of R67. E8 stands apart (R71). -/
inductive Ff where
  | f32 | h16 | b16 | f8a | f8b | f4
  deriving DecidableEq, Repr

/-- The rounding modes of R51. -/
inductive Rm where
  | rne | rtz | rdn | rup | rna
  deriving DecidableEq, Repr

/-- The fields of a floating-point MOD hint (R51, R77). -/
structure FpMod where
  rm : Rm
  sat : Bool
  ftz : Bool
  nanov : Bool
  deriving DecidableEq, Repr

/-- No MOD hint: R51's default. -/
def FpMod.none : FpMod := ⟨.rne, false, false, false⟩

/-- An exact value: NaN, an infinity, or `(-1)^s * m * 2^e` (a zero has `m = 0` and keeps its sign). -/
inductive Fv where
  | nan
  | inf (s : Bool)
  | fin (s : Bool) (m : Nat) (e : Int)
  deriving DecidableEq, Repr

/-- Width in bits (R67). -/
def Ff.bits (f : Ff) : Nat :=
  match f with | .f32 => 32 | .h16 => 16 | .b16 => 16 | .f8a => 8 | .f8b => 8 | .f4 => 4

/-- Stored significand bits (R67). -/
def Ff.m (f : Ff) : Nat :=
  match f with | .f32 => 23 | .h16 => 10 | .b16 => 7 | .f8a => 3 | .f8b => 2 | .f4 => 1

/-- Bias (R67). -/
def Ff.bias (f : Ff) : Nat :=
  match f with | .f32 => 127 | .h16 => 15 | .b16 => 127 | .f8a => 7 | .f8b => 15 | .f4 => 1

/-- Exponent of the smallest normal value (R67): `1 - bias`. -/
def Ff.emin (f : Ff) : Int := 1 - (f.bias : Int)

/-- Exponent of the largest finite value (R67, R69, R70). -/
def Ff.emax (f : Ff) : Int :=
  match f with | .f32 => 127 | .h16 => 15 | .b16 => 127 | .f8a => 8 | .f8b => 15 | .f4 => 2

/-- Significand of the largest finite value with its hidden bit, in units of its spacing (R67, R69). -/
def Ff.maxSig (f : Ff) : Nat :=
  match f with | .f8a => 14 | _ => 2 ^ (f.m + 1) - 1

/-- Number of exponent bits. -/
def Ff.ebits (f : Ff) : Nat := f.bits - 1 - f.m

/-- Pattern of the largest finite value, sign 0. -/
def Ff.maxPat (f : Ff) : Nat :=
  (f.emax + f.bias).toNat * 2 ^ f.m + (f.maxSig - 2 ^ f.m)

/-- The canonical NaN of R73; F4 maps a NaN to +0 (R78). -/
def Ff.nanPat (f : Ff) : Nat :=
  match f with
  | .f32 => 0x7FC00000 | .h16 => 0x7E00 | .b16 => 0x7FC0 | .f8a => 0x7F | .f8b => 0x7E | .f4 => 0

/-- Pattern of +infinity, for the formats that hold one (R67). -/
def Ff.infPat (f : Ff) : Nat := (2 ^ f.ebits - 1) * 2 ^ f.m

/-- The sign bit's weight. -/
def Ff.signPat (f : Ff) (s : Bool) : Nat := if s then 2 ^ (f.bits - 1) else 0

/-- The value of a bit pattern (R68, R69, R70). -/
def Ff.value (f : Ff) (x : Nat) : Fv :=
  let s := decide ((x / 2 ^ (f.bits - 1)) % 2 = 1)
  let ex := (x / 2 ^ f.m) % 2 ^ f.ebits
  let fr := x % 2 ^ f.m
  let top := 2 ^ f.ebits - 1
  match f with
  | .f4 => if ex = 0 then .fin s fr (f.emin - f.m) else .fin s (2 ^ f.m + fr) ((ex : Int) - f.bias - f.m)
  | .f8a =>
    if ex = top ∧ fr = 7 then .nan
    else if ex = 0 then .fin s fr (f.emin - f.m) else .fin s (2 ^ f.m + fr) ((ex : Int) - f.bias - f.m)
  | _ =>
    if ex = top then (if fr = 0 then .inf s else .nan)
    else if ex = 0 then .fin s fr (f.emin - f.m) else .fin s (2 ^ f.m + fr) ((ex : Int) - f.bias - f.m)

/-- `overflow(s, fmt, mode)` of R76, as a pattern. -/
def Ff.overflow (f : Ff) (o : FpMod) (s : Bool) : Nat :=
  let mx := f.signPat s + f.maxPat
  match f with
  | .f4 => mx
  | .f8a => if o.nanov then f.nanPat else mx
  | _ =>
    if o.sat then mx
    else match o.rm with
      | .rne | .rna => f.signPat s + f.infPat
      | .rtz => mx
      | .rdn => if s then f.signPat s + f.infPat else mx
      | .rup => if s then mx else f.signPat s + f.infPat

/-- The rounding choice of R75 between `lo` and `lo + 1`; `c` compares the remainder with half the spacing
(0: exact, 1: below half, 2: half, 3: above half). -/
def roundPick (rm : Rm) (s : Bool) (lo c : Nat) : Nat :=
  if c = 0 then lo
  else match rm with
    | .rne => if c = 3 ∨ (c = 2 ∧ lo % 2 = 1) then lo + 1 else lo
    | .rna => if c = 1 then lo else lo + 1
    | .rtz => lo
    | .rdn => if s then lo + 1 else lo
    | .rup => if s then lo else lo + 1

/-- `floor(m / 2^sh)` and R75's comparison of the remainder with half of `2^sh`. A shift past the
magnitude's bits is not carried out: the quotient is 0 and the remainder below half. -/
def splitAt (m sh : Nat) : Nat × Nat :=
  if m = 0 then (0, 0)
  else if sh > m.log2 + 1 then (0, 1)
  else
    let d := 2 ^ sh
    let r := m % d
    (m / d, if r = 0 then 0 else if 2 * r < d then 1 else if 2 * r = d then 2 else 3)

/-- `n = |x| / 2^qe` rounded (R75), for `x = ± m * 2^e` and a spacing `2^qe`. -/
def roundUnits (rm : Rm) (s : Bool) (m : Nat) (e qe : Int) : Nat :=
  if qe ≤ e then m * 2 ^ (e - qe).toNat
  else
    let p := splitAt m (qe - e).toNat
    roundPick rm s p.1 p.2

/-- `round(x, fmt, mode)` of R75 to R77 as a bit pattern, for a finite value already known nonzero or zero;
FTZ flushes a subnormal result (R77). -/
def Ff.roundFin (f : Ff) (o : FpMod) (s : Bool) (m : Nat) (e : Int) : Nat :=
  if m = 0 then f.signPat s
  else
    let ex := (m.log2 : Int) + e
    if ex > f.emax then f.overflow o s
    else
      let qe := max ex f.emin - f.m
      let n := roundUnits o.rm s m e qe
      -- the exponent is unbounded above while rounding: 2^(m+1) is the next binade's first value
      let n' := if n = 2 ^ (f.m + 1) then 2 ^ f.m else n
      let qe' := if n = 2 ^ (f.m + 1) then qe + 1 else qe
      if qe' > f.emax - f.m ∨ (qe' = f.emax - f.m ∧ n' > f.maxSig) then f.overflow o s
      else if n' < 2 ^ f.m then
        (if o.ftz then f.signPat s else f.signPat s + n')
      else f.signPat s + (qe' + f.m + f.bias).toNat * 2 ^ f.m + (n' - 2 ^ f.m)

/-- `round(x, fmt, mode)` of R75: the pattern of the result. -/
def Ff.round (f : Ff) (o : FpMod) (x : Fv) : Nat :=
  match x with
  | .nan => f.nanPat
  | .inf s => f.overflow o s
  | .fin s m e => f.roundFin o s m e

/-- A value passed unrounded into its own format: infinities unchanged but under SAT (R77, R102). -/
def Ff.pass (f : Ff) (o : FpMod) (x : Fv) : Nat :=
  match x with
  | .inf s => if o.sat then f.signPat s + f.maxPat else f.signPat s + f.infPat
  | _ => f.round o x

/-- FTZ on an input: a subnormal becomes a zero of its sign (R77). -/
def Ff.flushIn (f : Ff) (ftz : Bool) (x : Fv) : Fv :=
  match x with
  | .fin s m e => if ftz ∧ m < 2 ^ f.m ∧ e = f.emin - f.m then .fin s 0 e else x
  | _ => x

/-- The value of a pattern as an operand under the MOD's FTZ. -/
def Ff.opnd (f : Ff) (o : FpMod) (x : Nat) : Fv := f.flushIn o.ftz (f.value x)

/-- The sign of an exact zero sum (R74): a sum of like signs keeps it; otherwise +0, or -0 under RDN. -/
def zeroSumSign (rm : Rm) (a b : Bool) : Bool := if a = b then a else rm = .rdn

/-- Exact sum (R74, R79): NaN and infinities by IEEE 754. -/
def Fv.add (rm : Rm) (a b : Fv) : Fv :=
  match a, b with
  | .nan, _ => .nan
  | _, .nan => .nan
  | .inf s, .inf t => if s = t then .inf s else .nan
  | .inf s, _ => .inf s
  | _, .inf t => .inf t
  | .fin s m e, .fin t n g =>
    if m = 0 ∧ n = 0 then .fin (zeroSumSign rm s t) 0 0
    else if m = 0 then .fin t n g
    else if n = 0 then .fin s m e
    else
      let q := min e g
      let x : Int := (if s then -1 else 1) * ((m * 2 ^ (e - q).toNat : Nat) : Int)
      let y : Int := (if t then -1 else 1) * ((n * 2 ^ (g - q).toNat : Nat) : Int)
      let z := x + y
      if z = 0 then .fin (zeroSumSign rm s t) 0 0 else .fin (z < 0) z.natAbs q

/-- Sign inversion. -/
def Fv.neg (a : Fv) : Fv :=
  match a with | .nan => .nan | .inf s => .inf (!s) | .fin s m e => .fin (!s) m e

/-- Magnitude. -/
def Fv.abs (a : Fv) : Fv :=
  match a with | .nan => .nan | .inf _ => .inf false | .fin _ m e => .fin false m e

/-- Exact product (R74, R79): infinity times zero is NaN. -/
def Fv.mul (a b : Fv) : Fv :=
  match a, b with
  | .nan, _ => .nan
  | _, .nan => .nan
  | .inf s, .inf t => .inf (s != t)
  | .inf s, .fin t n _ => if n = 0 then .nan else .inf (s != t)
  | .fin s m _, .inf t => if m = 0 then .nan else .inf (s != t)
  | .fin s m e, .fin t n g => .fin (s != t) (m * n) (e + g)

/-- Is the value NaN. -/
def Fv.isNan (a : Fv) : Bool := match a with | .nan => true | _ => false

/-- Is the value finite. -/
def Fv.isFin (a : Fv) : Bool := match a with | .fin .. => true | _ => false

/-- IEEE 754 order of two values that are not NaN: -1, 0 or 1; the zeros compare equal. -/
def Fv.cmp (a b : Fv) : Int :=
  match a, b with
  | .inf s, .inf t => if s = t then 0 else if s then -1 else 1
  | .inf s, _ => if s then -1 else 1
  | _, .inf t => if t then 1 else -1
  | .fin s m e, .fin t n g =>
    let q := min e g
    let x : Int := (if s then -1 else 1) * ((m * 2 ^ (e - q).toNat : Nat) : Int)
    let y : Int := (if t then -1 else 1) * ((n * 2 ^ (g - q).toNat : Nat) : Int)
    if x < y then -1 else if x = y then 0 else 1
  | _, _ => 0

/-- The sign of a value (a zero has one too). -/
def Fv.sign (a : Fv) : Bool := match a with | .nan => false | .inf s => s | .fin s _ _ => s

/-- R101's order: as `Fv.cmp`, with -0 below +0. -/
def Fv.less (a b : Fv) : Bool :=
  let c := Fv.cmp a b
  decide (c < 0) || (decide (c = 0) && a.sign && !b.sign)

/-- FMIN and FMAX (R101). -/
def Fv.minMax (wantMax : Bool) (a b : Fv) : Fv :=
  if a.isNan then b
  else if b.isNan then a
  else if Fv.less a b = wantMax then b else a

/-- Rounding to an integral value with spacing 1, magnitude unbounded (R75 with fmt I∞). -/
def Fv.integral (rm : Rm) (a : Fv) : Fv :=
  match a with
  | .fin s m e => if 0 ≤ e then a else .fin s (roundUnits rm s m e 0) 0
  | _ => a

/-- The classes of R103, bit by bit. -/
def Ff.classify (f : Ff) (a : Fv) : Nat :=
  match a with
  | .nan => 256
  | .inf s => if s then 1 else 128
  | .fin s m e =>
    if m = 0 then (if s then 8 else 16)
    else if m < 2 ^ f.m ∧ e = f.emin - f.m then (if s then 4 else 32)
    else if s then 2 else 64

/-- Integer square root by bits, for arguments below `4^fuel`. -/
def isqrtFrom (fuel n r : Nat) : Nat :=
  match fuel with
  | 0 => r
  | k + 1 =>
    let t := r + 2 ^ k
    if t * t ≤ n then isqrtFrom k n t else isqrtFrom k n r

/-- `floor(sqrt n)`. -/
def isqrt (n : Nat) : Nat := isqrtFrom (n.log2 / 2 + 1) n 0

/-- A positive quotient of integers as a value: `floor(2^k * n / d)` with a last bit that says whether the quotient
is inexact; with enough bits before that last one, rounding it is rounding the exact value. -/
def sticky (s : Bool) (q : Nat) (exact : Bool) (e : Int) : Fv :=
  .fin s (2 * q + (if exact then 0 else 1)) (e - 1)

/-- √A (R100): √(-0) is -0; a negative A gives NaN. -/
def Fv.sqrt (a : Fv) : Fv :=
  match a with
  | .nan => .nan
  | .inf s => if s then .nan else .inf false
  | .fin s m e =>
    if m = 0 then .fin s 0 0
    else if s then .nan
    else
      let m1 := if e % 2 = 0 then m else 2 * m
      let e1 := if e % 2 = 0 then e else e - 1
      let n := m1 * 2 ^ 80
      let r := isqrt n
      sticky false r (r * r = n) (e1 / 2 - 40)

/-! ### Integer destinations and conversion codes (R78, R80, R81) -/

/-- Clamps an exact integer to `[lo, hi]`. -/
def clampInt (lo hi x : Int) : Int := if x < lo then lo else if hi < x then hi else x

/-- round(x, integer format, mode), saturating (R76) and with NaN to 0 (R78). -/
def Fv.toInt (rm : Rm) (lo hi : Int) (a : Fv) : Int :=
  match a with
  | .nan => 0
  | .inf s => if s then lo else hi
  | .fin s m e =>
    if m = 0 then 0
    else if (m.log2 : Int) + e > 70 then (if s then lo else hi)
    else
      let n := roundUnits rm s m e 0
      clampInt lo hi (if s then -(n : Int) else (n : Int))

/-- Float to E8 (R81): the power of two given by rounding log2 |x|, as the code of R71. -/
def Fv.toE8 (rm : Rm) (a : Fv) : Nat :=
  match a with
  | .nan => 0xFF
  | .inf _ => 0xFE
  | .fin _ m e =>
    if m = 0 then 0
    else
      let l := m.log2
      let fl : Int := (l : Int) + e
      let code := fl + 127
      -- |x| against 1.5 * 2^floor(log2|x|): compare 2m with 3 * 2^l
      let up : Bool :=
        match rm with
        | .rtz | .rdn => false
        | .rup => decide (m ≠ 2 ^ l)
        | .rne => decide (2 * m > 3 * 2 ^ l) || (decide (2 * m = 3 * 2 ^ l) && decide (code % 2 = 1))
        | .rna => decide (2 * m ≥ 3 * 2 ^ l)
      let c := if up then code + 1 else code
      (clampInt 0 254 c).toNat

/-- The source formats of R80. -/
inductive CvSrc where
  | flt (f : Ff)
  | i32
  | u32
  deriving DecidableEq, Repr

/-- The destination formats of R80: a float, E8, or an integer of `n` bits. -/
inductive CvDst where
  | flt (f : Ff)
  | e8
  | int (n : Nat)
  | uint (n : Nat)
  deriving DecidableEq, Repr

/-- Bits [6:4] of a conversion code (R80). -/
def cvSrc (c : BitVec 3) : CvSrc :=
  match c.toNat with
  | 0 => .flt .f32 | 1 => .flt .h16 | 2 => .flt .b16 | 3 => .flt .f8a | 4 => .flt .f8b | 5 => .flt .f4
  | 6 => .i32 | _ => .u32

/-- Bits [3:0] of a conversion code (R80). -/
def cvDst (c : BitVec 4) : CvDst :=
  match c.toNat with
  | 0 => .flt .f32 | 1 => .flt .h16 | 2 => .flt .b16 | 3 => .flt .f8a | 4 => .flt .f8b | 5 => .flt .f4
  | 6 => .e8 | 7 => .int 32 | 8 => .uint 32 | 9 => .int 16 | 10 => .uint 16 | 11 => .int 8 | 12 => .uint 8
  | 13 => .int 4 | 14 => .uint 4 | _ => .int 64

/-- The codes that R80 makes ILLEGAL: equal formats, and an integer source with destination E8. -/
def cvLegal (s : BitVec 3) (d : BitVec 4) : Bool :=
  match cvSrc s, cvDst d with
  | .flt f, .flt g => decide (f ≠ g)
  | .i32, .int 32 => false
  | .u32, .uint 32 => false
  | .i32, .e8 => false
  | .u32, .e8 => false
  | _, _ => true

/-- An exact integer as a value. -/
def Fv.ofInt (x : Int) : Fv := .fin (x < 0) x.natAbs 0

/-- The exact source value of a conversion, FTZ applied (R77, R81, R106). -/
def cvRead (s : CvSrc) (o : FpMod) (w : Word) : Fv :=
  match s with
  | .flt f => f.opnd o (w.toNat % 2 ^ f.bits)
  | .i32 => .ofInt w.toInt
  | .u32 => .ofInt w.toNat

/-- Is a conversion one to a wider float (R81)? -/
def Ff.widens (g f : Ff) : Bool := if f = .f32 then decide (g ≠ .f32) else decide (g = .f4)

/-- A float into a float (R81): to a wider one it is exact, an infinity included, which only FTZ could change; into its own format nothing is rounded (R106). Log 71. -/
def Ff.convert (g f : Ff) (o : FpMod) (x : Fv) : Nat :=
  if g.widens f then f.pass { o with sat := false } x else if g = f then f.pass o x else f.round o x

/-- A conversion (R81): the result as up to 64 bits, element 0 with the rest zero. -/
def convert (s : CvSrc) (d : CvDst) (o : FpMod) (w : Word) : BitVec 64 :=
  let x := cvRead s o w
  match d with
  | .flt f => BitVec.ofNat 64 (match s with | .flt g => g.convert f o x | _ => f.round o x)
  | .e8 => BitVec.ofNat 64 (x.toE8 o.rm)
  | .int n =>
    (BitVec.ofInt n (x.toInt o.rm (-(2 ^ (n - 1) : Nat)) ((2 ^ (n - 1) : Nat) - 1))).setWidth 64
  | .uint n => (BitVec.ofInt n (x.toInt o.rm 0 ((2 ^ n : Nat) - 1))).setWidth 64

/-! ### Error-feedback narrowing (R83, R84) -/

/-- The formats of CVTEF. -/
inductive EfFmt where
  | flt (f : Ff)
  | i8
  deriving DecidableEq, Repr

/-- Element width of a CVTEF destination (R107). -/
def EfFmt.bits (f : EfFmt) : Nat := match f with | .flt f => f.bits | .i8 => 8

/-- `ef(a, b, fmt)` of R83: the element's pattern and the residue. The MOD rounding field is 0; FTZ acts on
a, b, x and r, not on y. -/
def errorFeedback (f : EfFmt) (o : FpMod) (a b : Word) : Nat × Word :=
  let o32 : FpMod := ⟨.rne, false, o.ftz, false⟩
  let xp := Ff.f32.round o32 (Fv.add .rne (Ff.f32.opnd o a.toNat) (Ff.f32.opnd o b.toNat))
  let x := Ff.f32.value xp
  let residue (y : Fv) : Word :=
    if !x.isFin || y.isNan then 0#32
    else BitVec.ofNat 32 (Ff.f32.round o32 (Fv.add .rne x y.neg))
  match f with
  | .flt f =>
    let yp := f.round { o with rm := .rne, ftz := false } x
    (yp, residue (f.value yp))
  | .i8 =>
    let yi := x.toInt .rne (-128) 127
    ((BitVec.ofInt 8 yi).toNat, residue (.ofInt yi))

end Sys2Proof.Machine
end

