-- ==== Sys2Proof/Machine/Sfu.lean ====
section
/-! DEFINITION. The special functions (03 R85, R86; 04 R104): the correctly rounded value of the exact function,
found from an integer approximation with far more bits than any F32 rounding decision needs. -/
namespace Sys2Proof.Machine

/-- The functions of R85. -/
inductive Sf where
  | rcp | rsq | ex2 | lg2 | sin | cos | tanh
  deriving DecidableEq, Repr

/-- Fraction bits of the fixed-point numbers below. -/
def sfBits : Nat := 256

/-- floor(ln 2 * 2^256). -/
def sfLn2 : Nat := 0xb17217f7d1cf79abc9e3b39803f2f6af40f343267298b62d8a0d175b8baafa2b

/-- floor(pi/2 * 2^256). -/
def sfHalfPi : Nat := 0x1921fb54442d18469898cc51701b839a252049c1114cf98e804177d4c76273644

/-- floor(2/pi * 2^512). -/
def sfTwoOverPi : Nat :=
  0xa2f9836e4e441529fc2757d1f534ddc0db6295993c439041fe5163abdebbc561b7246e3a424dd2e006492eea09d1921cfe1deb1cb129a73ee88235f52ebb4484

/-- Sum of the exponential series: terms `t`, `t r / k`, `t r^2 / (k (k+1))`, … -/
def expSeries (fuel k t r : Nat) : Nat :=
  match fuel with
  | 0 => t
  | n + 1 => t + expSeries n (k + 1) (t * r / 2 ^ sfBits / k) r

/-- `2^f * 2^256` for `f = fr / 2^256` in [0, 1). -/
def exp2Frac (fr : Nat) : Nat := expSeries 64 1 (2 ^ sfBits) (fr * sfLn2 / 2 ^ sfBits)

/-- Sum of `z^(2i+1) / (2i+1)`, `z2 = z^2`. -/
def atanhSeries (fuel k t z2 : Nat) : Nat :=
  match fuel with
  | 0 => 0
  | n + 1 => t / k + atanhSeries n (k + 2) (t * z2 / 2 ^ sfBits) z2

/-- `log2(m / 2^l) * 2^256` for `2^l ≤ m < 2^(l+1)`. -/
def log2Frac (m l : Nat) : Nat :=
  let z := (m - 2 ^ l) * 2 ^ sfBits / (m + 2 ^ l)
  2 * atanhSeries 84 1 z (z * z / 2 ^ sfBits) * 2 ^ sfBits / sfLn2

/-- Alternating series of the sine and cosine: `t - t r2/(k(k+1)) + …`. -/
def trigSeries (fuel k : Nat) (t r2 : Int) : Int :=
  match fuel with
  | 0 => t
  | n + 1 => t - trigSeries n (k + 2) (t * r2 / (2 ^ sfBits : Nat) / ((k * (k + 1) : Nat) : Int)) r2

/-- sin(r) and cos(r), fixed point, for r in [0, pi/2). -/
def sinFix (r : Nat) : Nat := (trigSeries 40 2 r ((r * r / 2 ^ sfBits : Nat) : Int)).toNat
def cosFix (r : Nat) : Nat := (trigSeries 40 1 ((2 ^ sfBits : Nat) : Int) ((r * r / 2 ^ sfBits : Nat) : Int)).toNat

/-- The quadrant (mod 4) and the remainder, fixed point, of `m * 2^e` by pi/2: the reduction is of the exact value. -/
def reduceHalfPi (m : Nat) (e : Int) : Nat × Nat :=
  let p := m * sfTwoOverPi
  let y := if 0 ≤ e then p * 2 ^ e.toNat else p / 2 ^ (-e).toNat
  ((y / 2 ^ 512) % 4, (y % 2 ^ 512) / 2 ^ 256 * sfHalfPi / 2 ^ sfBits)

/-- A fixed-point result that is not exact, as a value for one rounding. -/
def sfInexact (s : Bool) (q : Nat) : Fv := sticky s q false (-(sfBits : Int))

/-- sin of a finite nonzero value; below 2^-13 it rounds as its argument does. -/
def Fv.sin (s : Bool) (m : Nat) (e : Int) : Fv :=
  if (m.log2 : Int) + e < -13 then .fin s m e
  else
    let (q, r) := reduceHalfPi m e
    let v := if q % 2 = 0 then sinFix r else cosFix r
    sfInexact (s != decide (q ≥ 2)) v

/-- cos of a finite nonzero value; below 2^-13 it rounds to 1. -/
def Fv.cos (m : Nat) (e : Int) : Fv :=
  if (m.log2 : Int) + e < -13 then .fin false 1 0
  else
    let (q, r) := reduceHalfPi m e
    let v := if q % 2 = 0 then cosFix r else sinFix r
    sfInexact (decide (q = 1) || decide (q = 2)) v

/-- `2^x` of a finite nonzero value. -/
def Fv.ex2 (s : Bool) (m : Nat) (e : Int) : Fv :=
  let l := (m.log2 : Int) + e
  if l < -27 then .fin false 1 0
  else if l > 9 then (if s then .fin false 1 (-400) else .fin false 1 400)
  else
    -- x as a fixed-point integer with 64 fraction bits: exact here, since e ≥ -27 - 23
    let f : Nat := m * 2 ^ (e + 64).toNat
    let x : Int := if s then -(f : Int) else (f : Int)
    let n := x / (2 ^ 64 : Nat)
    let fr := (x % (2 ^ 64 : Nat)).toNat
    if fr = 0 then .fin false 1 n
    else sticky false (exp2Frac (fr * 2 ^ (sfBits - 64))) false (n - (sfBits : Int))

/-- log2 of a positive finite value: an integer for a power of two. -/
def Fv.lg2 (m : Nat) (e : Int) : Fv :=
  let l := m.log2
  let n : Int := (l : Int) + e
  if m = 2 ^ l then .ofInt n
  else
    let fr := log2Frac m l
    let x : Int := n * (2 ^ sfBits : Nat) + (fr : Int)
    if x < 0 then sfInexact true (x.natAbs - 1) else sfInexact false x.toNat

/-- tanh of a finite nonzero value; below 2^-13 it rounds as its argument does and from 10 on to 1. -/
def Fv.tanh (s : Bool) (m : Nat) (e : Int) : Fv :=
  let l := (m.log2 : Int) + e
  if l < -13 then .fin s m e
  else if l > 3 then .fin s 1 0
  else
    -- E = exp(2|x|) = 2^(2|x| / ln 2)
    let x2 := m * 2 ^ (e + 64).toNat * 2                       -- 2|x|, 64 fraction bits
    let y := x2 * 2 ^ (2 * sfBits - 64) / sfLn2                -- 2|x| / ln 2, 256 fraction bits
    let n := y / 2 ^ sfBits
    let ex := exp2Frac (y % 2 ^ sfBits) * 2 ^ n
    sfInexact s ((ex - 2 ^ sfBits) * 2 ^ sfBits / (ex + 2 ^ sfBits))

/-- The exact result of R85 and R86 for input `a` (FTZ already applied). -/
def sfValue (f : Sf) (a : Fv) : Fv :=
  match f, a with
  | _, .nan => .nan
  | .rcp, .inf s => .fin s 0 0
  | .rcp, .fin s m e =>
    if m = 0 then .inf s
    else
      let q := 2 ^ 80 / m
      sticky s q (q * m = 2 ^ 80) (-e - 80)
  | .rsq, .inf s => if s then .nan else .fin false 0 0
  | .rsq, .fin s m e =>
    if m = 0 then .inf s
    else if s then .nan
    else
      let m1 := if e % 2 = 0 then m else 2 * m
      let e1 := if e % 2 = 0 then e else e - 1
      let n := 2 ^ 160
      let r := isqrt (n / m1)
      sticky false r (r * r * m1 = n) (-(e1 / 2) - 80)
  | .ex2, .inf s => if s then .fin false 0 0 else .inf false
  | .ex2, .fin s m e => if m = 0 then .fin false 1 0 else Fv.ex2 s m e
  | .lg2, .inf s => if s then .nan else .inf false
  | .lg2, .fin s m e => if m = 0 then .inf true else if s then .nan else Fv.lg2 m e
  | .sin, .inf _ => .nan
  | .sin, .fin s m e => if m = 0 then a else Fv.sin s m e
  | .cos, .inf _ => .nan
  | .cos, .fin _ m e => if m = 0 then .fin false 1 0 else Fv.cos m e
  | .tanh, .inf s => .fin s 1 0
  | .tanh, .fin s m e => if m = 0 then a else Fv.tanh s m e

/-- A special-function instruction's result (R77, R85, R86): always RNE; SAT and FTZ act. -/
def sfResult (f : Sf) (o : FpMod) (a : Word) : Word :=
  BitVec.ofNat 32 (Ff.f32.round { o with rm := .rne } (sfValue f (Ff.f32.opnd o a.toNat)))

/-- FSQRT (R100), under the MOD's rounding. -/
def sqrtResult (o : FpMod) (a : Word) : Word :=
  BitVec.ofNat 32 (Ff.f32.round o (Fv.sqrt (Ff.f32.opnd o a.toNat)))

end Sys2Proof.Machine
end

