-- ==== Sys2Proof/Config.lean ====
section
/-! DEFINITION. What the spec leaves open and the machine goes on with: free values. They are opaque, so nothing can be
proved about them beyond their type; each use applies them to the counter `State.freeCtr`, which the use advances. -/
namespace Sys2Proof

/-- A free bit: a choice the spec leaves open between two values (for example 02 R41: old or new code word). -/
opaque Config.freeBool : Nat → Bool

/-- A free 32-bit value. -/
opaque Config.freeWord : Nat → Word

/-- A free byte. -/
opaque Config.freeByte : Nat → Byte

/-- A free natural number (an identifier or an amount that the spec does not fix). -/
opaque Config.freeNat : Nat → Nat

/-- The DICE certificate chain by life-cycle state (22 R438). -/
opaque Config.certificates : Nat → List Byte

/-- The answer to an SPDM challenge by life-cycle state and nonce (22 R439). -/
opaque Config.challenge : Nat → List Byte → List Byte

/-- Measurement blocks by life-cycle state and index (22 R439). -/
opaque Config.measurement : Nat → Nat → List Byte

/-- The fixed hash of package and line that chooses among routes (24 R466). -/
opaque Config.fabricHash : Nat → Nat → Nat

/-- Size of a checkpoint image (21 R430) by the counts of what it holds: the spec gives no layout. -/
opaque Config.imageSize : List Nat → Nat

/-- Bytes of checkpoint image number `n` (21 R430). -/
opaque Config.imageByte : Nat → Nat → Byte

/-- `n` free bytes from counter `k` on. -/
def Config.freeBytes (k n : Nat) : List Byte :=
  match n with
  | 0 => []
  | n + 1 => Config.freeByte k :: Config.freeBytes (k + 1) n

/-- Set of the L1 that a line falls into, by its virtual address; the spec gives L1 no sets (log 70). -/
opaque Config.l1Set : Nat → Nat

/-- Ways of a set of L1; the spec gives no number (log 70). -/
opaque Config.l1Ways : Nat

end Sys2Proof
end

