-- ==== Sys2Proof/Syntax.lean ====
section
/-! DEFINITION. The instructions: one constructor per row of the opcode table. The first 196 are Terkor words (02 R39 to R58) with
their prefix words in fetch order, the next four are the service cores' custom words (18 R383), and the rest are the
device's own steps, which have no words (95). An operand record holds exactly the fields the word's format names. -/
namespace Sys2Proof

/-- A prefix word (02 R47 to R50): hints 0 to 4 and HIMM. -/
inductive Pf where
  | mod (payload : BitVec 24)
  | suba (n : BitVec 9)
  | subb (n : BitVec 9)
  | subab (a b : BitVec 9)
  | prio (level : BitVec 2)
  | himm (payload : BitVec 28)
  deriving DecidableEq, Repr

/-- No operand field (formats Z and X with every field fixed). -/
structure Z where
  pf : List Pf
  deriving DecidableEq, Repr

/-- Format V3, also format M: guard, d, a, b (for SEL the g field is the selector, R113). -/
structure V3 where
  pf : List Pf
  g : BitVec 3
  d : BitVec 7
  a : BitVec 7
  b : BitVec 7
  deriving DecidableEq, Repr

/-- V3 without a b operand (R94). -/
structure V2 where
  pf : List Pf
  g : BitVec 3
  d : BitVec 7
  a : BitVec 7
  deriving DecidableEq, Repr

/-- V3 without an a operand: MOV (R113). -/
structure Mv where
  pf : List Pf
  g : BitVec 3
  d : BitVec 7
  b : BitVec 7
  deriving DecidableEq, Repr

/-- Only a destination: P2V (R112), LDK and STK (R190). -/
structure Dst where
  pf : List Pf
  g : BitVec 3
  d : BitVec 7
  deriving DecidableEq, Repr

/-- M or V3 with the d field fixed: V2P, PREF, CWB, CINV. -/
structure Src where
  pf : List Pf
  g : BitVec 3
  a : BitVec 7
  b : BitVec 7
  deriving DecidableEq, Repr

/-- RDSR (R28): e is the field D, w is W, n the number. -/
structure RdSr where
  pf : List Pf
  g : BitVec 3
  d : BitVec 7
  e : BitVec 1
  w : BitVec 1
  n : BitVec 10
  deriving DecidableEq, Repr

/-- WRSR (R28, R30). -/
structure WrSr where
  pf : List Pf
  d : BitVec 7
  w : BitVec 1
  n : BitVec 10
  deriving DecidableEq, Repr

/-- Format P (R111). -/
structure Plop where
  pf : List Pf
  g : BitVec 3
  p : BitVec 3
  a : BitVec 3
  b : BitVec 3
  c : BitVec 3
  l : BitVec 8
  deriving DecidableEq, Repr

/-- CVT with its conversion code {s, f} (R80). -/
structure Cvt where
  pf : List Pf
  g : BitVec 3
  d : BitVec 7
  a : BitVec 7
  s : BitVec 3
  f : BitVec 4
  deriving DecidableEq, Repr

/-- Format CMP: c is ct, p and q are p1 and p2 (R53). -/
structure Cmp where
  pf : List Pf
  c : BitVec 3
  p : BitVec 3
  q : BitVec 3
  a : BitVec 7
  b : BitVec 7
  deriving DecidableEq, Repr

/-- TEX and TLD (R204): d, y, and n the descriptor scalar. -/
structure Tx where
  pf : List Pf
  k : BitVec 3
  d : BitVec 7
  y : BitVec 7
  n : BitVec 7
  deriving DecidableEq, Repr

/-- Format S3 (R119). -/
structure S3 where
  pf : List Pf
  k : BitVec 3
  d : BitVec 7
  a : BitVec 7
  b : BitVec 7
  deriving DecidableEq, Repr

/-- RDTIME (R121). -/
structure Sd where
  pf : List Pf
  k : BitVec 3
  d : BitVec 7
  deriving DecidableEq, Repr

/-- SMOVW (R120). -/
structure Smw where
  pf : List Pf
  k : BitVec 3
  d : BitVec 9
  a : BitVec 9
  deriving DecidableEq, Repr

/-- Format B (R122). -/
structure Br where
  pf : List Pf
  g : BitVec 3
  o : BitVec 21
  deriving DecidableEq, Repr

/-- RET (R131). -/
structure Ret where
  pf : List Pf
  n : BitVec 7
  deriving DecidableEq, Repr

/-- Format X with one scalar field: JMPI, DCMD, LAUNCH, CAPB. -/
structure Xn where
  pf : List Pf
  k : BitVec 3
  n : BitVec 7
  deriving DecidableEq, Repr

/-- EXIT (R133). -/
structure Ex where
  pf : List Pf
  g : BitVec 3
  deriving DecidableEq, Repr

/-- TRAP and BKPT (R136). -/
structure Code where
  pf : List Pf
  c : BitVec 16
  deriving DecidableEq, Repr

/-- SVC.D and SVC.C (R387). -/
structure SvcD where
  pf : List Pf
  n : BitVec 7
  c : BitVec 16
  deriving DecidableEq, Repr

/-- SETVIEW (R156). -/
structure Sv where
  pf : List Pf
  k : BitVec 3
  n : BitVec 7
  e : BitVec 3
  deriving DecidableEq, Repr

/-- TLINC (R288): c is k - 1. -/
structure Tli where
  pf : List Pf
  k : BitVec 3
  c : BitVec 6
  i : BitVec 2
  deriving DecidableEq, Repr

/-- FENCE (R197). -/
structure Fen where
  pf : List Pf
  k : BitVec 2
  s : BitVec 3
  deriving DecidableEq, Repr

/-- WAITP (R184). -/
structure Wp where
  pf : List Pf
  n : BitVec 8
  p : BitVec 2
  deriving DecidableEq, Repr

/-- ARRV (R201): u is DUE, a the arrivals. -/
structure Arr where
  pf : List Pf
  k : BitVec 3
  n : BitVec 7
  u : BitVec 1
  a : BitVec 6
  t : BitVec 7
  deriving DecidableEq, Repr

/-- WAITB (R203). -/
structure Wb where
  pf : List Pf
  k : BitVec 3
  n : BitVec 7
  q : BitVec 1
  deriving DecidableEq, Repr

/-- WAITTL (R287). -/
structure Wtl where
  pf : List Pf
  k : BitVec 3
  n : BitVec 7
  s : BitVec 3
  i : BitVec 3
  deriving DecidableEq, Repr

/-- WAITC (R381). -/
structure Wc where
  pf : List Pf
  k : BitVec 3
  n : BitVec 7
  m : BitVec 7
  deriving DecidableEq, Repr

/-- REGX (R168): p is np, c is nc. -/
structure Rgx where
  pf : List Pf
  k : BitVec 3
  n : BitVec 7
  p : BitVec 7
  c : BitVec 7
  deriving DecidableEq, Repr

/-- MMA, MMAS, MLOOP (R220): a is acc, f is fmt. -/
structure Mm where
  pf : List Pf
  k : BitVec 3
  a : BitVec 3
  f : BitVec 4
  y : BitVec 7
  z : BitVec 7
  deriving DecidableEq, Repr

/-- MZERO (R228). -/
structure Mz where
  pf : List Pf
  k : BitVec 3
  t : BitVec 7
  deriving DecidableEq, Repr

/-- MLDT, MSTT (R228) and MTRN (t is T1, y is T2). -/
structure Mt where
  pf : List Pf
  k : BitVec 3
  t : BitVec 7
  y : BitVec 7
  deriving DecidableEq, Repr

/-- SCALC (R229). -/
structure Sc where
  pf : List Pf
  k : BitVec 3
  x : BitVec 7
  y : BitVec 7
  z : BitVec 7
  deriving DecidableEq, Repr

/-- PERC (R231): o is O64, d is deg, m is mode. -/
structure Prc where
  pf : List Pf
  k : BitVec 3
  o : BitVec 1
  d : BitVec 4
  m : BitVec 3
  n : BitVec 7
  deriving DecidableEq, Repr

/-- PSET (R235): c is count - 1. -/
structure Pst where
  pf : List Pf
  k : BitVec 3
  i : BitVec 4
  n : BitVec 7
  c : BitVec 4
  deriving DecidableEq, Repr

/-- CPY, CPYT, CPYX (R289): o is BO, d is dir, r is rel. -/
structure Cp where
  pf : List Pf
  k : BitVec 3
  n : BitVec 7
  o : BitVec 1
  d : BitVec 2
  i : BitVec 2
  r : BitVec 2
  b : BitVec 7
  deriving DecidableEq, Repr

/-- CSTEP (R335). -/
structure Cst where
  pf : List Pf
  a : BitVec 4
  v : BitVec 4
  s : BitVec 1
  deriving DecidableEq, Repr

/-- Operands of the service-core words (18 R383), named as their fields. -/
structure Gsp where
  s : BitVec 5
  d : BitVec 5
  deriving DecidableEq, Repr

structure Gjn where
  t : BitVec 5
  s : BitVec 5
  d : BitVec 5
  deriving DecidableEq, Repr

structure Vst where
  t : BitVec 5
  s : BitVec 5
  v : BitVec 5
  deriving DecidableEq, Repr

/-- What a translation walk is made for: an issued operation of a group (all its lanes, 07 R178) or the next page of an
accepted copy (12 R294). -/
inductive Walk where
  | op (g op : Nat)
  | copy (core copy : Nat)
  deriving DecidableEq, Repr

/-- Where an uncorrectable error strikes (06 R172, 07 R211, 14 R339, 22 R453). -/
inductive ErrAt where
  | dram (addr : Nat)
  | window (core word : Nat)
  | line (g line : Nat)
  | roast (roast part line : Nat)
  /-- A word of a roast's template window, at a position in the set of cores (10 R265). -/
  | roastWindow (roast place word : Nat)
  /-- A fabric port whose keying failed (24 R462). -/
  | port (n : Nat)
  /-- A cache of a die's service cores (22 R454). -/
  | svcCache (die : Nat)
  /-- State behind a channel that no context owns: an L2 slice's tag array, the controller's queue state (21 R435). -/
  | channel (n : Nat)
  deriving DecidableEq, Repr

/-- A request of another package to this one (24 R465, R467): its package and the world it carries, system physical address and data; a
read may be for an L2 copy that its package keeps. -/
inductive RemoteReq where
  | read (pk world addr n : Nat) (copy : Bool)
  | write (pk world addr : Nat) (bytes : List Byte)
  | atomic (pk world addr op : Nat) (x : Word)
  deriving DecidableEq, Repr

/-- Some lanes of an outstanding operation: its number in its group, and the lanes that a step of the device performs. -/
structure OpPart where
  n : Nat
  m : BitVec 32
  deriving DecidableEq, Repr

/-- The instructions and steps of the opcode table. -/
inductive Instr where
  /-- NOP (R55): Does nothing beyond advancing the fragment. -/
  | nop (x : Z)
  /-- MOV (R113): Writes operand b into the destination in the lanes of the active set. -/
  | mov (x : Mv)
  /-- SEL (R113): Selects a or b per lane by predicate pN into the destination. -/
  | sel (x : V3)
  /-- GETL (R114): Reads into each active lane the value of a from the lane that b names. -/
  | getl (x : V3)
  /-- SETL (R114): Writes each active lane's a into the present lane that its b names. -/
  | setl (x : V3)
  /-- SHFL (R116): Moves values within lane segments by the PICK, ROTB, ROTF or MIRROR mode. -/
  | shfl (x : V3)
  /-- VOTE (R117): Writes ALL, ANY, BALLOT or EQ of the segment's lanes to each active lane. -/
  | vote (x : V2)
  /-- REDUX (R118): Reduces the active lanes of each segment in a fixed tree and writes the result. -/
  | redux (x : V2)
  /-- RDSR (R29): Reads a special register into a vector or scalar register, or a pair. -/
  | rdsr (x : RdSr)
  /-- WRSR (R30): Writes a scalar or scalar pair into a special register, discarding RO and trapping PRIV on RWS in user mode. -/
  | wrsr (x : WrSr)
  /-- PLOP (R111): Computes a predicate from three predicates through an 8-bit lookup table. -/
  | plop (x : Plop)
  /-- P2V (R112): Writes the lane predicates p0-p7 as a value into a vector register. -/
  | p2v (x : Dst)
  /-- V2P (R112): Writes lane predicates selected by mask b from bits of a. -/
  | v2p (x : Src)
  /-- RDTIME (R121): Writes the 64-bit device time into a scalar pair. -/
  | rdtime (x : Sd)
  /-- CAPE (R337): Commits the capsule's end at the record: writes results, frees the lock, delivers to the owner. -/
  | cape (x : Z)
  /-- CRES (R338): Collects the capsule outcome into k5, k6 and s368-s371 by capsule state. -/
  | cres (x : Z)
  /-- IADD (R97): Integer add, wrapping to 32 bits. -/
  | iadd (x : V3)
  /-- ISUB (R97): Integer subtract, wrapping to 32 bits. -/
  | isub (x : V3)
  /-- IMUL (R97): Low 32 bits of the integer product. -/
  | imul (x : V3)
  /-- IMULH (R97): High 32 bits of the signed product. -/
  | imulh (x : V3)
  /-- IMULHU (R97): High 32 bits of the unsigned product. -/
  | imulhu (x : V3)
  /-- IMAD (R97): Multiply-add with the old destination, wrapping. -/
  | imad (x : V3)
  /-- IMIN (R97): Signed minimum. -/
  | imin (x : V3)
  /-- IMAX (R97): Signed maximum. -/
  | imax (x : V3)
  /-- UMIN (R97): Unsigned minimum. -/
  | umin (x : V3)
  /-- UMAX (R97): Unsigned maximum. -/
  | umax (x : V3)
  /-- IABS (R97): Wrapped absolute value of a signed word. -/
  | iabs (x : V2)
  /-- INEG (R97): Two's complement negation. -/
  | ineg (x : V2)
  /-- IAND (R97): Bitwise AND. -/
  | iand (x : V3)
  /-- IOR (R97): Bitwise OR. -/
  | ior (x : V3)
  /-- IXOR (R97): Bitwise exclusive OR. -/
  | ixor (x : V3)
  /-- INOT (R97): Bitwise complement. -/
  | inot (x : V2)
  /-- ISHL (R98): Shift left, zero when the count is 32 or more. -/
  | ishl (x : V3)
  /-- ISHR (R98): Logical shift right. -/
  | ishr (x : V3)
  /-- ISRA (R98): Arithmetic shift right. -/
  | isra (x : V3)
  /-- IROT (R98): Rotate left by the count mod 32. -/
  | irot (x : V3)
  /-- ICLZ (R97): Counts leading zero bits. -/
  | iclz (x : V2)
  /-- IPOPC (R97): Counts one bits. -/
  | ipopc (x : V2)
  /-- IBREV (R97): Reverses the bit order. -/
  | ibrev (x : V2)
  /-- IBFX (R98): Extracts a signed bit field. -/
  | ibfx (x : V3)
  /-- UBFX (R98): Extracts an unsigned bit field. -/
  | ubfx (x : V3)
  /-- IBFI (R98): Inserts a bit field of a into the old destination. -/
  | ibfi (x : V3)
  /-- IADDW (R99): 64-bit add of register pairs. -/
  | iaddw (x : V3)
  /-- IMADW (R99): Signed 32x32 multiply added to a 64-bit destination pair. -/
  | imadw (x : V3)
  /-- IDOT4 (R99): Adds the dot product of four signed bytes to the destination. -/
  | idot4 (x : V3)
  /-- ISAD (R99): Adds the sum of absolute byte differences to the destination. -/
  | isad (x : V3)
  /-- IADDSAT (R99): Signed saturating add. -/
  | iaddsat (x : V3)
  /-- ISUBSAT (R99): Signed saturating subtract. -/
  | isubsat (x : V3)
  /-- FADD (R100): F32 add with one rounding. -/
  | fadd (x : V3)
  /-- FSUB (R100): F32 subtract with one rounding. -/
  | fsub (x : V3)
  /-- FMUL (R100): F32 multiply with one rounding. -/
  | fmul (x : V3)
  /-- FFMA (R100): F32 fused multiply-add with the old destination. -/
  | ffma (x : V3)
  /-- FMIN (R101): F32 minimum ordering -0 below +0. -/
  | fmin (x : V3)
  /-- FMAX (R101): F32 maximum ordering -0 below +0. -/
  | fmax (x : V3)
  /-- FABS (R101): Clears the sign of an F32 value. -/
  | fabs (x : V2)
  /-- FNEG (R101): Inverts the sign of an F32 value. -/
  | fneg (x : V2)
  /-- FRCP (R104): Issues a correctly rounded reciprocal as a class B operation. -/
  | frcp (x : V2)
  /-- FRSQ (R104): Issues a correctly rounded reciprocal square root. -/
  | frsq (x : V2)
  /-- FSQRT (R100): Issues a correctly rounded square root. -/
  | fsqrt (x : V2)
  /-- FEX2 (R104): Issues a correctly rounded 2^x. -/
  | fex2 (x : V2)
  /-- FLG2 (R104): Issues a correctly rounded log2. -/
  | flg2 (x : V2)
  /-- FSIN (R104): Issues a correctly rounded sine. -/
  | fsin (x : V2)
  /-- FCOS (R104): Issues a correctly rounded cosine. -/
  | fcos (x : V2)
  /-- FTANH (R104): Issues a correctly rounded hyperbolic tangent. -/
  | ftanh (x : V2)
  /-- FFLOOR (R102): Rounds to an integral value by RDN. -/
  | ffloor (x : V2)
  /-- FCEIL (R102): Rounds to an integral value by RUP. -/
  | fceil (x : V2)
  /-- FTRUNC (R102): Rounds to an integral value by RTZ. -/
  | ftrunc (x : V2)
  /-- FRINT (R102): Rounds to an integral value by the MOD mode. -/
  | frint (x : V2)
  /-- FCLASS (R103): Writes a one-hot class mask of an F32 value. -/
  | fclass (x : V2)
  /-- FSCALE (R102): Multiplies by 2 to a signed integer power with one rounding. -/
  | fscale (x : V3)
  /-- HADD2 (R105): Packed H16 add. -/
  | hadd2 (x : V3)
  /-- HMUL2 (R105): Packed H16 multiply. -/
  | hmul2 (x : V3)
  /-- HFMA2 (R105): Packed H16 fused multiply-add. -/
  | hfma2 (x : V3)
  /-- HMIN2 (R105): Packed H16 minimum. -/
  | hmin2 (x : V3)
  /-- HMAX2 (R105): Packed H16 maximum. -/
  | hmax2 (x : V3)
  /-- BADD2 (R105): Packed B16 add. -/
  | badd2 (x : V3)
  /-- BMUL2 (R105): Packed B16 multiply. -/
  | bmul2 (x : V3)
  /-- BFMA2 (R105): Packed B16 fused multiply-add. -/
  | bfma2 (x : V3)
  /-- BMIN2 (R105): Packed B16 minimum. -/
  | bmin2 (x : V3)
  /-- BMAX2 (R105): Packed B16 maximum. -/
  | bmax2 (x : V3)
  /-- CVT (R106): Converts element 0 between formats by the conversion code. -/
  | cvt (x : Cvt)
  /-- CVTEF_F8A (R107): Error-feedback narrowing to F8A, packing into the destination and updating the residue. -/
  | cvtefF8a (x : V3)
  /-- CVTEF_F8B (R107): Error-feedback narrowing to F8B. -/
  | cvtefF8b (x : V3)
  /-- CVTEF_F4 (R107): Error-feedback narrowing to F4. -/
  | cvtefF4 (x : V3)
  /-- CVTEF_H16 (R107): Error-feedback narrowing to H16. -/
  | cvtefH16 (x : V3)
  /-- CVTEF_B16 (R107): Error-feedback narrowing to B16. -/
  | cvtefB16 (x : V3)
  /-- CVTEF_I8 (R107): Error-feedback narrowing to I8. -/
  | cvtefI8 (x : V3)
  /-- PACK (R108): Assembles a word from selected bytes of a and the old destination. -/
  | pack (x : V3)
  /-- ICMP_EQ (R109): Integer equality compare into two predicates by combining type. -/
  | icmpEq (x : Cmp)
  /-- ICMP_NE (R109): Integer inequality compare. -/
  | icmpNe (x : Cmp)
  /-- ICMP_LT (R109): Signed less-than compare. -/
  | icmpLt (x : Cmp)
  /-- ICMP_LE (R109): Signed less-or-equal compare. -/
  | icmpLe (x : Cmp)
  /-- ICMP_GT (R109): Signed greater-than compare. -/
  | icmpGt (x : Cmp)
  /-- ICMP_GE (R109): Signed greater-or-equal compare. -/
  | icmpGe (x : Cmp)
  /-- ICMP_LTU (R109): Unsigned less-than compare. -/
  | icmpLtu (x : Cmp)
  /-- ICMP_LEU (R109): Unsigned less-or-equal compare. -/
  | icmpLeu (x : Cmp)
  /-- ICMP_GTU (R109): Unsigned greater-than compare. -/
  | icmpGtu (x : Cmp)
  /-- ICMP_GEU (R109): Unsigned greater-or-equal compare. -/
  | icmpGeu (x : Cmp)
  /-- FCMP_EQ (R109): IEEE equality compare. -/
  | fcmpEq (x : Cmp)
  /-- FCMP_NE (R109): IEEE inequality compare, true on NaN. -/
  | fcmpNe (x : Cmp)
  /-- FCMP_LT (R109): IEEE less-than compare. -/
  | fcmpLt (x : Cmp)
  /-- FCMP_LE (R109): IEEE less-or-equal compare. -/
  | fcmpLe (x : Cmp)
  /-- FCMP_GT (R109): IEEE greater-than compare. -/
  | fcmpGt (x : Cmp)
  /-- FCMP_GE (R109): IEEE greater-or-equal compare. -/
  | fcmpGe (x : Cmp)
  /-- FCMP_UN (R109): True when either operand is NaN. -/
  | fcmpUn (x : Cmp)
  /-- FCMP_OR (R109): True when neither operand is NaN. -/
  | fcmpOr (x : Cmp)
  /-- SCMP_EQ (R110): Scalar equality compare into uniform predicates. -/
  | scmpEq (x : Cmp)
  /-- SCMP_NE (R110): Scalar inequality compare. -/
  | scmpNe (x : Cmp)
  /-- SCMP_LT (R110): Scalar signed less-than compare. -/
  | scmpLt (x : Cmp)
  /-- SCMP_LTU (R110): Scalar unsigned less-than compare. -/
  | scmpLtu (x : Cmp)
  /-- TEX (R207): Issues a filtered texture sample on the smp path. -/
  | tex (x : Tx)
  /-- TLD (R207): Issues a direct texel fetch on the smp path. -/
  | tld (x : Tx)
  /-- SADD (R119): Scalar add. -/
  | sadd (x : S3)
  /-- SSUB (R119): Scalar subtract. -/
  | ssub (x : S3)
  /-- SMUL (R119): Scalar multiply, low word. -/
  | smul (x : S3)
  /-- SMULH (R119): Scalar signed multiply, high word. -/
  | smulh (x : S3)
  /-- SAND (R119): Scalar bitwise AND. -/
  | sand (x : S3)
  /-- SOR (R119): Scalar bitwise OR. -/
  | sor (x : S3)
  /-- SXOR (R119): Scalar bitwise exclusive OR. -/
  | sxor (x : S3)
  /-- SSHL (R119): Scalar shift left. -/
  | sshl (x : S3)
  /-- SSHR (R119): Scalar logical shift right. -/
  | sshr (x : S3)
  /-- SSRA (R119): Scalar arithmetic shift right. -/
  | ssra (x : S3)
  /-- SMIN (R119): Scalar signed minimum. -/
  | smin (x : S3)
  /-- SMAX (R119): Scalar signed maximum. -/
  | smax (x : S3)
  /-- SMOVW (R120): Copies any scalar up to s383 into any scalar. -/
  | smovw (x : Smw)
  /-- SFADD (R119): Scalar F32 add. -/
  | sfadd (x : S3)
  /-- SFMUL (R119): Scalar F32 multiply. -/
  | sfmul (x : S3)
  /-- SFFMA (R119): Scalar F32 fused multiply-add with s[d]. -/
  | sffma (x : S3)
  /-- BRA (R123): Transfers the whole fragment when the guard holds in every active lane. -/
  | bra (x : Br)
  /-- BR (R124): Splits the fragment by its guard into a taken and a fall-through half. -/
  | br (x : Br)
  /-- RCV (R127): Creates a reconvergence entry for the guarded active lanes. -/
  | rcv (x : Br)
  /-- CALL (R123): Transfers the whole fragment and writes the link pair v126-v127. -/
  | call (x : Br)
  /-- RET (R131): Moves lanes to the targets in their register pairs, splitting by distinct target. -/
  | ret (x : Ret)
  /-- JMPI (R132): Transfers the fragment to a 64-bit address in a scalar pair. -/
  | jmpi (x : Xn)
  /-- EXIT (R133): Ends the guarded active lanes and records their arrival at reconvergence entries. -/
  | exit (x : Ex)
  /-- YIELD (R134): Swaps the fragment with the oldest eligible spilled fragment, if any. -/
  | yield (x : Z)
  /-- BKOFF (R135): Raises the backoff level and makes the fragment ineligible for 16*2^level clk. -/
  | bkoff (x : Z)
  /-- BKOFF_CLR (R135): Sets the backoff level to 0. -/
  | bkoffClr (x : Z)
  /-- TRAP (R136): Raises SWTRAP with a code. -/
  | trap (x : Code)
  /-- SVC_D (R387): Writes a data-class service request entry and waits for the reply. -/
  | svcD (x : SvcD)
  /-- SVC_C (R387): Writes a control-class service request entry and continues. -/
  | svcC (x : SvcD)
  /-- BKPT (R136): Raises BREAK with a code. -/
  | bkpt (x : Code)
  /-- TRET (R148): Checks the frame, restores fragments and split table, replays queued entries and leaves the handler. -/
  | tret (x : Z)
  /-- DCMD (R415): Reads a 128 B command block and hands it to firmware with a tl7 number. -/
  | dcmd (x : Xn)
  /-- SETVIEW (R156): Sets the selected view base registers from a scalar. -/
  | setview (x : Sv)
  /-- TLINC (R288): Assigns k numbers on a copy timeline standing for the group's earlier accesses. -/
  | tlinc (x : Tli)
  /-- LD_W (R186): Issues a 4-byte global load per lane. -/
  | ldW (x : V3)
  /-- LD_D (R186): Issues an 8-byte global load per lane. -/
  | ldD (x : V3)
  /-- LD_Q (R186): Issues a 16-byte global load per lane. -/
  | ldQ (x : V3)
  /-- LD_N (R186): Issues a 1- or 2-byte global load per lane, zero- or sign-extended. -/
  | ldN (x : V3)
  /-- ST_W (R186): Issues a 4-byte global store per lane. -/
  | stW (x : V3)
  /-- ST_D (R186): Issues an 8-byte global store per lane. -/
  | stD (x : V3)
  /-- ST_Q (R186): Issues a 16-byte global store per lane. -/
  | stQ (x : V3)
  /-- ST_N (R186): Issues a 1- or 2-byte global store per lane. -/
  | stN (x : V3)
  /-- LDL (R188): Issues a window load of one word per lane. -/
  | ldl (x : V3)
  /-- STL (R188): Issues a window store of one word per lane. -/
  | stl (x : V3)
  /-- LDW (R189): Issues a 16 B per lane copy from global memory into a window, counted on a barrier object. -/
  | ldw (x : V3)
  /-- LDK (R190): Loads one word per lane from the group's spill stack. -/
  | ldk (x : Dst)
  /-- STK (R190): Stores one word per lane to the group's spill stack. -/
  | stk (x : Dst)
  /-- SLD (R187): Issues a scalar global load. -/
  | sld (x : S3)
  /-- SST (R187): Issues a scalar global store. -/
  | sst (x : S3)
  /-- PREF (R191): Prefetches each lane's line into L1 or the home slice, dropping faulting lanes. -/
  | pref (x : Src)
  /-- ATOM (R193): Issues a global atomic without return. -/
  | atom (x : V3)
  /-- ATOMR (R193): Issues a global atomic returning the old value. -/
  | atomr (x : V3)
  /-- ATOML (R193): Issues a window atomic returning the old value. -/
  | atoml (x : V3)
  /-- CAS (R194): Issues a global compare-and-swap. -/
  | cas (x : V3)
  /-- CASL (R194): Issues a window compare-and-swap. -/
  | casl (x : V3)
  /-- SATOM (R193): Issues a scalar global atomic returning the old value. -/
  | satom (x : S3)
  /-- CWB (R196): Writes back dirty L1 bytes of each named line at the given scope. -/
  | cwb (x : Src)
  /-- CINV (R196): Writes back and invalidates each named L1 line. -/
  | cinv (x : Src)
  /-- CINV_P (R196): Invalidates lines named by physical addresses in the context's stage-map space. -/
  | cinvP (x : Src)
  /-- FENCE (R197): Performs release and/or acquire steps at a scope. -/
  | fence (x : Fen)
  /-- WAITP (R184): Waits until a path counter is at most n. -/
  | waitp (x : Wp)
  /-- ARRV (R201): Arrives on a barrier object, optionally announcing due bytes. -/
  | arrv (x : Arr)
  /-- WAITB (R203): Waits until the barrier phase of parity q has completed. -/
  | waitb (x : Wb)
  /-- WAITTL (R287): Waits until a timeline reaches a target, then acquires. -/
  | waittl (x : Wtl)
  /-- WAITC (R381): Waits until a completion block count reaches an expected value, then acquires. -/
  | waitc (x : Wc)
  /-- FREEZE_G (R254): Captures the group's part of the grid roast and stalls until every prologue group has frozen. -/
  | freezeG (x : Z)
  /-- FREEZE_T (R254): Captures and seals the team roast and pours the team's other groups. -/
  | freezeT (x : Z)
  /-- REGX (R168): Drains, arrives on the exchange object and waits for its phase to resize the group's line budget. -/
  | regx (x : Rgx)
  /-- MMA (R220): Queues a dense tile multiply-accumulate into an accumulator. -/
  | mma (x : Mm)
  /-- MMAS (R223): Checks the sparse header and queues a 2:4 sparse multiply-accumulate. -/
  | mmas (x : Mm)
  /-- MLOOP (R224): Hands a K loop of matrix steps to the loop sequencer with a tl4 number. -/
  | mloop (x : Mm)
  /-- MZERO (R228): Queues the zeroing of a tile. -/
  | mzero (x : Mz)
  /-- MLDT (R228): Queues the load of a tile from a window operand. -/
  | mldt (x : Mt)
  /-- MSTT (R228): Queues the store of a tile to a window operand. -/
  | mstt (x : Mt)
  /-- SCALC (R229): Queues the block-scaled addition of a partial accumulator into an accumulator. -/
  | scalc (x : Sc)
  /-- MTRN (R228): Queues a 32-bit element transpose of a tile. -/
  | mtrn (x : Mt)
  /-- PERC (R231): Hands a percolation run on resident tiles to the percolation sequencer. -/
  | perc (x : Prc)
  /-- PSET (R235): Copies scalars into coefficient registers. -/
  | pset (x : Pst)
  /-- CPY (R289): Checks and queues a contiguous dray copy. -/
  | cpy (x : Cp)
  /-- CPYT (R289): Checks and queues a tiled dray copy with bank rotation. -/
  | cpyt (x : Cp)
  /-- CPYX (R289): Checks and queues an indexed gather or scatter dray copy. -/
  | cpyx (x : Cp)
  /-- LAUNCH (R375): Copies a launch record into a pending-launch entry with a tl5 number. -/
  | launch (x : Xn)
  /-- CAPB (R331): Checks a capsule record and begins attempts to take or adopt its lock. -/
  | capb (x : Xn)
  /-- CSTEP (R335): Issues a capsule step commit with an optional store. -/
  | cstep (x : Cst)
  /-- GSPAWN (R384): Service-core instruction that creates a one-core team from a spawn block. -/
  | gspawn (x : Gsp)
  /-- GJOIN (R385): Service-core instruction that stalls until a counter reaches a value. -/
  | gjoin (x : Gjn)
  /-- VLT (R386): Service-core instruction that loads 128 B of a core window into a vector register. -/
  | vlt (x : Gjn)
  /-- VST_T (R386): Service-core instruction that stores 128 B of a vector register into a core window. -/
  | vstT (x : Vst)
  /-- TEAM_ADMISSION (R402): The team dispatcher picks a launch by class and admits its next team when room frees. -/
  | teamAdmission (die : Nat) (cl : Nat)
  /-- PARK (R34): After sr.parkns of WAITING, saves the group's state and releases its slot. -/
  | park (g : Nat)
  /-- PARK_RETURN (R36): A parked group whose condition is met takes a free slot on its core. -/
  | parkReturn (g : Nat)
  /-- RETIRE (R37): Retires a group whose fragments, table, flags, counters and replay queue are empty. -/
  | retire (g : Nat)
  /-- BACKOFF_EXPIRY (R135): The backoff delay runs out and the fragment is eligible again. -/
  | backoffExpiry (g : Nat) (slot : Nat)
  /-- FRAGMENT_STARVED (R269): A fragment eligible for 256 clocks without being picked outranks all others. -/
  | fragmentStarved (g : Nat) (slot : Nat)
  /-- TRAP_ENTRY (R142): Stops issue, fills the replay queue, writes the frame and enters the handler or escalates. -/
  | trapEntry (g : Nat)
  /-- DEFERRED_TRAP_TAKEN (R143): Takes the pending deferred trap when no fragment can issue or the replay queue is full. -/
  | deferredTrapTaken (g : Nat)
  /-- LOAD_COMPLETION (R186): A load's data lands in the destination lanes of `op`; with the last of them its flag and counter fall. -/
  | loadCompletion (g : Nat) (op : OpPart)
  /-- STORE_PERFORMED (R183): A store is performed at its point in the lanes of `op`; with the last of them the st counter falls. -/
  | storePerformed (g : Nat) (op : OpPart)
  /-- ATOMIC_PERFORMED (R193): An atomic's read-modify-write is performed and its value returned, lane by lane upward while `op` has them. -/
  | atomicPerformed (g : Nat) (op : OpPart)
  /-- WINDOW_ACCESS_PERFORMED (R188): A window load or store is performed in the lanes of `op`, an atomic lane by lane upward, an arrival whole; with the last of them win falls. -/
  | windowAccessPerformed (g : Nat) (op : OpPart)
  /-- LDW_LANE_LANDING (R189): An LDW lane writes 16 B into the window and adds 16 to the object's got. -/
  | ldwLaneLanding (g : Nat) (op : Nat) (lane : Nat)
  /-- REMOTE_BARRIER_STEP (R284): A barrier step from another core reaches the object's home core and is performed. -/
  | remoteBarrierStep (i : Nat)
  /-- REGX_GROW (R169): Takes pool lines for a grown budget once enough are free in every bank. -/
  | regxGrow (g : Nat)
  /-- SAMPLER_COMPLETION (R207): A texture sample's results are written to the active lanes of `op`; with the last of them smp falls. -/
  | samplerCompletion (g : Nat) (op : OpPart)
  /-- SFU_COMPLETION (R104): A special-function result is written to the active lanes of `op`; with the last of them its flag falls. -/
  | sfuCompletion (g : Nat) (op : OpPart)
  /-- LINE_MISS_FILL (R160): A register line missing from the file is fetched from its home into its bank. -/
  | lineMissFill (g : Nat) (line : Nat)
  /-- L1_EVICTION_WRITEBACK (R199): Writes back a dirty L1 line after checking its region stamp, holding it if denied. -/
  | l1EvictionWriteback (core : Nat) (i : Nat)
  /-- TRANSLATION_WALK (R360): Walks stage 1 and the ancestors' stage maps to a system physical address. -/
  | translationWalk (w : Walk)
  /-- MATRIX_UNIT_OPERATION (R217): The free matrix unit takes the next operation or loop step in round robin. -/
  | matrixUnitOperation (core : Nat)
  /-- MATRIX_OPERATION_COMPLETE (R230): Writes a matrix operation's or loop's result and lowers its flag and tl4. -/
  | matrixOperationComplete (core : Nat)
  /-- MLOOP_START (R225): Starts a queued loop when its quarter's running loop ends. -/
  | mloopStart (core : Nat)
  /-- PERC_START (R241): Starts a queued percolation run when the sequencer is free. -/
  | percStart (core : Nat)
  /-- PERC_ITERATION (R239): Completes one percolation iteration and tests convergence, cap and divergence. -/
  | percIteration (core : Nat)
  /-- COPY_ACCEPT (R293): The dray accepts a queued copy and its flag falls. -/
  | copyAccept (core : Nat) (quarter : Nat)
  /-- COPY_UNIT_LANDING (R294): A copy unit lands its bytes and, with BO, adds them to got. -/
  | copyUnitLanding (core : Nat) (copy : Nat) (unit : Nat)
  /-- CAPB_ATTEMPT (R332): Attempts to take or adopt a capsule lock at each lock-word change or adopt-delay expiry. -/
  | capbAttempt (g : Nat)
  /-- CSTEP_COMMIT (R336): Commits a capsule step's store, checkpoint and step counter, or redirects on failure. -/
  | cstepCommit (g : Nat) (op : Nat)
  /-- LAUNCH_ACCEPT (R377): The launch processor accepts a pending entry, validates and registers the launch. -/
  | launchAccept (die : Nat)
  /-- LAUNCH_COMPLETION (R380): Updates the completion block and tl5 once every team has retired. -/
  | launchCompletion (launch : Nat)
  /-- SERVICE_REQUEST_TAKE (R387): A service core takes a request entry from the die's ring to serve or forward it. -/
  | serviceRequestTake (die : Nat)
  /-- SERVICE_CALL_REPLY (R390): Applies a data-class reply to the calling lanes' registers and ends the wait. -/
  | serviceCallReply (g : Nat) (n : Nat)
  /-- CONTROL_REPLY (R392): Writes a control-class reply block and completes tl6. -/
  | controlReply (g : Nat) (n : Nat) (status : Nat) (results : List Byte)
  /-- SERVICE_ROUND_PRIORITY (R394): Serves an item still waiting 30 us into its round ahead of fair order. -/
  | serviceRoundPriority (die : Nat) (i : Nat)
  /-- DOORBELL (R396): A doorbell write names a virtual queue with new submissions. -/
  | doorbell (addr : Nat) (val : Nat)
  /-- QUEUE_FETCH (R401): A bound slot fetches one record in ring order and hands it to the launch processor. -/
  | queueFetch (die : Nat) (slot : Nat)
  /-- SLICE_END (R405): At the end of a slice, pre-empts the launch or starts a new slice. -/
  | sliceEnd (launch : Nat)
  /-- CORE_PREEMPT (R278): A pre-emption signal reaches a core, which stops and saves the groups. -/
  | corePreempt (core : Nat) (launch : Nat)
  /-- PREEMPT_RESUME (R280): Restores pre-empted groups to their cores and re-injects replay entries. -/
  | preemptResume (launch : Nat)
  /-- STAGGER_EXPIRY (R275): The stagger interval runs out and the next team may start. -/
  | staggerExpiry (die : Nat)
  /-- OPERATING_POINT_HOLD_END (R276): A held first team is released when the point settles or 40 us pass. -/
  | operatingPointHoldEnd (die : Nat)
  /-- THROTTLE_WINDOW_END (R271): At each 4,096 clk window the throttle level moves by the victim hit count. -/
  | throttleWindowEnd (core : Nat)
  /-- THROTTLE_OVERRIDE (R272): A load refused for 4,096 clocks issues regardless of the level. -/
  | throttleOverride (g : Nat) (slot : Nat)
  /-- BANDWIDTH_PUBLICATION (R354): Each microsecond channel occupancies move each tenant's throttle step. -/
  | bandwidthPublication (die : Nat) (occ : List Nat)
  /-- COMMAND_JOURNAL (R429): Firmware journals a command on two dies, accepting it. -/
  | commandJournal (i : Nat)
  /-- HOST_COMMAND_GO (R416): A write of 1 to a command page's go word hands the block to firmware. -/
  | hostCommandGo (vf : Nat)
  /-- CREATE (R420): Creates a FROZEN child context with the lowest free id. -/
  | create (i : Nat)
  /-- DESTROY (R420): Fences and resets a frozen childless child, freeing its id. -/
  | destroy (i : Nat)
  /-- GRANT_CORE (R421): Sets a child's cluster mask and share and recomputes weights. -/
  | grantCore (i : Nat)
  /-- GRANT_MEM (R421): Sets a child's stage map, root, dirty tracking or pool and bumps its generation. -/
  | grantMem (i : Nat)
  /-- GRANT_QUEUES (R421): Grants a child virtual queues and a doorbell. -/
  | grantQueues (i : Nat)
  /-- GRANT_LINK (R420): Grants a child fabric ports, shares and reachable packages. -/
  | grantLink (i : Nat)
  /-- SET_HANDLER (R423): Sets a context's handler queue and per-context parameters. -/
  | setHandler (i : Nat)
  /-- FREEZE (R428): Stops dispatch and pre-empts every launch of a child subtree. -/
  | freeze (i : Nat)
  /-- THAW (R428): Checks the save areas and makes a frozen child ACTIVE. -/
  | thaw (i : Nat)
  /-- CHECKPOINT (R430): Writes an image of a frozen subtree's device-held state. -/
  | checkpoint (i : Nat)
  /-- RESTORE (R430): Installs a checkpoint image into a frozen child. -/
  | restore (i : Nat)
  /-- REVOKE (R432): Fences and resets a child's whole subtree in one command. -/
  | revoke (i : Nat)
  /-- DIRTYSCAN (R369): Reads and clears dirty bitmap words into a buffer. -/
  | dirtyscan (i : Nat)
  /-- QUERY (R424): Writes a 64 B state summary of a context. -/
  | query (i : Nat)
  /-- BIND_VF (R436): Moves a virtual function to a target context. -/
  | bindVf (i : Nat)
  /-- BIND_VF_UNBIND (R436): Returns a virtual function to the issuer. -/
  | bindVfUnbind (i : Nat)
  /-- BIND_PARTITION (R434): Binds a depth-1 context to a free partition. -/
  | bindPartition (i : Nat)
  /-- BIND_PARTITION_UNBIND (R435): Unbinds a partition's context with a partition reset. -/
  | bindPartitionUnbind (i : Nat)
  /-- BIND_PARTITION_RESET (R435): Resets a partition and its bound context's subtree. -/
  | bindPartitionReset (i : Nat)
  /-- GENBUMP (R364): Bumps region generations, making stale lines and entries miss. -/
  | genbump (i : Nat)
  /-- GENBUMP_CTX (R365): Bumps the context generation, making its composed entries stale. -/
  | genbumpCtx (i : Nat)
  /-- RECORD_POST (R425): Posts a record to the first handler queue whose mask takes its class. -/
  | recordPost (i : Nat)
  /-- RETRY (R150): A RETRY reply resumes the group as a TRET on its frame, or continues the copy. -/
  | retryReply (ctx : Nat) (slot : Nat)
  /-- END (R150): An END reply ends the group and its launch. -/
  | endReply (ctx : Nat) (slot : Nat)
  /-- PASS (R427): A PASS reply reposts the record to the parent marked UNHANDLED. -/
  | passReply (ctx : Nat) (slot : Nat)
  /-- ERROR_FENCE (R433): Firmware fences a context on an uncorrectable error or save-area fault. -/
  | errorFence (ctx : Nat)
  /-- JOURNAL_RECOPY (R431): After a failure firmware writes a second journal copy on a healthy die. -/
  | journalRecopy (i : Nat) (die : Nat)
  /-- COLD_RESET (R437): Die 0's ROM verifies and loads the firmware stages after wiping memory. -/
  | coldReset (ok : Bool)
  /-- GET_CERTIFICATE (R439): SPDM request returning the DICE certificate chain. -/
  | getCertificate (sess : Nat)
  /-- CHALLENGE (R439): SPDM challenge authenticating the device. -/
  | challenge (nonce : List Byte)
  /-- GET_MEASUREMENTS (R439): SPDM request returning measurement blocks. -/
  | getMeasurements (index : Nat)
  /-- KEY_EXCHANGE (R439): SPDM key exchange establishing a session or port keys. -/
  | keyExchange (port : Option Nat) (sess : Nat) (key : List Byte)
  /-- IDE_KM (R446): Programs PCIe IDE stream keys over an SPDM session. -/
  | ideKm (stream : Nat) (key : List Byte)
  /-- KEY_UPDATE (R461): Refreshes a fabric port key from an agreed sequence number. -/
  | keyUpdate (port : Nat) (seq : Nat) (key : List Byte)
  /-- LIFE_CYCLE_CHANGE (R444): Advances the life-cycle state, erases keys, wipes and resets. -/
  | lifeCycleChange (code : Nat)
  /-- IDE_INTEGRITY_FAILURE (R446): Sets an IDE stream insecure and drops its traffic. -/
  | ideIntegrityFailure (stream : Nat)
  /-- HOST_MEMORY_READ (R321): A host read through BAR 2 is performed at the home slice. -/
  | hostMemoryRead (vf : Nat) (addr : Nat) (n : Nat)
  /-- HOST_MEMORY_WRITE (R321): A host posted write through BAR 2 is performed at the home slice. -/
  | hostMemoryWrite (vf : Nat) (addr : Nat) (bytes : List Byte) (poisoned : Bool)
  /-- REGISTER_WRITE (R6): A write to a control register without behaviour of its own. -/
  | registerWrite (addr : Nat) (val : Nat)
  /-- TCTL_WRITE (R448): Selects the clock source, discarding values 5-7. -/
  | tctlWrite (val : Word)
  /-- ICTL_WRITE (R273): Sets the throttle, discarding writes with TLO >= THI. -/
  | ictlWrite (core : Nat) (val : Word)
  /-- SCTL_WRITE (R400): Sets a slot's FLIM and PACE, discarding PACE 3. -/
  | sctlWrite (die : Nat) (slot : Nat) (val : Word)
  /-- INGRESS_DROP_READ (R450): Reading an ingress window's drop count returns and clears it. -/
  | ingressDropRead (w : Nat)
  /-- INGRESS_WRITE (R451): Stores an incoming write as time-stamped ring entries per 64 B part. -/
  | ingressWrite (w : Nat) (off : Nat) (bytes : List Byte)
  /-- PTP_MESSAGE (R448): Receives a PTP message and measures the clock offset. -/
  | ptpMessage (offset : Int)
  /-- PTM_RESPONSE (R448): Receives a PCIe PTM response and measures the clock offset. -/
  | ptmResponse (offset : Int)
  /-- CLOCK_LOCK_CHANGE (R448): LOCK changes after 16 s of offset under 100 ns, or on losing it. -/
  | clockLockChange (lock : Bool)
  /-- POWER_LIMIT (R452): Near 2,600 W firmware lowers operating points by class. -/
  | powerLimit (die : Nat) (pt : Nat)
  /-- DRAM_OVERTEMP (R452): Above 85 C a DRAM layer doubles its refresh rate. -/
  | dramOvertemp (die : Nat) (layer : Nat)
  /-- THERMAL_THROTTLE (R452): Above 95 C firmware lowers operating points. -/
  | thermalThrottle (die : Nat) (pt : Nat)
  /-- DRAM_CRC_RETRY (R453): Retries a failed DRAM transfer up to 8 times, then poisons its words. -/
  | dramCrcRetry (addr : Nat) (fails : Nat)
  /-- UNCORRECTABLE_ERROR (R453): Poisons the word and appends an error-log entry. -/
  | uncorrectableError (place : ErrAt)
  /-- SERVICE_CORE_CACHE_ERROR (R454): Fences a context or resets a die's service complex on a cache error. -/
  | serviceCoreCacheError (die : Nat) (ctx : Option Nat)
  /-- FLIT_RECEIVE (R460): Accepts an in-sequence flit, or drops it and sends a NACK. -/
  | flitReceive (port : Nat) (seq : Nat) (tagOk : Bool)
  /-- NACK (R460): A received NACK makes the sender resend from the named sequence number. -/
  | nack (port : Nat) (seq : Nat)
  /-- ACK_TIMEOUT (R460): A missing acknowledgement after 0.5 us acts as a NACK. -/
  | ackTimeout (port : Nat)
  /-- PEER_DETECTED (R462): A DOWN port detects its peer and starts training. -/
  | peerDetected (port : Nat)
  /-- LINK_TRAINED (R462): A training or retraining port completes training. -/
  | linkTrained (port : Nat)
  /-- TRAINING_TIMEOUT (R462): Training fails for 100 ms and the port goes DOWN. -/
  | trainingTimeout (port : Nat)
  /-- RETRAIN_TIMEOUT (R462): A port in RETRAIN for 1 ms discards keys and answers its requests. -/
  | retrainTimeout (port : Nat)
  /-- REMOTE_REQUEST (R465): The owner package performs a remote request at its home slice. -/
  | remoteRequest (r : RemoteReq)
  /-- NO_ROUTE (R468): Answers a request with no route left and posts LINKFAULT NOROUTE. -/
  | noRoute (i : Nat)
  /-- EXPORT_WITHDRAW (R469): An exporter's range is withdrawn and importers receive LINKFAULT EXPORT. -/
  | exportWithdraw (base : Nat) (n : Nat)
  /-- CXL_BACK_INVALIDATE (R472): A back-invalidate snoop writes back and drops the L2 copy. -/
  | cxlBackInvalidate (addr : Nat)
  /-- CXL_PORT_DOWN (R473): Answers a failed CXL port's requests, drops its copies and posts LINKFAULT. -/
  | cxlPortDown (port : Nat)
  /-- CORRECTED_ERROR (R453): A single-bit error strikes a protected word; SECDED corrects it silently and the structure's corrected-error counter rises by 1. -/
  | correctedError (die : Nat) (which : Nat)
  /-- MODULE_POWER_OFF (R452): The module loses its supply and nothing on it stays powered, so all device state is lost until the next cold reset. -/
  | modulePowerOff
  deriving DecidableEq, Repr

end Sys2Proof
end

