-- ==== Sys2Proof/Decode.lean ====
section
/-! DEFINITION. From words to instructions and back (02 R39, R47 to R55; 18 R383). The decoder takes a word's fields apart at the
places of its opcode's format and accepts the word only where every fixed bit of the format stands as the table has it; any
other word is rejected by name. What a field's VALUE may be is no matter of decoding (Machine/Legal.lean). -/
namespace Sys2Proof

/-- Why words are not an instruction. -/
inductive Reject where
  /-- No word left: a body whose last word is a prefix word, or nothing at all (R47). -/
  | truncated
  /-- A word of class 0xC where an instruction is expected (R45). -/
  | header
  /-- A word of class 0xF (R39). -/
  | reserved
  /-- A hint word of kind 5 to 15, or with a nonzero bit its payload does not have (R48). -/
  | badHint
  /-- A word of class 0x0 to 0xB with a nonzero fixed bit (R60). -/
  | badWord
  deriving DecidableEq, Repr

/-- The word classes of R39. -/
inductive WordClass where
  | instr | header | hint | himm | reserved
  deriving DecidableEq, Repr

/-- Bits [31:28] select the class (R39). -/
def wordClass (w : Word) : WordClass :=
  let c := (w.extractLsb' 28 4).toNat
  if c < 12 then .instr else if c = 12 then .header else if c = 13 then .hint else if c = 14 then .himm else .reserved

/-- A clause header's fields (R42). -/
structure Header where
  wait : BitVec 12
  setA : BitVec 4
  setB : BitVec 4
  len : BitVec 4
  y : Bool
  deriving DecidableEq, Repr

/-- The header word of R42; none where the class or a reserved bit is wrong. -/
def decodeHeader (w : Word) : Option Header :=
  if wordClass w = .header ∧ w.extractLsb' 0 3 = 0#3 then
    some ⟨w.extractLsb' 16 12, w.extractLsb' 12 4, w.extractLsb' 8 4, w.extractLsb' 4 4, w.getLsbD 3⟩
  else none

/-- The word of a header (R42). -/
def encodeHeader (h : Header) : Word :=
  0xC#4 ++ h.wait ++ h.setA ++ h.setB ++ h.len ++ (BitVec.ofBool h.y) ++ 0#3

/-- The word of a prefix (R48, R50). -/
def encodePf (p : Pf) : Word :=
  match p with
  | .mod x => 0xD0#8 ++ x
  | .suba n => 0xD1#8 ++ 0#15 ++ n
  | .subb n => 0xD2#8 ++ 0#15 ++ n
  | .subab a b => 0xD3#8 ++ 0#6 ++ b ++ a
  | .prio l => 0xD4#8 ++ 0#22 ++ l
  | .himm x => 0xE#4 ++ x

/-- The prefix a word's class and hint kind name, whatever its other bits. -/
def candPf (w : Word) : Option Pf :=
  if wordClass w = .himm then some (.himm (w.extractLsb' 0 28))
  else match (w.extractLsb' 24 4).toNat with
    | 0 => some (.mod (w.extractLsb' 0 24))
    | 1 => some (.suba (w.extractLsb' 0 9))
    | 2 => some (.subb (w.extractLsb' 0 9))
    | 3 => some (.subab (w.extractLsb' 0 9) (w.extractLsb' 9 9))
    | 4 => some (.prio (w.extractLsb' 0 2))
    | _ => none

/-- A prefix word (R48, R50). -/
def decodePf (w : Word) : Option Pf :=
  match candPf w with
  | some p => if encodePf p = w then some p else none
  | none => none

/-! ### Formats (R52 and the layouts the instructions' own rules give) -/

def encZ (op : BitVec 8) (_x : Z) : Word := op ++ 0#24
def encV3 (op : BitVec 8) (x : V3) : Word := op ++ x.g ++ x.d ++ x.a ++ x.b
def encV2 (op : BitVec 8) (x : V2) : Word := op ++ x.g ++ x.d ++ x.a ++ 0#7
def encMv (op : BitVec 8) (x : Mv) : Word := op ++ x.g ++ x.d ++ 0#7 ++ x.b
def encDst (op : BitVec 8) (x : Dst) : Word := op ++ x.g ++ x.d ++ 0#14
def encSrc (op : BitVec 8) (x : Src) : Word := op ++ x.g ++ 0#7 ++ x.a ++ x.b
def encSrc1 (op : BitVec 8) (x : Src) : Word := op ++ x.g ++ 1#7 ++ x.a ++ x.b
def encRdSr (op : BitVec 8) (x : RdSr) : Word := op ++ x.g ++ x.d ++ x.e ++ x.w ++ 0#2 ++ x.n
def encWrSr (op : BitVec 8) (x : WrSr) : Word := op ++ 7#3 ++ x.d ++ 1#1 ++ x.w ++ 0#2 ++ x.n
def encPlop (op : BitVec 8) (x : Plop) : Word := op ++ x.g ++ x.p ++ x.a ++ x.b ++ x.c ++ x.l ++ 0#1
def encCvt (op : BitVec 8) (x : Cvt) : Word := op ++ x.g ++ x.d ++ x.a ++ x.s ++ x.f
def encCmp (op : BitVec 8) (x : Cmp) : Word := op ++ x.c ++ x.p ++ x.q ++ 0#1 ++ x.a ++ x.b
def encTx (op : BitVec 8) (x : Tx) : Word := op ++ x.k ++ x.d ++ x.y ++ x.n
def encS3 (op : BitVec 8) (x : S3) : Word := op ++ x.k ++ x.d ++ x.a ++ x.b
def encSd (op : BitVec 8) (x : Sd) : Word := op ++ x.k ++ x.d ++ 0#14
def encSmw (op : BitVec 8) (x : Smw) : Word := op ++ x.k ++ 0#3 ++ x.d ++ x.a
def encBr (op : BitVec 8) (x : Br) : Word := op ++ x.g ++ x.o
def encRet (op : BitVec 8) (x : Ret) : Word := op ++ 0#17 ++ x.n
def encXn (op : BitVec 8) (x : Xn) : Word := op ++ x.k ++ x.n ++ 0#14
def encEx (op : BitVec 8) (x : Ex) : Word := op ++ x.g ++ 0#21
def encCode (op : BitVec 8) (x : Code) : Word := op ++ 0#8 ++ x.c
def encSvcD (op : BitVec 8) (x : SvcD) : Word := op ++ 0#1 ++ x.n ++ x.c
def encSvcC (op : BitVec 8) (x : SvcD) : Word := op ++ 1#1 ++ x.n ++ x.c
def encSv (op : BitVec 8) (x : Sv) : Word := op ++ x.k ++ x.n ++ 0#4 ++ x.e ++ 0#7
def encTli (op : BitVec 8) (x : Tli) : Word := op ++ x.k ++ 0#7 ++ x.c ++ 0#6 ++ x.i
def encFen (op : BitVec 8) (x : Fen) : Word := op ++ 0#19 ++ x.k ++ x.s
def encWp (op : BitVec 8) (x : Wp) : Word := op ++ 0#14 ++ x.n ++ x.p
def encArr (op : BitVec 8) (x : Arr) : Word := op ++ x.k ++ x.n ++ x.u ++ x.a ++ x.t
def encWb (op : BitVec 8) (x : Wb) : Word := op ++ x.k ++ x.n ++ 0#6 ++ x.q ++ 0#7
def encWtl (op : BitVec 8) (x : Wtl) : Word := op ++ x.k ++ x.n ++ 0#8 ++ x.s ++ x.i
def encWc (op : BitVec 8) (x : Wc) : Word := op ++ x.k ++ x.n ++ x.m ++ 0#7
def encRgx (op : BitVec 8) (x : Rgx) : Word := op ++ x.k ++ x.n ++ x.p ++ x.c
def encMm (op : BitVec 8) (x : Mm) : Word := op ++ x.k ++ x.a ++ x.f ++ x.y ++ x.z
def encMz (op : BitVec 8) (x : Mz) : Word := op ++ x.k ++ x.t ++ 0#14
def encMt (op : BitVec 8) (x : Mt) : Word := op ++ x.k ++ x.t ++ x.y ++ 0#7
def encSc (op : BitVec 8) (x : Sc) : Word := op ++ x.k ++ x.x ++ x.y ++ x.z
def encPrc (op : BitVec 8) (x : Prc) : Word := op ++ x.k ++ 0#6 ++ x.o ++ x.d ++ x.m ++ x.n
def encPst (op : BitVec 8) (x : Pst) : Word := op ++ x.k ++ 0#3 ++ x.i ++ x.n ++ 0#3 ++ x.c
def encCp (op : BitVec 8) (x : Cp) : Word := op ++ x.k ++ x.n ++ x.o ++ x.d ++ x.i ++ x.r ++ x.b
def encCst (op : BitVec 8) (x : Cst) : Word := op ++ 7#3 ++ 0#5 ++ x.a ++ x.v ++ 0#7 ++ x.s
def encCk (op : BitVec 8) (_x : Z) : Word := op ++ 7#3 ++ 0#21
def encZone (op : BitVec 8) (_x : Z) : Word := op ++ 1#24
def decZ (pf : List Pf) (_w : Word) : Z := ⟨pf⟩
def decV3 (pf : List Pf) (w : Word) : V3 := ⟨pf, w.extractLsb' 21 3, w.extractLsb' 14 7, w.extractLsb' 7 7, w.extractLsb' 0 7⟩
def decV2 (pf : List Pf) (w : Word) : V2 := ⟨pf, w.extractLsb' 21 3, w.extractLsb' 14 7, w.extractLsb' 7 7⟩
def decMv (pf : List Pf) (w : Word) : Mv := ⟨pf, w.extractLsb' 21 3, w.extractLsb' 14 7, w.extractLsb' 0 7⟩
def decDst (pf : List Pf) (w : Word) : Dst := ⟨pf, w.extractLsb' 21 3, w.extractLsb' 14 7⟩
def decSrc (pf : List Pf) (w : Word) : Src := ⟨pf, w.extractLsb' 21 3, w.extractLsb' 7 7, w.extractLsb' 0 7⟩
def decRdSr (pf : List Pf) (w : Word) : RdSr := ⟨pf, w.extractLsb' 21 3, w.extractLsb' 14 7, w.extractLsb' 13 1, w.extractLsb' 12 1, w.extractLsb' 0 10⟩
def decWrSr (pf : List Pf) (w : Word) : WrSr := ⟨pf, w.extractLsb' 14 7, w.extractLsb' 12 1, w.extractLsb' 0 10⟩
def decPlop (pf : List Pf) (w : Word) : Plop := ⟨pf, w.extractLsb' 21 3, w.extractLsb' 18 3, w.extractLsb' 15 3, w.extractLsb' 12 3, w.extractLsb' 9 3, w.extractLsb' 1 8⟩
def decCvt (pf : List Pf) (w : Word) : Cvt := ⟨pf, w.extractLsb' 21 3, w.extractLsb' 14 7, w.extractLsb' 7 7, w.extractLsb' 4 3, w.extractLsb' 0 4⟩
def decCmp (pf : List Pf) (w : Word) : Cmp := ⟨pf, w.extractLsb' 21 3, w.extractLsb' 18 3, w.extractLsb' 15 3, w.extractLsb' 7 7, w.extractLsb' 0 7⟩
def decTx (pf : List Pf) (w : Word) : Tx := ⟨pf, w.extractLsb' 21 3, w.extractLsb' 14 7, w.extractLsb' 7 7, w.extractLsb' 0 7⟩
def decS3 (pf : List Pf) (w : Word) : S3 := ⟨pf, w.extractLsb' 21 3, w.extractLsb' 14 7, w.extractLsb' 7 7, w.extractLsb' 0 7⟩
def decSd (pf : List Pf) (w : Word) : Sd := ⟨pf, w.extractLsb' 21 3, w.extractLsb' 14 7⟩
def decSmw (pf : List Pf) (w : Word) : Smw := ⟨pf, w.extractLsb' 21 3, w.extractLsb' 9 9, w.extractLsb' 0 9⟩
def decBr (pf : List Pf) (w : Word) : Br := ⟨pf, w.extractLsb' 21 3, w.extractLsb' 0 21⟩
def decRet (pf : List Pf) (w : Word) : Ret := ⟨pf, w.extractLsb' 0 7⟩
def decXn (pf : List Pf) (w : Word) : Xn := ⟨pf, w.extractLsb' 21 3, w.extractLsb' 14 7⟩
def decEx (pf : List Pf) (w : Word) : Ex := ⟨pf, w.extractLsb' 21 3⟩
def decCode (pf : List Pf) (w : Word) : Code := ⟨pf, w.extractLsb' 0 16⟩
def decSvcD (pf : List Pf) (w : Word) : SvcD := ⟨pf, w.extractLsb' 16 7, w.extractLsb' 0 16⟩
def decSv (pf : List Pf) (w : Word) : Sv := ⟨pf, w.extractLsb' 21 3, w.extractLsb' 14 7, w.extractLsb' 7 3⟩
def decTli (pf : List Pf) (w : Word) : Tli := ⟨pf, w.extractLsb' 21 3, w.extractLsb' 8 6, w.extractLsb' 0 2⟩
def decFen (pf : List Pf) (w : Word) : Fen := ⟨pf, w.extractLsb' 3 2, w.extractLsb' 0 3⟩
def decWp (pf : List Pf) (w : Word) : Wp := ⟨pf, w.extractLsb' 2 8, w.extractLsb' 0 2⟩
def decArr (pf : List Pf) (w : Word) : Arr := ⟨pf, w.extractLsb' 21 3, w.extractLsb' 14 7, w.extractLsb' 13 1, w.extractLsb' 7 6, w.extractLsb' 0 7⟩
def decWb (pf : List Pf) (w : Word) : Wb := ⟨pf, w.extractLsb' 21 3, w.extractLsb' 14 7, w.extractLsb' 7 1⟩
def decWtl (pf : List Pf) (w : Word) : Wtl := ⟨pf, w.extractLsb' 21 3, w.extractLsb' 14 7, w.extractLsb' 3 3, w.extractLsb' 0 3⟩
def decWc (pf : List Pf) (w : Word) : Wc := ⟨pf, w.extractLsb' 21 3, w.extractLsb' 14 7, w.extractLsb' 7 7⟩
def decRgx (pf : List Pf) (w : Word) : Rgx := ⟨pf, w.extractLsb' 21 3, w.extractLsb' 14 7, w.extractLsb' 7 7, w.extractLsb' 0 7⟩
def decMm (pf : List Pf) (w : Word) : Mm := ⟨pf, w.extractLsb' 21 3, w.extractLsb' 18 3, w.extractLsb' 14 4, w.extractLsb' 7 7, w.extractLsb' 0 7⟩
def decMz (pf : List Pf) (w : Word) : Mz := ⟨pf, w.extractLsb' 21 3, w.extractLsb' 14 7⟩
def decMt (pf : List Pf) (w : Word) : Mt := ⟨pf, w.extractLsb' 21 3, w.extractLsb' 14 7, w.extractLsb' 7 7⟩
def decSc (pf : List Pf) (w : Word) : Sc := ⟨pf, w.extractLsb' 21 3, w.extractLsb' 14 7, w.extractLsb' 7 7, w.extractLsb' 0 7⟩
def decPrc (pf : List Pf) (w : Word) : Prc := ⟨pf, w.extractLsb' 21 3, w.extractLsb' 14 1, w.extractLsb' 10 4, w.extractLsb' 7 3, w.extractLsb' 0 7⟩
def decPst (pf : List Pf) (w : Word) : Pst := ⟨pf, w.extractLsb' 21 3, w.extractLsb' 14 4, w.extractLsb' 7 7, w.extractLsb' 0 4⟩
def decCp (pf : List Pf) (w : Word) : Cp := ⟨pf, w.extractLsb' 21 3, w.extractLsb' 14 7, w.extractLsb' 13 1, w.extractLsb' 11 2, w.extractLsb' 9 2, w.extractLsb' 7 2, w.extractLsb' 0 7⟩
def decCst (pf : List Pf) (w : Word) : Cst := ⟨pf, w.extractLsb' 12 4, w.extractLsb' 8 4, w.extractLsb' 0 1⟩

/-- The prefixes an instruction carries, in fetch order. -/
def Instr.pf (i : Instr) : List Pf :=
  match i with
  | .nop x => x.pf
  | .mov x => x.pf
  | .sel x => x.pf
  | .getl x => x.pf
  | .setl x => x.pf
  | .shfl x => x.pf
  | .vote x => x.pf
  | .redux x => x.pf
  | .rdsr x => x.pf
  | .wrsr x => x.pf
  | .plop x => x.pf
  | .p2v x => x.pf
  | .v2p x => x.pf
  | .rdtime x => x.pf
  | .cape x => x.pf
  | .cres x => x.pf
  | .iadd x => x.pf
  | .isub x => x.pf
  | .imul x => x.pf
  | .imulh x => x.pf
  | .imulhu x => x.pf
  | .imad x => x.pf
  | .imin x => x.pf
  | .imax x => x.pf
  | .umin x => x.pf
  | .umax x => x.pf
  | .iabs x => x.pf
  | .ineg x => x.pf
  | .iand x => x.pf
  | .ior x => x.pf
  | .ixor x => x.pf
  | .inot x => x.pf
  | .ishl x => x.pf
  | .ishr x => x.pf
  | .isra x => x.pf
  | .irot x => x.pf
  | .iclz x => x.pf
  | .ipopc x => x.pf
  | .ibrev x => x.pf
  | .ibfx x => x.pf
  | .ubfx x => x.pf
  | .ibfi x => x.pf
  | .iaddw x => x.pf
  | .imadw x => x.pf
  | .idot4 x => x.pf
  | .isad x => x.pf
  | .iaddsat x => x.pf
  | .isubsat x => x.pf
  | .fadd x => x.pf
  | .fsub x => x.pf
  | .fmul x => x.pf
  | .ffma x => x.pf
  | .fmin x => x.pf
  | .fmax x => x.pf
  | .fabs x => x.pf
  | .fneg x => x.pf
  | .frcp x => x.pf
  | .frsq x => x.pf
  | .fsqrt x => x.pf
  | .fex2 x => x.pf
  | .flg2 x => x.pf
  | .fsin x => x.pf
  | .fcos x => x.pf
  | .ftanh x => x.pf
  | .ffloor x => x.pf
  | .fceil x => x.pf
  | .ftrunc x => x.pf
  | .frint x => x.pf
  | .fclass x => x.pf
  | .fscale x => x.pf
  | .hadd2 x => x.pf
  | .hmul2 x => x.pf
  | .hfma2 x => x.pf
  | .hmin2 x => x.pf
  | .hmax2 x => x.pf
  | .badd2 x => x.pf
  | .bmul2 x => x.pf
  | .bfma2 x => x.pf
  | .bmin2 x => x.pf
  | .bmax2 x => x.pf
  | .cvt x => x.pf
  | .cvtefF8a x => x.pf
  | .cvtefF8b x => x.pf
  | .cvtefF4 x => x.pf
  | .cvtefH16 x => x.pf
  | .cvtefB16 x => x.pf
  | .cvtefI8 x => x.pf
  | .pack x => x.pf
  | .icmpEq x => x.pf
  | .icmpNe x => x.pf
  | .icmpLt x => x.pf
  | .icmpLe x => x.pf
  | .icmpGt x => x.pf
  | .icmpGe x => x.pf
  | .icmpLtu x => x.pf
  | .icmpLeu x => x.pf
  | .icmpGtu x => x.pf
  | .icmpGeu x => x.pf
  | .fcmpEq x => x.pf
  | .fcmpNe x => x.pf
  | .fcmpLt x => x.pf
  | .fcmpLe x => x.pf
  | .fcmpGt x => x.pf
  | .fcmpGe x => x.pf
  | .fcmpUn x => x.pf
  | .fcmpOr x => x.pf
  | .scmpEq x => x.pf
  | .scmpNe x => x.pf
  | .scmpLt x => x.pf
  | .scmpLtu x => x.pf
  | .tex x => x.pf
  | .tld x => x.pf
  | .sadd x => x.pf
  | .ssub x => x.pf
  | .smul x => x.pf
  | .smulh x => x.pf
  | .sand x => x.pf
  | .sor x => x.pf
  | .sxor x => x.pf
  | .sshl x => x.pf
  | .sshr x => x.pf
  | .ssra x => x.pf
  | .smin x => x.pf
  | .smax x => x.pf
  | .smovw x => x.pf
  | .sfadd x => x.pf
  | .sfmul x => x.pf
  | .sffma x => x.pf
  | .bra x => x.pf
  | .br x => x.pf
  | .rcv x => x.pf
  | .call x => x.pf
  | .ret x => x.pf
  | .jmpi x => x.pf
  | .exit x => x.pf
  | .yield x => x.pf
  | .bkoff x => x.pf
  | .bkoffClr x => x.pf
  | .trap x => x.pf
  | .svcD x => x.pf
  | .svcC x => x.pf
  | .bkpt x => x.pf
  | .tret x => x.pf
  | .dcmd x => x.pf
  | .setview x => x.pf
  | .tlinc x => x.pf
  | .ldW x => x.pf
  | .ldD x => x.pf
  | .ldQ x => x.pf
  | .ldN x => x.pf
  | .stW x => x.pf
  | .stD x => x.pf
  | .stQ x => x.pf
  | .stN x => x.pf
  | .ldl x => x.pf
  | .stl x => x.pf
  | .ldw x => x.pf
  | .ldk x => x.pf
  | .stk x => x.pf
  | .sld x => x.pf
  | .sst x => x.pf
  | .pref x => x.pf
  | .atom x => x.pf
  | .atomr x => x.pf
  | .atoml x => x.pf
  | .cas x => x.pf
  | .casl x => x.pf
  | .satom x => x.pf
  | .cwb x => x.pf
  | .cinv x => x.pf
  | .cinvP x => x.pf
  | .fence x => x.pf
  | .waitp x => x.pf
  | .arrv x => x.pf
  | .waitb x => x.pf
  | .waittl x => x.pf
  | .waitc x => x.pf
  | .freezeG x => x.pf
  | .freezeT x => x.pf
  | .regx x => x.pf
  | .mma x => x.pf
  | .mmas x => x.pf
  | .mloop x => x.pf
  | .mzero x => x.pf
  | .mldt x => x.pf
  | .mstt x => x.pf
  | .scalc x => x.pf
  | .mtrn x => x.pf
  | .perc x => x.pf
  | .pset x => x.pf
  | .cpy x => x.pf
  | .cpyt x => x.pf
  | .cpyx x => x.pf
  | .launch x => x.pf
  | .capb x => x.pf
  | .cstep x => x.pf
  | .gspawn _ => []
  | .gjoin _ => []
  | .vlt _ => []
  | .vstT _ => []
  | .teamAdmission _ _ => []
  | .park _ => []
  | .parkReturn _ => []
  | .retire _ => []
  | .backoffExpiry _ _ => []
  | .fragmentStarved _ _ => []
  | .trapEntry _ => []
  | .deferredTrapTaken _ => []
  | .loadCompletion _ _ => []
  | .storePerformed _ _ => []
  | .atomicPerformed _ _ => []
  | .windowAccessPerformed _ _ => []
  | .ldwLaneLanding _ _ _ => []
  | .remoteBarrierStep _ => []
  | .regxGrow _ => []
  | .samplerCompletion _ _ => []
  | .sfuCompletion _ _ => []
  | .lineMissFill _ _ => []
  | .l1EvictionWriteback _ _ => []
  | .translationWalk _ => []
  | .matrixUnitOperation _ => []
  | .matrixOperationComplete _ => []
  | .mloopStart _ => []
  | .percStart _ => []
  | .percIteration _ => []
  | .copyAccept _ _ => []
  | .copyUnitLanding _ _ _ => []
  | .capbAttempt _ => []
  | .cstepCommit _ _ => []
  | .launchAccept _ => []
  | .launchCompletion _ => []
  | .serviceRequestTake _ => []
  | .serviceCallReply _ _ => []
  | .controlReply _ _ _ _ => []
  | .serviceRoundPriority _ _ => []
  | .doorbell _ _ => []
  | .queueFetch _ _ => []
  | .sliceEnd _ => []
  | .corePreempt _ _ => []
  | .preemptResume _ => []
  | .staggerExpiry _ => []
  | .operatingPointHoldEnd _ => []
  | .throttleWindowEnd _ => []
  | .throttleOverride _ _ => []
  | .bandwidthPublication _ _ => []
  | .commandJournal _ => []
  | .hostCommandGo _ => []
  | .create _ => []
  | .destroy _ => []
  | .grantCore _ => []
  | .grantMem _ => []
  | .grantQueues _ => []
  | .grantLink _ => []
  | .setHandler _ => []
  | .freeze _ => []
  | .thaw _ => []
  | .checkpoint _ => []
  | .restore _ => []
  | .revoke _ => []
  | .dirtyscan _ => []
  | .query _ => []
  | .bindVf _ => []
  | .bindVfUnbind _ => []
  | .bindPartition _ => []
  | .bindPartitionUnbind _ => []
  | .bindPartitionReset _ => []
  | .genbump _ => []
  | .genbumpCtx _ => []
  | .recordPost _ => []
  | .retryReply _ _ => []
  | .endReply _ _ => []
  | .passReply _ _ => []
  | .errorFence _ => []
  | .journalRecopy _ _ => []
  | .coldReset _ => []
  | .getCertificate _ => []
  | .challenge _ => []
  | .getMeasurements _ => []
  | .keyExchange _ _ _ => []
  | .ideKm _ _ => []
  | .keyUpdate _ _ _ => []
  | .lifeCycleChange _ => []
  | .ideIntegrityFailure _ => []
  | .hostMemoryRead _ _ _ => []
  | .hostMemoryWrite _ _ _ _ => []
  | .registerWrite _ _ => []
  | .tctlWrite _ => []
  | .ictlWrite _ _ => []
  | .sctlWrite _ _ _ => []
  | .ingressDropRead _ => []
  | .ingressWrite _ _ _ => []
  | .ptpMessage _ => []
  | .ptmResponse _ => []
  | .clockLockChange _ => []
  | .powerLimit _ _ => []
  | .dramOvertemp _ _ => []
  | .thermalThrottle _ _ => []
  | .dramCrcRetry _ _ => []
  | .uncorrectableError _ => []
  | .serviceCoreCacheError _ _ => []
  | .flitReceive _ _ _ => []
  | .nack _ _ => []
  | .ackTimeout _ => []
  | .peerDetected _ => []
  | .linkTrained _ => []
  | .trainingTimeout _ => []
  | .retrainTimeout _ => []
  | .remoteRequest _ => []
  | .noRoute _ => []
  | .exportWithdraw _ _ => []
  | .cxlBackInvalidate _ => []
  | .cxlPortDown _ => []
  | .correctedError _ _ => []
  | .modulePowerOff => []

/-- The instruction word (R52, R55; R383): none for the device's own steps, which have no words. -/
def instrWord (i : Instr) : Option Word :=
  match i with
  | .nop x => some (encZ 0x00#8 x)
  | .mov x => some (encMv 0x01#8 x)
  | .sel x => some (encV3 0x02#8 x)
  | .getl x => some (encV3 0x03#8 x)
  | .setl x => some (encV3 0x04#8 x)
  | .shfl x => some (encV3 0x05#8 x)
  | .vote x => some (encV2 0x06#8 x)
  | .redux x => some (encV2 0x07#8 x)
  | .rdsr x => some (encRdSr 0x08#8 x)
  | .wrsr x => some (encWrSr 0x09#8 x)
  | .plop x => some (encPlop 0x0A#8 x)
  | .p2v x => some (encDst 0x0B#8 x)
  | .v2p x => some (encSrc 0x0C#8 x)
  | .rdtime x => some (encSd 0x0D#8 x)
  | .cape x => some (encCk 0x0E#8 x)
  | .cres x => some (encCk 0x0F#8 x)
  | .iadd x => some (encV3 0x10#8 x)
  | .isub x => some (encV3 0x11#8 x)
  | .imul x => some (encV3 0x12#8 x)
  | .imulh x => some (encV3 0x13#8 x)
  | .imulhu x => some (encV3 0x14#8 x)
  | .imad x => some (encV3 0x15#8 x)
  | .imin x => some (encV3 0x16#8 x)
  | .imax x => some (encV3 0x17#8 x)
  | .umin x => some (encV3 0x18#8 x)
  | .umax x => some (encV3 0x19#8 x)
  | .iabs x => some (encV2 0x1A#8 x)
  | .ineg x => some (encV2 0x1B#8 x)
  | .iand x => some (encV3 0x1C#8 x)
  | .ior x => some (encV3 0x1D#8 x)
  | .ixor x => some (encV3 0x1E#8 x)
  | .inot x => some (encV2 0x1F#8 x)
  | .ishl x => some (encV3 0x20#8 x)
  | .ishr x => some (encV3 0x21#8 x)
  | .isra x => some (encV3 0x22#8 x)
  | .irot x => some (encV3 0x23#8 x)
  | .iclz x => some (encV2 0x24#8 x)
  | .ipopc x => some (encV2 0x25#8 x)
  | .ibrev x => some (encV2 0x26#8 x)
  | .ibfx x => some (encV3 0x27#8 x)
  | .ubfx x => some (encV3 0x28#8 x)
  | .ibfi x => some (encV3 0x29#8 x)
  | .iaddw x => some (encV3 0x2A#8 x)
  | .imadw x => some (encV3 0x2B#8 x)
  | .idot4 x => some (encV3 0x2C#8 x)
  | .isad x => some (encV3 0x2D#8 x)
  | .iaddsat x => some (encV3 0x2E#8 x)
  | .isubsat x => some (encV3 0x2F#8 x)
  | .fadd x => some (encV3 0x30#8 x)
  | .fsub x => some (encV3 0x31#8 x)
  | .fmul x => some (encV3 0x32#8 x)
  | .ffma x => some (encV3 0x33#8 x)
  | .fmin x => some (encV3 0x34#8 x)
  | .fmax x => some (encV3 0x35#8 x)
  | .fabs x => some (encV2 0x36#8 x)
  | .fneg x => some (encV2 0x37#8 x)
  | .frcp x => some (encV2 0x38#8 x)
  | .frsq x => some (encV2 0x39#8 x)
  | .fsqrt x => some (encV2 0x3A#8 x)
  | .fex2 x => some (encV2 0x3B#8 x)
  | .flg2 x => some (encV2 0x3C#8 x)
  | .fsin x => some (encV2 0x3D#8 x)
  | .fcos x => some (encV2 0x3E#8 x)
  | .ftanh x => some (encV2 0x3F#8 x)
  | .ffloor x => some (encV2 0x40#8 x)
  | .fceil x => some (encV2 0x41#8 x)
  | .ftrunc x => some (encV2 0x42#8 x)
  | .frint x => some (encV2 0x43#8 x)
  | .fclass x => some (encV2 0x44#8 x)
  | .fscale x => some (encV3 0x45#8 x)
  | .hadd2 x => some (encV3 0x46#8 x)
  | .hmul2 x => some (encV3 0x47#8 x)
  | .hfma2 x => some (encV3 0x48#8 x)
  | .hmin2 x => some (encV3 0x49#8 x)
  | .hmax2 x => some (encV3 0x4A#8 x)
  | .badd2 x => some (encV3 0x4B#8 x)
  | .bmul2 x => some (encV3 0x4C#8 x)
  | .bfma2 x => some (encV3 0x4D#8 x)
  | .bmin2 x => some (encV3 0x4E#8 x)
  | .bmax2 x => some (encV3 0x4F#8 x)
  | .cvt x => some (encCvt 0x50#8 x)
  | .cvtefF8a x => some (encV3 0x51#8 x)
  | .cvtefF8b x => some (encV3 0x52#8 x)
  | .cvtefF4 x => some (encV3 0x53#8 x)
  | .cvtefH16 x => some (encV3 0x54#8 x)
  | .cvtefB16 x => some (encV3 0x55#8 x)
  | .cvtefI8 x => some (encV3 0x56#8 x)
  | .pack x => some (encV3 0x57#8 x)
  | .icmpEq x => some (encCmp 0x58#8 x)
  | .icmpNe x => some (encCmp 0x59#8 x)
  | .icmpLt x => some (encCmp 0x5A#8 x)
  | .icmpLe x => some (encCmp 0x5B#8 x)
  | .icmpGt x => some (encCmp 0x5C#8 x)
  | .icmpGe x => some (encCmp 0x5D#8 x)
  | .icmpLtu x => some (encCmp 0x5E#8 x)
  | .icmpLeu x => some (encCmp 0x5F#8 x)
  | .icmpGtu x => some (encCmp 0x60#8 x)
  | .icmpGeu x => some (encCmp 0x61#8 x)
  | .fcmpEq x => some (encCmp 0x62#8 x)
  | .fcmpNe x => some (encCmp 0x63#8 x)
  | .fcmpLt x => some (encCmp 0x64#8 x)
  | .fcmpLe x => some (encCmp 0x65#8 x)
  | .fcmpGt x => some (encCmp 0x66#8 x)
  | .fcmpGe x => some (encCmp 0x67#8 x)
  | .fcmpUn x => some (encCmp 0x68#8 x)
  | .fcmpOr x => some (encCmp 0x69#8 x)
  | .scmpEq x => some (encCmp 0x6A#8 x)
  | .scmpNe x => some (encCmp 0x6B#8 x)
  | .scmpLt x => some (encCmp 0x6C#8 x)
  | .scmpLtu x => some (encCmp 0x6D#8 x)
  | .tex x => some (encTx 0x6E#8 x)
  | .tld x => some (encTx 0x6F#8 x)
  | .sadd x => some (encS3 0x70#8 x)
  | .ssub x => some (encS3 0x71#8 x)
  | .smul x => some (encS3 0x72#8 x)
  | .smulh x => some (encS3 0x73#8 x)
  | .sand x => some (encS3 0x74#8 x)
  | .sor x => some (encS3 0x75#8 x)
  | .sxor x => some (encS3 0x76#8 x)
  | .sshl x => some (encS3 0x77#8 x)
  | .sshr x => some (encS3 0x78#8 x)
  | .ssra x => some (encS3 0x79#8 x)
  | .smin x => some (encS3 0x7A#8 x)
  | .smax x => some (encS3 0x7B#8 x)
  | .smovw x => some (encSmw 0x7C#8 x)
  | .sfadd x => some (encS3 0x7D#8 x)
  | .sfmul x => some (encS3 0x7E#8 x)
  | .sffma x => some (encS3 0x7F#8 x)
  | .bra x => some (encBr 0x80#8 x)
  | .br x => some (encBr 0x81#8 x)
  | .rcv x => some (encBr 0x82#8 x)
  | .call x => some (encBr 0x83#8 x)
  | .ret x => some (encRet 0x84#8 x)
  | .jmpi x => some (encXn 0x85#8 x)
  | .exit x => some (encEx 0x86#8 x)
  | .yield x => some (encZ 0x87#8 x)
  | .bkoff x => some (encZ 0x88#8 x)
  | .bkoffClr x => some (encZone 0x88#8 x)
  | .trap x => some (encCode 0x89#8 x)
  | .svcD x => some (encSvcD 0x8A#8 x)
  | .svcC x => some (encSvcC 0x8A#8 x)
  | .bkpt x => some (encCode 0x8B#8 x)
  | .tret x => some (encZ 0x8C#8 x)
  | .dcmd x => some (encXn 0x8D#8 x)
  | .setview x => some (encSv 0x8E#8 x)
  | .tlinc x => some (encTli 0x8F#8 x)
  | .ldW x => some (encV3 0x90#8 x)
  | .ldD x => some (encV3 0x91#8 x)
  | .ldQ x => some (encV3 0x92#8 x)
  | .ldN x => some (encV3 0x93#8 x)
  | .stW x => some (encV3 0x94#8 x)
  | .stD x => some (encV3 0x95#8 x)
  | .stQ x => some (encV3 0x96#8 x)
  | .stN x => some (encV3 0x97#8 x)
  | .ldl x => some (encV3 0x98#8 x)
  | .stl x => some (encV3 0x99#8 x)
  | .ldw x => some (encV3 0x9A#8 x)
  | .ldk x => some (encDst 0x9B#8 x)
  | .stk x => some (encDst 0x9C#8 x)
  | .sld x => some (encS3 0x9D#8 x)
  | .sst x => some (encS3 0x9E#8 x)
  | .pref x => some (encSrc 0x9F#8 x)
  | .atom x => some (encV3 0xA0#8 x)
  | .atomr x => some (encV3 0xA1#8 x)
  | .atoml x => some (encV3 0xA2#8 x)
  | .cas x => some (encV3 0xA3#8 x)
  | .casl x => some (encV3 0xA4#8 x)
  | .satom x => some (encS3 0xA5#8 x)
  | .cwb x => some (encSrc 0xA6#8 x)
  | .cinv x => some (encSrc 0xA7#8 x)
  | .cinvP x => some (encSrc1 0xA7#8 x)
  | .fence x => some (encFen 0xA8#8 x)
  | .waitp x => some (encWp 0xA9#8 x)
  | .arrv x => some (encArr 0xAA#8 x)
  | .waitb x => some (encWb 0xAB#8 x)
  | .waittl x => some (encWtl 0xAC#8 x)
  | .waitc x => some (encWc 0xAD#8 x)
  | .freezeG x => some (encZ 0xAE#8 x)
  | .freezeT x => some (encZone 0xAE#8 x)
  | .regx x => some (encRgx 0xAF#8 x)
  | .mma x => some (encMm 0xB0#8 x)
  | .mmas x => some (encMm 0xB1#8 x)
  | .mloop x => some (encMm 0xB2#8 x)
  | .mzero x => some (encMz 0xB3#8 x)
  | .mldt x => some (encMt 0xB4#8 x)
  | .mstt x => some (encMt 0xB5#8 x)
  | .scalc x => some (encSc 0xB6#8 x)
  | .mtrn x => some (encMt 0xB7#8 x)
  | .perc x => some (encPrc 0xB8#8 x)
  | .pset x => some (encPst 0xB9#8 x)
  | .cpy x => some (encCp 0xBA#8 x)
  | .cpyt x => some (encCp 0xBB#8 x)
  | .cpyx x => some (encCp 0xBC#8 x)
  | .launch x => some (encXn 0xBD#8 x)
  | .capb x => some (encXn 0xBE#8 x)
  | .cstep x => some (encCst 0xBF#8 x)
  | .gspawn x => some (0#12 ++ x.s ++ 0#3 ++ x.d ++ 11#7)
  | .gjoin x => some (0#7 ++ x.t ++ x.s ++ 1#3 ++ x.d ++ 11#7)
  | .vlt x => some (0#7 ++ x.t ++ x.s ++ 2#3 ++ x.d ++ 11#7)
  | .vstT x => some (0#7 ++ x.t ++ x.s ++ 3#3 ++ x.v ++ 11#7)
  | .teamAdmission _ _ => none
  | .park _ => none
  | .parkReturn _ => none
  | .retire _ => none
  | .backoffExpiry _ _ => none
  | .fragmentStarved _ _ => none
  | .trapEntry _ => none
  | .deferredTrapTaken _ => none
  | .loadCompletion _ _ => none
  | .storePerformed _ _ => none
  | .atomicPerformed _ _ => none
  | .windowAccessPerformed _ _ => none
  | .ldwLaneLanding _ _ _ => none
  | .remoteBarrierStep _ => none
  | .regxGrow _ => none
  | .samplerCompletion _ _ => none
  | .sfuCompletion _ _ => none
  | .lineMissFill _ _ => none
  | .l1EvictionWriteback _ _ => none
  | .translationWalk _ => none
  | .matrixUnitOperation _ => none
  | .matrixOperationComplete _ => none
  | .mloopStart _ => none
  | .percStart _ => none
  | .percIteration _ => none
  | .copyAccept _ _ => none
  | .copyUnitLanding _ _ _ => none
  | .capbAttempt _ => none
  | .cstepCommit _ _ => none
  | .launchAccept _ => none
  | .launchCompletion _ => none
  | .serviceRequestTake _ => none
  | .serviceCallReply _ _ => none
  | .controlReply _ _ _ _ => none
  | .serviceRoundPriority _ _ => none
  | .doorbell _ _ => none
  | .queueFetch _ _ => none
  | .sliceEnd _ => none
  | .corePreempt _ _ => none
  | .preemptResume _ => none
  | .staggerExpiry _ => none
  | .operatingPointHoldEnd _ => none
  | .throttleWindowEnd _ => none
  | .throttleOverride _ _ => none
  | .bandwidthPublication _ _ => none
  | .commandJournal _ => none
  | .hostCommandGo _ => none
  | .create _ => none
  | .destroy _ => none
  | .grantCore _ => none
  | .grantMem _ => none
  | .grantQueues _ => none
  | .grantLink _ => none
  | .setHandler _ => none
  | .freeze _ => none
  | .thaw _ => none
  | .checkpoint _ => none
  | .restore _ => none
  | .revoke _ => none
  | .dirtyscan _ => none
  | .query _ => none
  | .bindVf _ => none
  | .bindVfUnbind _ => none
  | .bindPartition _ => none
  | .bindPartitionUnbind _ => none
  | .bindPartitionReset _ => none
  | .genbump _ => none
  | .genbumpCtx _ => none
  | .recordPost _ => none
  | .retryReply _ _ => none
  | .endReply _ _ => none
  | .passReply _ _ => none
  | .errorFence _ => none
  | .journalRecopy _ _ => none
  | .coldReset _ => none
  | .getCertificate _ => none
  | .challenge _ => none
  | .getMeasurements _ => none
  | .keyExchange _ _ _ => none
  | .ideKm _ _ => none
  | .keyUpdate _ _ _ => none
  | .lifeCycleChange _ => none
  | .ideIntegrityFailure _ => none
  | .hostMemoryRead _ _ _ => none
  | .hostMemoryWrite _ _ _ _ => none
  | .registerWrite _ _ => none
  | .tctlWrite _ => none
  | .ictlWrite _ _ => none
  | .sctlWrite _ _ _ => none
  | .ingressDropRead _ => none
  | .ingressWrite _ _ _ => none
  | .ptpMessage _ => none
  | .ptmResponse _ => none
  | .clockLockChange _ => none
  | .powerLimit _ _ => none
  | .dramOvertemp _ _ => none
  | .thermalThrottle _ _ => none
  | .dramCrcRetry _ _ => none
  | .uncorrectableError _ => none
  | .serviceCoreCacheError _ _ => none
  | .flitReceive _ _ _ => none
  | .nack _ _ => none
  | .ackTimeout _ => none
  | .peerDetected _ => none
  | .linkTrained _ => none
  | .trainingTimeout _ => none
  | .retrainTimeout _ => none
  | .remoteRequest _ => none
  | .noRoute _ => none
  | .exportWithdraw _ _ => none
  | .cxlBackInvalidate _ => none
  | .cxlPortDown _ => none
  | .correctedError _ _ => none
  | .modulePowerOff => none

/-- Opcodes 0x00 to 0x0F, by bits [27:24]. -/
def candRow0 (pf : List Pf) (w : Word) : Instr :=
  match (w.extractLsb' 24 4).toNat with
  | 0 => .nop (decZ pf w)
  | 1 => .mov (decMv pf w)
  | 2 => .sel (decV3 pf w)
  | 3 => .getl (decV3 pf w)
  | 4 => .setl (decV3 pf w)
  | 5 => .shfl (decV3 pf w)
  | 6 => .vote (decV2 pf w)
  | 7 => .redux (decV2 pf w)
  | 8 => .rdsr (decRdSr pf w)
  | 9 => .wrsr (decWrSr pf w)
  | 10 => .plop (decPlop pf w)
  | 11 => .p2v (decDst pf w)
  | 12 => .v2p (decSrc pf w)
  | 13 => .rdtime (decSd pf w)
  | 14 => .cape (decZ pf w)
  | _ => .cres (decZ pf w)

/-- Opcodes 0x10 to 0x1F, by bits [27:24]. -/
def candRow1 (pf : List Pf) (w : Word) : Instr :=
  match (w.extractLsb' 24 4).toNat with
  | 0 => .iadd (decV3 pf w)
  | 1 => .isub (decV3 pf w)
  | 2 => .imul (decV3 pf w)
  | 3 => .imulh (decV3 pf w)
  | 4 => .imulhu (decV3 pf w)
  | 5 => .imad (decV3 pf w)
  | 6 => .imin (decV3 pf w)
  | 7 => .imax (decV3 pf w)
  | 8 => .umin (decV3 pf w)
  | 9 => .umax (decV3 pf w)
  | 10 => .iabs (decV2 pf w)
  | 11 => .ineg (decV2 pf w)
  | 12 => .iand (decV3 pf w)
  | 13 => .ior (decV3 pf w)
  | 14 => .ixor (decV3 pf w)
  | _ => .inot (decV2 pf w)

/-- Opcodes 0x20 to 0x2F, by bits [27:24]. -/
def candRow2 (pf : List Pf) (w : Word) : Instr :=
  match (w.extractLsb' 24 4).toNat with
  | 0 => .ishl (decV3 pf w)
  | 1 => .ishr (decV3 pf w)
  | 2 => .isra (decV3 pf w)
  | 3 => .irot (decV3 pf w)
  | 4 => .iclz (decV2 pf w)
  | 5 => .ipopc (decV2 pf w)
  | 6 => .ibrev (decV2 pf w)
  | 7 => .ibfx (decV3 pf w)
  | 8 => .ubfx (decV3 pf w)
  | 9 => .ibfi (decV3 pf w)
  | 10 => .iaddw (decV3 pf w)
  | 11 => .imadw (decV3 pf w)
  | 12 => .idot4 (decV3 pf w)
  | 13 => .isad (decV3 pf w)
  | 14 => .iaddsat (decV3 pf w)
  | _ => .isubsat (decV3 pf w)

/-- Opcodes 0x30 to 0x3F, by bits [27:24]. -/
def candRow3 (pf : List Pf) (w : Word) : Instr :=
  match (w.extractLsb' 24 4).toNat with
  | 0 => .fadd (decV3 pf w)
  | 1 => .fsub (decV3 pf w)
  | 2 => .fmul (decV3 pf w)
  | 3 => .ffma (decV3 pf w)
  | 4 => .fmin (decV3 pf w)
  | 5 => .fmax (decV3 pf w)
  | 6 => .fabs (decV2 pf w)
  | 7 => .fneg (decV2 pf w)
  | 8 => .frcp (decV2 pf w)
  | 9 => .frsq (decV2 pf w)
  | 10 => .fsqrt (decV2 pf w)
  | 11 => .fex2 (decV2 pf w)
  | 12 => .flg2 (decV2 pf w)
  | 13 => .fsin (decV2 pf w)
  | 14 => .fcos (decV2 pf w)
  | _ => .ftanh (decV2 pf w)

/-- Opcodes 0x40 to 0x4F, by bits [27:24]. -/
def candRow4 (pf : List Pf) (w : Word) : Instr :=
  match (w.extractLsb' 24 4).toNat with
  | 0 => .ffloor (decV2 pf w)
  | 1 => .fceil (decV2 pf w)
  | 2 => .ftrunc (decV2 pf w)
  | 3 => .frint (decV2 pf w)
  | 4 => .fclass (decV2 pf w)
  | 5 => .fscale (decV3 pf w)
  | 6 => .hadd2 (decV3 pf w)
  | 7 => .hmul2 (decV3 pf w)
  | 8 => .hfma2 (decV3 pf w)
  | 9 => .hmin2 (decV3 pf w)
  | 10 => .hmax2 (decV3 pf w)
  | 11 => .badd2 (decV3 pf w)
  | 12 => .bmul2 (decV3 pf w)
  | 13 => .bfma2 (decV3 pf w)
  | 14 => .bmin2 (decV3 pf w)
  | _ => .bmax2 (decV3 pf w)

/-- Opcodes 0x50 to 0x5F, by bits [27:24]. -/
def candRow5 (pf : List Pf) (w : Word) : Instr :=
  match (w.extractLsb' 24 4).toNat with
  | 0 => .cvt (decCvt pf w)
  | 1 => .cvtefF8a (decV3 pf w)
  | 2 => .cvtefF8b (decV3 pf w)
  | 3 => .cvtefF4 (decV3 pf w)
  | 4 => .cvtefH16 (decV3 pf w)
  | 5 => .cvtefB16 (decV3 pf w)
  | 6 => .cvtefI8 (decV3 pf w)
  | 7 => .pack (decV3 pf w)
  | 8 => .icmpEq (decCmp pf w)
  | 9 => .icmpNe (decCmp pf w)
  | 10 => .icmpLt (decCmp pf w)
  | 11 => .icmpLe (decCmp pf w)
  | 12 => .icmpGt (decCmp pf w)
  | 13 => .icmpGe (decCmp pf w)
  | 14 => .icmpLtu (decCmp pf w)
  | _ => .icmpLeu (decCmp pf w)

/-- Opcodes 0x60 to 0x6F, by bits [27:24]. -/
def candRow6 (pf : List Pf) (w : Word) : Instr :=
  match (w.extractLsb' 24 4).toNat with
  | 0 => .icmpGtu (decCmp pf w)
  | 1 => .icmpGeu (decCmp pf w)
  | 2 => .fcmpEq (decCmp pf w)
  | 3 => .fcmpNe (decCmp pf w)
  | 4 => .fcmpLt (decCmp pf w)
  | 5 => .fcmpLe (decCmp pf w)
  | 6 => .fcmpGt (decCmp pf w)
  | 7 => .fcmpGe (decCmp pf w)
  | 8 => .fcmpUn (decCmp pf w)
  | 9 => .fcmpOr (decCmp pf w)
  | 10 => .scmpEq (decCmp pf w)
  | 11 => .scmpNe (decCmp pf w)
  | 12 => .scmpLt (decCmp pf w)
  | 13 => .scmpLtu (decCmp pf w)
  | 14 => .tex (decTx pf w)
  | _ => .tld (decTx pf w)

/-- Opcodes 0x70 to 0x7F, by bits [27:24]. -/
def candRow7 (pf : List Pf) (w : Word) : Instr :=
  match (w.extractLsb' 24 4).toNat with
  | 0 => .sadd (decS3 pf w)
  | 1 => .ssub (decS3 pf w)
  | 2 => .smul (decS3 pf w)
  | 3 => .smulh (decS3 pf w)
  | 4 => .sand (decS3 pf w)
  | 5 => .sor (decS3 pf w)
  | 6 => .sxor (decS3 pf w)
  | 7 => .sshl (decS3 pf w)
  | 8 => .sshr (decS3 pf w)
  | 9 => .ssra (decS3 pf w)
  | 10 => .smin (decS3 pf w)
  | 11 => .smax (decS3 pf w)
  | 12 => .smovw (decSmw pf w)
  | 13 => .sfadd (decS3 pf w)
  | 14 => .sfmul (decS3 pf w)
  | _ => .sffma (decS3 pf w)

/-- Opcodes 0x80 to 0x8F, by bits [27:24]. -/
def candRow8 (pf : List Pf) (w : Word) : Instr :=
  match (w.extractLsb' 24 4).toNat with
  | 0 => .bra (decBr pf w)
  | 1 => .br (decBr pf w)
  | 2 => .rcv (decBr pf w)
  | 3 => .call (decBr pf w)
  | 4 => .ret (decRet pf w)
  | 5 => .jmpi (decXn pf w)
  | 6 => .exit (decEx pf w)
  | 7 => .yield (decZ pf w)
  | 8 => if w.getLsbD 0 then .bkoffClr (decZ pf w) else .bkoff (decZ pf w)
  | 9 => .trap (decCode pf w)
  | 10 => if w.getLsbD 23 then .svcC (decSvcD pf w) else .svcD (decSvcD pf w)
  | 11 => .bkpt (decCode pf w)
  | 12 => .tret (decZ pf w)
  | 13 => .dcmd (decXn pf w)
  | 14 => .setview (decSv pf w)
  | _ => .tlinc (decTli pf w)

/-- Opcodes 0x90 to 0x9F, by bits [27:24]. -/
def candRow9 (pf : List Pf) (w : Word) : Instr :=
  match (w.extractLsb' 24 4).toNat with
  | 0 => .ldW (decV3 pf w)
  | 1 => .ldD (decV3 pf w)
  | 2 => .ldQ (decV3 pf w)
  | 3 => .ldN (decV3 pf w)
  | 4 => .stW (decV3 pf w)
  | 5 => .stD (decV3 pf w)
  | 6 => .stQ (decV3 pf w)
  | 7 => .stN (decV3 pf w)
  | 8 => .ldl (decV3 pf w)
  | 9 => .stl (decV3 pf w)
  | 10 => .ldw (decV3 pf w)
  | 11 => .ldk (decDst pf w)
  | 12 => .stk (decDst pf w)
  | 13 => .sld (decS3 pf w)
  | 14 => .sst (decS3 pf w)
  | _ => .pref (decSrc pf w)

/-- Opcodes 0xA0 to 0xAF, by bits [27:24]. -/
def candRow10 (pf : List Pf) (w : Word) : Instr :=
  match (w.extractLsb' 24 4).toNat with
  | 0 => .atom (decV3 pf w)
  | 1 => .atomr (decV3 pf w)
  | 2 => .atoml (decV3 pf w)
  | 3 => .cas (decV3 pf w)
  | 4 => .casl (decV3 pf w)
  | 5 => .satom (decS3 pf w)
  | 6 => .cwb (decSrc pf w)
  | 7 => if w.getLsbD 14 then .cinvP (decSrc pf w) else .cinv (decSrc pf w)
  | 8 => .fence (decFen pf w)
  | 9 => .waitp (decWp pf w)
  | 10 => .arrv (decArr pf w)
  | 11 => .waitb (decWb pf w)
  | 12 => .waittl (decWtl pf w)
  | 13 => .waitc (decWc pf w)
  | 14 => if w.getLsbD 0 then .freezeT (decZ pf w) else .freezeG (decZ pf w)
  | _ => .regx (decRgx pf w)

/-- Opcodes 0xB0 to 0xBF, by bits [27:24]. -/
def candRow11 (pf : List Pf) (w : Word) : Instr :=
  match (w.extractLsb' 24 4).toNat with
  | 0 => .mma (decMm pf w)
  | 1 => .mmas (decMm pf w)
  | 2 => .mloop (decMm pf w)
  | 3 => .mzero (decMz pf w)
  | 4 => .mldt (decMt pf w)
  | 5 => .mstt (decMt pf w)
  | 6 => .scalc (decSc pf w)
  | 7 => .mtrn (decMt pf w)
  | 8 => .perc (decPrc pf w)
  | 9 => .pset (decPst pf w)
  | 10 => .cpy (decCp pf w)
  | 11 => .cpyt (decCp pf w)
  | 12 => .cpyx (decCp pf w)
  | 13 => .launch (decXn pf w)
  | 14 => .capb (decXn pf w)
  | _ => .cstep (decCst pf w)

/-- The instruction that bits [31:24] name (R55), whatever the word's fixed bits. -/
def candTerkor (pf : List Pf) (w : Word) : Instr :=
  match (w.extractLsb' 28 4).toNat with
  | 0 => candRow0 pf w
  | 1 => candRow1 pf w
  | 2 => candRow2 pf w
  | 3 => candRow3 pf w
  | 4 => candRow4 pf w
  | 5 => candRow5 pf w
  | 6 => candRow6 pf w
  | 7 => candRow7 pf w
  | 8 => candRow8 pf w
  | 9 => candRow9 pf w
  | 10 => candRow10 pf w
  | _ => candRow11 pf w

/-- The custom-0 word that funct3 names (R383). -/
def candService (w : Word) : Option Instr :=
  match (w.extractLsb' 12 3).toNat with
  | 0 => some (.gspawn ⟨w.extractLsb' 15 5, w.extractLsb' 7 5⟩)
  | 1 => some (.gjoin ⟨w.extractLsb' 20 5, w.extractLsb' 15 5, w.extractLsb' 7 5⟩)
  | 2 => some (.vlt ⟨w.extractLsb' 20 5, w.extractLsb' 15 5, w.extractLsb' 7 5⟩)
  | 3 => some (.vstT ⟨w.extractLsb' 20 5, w.extractLsb' 15 5, w.extractLsb' 7 5⟩)
  | _ => none

/-- A service-core word of R383. -/
def decodeService (w : Word) : Option Instr :=
  match candService w with
  | some i => if instrWord i = some w then some i else none
  | none => none

/-- A word of class 0x0 to 0xB with its prefixes: a Terkor instruction, or else a service-core word (no word is both). -/
def decodeInstrWord (pf : List Pf) (w : Word) : Option Instr :=
  if instrWord (candTerkor pf w) = some w then some (candTerkor pf w)
  else if pf = [] then decodeService w else none

/-- Reads prefix words up to and with the instruction word they belong to (R47); `pf` are those already read. -/
def decodeFrom (pf : List Pf) (ws : List Word) : Except Reject (Instr × List Word) :=
  match ws with
  | [] => .error .truncated
  | w :: r =>
    match wordClass w with
    | .header => .error .header
    | .reserved => .error .reserved
    | .instr =>
      match decodeInstrWord pf w with
      | some i => .ok (i, r)
      | none => .error .badWord
    | _ =>
      match decodePf w with
      | some p => decodeFrom (pf ++ [p]) r
      | none => .error .badHint

/-- The decoder: one instruction with its prefixes from a list of words, and the words after it. -/
def decode (ws : List Word) : Except Reject (Instr × List Word) := decodeFrom [] ws

/-- The words of an instruction: its prefixes in fetch order, then its own word. The device's own steps have none. -/
def encode (i : Instr) : List Word :=
  match instrWord i with
  | some w => i.pf.map encodePf ++ [w]
  | none => []

/-- Words from bytes: each little-endian (R4); an incomplete last word is filled with zero bytes. -/
def wordsOfBytes (bs : List Byte) : List Word :=
  match bs with
  | a :: b :: c :: d :: r => BitVec.ofNat 32 (leNat4 a b c d) :: wordsOfBytes r
  | [a, b, c] => [BitVec.ofNat 32 (leNat4 a b c 0#8)]
  | [a, b] => [BitVec.ofNat 32 (leNat4 a b 0#8 0#8)]
  | [a] => [BitVec.ofNat 32 (leNat4 a 0#8 0#8 0#8)]
  | [] => []
where
  leNat4 (a b c d : Byte) : Nat := a.toNat + 256 * (b.toNat + 256 * (c.toNat + 256 * d.toNat))

/-- The bytes of a number, least significant first. -/
def bytesOfNat (n w : Nat) : List Byte :=
  match n with
  | 0 => []
  | n + 1 => BitVec.ofNat 8 w :: bytesOfNat n (w / 256)

/-- The instruction that the decoder reads from an opcode-table word of `nbits` bits: its bytes as the hardware stores
them (each word little-endian, the first word lowest), zero up to a whole word. -/
def decodeTableWord (nbits w : Nat) : Option Instr :=
  match decode (wordsOfBytes (bytesOfNat (max 4 ((nbits + 7) / 8)) (w % 2 ^ nbits))) with
  | .ok (i, _) => some i
  | .error _ => none

end Sys2Proof
end

