-- ==== Sys2Proof/Machine/Legal.lean ====
section
/-! DEFINITION. What is ILLEGAL in a word and its prefixes alone (02 R47 to R53, R60, and each instruction's own rule), and which
registers an instruction names (06 R154, 01 R17), as functions of the instruction. -/
namespace Sys2Proof.Machine

/-! ### Prefix values (R48 to R50) -/

/-- The payload of the MOD hint; zero where there is none (R51). -/
def pfMod (pf : List Pf) : BitVec 24 :=
  match pf with
  | [] => 0
  | .mod x :: _ => x
  | _ :: r => pfMod r

/-- The scalar that replaces operand a (R49). -/
def pfSubA (pf : List Pf) : Option Nat :=
  match pf with
  | [] => none
  | .suba n :: _ => some n.toNat
  | .subab a _ :: _ => some a.toNat
  | _ :: r => pfSubA r

/-- The scalar that replaces operand b (R49). -/
def pfSubB (pf : List Pf) : Option Nat :=
  match pf with
  | [] => none
  | .subb n :: _ => some n.toNat
  | .subab _ b :: _ => some b.toNat
  | _ :: r => pfSubB r

/-- The PRIO hint's level (R48). -/
def pfPrio (pf : List Pf) : Nat :=
  match pf with
  | [] => 0
  | .prio l :: _ => l.toNat
  | _ :: r => pfPrio r

/-- The HIMM payloads in fetch order. -/
def pfHimms (pf : List Pf) : List (BitVec 28) :=
  match pf with
  | [] => []
  | .himm x :: r => x :: pfHimms r
  | _ :: r => pfHimms r

/-- A HIMM as a 32-bit integer or packed operand (R50). -/
def himmInt (pf : List Pf) : Option Word :=
  match pfHimms pf with
  | [] => none
  | [x] => some (x.signExtend 32)
  | x :: y :: _ => some ((x ++ y : BitVec 56).setWidth 32)

/-- A HIMM as an F32 operand (R50). -/
def himmF32 (pf : List Pf) : Option Word :=
  match pfHimms pf with
  | [] => none
  | [x] => some (x ++ 0#4)
  | x :: y :: _ => some ((x ++ y : BitVec 56).setWidth 32)

/-- A HIMM as a 64-bit operand or a memory offset (R50). -/
def himm64 (pf : List Pf) : Option Dword :=
  match pfHimms pf with
  | [] => none
  | [x] => some (x.signExtend 64)
  | x :: y :: _ => some ((x ++ y : BitVec 56).signExtend 64)

/-- The memory offset: 0 without a HIMM (R62). -/
def himmOff (pf : List Pf) : Dword := (himm64 pf).getD 0

/-! ### MOD layouts (R51) -/

/-- The rounding mode of MOD[2:0]; 5 to 7 are ILLEGAL. -/
def modRm (x : BitVec 24) : Option Rm :=
  match (x.extractLsb' 0 3).toNat with
  | 0 => some .rne | 1 => some .rtz | 2 => some .rdn | 3 => some .rup | 4 => some .rna | _ => none

/-- The floating-point MOD's fields (an ILLEGAL rounding code reads RNE: the check comes before). -/
def fpMod (pf : List Pf) : FpMod :=
  let x := pfMod pf
  ⟨(modRm x).getD .rne, x.getLsbD 3, x.getLsbD 4, x.getLsbD 5⟩

/-- A floating-point MOD payload: which of rounding, SAT, FTZ, NANOV the instruction's rule allows (R51, R77). -/
def fpModOk (rm sat ftz nanov : Bool) (x : BitVec 24) : Bool :=
  (modRm x).isSome && decide (x.extractLsb' 6 18 = 0#18)
    && (rm || decide (x.extractLsb' 0 3 = 0#3)) && (sat || !x.getLsbD 3) && (ftz || !x.getLsbD 4)
    && (nanov || !x.getLsbD 5) && !(x.getLsbD 3 && x.getLsbD 5)

/-- Fields of the memory MOD (R51). -/
def memWidth (pf : List Pf) : Nat := ((pfMod pf).extractLsb' 0 2).toNat
def memSext (pf : List Pf) : Bool := (pfMod pf).getLsbD 2
def memPolicy (pf : List Pf) : Nat := ((pfMod pf).extractLsb' 3 3).toNat
def memScope (pf : List Pf) : Nat := ((pfMod pf).extractLsb' 6 3).toNat
def memOrder (pf : List Pf) : Nat := ((pfMod pf).extractLsb' 9 2).toNat

/-- A memory MOD payload: `nar` a .N form, `sx` a narrow load, `pol` the highest policy allowed, `sc` the highest scope,
`acq` and `rel` whether the order may be acquire or release (R51, R180, R185, R188 to R191). -/
def memModOk (nar sx : Bool) (pol sc : Nat) (acq rel : Bool) (x : BitVec 24) : Bool :=
  let o := (x.extractLsb' 9 2).toNat
  decide ((x.extractLsb' 0 2).toNat ≤ (if nar then 1 else 0)) && (sx || !x.getLsbD 2)
    && decide ((x.extractLsb' 3 3).toNat ≤ pol) && decide ((x.extractLsb' 6 3).toNat ≤ sc)
    && (decide (o = 0) || (decide (o = 1) && acq) || (decide (o = 2) && rel)) && decide (x.extractLsb' 11 13 = 0#13)

/-- Fields of the atomic MOD (R51). -/
def atomOp (pf : List Pf) : Nat := ((pfMod pf).extractLsb' 0 4).toNat
def atomScope (pf : List Pf) : Nat := ((pfMod pf).extractLsb' 4 3).toNat
def atomOrder (pf : List Pf) : Nat := ((pfMod pf).extractLsb' 7 2).toNat

/-- An atomic MOD payload: `cas` for CAS and CASL, `acq` whether an acquire order is allowed (R51, R193, R194). -/
def atomModOk (cas acq : Bool) (x : BitVec 24) : Bool :=
  let o := (x.extractLsb' 7 2).toNat
  decide ((x.extractLsb' 0 4).toNat ≤ (if cas then 0 else 9)) && decide ((x.extractLsb' 4 3).toNat ≤ 5)
    && (acq || decide (o = 0) || decide (o = 2)) && decide (x.extractLsb' 9 15 = 0#15)

/-- A cache-maintenance MOD payload (R51). -/
def maintModOk (x : BitVec 24) : Bool :=
  decide (x.extractLsb' 0 4 = 0#4) && decide ((x.extractLsb' 4 3).toNat ≤ 5) && decide (x.extractLsb' 7 17 = 0#17)

/-- Fields of the lane-movement MOD (R115). -/
def laneMode (pf : List Pf) : Nat := ((pfMod pf).extractLsb' 0 3).toNat
def laneSeg (pf : List Pf) : Nat := 2 ^ ((pfMod pf).extractLsb' 3 3).toNat

/-- A lane-movement MOD payload with modes up to `top` (R51, R116 to R118). -/
def laneModOk (top : Nat) (x : BitVec 24) : Bool :=
  decide ((x.extractLsb' 0 3).toNat ≤ top) && decide ((x.extractLsb' 3 3).toNat ≤ 5) && decide (x.extractLsb' 6 18 = 0#18)

/-! ### Which prefixes an instruction takes -/

/-- What a HIMM supplies (R50). -/
inductive HimmUse where
  | no | b | off | count
  deriving DecidableEq, Repr

/-- The prefixes an instruction takes: MOD payloads, SUBA, SUBB (and whether the operand is a 64-bit pair), HIMM, PRIO. -/
structure PfRule where
  hasMod : Bool
  modOk : BitVec 24 → Bool
  subA : Bool
  subB : Bool
  pairA : Bool
  pairB : Bool
  himm : HimmUse
  prio : Bool

/-- Only PRIO (R48). -/
def PfRule.prioOnly : PfRule := ⟨false, fun _ => false, false, false, false, false, .no, true⟩

/-- Operands a and b as registers, b also an immediate; no MOD. -/
def PfRule.ab : PfRule := ⟨false, fun _ => false, true, true, false, false, .b, true⟩

/-- Operand a only (unary instructions, R94). -/
def PfRule.a : PfRule := ⟨false, fun _ => false, true, false, false, false, .no, true⟩

/-- Adds a MOD layout. -/
def PfRule.withMod (r : PfRule) (ok : BitVec 24 → Bool) : PfRule := { r with hasMod := true, modOk := ok }

/-- M format: a HIMM offset and a MOD (R50, R51). -/
def PfRule.mem (ok : BitVec 24 → Bool) : PfRule := ⟨true, ok, false, false, false, false, .off, true⟩

/-- Does the instruction take this prefix, after those before it (R47 to R51)? -/
def pfTaken (r : PfRule) (before : List Pf) (p : Pf) : Bool :=
  match p with
  | .mod x => r.hasMod && r.modOk x && before.all (fun q => match q with | .mod _ => false | _ => true)
  | .suba n =>
    r.subA && (!r.pairA || decide (n.toNat % 2 = 0))
      && before.all (fun q => match q with | .suba _ => false | .subab _ _ => false | _ => true)
  | .subb n =>
    r.subB && (!r.pairB || decide (n.toNat % 2 = 0))
      && before.all (fun q => match q with | .subb _ => false | .subab _ _ => false | .himm _ => decide (r.himm ≠ .b) | _ => true)
  | .subab a b =>
    r.subA && r.subB && (!r.pairA || decide (a.toNat % 2 = 0)) && (!r.pairB || decide (b.toNat % 2 = 0))
      && before.all (fun q => match q with | .suba _ => false | .subb _ => false | .subab _ _ => false
                                           | .himm _ => decide (r.himm ≠ .b) | _ => true)
  | .prio l =>
    r.prio && decide (l ≠ 3#2) && before.all (fun q => match q with | .prio _ => false | _ => true)
  | .himm _ =>
    decide (r.himm ≠ .no)
      && decide ((before.filter (fun q => match q with | .himm _ => true | _ => false)).length < 2)
      && before.all (fun q => match q with | .subb _ => decide (r.himm ≠ .b) | .subab _ _ => decide (r.himm ≠ .b) | _ => true)

/-- The index of the first prefix the instruction does not take. -/
def pfBadFrom (r : PfRule) (before rest : List Pf) : Option Nat :=
  match rest with
  | [] => none
  | p :: t => if pfTaken r before p then pfBadFrom r (before ++ [p]) t else some before.length

/-- A field that a prefix replaces must be zero (R49, R50). -/
def replacedZero (pf : List Pf) (a b : Nat) (r : PfRule) : Bool :=
  ((pfSubA pf).isNone || decide (a = 0))
    && (((pfSubB pf).isNone && (decide (r.himm ≠ .b) || (pfHimms pf).isEmpty)) || decide (b = 0))

/-- What a word and its prefixes break: a prefix (by index) or the instruction word itself (R59). -/
inductive IllegalAt where
  | pfx (i : Nat)
  | word
  deriving DecidableEq, Repr

/-- The check of prefixes and of the word's own fields `ok`. -/
def legality (r : PfRule) (pf : List Pf) (ok : Bool) : Option IllegalAt :=
  match pfBadFrom r [] pf with
  | some i => some (.pfx i)
  | none => if ok then none else some .word

/-- Legality of a form with operand fields a and b. -/
def legalAB (r : PfRule) (pf : List Pf) (a b : Nat) (ok : Bool) : Option IllegalAt :=
  legality r pf (replacedZero pf a b r && ok)

/-- R53: p1 and p2 of a compare differ unless both are 7; ct is not 6 or 7. -/
def cmpFieldsOk (x : Cmp) : Bool :=
  (decide (x.p ≠ x.q) || decide (x.p = 7#3)) && decide (x.c.toNat ≤ 5)

/-- R54: a selector outside the reserved range. -/
def selOk (x : BitVec 7) : Bool := decide (x.toNat < 0x10) || decide (0x40 ≤ x.toNat)

/-- Is the selector a window operand (R54)? -/
def selWin (x : BitVec 7) : Bool := decide (0x40 ≤ x.toNat)

/-- Feedback selectors: only under codes 11 and 1, and not a7 under code 1 (R214). -/
def feedbackOk (f : BitVec 4) (x : BitVec 7) : Bool :=
  decide (x.toNat < 8) || decide (0x10 ≤ x.toNat) || decide (f = 11#4) || (decide (f = 1#4) && decide (x.toNat ≠ 0x0F))

/-- The legal special register numbers of R27. -/
def srDefined (n : Nat) : Bool :=
  decide (n ≤ 0x014) || (decide (0x018 ≤ n) && decide (n ≤ 0x01B)) || (decide (0x020 ≤ n) && decide (n ≤ 0x024))
    || decide (n = 0x026) || decide (n = 0x027) || decide (n = 0x030) || decide (n = 0x031)
    || (decide (0x040 ≤ n) && decide (n ≤ 0x07F) && decide (n ≠ 0x07F + 1)) || decide (n = 0x100) || decide (n = 0x101)

/-- The HIMM of MLOOP (R224): exactly one, with count and zero bits. -/
def mloopHimm (pf : List Pf) : Option (Bool × Nat) :=
  match pfHimms pf with
  | [x] => if x.extractLsb' 20 7 = 0#7 ∧ x.extractLsb' 0 20 ≠ 0#20 then some (x.getLsbD 27, (x.extractLsb' 0 20).toNat) else none
  | _ => none

/-- Element type of a CVTEF opcode. -/
def efModOk (f : EfFmt) (x : BitVec 24) : Bool :=
  fpModOk false (decide (f ≠ .i8)) true (decide (f = .flt .f8a)) x

/-- CVT's MOD by destination (R106). -/
def cvtModOk (d : CvDst) (x : BitVec 24) : Bool :=
  match d with
  | .flt f => fpModOk true true true (decide (f = .f8a)) x
  | _ => fpModOk true false true false x

/-- The F32 MOD without NANOV. -/
def f32ModOk (x : BitVec 24) : Bool := fpModOk true true true false x


/-- What is ILLEGAL in the word and its prefixes, whatever the group holds. The device's own steps have no words. -/
def instrIllegal (i : Instr) : Option IllegalAt :=
  match i with
  | .nop x => legality PfRule.prioOnly x.pf true
  | .mov x => legalAB ({ PfRule.ab with subA := false }) x.pf 0 x.b.toNat (true)
  | .sel x => legalAB (PfRule.ab) x.pf x.a.toNat x.b.toNat (true)
  | .getl x => legalAB (PfRule.ab) x.pf x.a.toNat x.b.toNat (true)
  | .setl x => legalAB (PfRule.ab) x.pf x.a.toNat x.b.toNat (true)
  | .shfl x => legalAB (PfRule.ab.withMod (laneModOk 3)) x.pf x.a.toNat x.b.toNat (true)
  | .vote x => legalAB (PfRule.a.withMod (laneModOk 3)) x.pf x.a.toNat 0 (true)
  | .redux x => legalAB (PfRule.a.withMod (laneModOk 7)) x.pf x.a.toNat 0 (true)
  | .rdsr x => legality PfRule.prioOnly x.pf (srDefined x.n.toNat && (decide (x.e = 0#1) || decide (x.g = 7#3)) && (decide (x.w = 0#1) || (decide (x.e = 1#1) && decide (x.n.toNat % 2 = 0) && decide (x.d.toNat % 2 = 0) && srDefined (x.n.toNat + 1))))
  | .wrsr x => legality PfRule.prioOnly x.pf (srDefined x.n.toNat && (decide (x.w = 0#1) || (decide (x.n.toNat % 2 = 0) && decide (x.d.toNat % 2 = 0) && srDefined (x.n.toNat + 1))))
  | .plop x => legality PfRule.prioOnly x.pf true
  | .p2v x => legality PfRule.prioOnly x.pf true
  | .v2p x => legalAB (PfRule.ab) x.pf x.a.toNat x.b.toNat (true)
  | .rdtime x => legality PfRule.prioOnly x.pf (decide (x.d.toNat % 2 = 0))
  | .cape x => legality PfRule.prioOnly x.pf true
  | .cres x => legality PfRule.prioOnly x.pf true
  | .iadd x => legalAB (PfRule.ab) x.pf x.a.toNat x.b.toNat (true)
  | .isub x => legalAB (PfRule.ab) x.pf x.a.toNat x.b.toNat (true)
  | .imul x => legalAB (PfRule.ab) x.pf x.a.toNat x.b.toNat (true)
  | .imulh x => legalAB (PfRule.ab) x.pf x.a.toNat x.b.toNat (true)
  | .imulhu x => legalAB (PfRule.ab) x.pf x.a.toNat x.b.toNat (true)
  | .imad x => legalAB (PfRule.ab) x.pf x.a.toNat x.b.toNat (true)
  | .imin x => legalAB (PfRule.ab) x.pf x.a.toNat x.b.toNat (true)
  | .imax x => legalAB (PfRule.ab) x.pf x.a.toNat x.b.toNat (true)
  | .umin x => legalAB (PfRule.ab) x.pf x.a.toNat x.b.toNat (true)
  | .umax x => legalAB (PfRule.ab) x.pf x.a.toNat x.b.toNat (true)
  | .iabs x => legalAB (PfRule.a) x.pf x.a.toNat 0 (true)
  | .ineg x => legalAB (PfRule.a) x.pf x.a.toNat 0 (true)
  | .iand x => legalAB (PfRule.ab) x.pf x.a.toNat x.b.toNat (true)
  | .ior x => legalAB (PfRule.ab) x.pf x.a.toNat x.b.toNat (true)
  | .ixor x => legalAB (PfRule.ab) x.pf x.a.toNat x.b.toNat (true)
  | .inot x => legalAB (PfRule.a) x.pf x.a.toNat 0 (true)
  | .ishl x => legalAB (PfRule.ab) x.pf x.a.toNat x.b.toNat (true)
  | .ishr x => legalAB (PfRule.ab) x.pf x.a.toNat x.b.toNat (true)
  | .isra x => legalAB (PfRule.ab) x.pf x.a.toNat x.b.toNat (true)
  | .irot x => legalAB (PfRule.ab) x.pf x.a.toNat x.b.toNat (true)
  | .iclz x => legalAB (PfRule.a) x.pf x.a.toNat 0 (true)
  | .ipopc x => legalAB (PfRule.a) x.pf x.a.toNat 0 (true)
  | .ibrev x => legalAB (PfRule.a) x.pf x.a.toNat 0 (true)
  | .ibfx x => legalAB (PfRule.ab) x.pf x.a.toNat x.b.toNat (true)
  | .ubfx x => legalAB (PfRule.ab) x.pf x.a.toNat x.b.toNat (true)
  | .ibfi x => legalAB (PfRule.ab) x.pf x.a.toNat x.b.toNat (true)
  | .iaddw x => legalAB ({ PfRule.ab with pairA := true, pairB := true }) x.pf x.a.toNat x.b.toNat (decide (x.d.toNat % 2 = 0) && decide (x.a.toNat % 2 = 0) && decide (x.b.toNat % 2 = 0))
  | .imadw x => legalAB (PfRule.ab) x.pf x.a.toNat x.b.toNat (decide (x.d.toNat % 2 = 0))
  | .idot4 x => legalAB (PfRule.ab) x.pf x.a.toNat x.b.toNat (true)
  | .isad x => legalAB (PfRule.ab) x.pf x.a.toNat x.b.toNat (true)
  | .iaddsat x => legalAB (PfRule.ab) x.pf x.a.toNat x.b.toNat (true)
  | .isubsat x => legalAB (PfRule.ab) x.pf x.a.toNat x.b.toNat (true)
  | .fadd x => legalAB (PfRule.ab.withMod f32ModOk) x.pf x.a.toNat x.b.toNat (true)
  | .fsub x => legalAB (PfRule.ab.withMod f32ModOk) x.pf x.a.toNat x.b.toNat (true)
  | .fmul x => legalAB (PfRule.ab.withMod f32ModOk) x.pf x.a.toNat x.b.toNat (true)
  | .ffma x => legalAB (PfRule.ab.withMod f32ModOk) x.pf x.a.toNat x.b.toNat (true)
  | .fmin x => legalAB (PfRule.ab.withMod f32ModOk) x.pf x.a.toNat x.b.toNat (true)
  | .fmax x => legalAB (PfRule.ab.withMod f32ModOk) x.pf x.a.toNat x.b.toNat (true)
  | .fabs x => legalAB (PfRule.a.withMod f32ModOk) x.pf x.a.toNat 0 (true)
  | .fneg x => legalAB (PfRule.a.withMod f32ModOk) x.pf x.a.toNat 0 (true)
  | .frcp x => legalAB (PfRule.a.withMod f32ModOk) x.pf x.a.toNat 0 (true)
  | .frsq x => legalAB (PfRule.a.withMod f32ModOk) x.pf x.a.toNat 0 (true)
  | .fsqrt x => legalAB (PfRule.a.withMod f32ModOk) x.pf x.a.toNat 0 (true)
  | .fex2 x => legalAB (PfRule.a.withMod f32ModOk) x.pf x.a.toNat 0 (true)
  | .flg2 x => legalAB (PfRule.a.withMod f32ModOk) x.pf x.a.toNat 0 (true)
  | .fsin x => legalAB (PfRule.a.withMod f32ModOk) x.pf x.a.toNat 0 (true)
  | .fcos x => legalAB (PfRule.a.withMod f32ModOk) x.pf x.a.toNat 0 (true)
  | .ftanh x => legalAB (PfRule.a.withMod f32ModOk) x.pf x.a.toNat 0 (true)
  | .ffloor x => legalAB (PfRule.a.withMod (fpModOk false true true false)) x.pf x.a.toNat 0 (true)
  | .fceil x => legalAB (PfRule.a.withMod (fpModOk false true true false)) x.pf x.a.toNat 0 (true)
  | .ftrunc x => legalAB (PfRule.a.withMod (fpModOk false true true false)) x.pf x.a.toNat 0 (true)
  | .frint x => legalAB (PfRule.a.withMod f32ModOk) x.pf x.a.toNat 0 (true)
  | .fclass x => legalAB (PfRule.a.withMod (fpModOk false false true false)) x.pf x.a.toNat 0 (true)
  | .fscale x => legalAB (PfRule.ab.withMod f32ModOk) x.pf x.a.toNat x.b.toNat (true)
  | .hadd2 x => legalAB (PfRule.ab.withMod f32ModOk) x.pf x.a.toNat x.b.toNat (true)
  | .hmul2 x => legalAB (PfRule.ab.withMod f32ModOk) x.pf x.a.toNat x.b.toNat (true)
  | .hfma2 x => legalAB (PfRule.ab.withMod f32ModOk) x.pf x.a.toNat x.b.toNat (true)
  | .hmin2 x => legalAB (PfRule.ab.withMod f32ModOk) x.pf x.a.toNat x.b.toNat (true)
  | .hmax2 x => legalAB (PfRule.ab.withMod f32ModOk) x.pf x.a.toNat x.b.toNat (true)
  | .badd2 x => legalAB (PfRule.ab.withMod f32ModOk) x.pf x.a.toNat x.b.toNat (true)
  | .bmul2 x => legalAB (PfRule.ab.withMod f32ModOk) x.pf x.a.toNat x.b.toNat (true)
  | .bfma2 x => legalAB (PfRule.ab.withMod f32ModOk) x.pf x.a.toNat x.b.toNat (true)
  | .bmin2 x => legalAB (PfRule.ab.withMod f32ModOk) x.pf x.a.toNat x.b.toNat (true)
  | .bmax2 x => legalAB (PfRule.ab.withMod f32ModOk) x.pf x.a.toNat x.b.toNat (true)
  | .cvt x => legalAB (PfRule.a.withMod (cvtModOk (cvDst x.f))) x.pf x.a.toNat 0 (cvLegal x.s x.f && (decide (x.f ≠ 15#4) || decide (x.d.toNat % 2 = 0)))
  | .cvtefF8a x => legalAB (PfRule.a.withMod (efModOk (.flt .f8a))) x.pf x.a.toNat 0 (decide (x.d ≠ x.b))
  | .cvtefF8b x => legalAB (PfRule.a.withMod (efModOk (.flt .f8b))) x.pf x.a.toNat 0 (decide (x.d ≠ x.b))
  | .cvtefF4 x => legalAB (PfRule.a.withMod (efModOk (.flt .f4))) x.pf x.a.toNat 0 (decide (x.d ≠ x.b))
  | .cvtefH16 x => legalAB (PfRule.a.withMod (efModOk (.flt .h16))) x.pf x.a.toNat 0 (decide (x.d ≠ x.b))
  | .cvtefB16 x => legalAB (PfRule.a.withMod (efModOk (.flt .b16))) x.pf x.a.toNat 0 (decide (x.d ≠ x.b))
  | .cvtefI8 x => legalAB (PfRule.a.withMod (efModOk .i8)) x.pf x.a.toNat 0 (decide (x.d ≠ x.b))
  | .pack x => legalAB (PfRule.ab.withMod (fun p => decide (p = 0#24))) x.pf x.a.toNat x.b.toNat (true)
  | .icmpEq x => legalAB (PfRule.ab) x.pf x.a.toNat x.b.toNat (cmpFieldsOk x)
  | .icmpNe x => legalAB (PfRule.ab) x.pf x.a.toNat x.b.toNat (cmpFieldsOk x)
  | .icmpLt x => legalAB (PfRule.ab) x.pf x.a.toNat x.b.toNat (cmpFieldsOk x)
  | .icmpLe x => legalAB (PfRule.ab) x.pf x.a.toNat x.b.toNat (cmpFieldsOk x)
  | .icmpGt x => legalAB (PfRule.ab) x.pf x.a.toNat x.b.toNat (cmpFieldsOk x)
  | .icmpGe x => legalAB (PfRule.ab) x.pf x.a.toNat x.b.toNat (cmpFieldsOk x)
  | .icmpLtu x => legalAB (PfRule.ab) x.pf x.a.toNat x.b.toNat (cmpFieldsOk x)
  | .icmpLeu x => legalAB (PfRule.ab) x.pf x.a.toNat x.b.toNat (cmpFieldsOk x)
  | .icmpGtu x => legalAB (PfRule.ab) x.pf x.a.toNat x.b.toNat (cmpFieldsOk x)
  | .icmpGeu x => legalAB (PfRule.ab) x.pf x.a.toNat x.b.toNat (cmpFieldsOk x)
  | .fcmpEq x => legalAB (PfRule.ab.withMod (fpModOk false false true false)) x.pf x.a.toNat x.b.toNat (cmpFieldsOk x)
  | .fcmpNe x => legalAB (PfRule.ab.withMod (fpModOk false false true false)) x.pf x.a.toNat x.b.toNat (cmpFieldsOk x)
  | .fcmpLt x => legalAB (PfRule.ab.withMod (fpModOk false false true false)) x.pf x.a.toNat x.b.toNat (cmpFieldsOk x)
  | .fcmpLe x => legalAB (PfRule.ab.withMod (fpModOk false false true false)) x.pf x.a.toNat x.b.toNat (cmpFieldsOk x)
  | .fcmpGt x => legalAB (PfRule.ab.withMod (fpModOk false false true false)) x.pf x.a.toNat x.b.toNat (cmpFieldsOk x)
  | .fcmpGe x => legalAB (PfRule.ab.withMod (fpModOk false false true false)) x.pf x.a.toNat x.b.toNat (cmpFieldsOk x)
  | .fcmpUn x => legalAB (PfRule.ab.withMod (fpModOk false false true false)) x.pf x.a.toNat x.b.toNat (cmpFieldsOk x)
  | .fcmpOr x => legalAB (PfRule.ab.withMod (fpModOk false false true false)) x.pf x.a.toNat x.b.toNat (cmpFieldsOk x)
  | .scmpEq x => legalAB (PfRule.ab) x.pf x.a.toNat x.b.toNat (cmpFieldsOk x)
  | .scmpNe x => legalAB (PfRule.ab) x.pf x.a.toNat x.b.toNat (cmpFieldsOk x)
  | .scmpLt x => legalAB (PfRule.ab) x.pf x.a.toNat x.b.toNat (cmpFieldsOk x)
  | .scmpLtu x => legalAB (PfRule.ab) x.pf x.a.toNat x.b.toNat (cmpFieldsOk x)
  | .tex x => legality PfRule.prioOnly x.pf (decide (x.n.toNat % 2 = 0) && decide (x.d.toNat % 4 = 0) && decide (x.d.toNat ≤ 124) && decide (x.y.toNat % 4 = 0) && decide (x.y.toNat ≤ 124))
  | .tld x => legality PfRule.prioOnly x.pf (decide (x.n.toNat % 2 = 0) && decide (x.d.toNat % 4 = 0) && decide (x.d.toNat ≤ 124) && decide (x.y.toNat % 4 = 0) && decide (x.y.toNat ≤ 124))
  | .sadd x => legalAB (PfRule.ab) x.pf x.a.toNat x.b.toNat (true)
  | .ssub x => legalAB (PfRule.ab) x.pf x.a.toNat x.b.toNat (true)
  | .smul x => legalAB (PfRule.ab) x.pf x.a.toNat x.b.toNat (true)
  | .smulh x => legalAB (PfRule.ab) x.pf x.a.toNat x.b.toNat (true)
  | .sand x => legalAB (PfRule.ab) x.pf x.a.toNat x.b.toNat (true)
  | .sor x => legalAB (PfRule.ab) x.pf x.a.toNat x.b.toNat (true)
  | .sxor x => legalAB (PfRule.ab) x.pf x.a.toNat x.b.toNat (true)
  | .sshl x => legalAB (PfRule.ab) x.pf x.a.toNat x.b.toNat (true)
  | .sshr x => legalAB (PfRule.ab) x.pf x.a.toNat x.b.toNat (true)
  | .ssra x => legalAB (PfRule.ab) x.pf x.a.toNat x.b.toNat (true)
  | .smin x => legalAB (PfRule.ab) x.pf x.a.toNat x.b.toNat (true)
  | .smax x => legalAB (PfRule.ab) x.pf x.a.toNat x.b.toNat (true)
  | .smovw x => legality { PfRule.prioOnly with prio := false } x.pf true
  | .sfadd x => legalAB (PfRule.ab.withMod f32ModOk) x.pf x.a.toNat x.b.toNat (true)
  | .sfmul x => legalAB (PfRule.ab.withMod f32ModOk) x.pf x.a.toNat x.b.toNat (true)
  | .sffma x => legalAB (PfRule.ab.withMod f32ModOk) x.pf x.a.toNat x.b.toNat (true)
  | .bra x => legality PfRule.prioOnly x.pf true
  | .br x => legality PfRule.prioOnly x.pf true
  | .rcv x => legality PfRule.prioOnly x.pf true
  | .call x => legality PfRule.prioOnly x.pf true
  | .ret x => legality PfRule.prioOnly x.pf (decide (x.n.toNat % 2 = 0))
  | .jmpi x => legality PfRule.prioOnly x.pf (decide (x.n.toNat % 2 = 0))
  | .exit x => legality PfRule.prioOnly x.pf true
  | .yield x => legality PfRule.prioOnly x.pf true
  | .bkoff x => legality PfRule.prioOnly x.pf true
  | .bkoffClr x => legality PfRule.prioOnly x.pf true
  | .trap x => legality PfRule.prioOnly x.pf true
  | .svcD x => legality PfRule.prioOnly x.pf (decide (x.n.toNat ≤ 124))
  | .svcC x => legality PfRule.prioOnly x.pf (decide (x.n.toNat ≤ 124))
  | .bkpt x => legality PfRule.prioOnly x.pf true
  | .tret x => legality PfRule.prioOnly x.pf true
  | .dcmd x => legality PfRule.prioOnly x.pf (decide (x.n.toNat % 2 = 0))
  | .setview x => legality PfRule.prioOnly x.pf (decide (x.e ≠ 0#3))
  | .tlinc x => legality PfRule.prioOnly x.pf true
  | .ldW x => legality (PfRule.mem (memModOk false false 4 5 true false)) x.pf (decide (x.b.toNat % 2 = 0))
  | .ldD x => legality (PfRule.mem (memModOk false false 4 5 true false)) x.pf (decide (x.b.toNat % 2 = 0) && decide (x.d.toNat % 2 = 0))
  | .ldQ x => legality (PfRule.mem (memModOk false false 4 5 true false)) x.pf (decide (x.b.toNat % 2 = 0) && decide (x.d.toNat % 4 = 0))
  | .ldN x => legality (PfRule.mem (memModOk true true 4 5 true false)) x.pf (decide (x.b.toNat % 2 = 0))
  | .stW x => legality (PfRule.mem (memModOk false false 4 5 false true)) x.pf (decide (x.b.toNat % 2 = 0))
  | .stD x => legality (PfRule.mem (memModOk false false 4 5 false true)) x.pf (decide (x.b.toNat % 2 = 0) && decide (x.d.toNat % 2 = 0))
  | .stQ x => legality (PfRule.mem (memModOk false false 4 5 false true)) x.pf (decide (x.b.toNat % 2 = 0) && decide (x.d.toNat % 4 = 0))
  | .stN x => legality (PfRule.mem (memModOk true false 4 5 false true)) x.pf (decide (x.b.toNat % 2 = 0))
  | .ldl x => legality (PfRule.mem (memModOk false false 0 2 true false)) x.pf (true)
  | .stl x => legality (PfRule.mem (memModOk false false 0 2 false true)) x.pf (true)
  | .ldw x => legality (PfRule.mem (memModOk false false 2 0 false false)) x.pf (decide (x.b.toNat % 2 = 0))
  | .ldk x => legality (PfRule.mem (memModOk false false 3 0 false false)) x.pf (decide ((himmOff x.pf).toNat % 4 = 0) && decide ((himmOff x.pf).toNat ≤ 2044))
  | .stk x => legality (PfRule.mem (memModOk false false 3 0 false false)) x.pf (decide ((himmOff x.pf).toNat % 4 = 0) && decide ((himmOff x.pf).toNat ≤ 2044))
  | .sld x => legalAB ({ PfRule.ab with pairA := true, hasMod := true, modOk := memModOk false false 4 5 true false }) x.pf x.a.toNat x.b.toNat (decide (x.a.toNat % 2 = 0))
  | .sst x => legalAB ({ PfRule.ab with pairA := true, hasMod := true, modOk := memModOk false false 4 5 false true }) x.pf x.a.toNat x.b.toNat (decide (x.a.toNat % 2 = 0))
  | .pref x => legality (PfRule.mem (memModOk false false 3 0 false false)) x.pf (decide (x.b.toNat % 2 = 0))
  | .atom x => legality (PfRule.mem (atomModOk false false)) x.pf (decide (x.b.toNat % 2 = 0))
  | .atomr x => legality (PfRule.mem (atomModOk false true)) x.pf (decide (x.b.toNat % 2 = 0))
  | .atoml x => legality (PfRule.mem (atomModOk false true)) x.pf (true)
  | .cas x => legality (PfRule.mem (atomModOk true true)) x.pf (decide (x.b.toNat % 2 = 0) && decide (x.d.toNat % 2 = 0))
  | .casl x => legality (PfRule.mem (atomModOk true true)) x.pf (decide (x.d.toNat % 2 = 0))
  | .satom x => legalAB ({ PfRule.ab with pairA := true, hasMod := true, modOk := atomModOk false true }) x.pf x.a.toNat x.b.toNat (decide (x.a.toNat % 2 = 0))
  | .cwb x => legality (PfRule.mem (maintModOk)) x.pf (decide (x.b.toNat % 2 = 0))
  | .cinv x => legality (PfRule.mem (maintModOk)) x.pf (decide (x.b.toNat % 2 = 0))
  | .cinvP x => legality (PfRule.mem (maintModOk)) x.pf (decide (x.b.toNat % 2 = 0))
  | .fence x => legality PfRule.prioOnly x.pf (decide (x.k ≠ 0#2) && decide (x.s.toNat ≤ 5))
  | .waitp x => legality PfRule.prioOnly x.pf true
  | .arrv x => legality PfRule.prioOnly x.pf ((decide (x.a ≠ 0#6) || decide (x.u = 1#1)) && (decide (x.u = 1#1) || decide (x.t = 0#7)))
  | .waitb x => legality PfRule.prioOnly x.pf true
  | .waittl x => legality PfRule.prioOnly x.pf (decide (x.n.toNat % 2 = 0) && decide (x.s.toNat ≤ 5))
  | .waitc x => legality PfRule.prioOnly x.pf (decide (x.n.toNat % 2 = 0) && decide (x.m.toNat % 2 = 0))
  | .freezeG x => legality PfRule.prioOnly x.pf true
  | .freezeT x => legality PfRule.prioOnly x.pf true
  | .regx x => legality PfRule.prioOnly x.pf (decide (1 ≤ x.p.toNat) && decide (x.p.toNat ≤ 32) && decide (1 ≤ x.c.toNat) && decide (x.c.toNat ≤ 32))
  | .mma x => legality PfRule.prioOnly x.pf (decide (x.f.toNat ≤ 11) && selOk x.y && selOk x.z && feedbackOk x.f x.y && feedbackOk x.f x.z)
  | .mmas x => legality PfRule.prioOnly x.pf (decide (x.f.toNat ≤ 11) && selOk x.y && selOk x.z && feedbackOk x.f x.y && feedbackOk x.f x.z && selWin x.y && decide (x.f ≠ 11#4))
  | .mloop x => legality { PfRule.prioOnly with himm := .count } x.pf (decide (x.f.toNat ≤ 11) && selOk x.y && selOk x.z && feedbackOk x.f x.y && feedbackOk x.f x.z && selWin x.y && selWin x.z && (match mloopHimm x.pf with | some (sp, _) => !sp || decide (x.f ≠ 11#4) | none => false))
  | .mzero x => legality PfRule.prioOnly x.pf (decide (x.t.toNat < 0x10))
  | .mldt x => legality PfRule.prioOnly x.pf (decide (x.t.toNat < 0x10) && selWin x.y)
  | .mstt x => legality PfRule.prioOnly x.pf (decide (x.t.toNat < 0x10) && selWin x.y)
  | .scalc x => legality (PfRule.prioOnly.withMod (fun p => decide (p.toNat ≤ 1))) x.pf (decide (8 ≤ x.x.toNat) && decide (x.x.toNat < 0x10) && decide (8 ≤ x.y.toNat) && decide (x.y.toNat < 0x10) && decide (x.x ≠ x.y))
  | .mtrn x => legality PfRule.prioOnly x.pf (decide (x.t.toNat < 0x10) && decide (x.y.toNat < 0x10))
  | .perc x => legality PfRule.prioOnly x.pf (decide (x.m.toNat ≤ 3) && (if x.m = 0#3 then decide (1 ≤ x.d.toNat) && decide (x.d.toNat ≤ 12) else decide (x.d = 0#4)))
  | .pset x => legality PfRule.prioOnly x.pf (decide (x.i.toNat + x.c.toNat ≤ 15))
  | .cpy x => legality PfRule.prioOnly x.pf (decide (x.n.toNat % 4 = 0) && decide (x.d.toNat ≤ 2) && (if x.o = 1#1 then decide (x.i = 0#2) else decide (x.b = 0#7)))
  | .cpyt x => legality PfRule.prioOnly x.pf (decide (x.n.toNat % 8 = 0) && decide (x.d.toNat ≤ 2) && (if x.o = 1#1 then decide (x.i = 0#2) else decide (x.b = 0#7)))
  | .cpyx x => legality PfRule.prioOnly x.pf (decide (x.n.toNat % 8 = 0) && decide (x.d.toNat ≤ 1) && (if x.o = 1#1 then decide (x.i = 0#2) else decide (x.b = 0#7)))
  | .launch x => legality PfRule.prioOnly x.pf (decide (x.n.toNat % 2 = 0))
  | .capb x => legality PfRule.prioOnly x.pf (decide (x.n.toNat % 2 = 0))
  | .cstep x => legality PfRule.prioOnly x.pf (if x.s = 1#1 then decide (x.a.toNat % 2 = 0) else decide (x.a = 0#4) && decide (x.v = 0#4))
  | .gspawn _ => none
  | .gjoin _ => none
  | .vlt _ => none
  | .vstT _ => none
  | .teamAdmission _ _ => none
  | .park _ => none
  | .parkReturn _ => none
  | .retire _ => none
  | .backoffExpiry _ _ => none
  | .fragmentStarved _ _ => none
  | .trapEntry _ => none
  | .deferredTrapTaken _ => none
  | .loadCompletion _ _ => none
  | .storePerformed _ _ => none
  | .atomicPerformed _ _ => none
  | .windowAccessPerformed _ _ => none
  | .ldwLaneLanding _ _ _ => none
  | .remoteBarrierStep _ => none
  | .regxGrow _ => none
  | .samplerCompletion _ _ => none
  | .sfuCompletion _ _ => none
  | .lineMissFill _ _ => none
  | .l1EvictionWriteback _ _ => none
  | .translationWalk _ => none
  | .matrixUnitOperation _ => none
  | .matrixOperationComplete _ => none
  | .mloopStart _ => none
  | .percStart _ => none
  | .percIteration _ => none
  | .copyAccept _ _ => none
  | .copyUnitLanding _ _ _ => none
  | .capbAttempt _ => none
  | .cstepCommit _ _ => none
  | .launchAccept _ => none
  | .launchCompletion _ => none
  | .serviceRequestTake _ => none
  | .serviceCallReply _ _ => none
  | .controlReply _ _ _ _ => none
  | .serviceRoundPriority _ _ => none
  | .doorbell _ _ => none
  | .queueFetch _ _ => none
  | .sliceEnd _ => none
  | .corePreempt _ _ => none
  | .preemptResume _ => none
  | .staggerExpiry _ => none
  | .operatingPointHoldEnd _ => none
  | .throttleWindowEnd _ => none
  | .throttleOverride _ _ => none
  | .bandwidthPublication _ _ => none
  | .commandJournal _ => none
  | .hostCommandGo _ => none
  | .create _ => none
  | .destroy _ => none
  | .grantCore _ => none
  | .grantMem _ => none
  | .grantQueues _ => none
  | .grantLink _ => none
  | .setHandler _ => none
  | .freeze _ => none
  | .thaw _ => none
  | .checkpoint _ => none
  | .restore _ => none
  | .revoke _ => none
  | .dirtyscan _ => none
  | .query _ => none
  | .bindVf _ => none
  | .bindVfUnbind _ => none
  | .bindPartition _ => none
  | .bindPartitionUnbind _ => none
  | .bindPartitionReset _ => none
  | .genbump _ => none
  | .genbumpCtx _ => none
  | .recordPost _ => none
  | .retryReply _ _ => none
  | .endReply _ _ => none
  | .passReply _ _ => none
  | .errorFence _ => none
  | .journalRecopy _ _ => none
  | .coldReset _ => none
  | .getCertificate _ => none
  | .challenge _ => none
  | .getMeasurements _ => none
  | .keyExchange _ _ _ => none
  | .ideKm _ _ => none
  | .keyUpdate _ _ _ => none
  | .lifeCycleChange _ => none
  | .ideIntegrityFailure _ => none
  | .hostMemoryRead _ _ _ => none
  | .hostMemoryWrite _ _ _ _ => none
  | .registerWrite _ _ => none
  | .tctlWrite _ => none
  | .ictlWrite _ _ => none
  | .sctlWrite _ _ _ => none
  | .ingressDropRead _ => none
  | .ingressWrite _ _ _ => none
  | .ptpMessage _ => none
  | .ptmResponse _ => none
  | .clockLockChange _ => none
  | .powerLimit _ _ => none
  | .dramOvertemp _ _ => none
  | .thermalThrottle _ _ => none
  | .dramCrcRetry _ _ => none
  | .uncorrectableError _ => none
  | .serviceCoreCacheError _ _ => none
  | .flitReceive _ _ _ => none
  | .nack _ _ => none
  | .ackTimeout _ => none
  | .peerDetected _ => none
  | .linkTrained _ => none
  | .trainingTimeout _ => none
  | .retrainTimeout _ => none
  | .remoteRequest _ => none
  | .noRoute _ => none
  | .exportWithdraw _ _ => none
  | .cxlBackInvalidate _ => none
  | .cxlPortDown _ => none
  | .correctedError _ _ => none
  | .modulePowerOff => none

/-! ### The registers an instruction names (R17, R154) -/

/-- Vector registers read and written, scalars read and written, and uniform predicates read as guard and written. -/
structure Uses where
  vr : List Nat
  vw : List Nat
  sr : List Nat
  sw : List Nat
  kg : Nat
  kw : List Nat
  deriving DecidableEq, Repr

/-- No register. -/
def Uses.none : Uses := ⟨[], [], [], [], 7, []⟩

/-- A register pair. -/
def pairOf (n : Nat) : List Nat := [n, n + 1]

/-- Operand a of a lane form: a vector register, or the scalar of a SUB hint. -/
def useA (pf : List Pf) (a : Nat) : List Nat × List Nat :=
  match pfSubA pf with | some n => ([], [n]) | none => ([a], [])

/-- Operand b of a lane form: a vector register, a scalar of a SUB hint, or an immediate. -/
def useB (pf : List Pf) (b : Nat) : List Nat × List Nat :=
  match pfSubB pf with
  | some n => ([], [n])
  | none => if (pfHimms pf).isEmpty then ([b], []) else ([], [])

/-- A V3 form: a, b and whether the old destination is a source (D). -/
def usesV3 (pf : List Pf) (d a b : Nat) (old : Bool) : Uses :=
  let p := useA pf a
  let q := useB pf b
  ⟨p.1 ++ q.1 ++ (if old then [d] else []), [d], p.2 ++ q.2, [], 7, []⟩

/-- A unary V3 form. -/
def usesV2 (pf : List Pf) (d a : Nat) : Uses :=
  let p := useA pf a
  ⟨p.1, [d], p.2, [], 7, []⟩

/-- A lane compare. -/
def usesCmp (x : Cmp) : Uses :=
  let p := useA x.pf x.a.toNat
  let q := useB x.pf x.b.toNat
  ⟨p.1 ++ q.1, [], p.2 ++ q.2, [], 7, []⟩

/-- The scalar that operand a of an S3 form names. -/
def sclA (pf : List Pf) (a : Nat) : Nat := (pfSubA pf).getD a

/-- The scalars that operand b of an S3 form names. -/
def sclB (pf : List Pf) (b : Nat) : List Nat :=
  match pfSubB pf with
  | some n => [n]
  | none => if (pfHimms pf).isEmpty then [b] else []

/-- An S3 form. -/
def usesS3 (x : S3) (old : Bool) : Uses :=
  ⟨[], [], sclA x.pf x.a.toNat :: sclB x.pf x.b.toNat ++ (if old then [x.d.toNat] else []), [x.d.toNat], x.k.toNat, []⟩

/-- An M form: data registers, and a base pair or single. -/
def usesM (vr vw : List Nat) (a b : Nat) (isPair : Bool) : Uses :=
  ⟨a :: vr, vw, if isPair then pairOf b else [b], [], 7, []⟩

/-- The scalars of a window operand's descriptor (R54). -/
def usesSel (x : BitVec 7) : List Nat := if selWin x then pairOf (2 * (x.toNat - 0x40)) else []

/-- Consecutive numbers. -/
def upFrom (n k : Nat) : List Nat :=
  match k with
  | 0 => []
  | k + 1 => n :: upFrom (n + 1) k

/-- The scalars of a copy's block that are read (12 R290): of a source window's pair the first only. -/
def copyBlock (x : Cp) (n : Nat) : List Nat :=
  if x.d = 2#2 then x.n.toNat :: upFrom (x.n.toNat + 2) (n - 2) else upFrom x.n.toNat n

/-- The registers an instruction names. Tile operands are not listed here: they are lines (R153, R214). -/
def instrUses (i : Instr) : Uses :=
  match i with
  | .nop _ => Uses.none
  | .mov x => (let q := useB x.pf x.b.toNat; ⟨q.1, [x.d.toNat], q.2, [], 7, []⟩)
  | .sel x => usesV3 x.pf x.d.toNat x.a.toNat x.b.toNat false
  | .getl x => usesV3 x.pf x.d.toNat x.a.toNat x.b.toNat false
  | .setl x => usesV3 x.pf x.d.toNat x.a.toNat x.b.toNat false
  | .shfl x => usesV3 x.pf x.d.toNat x.a.toNat x.b.toNat false
  | .vote x => usesV2 x.pf x.d.toNat x.a.toNat
  | .redux x => usesV2 x.pf x.d.toNat x.a.toNat
  | .rdsr x => if x.e = 0#1 then ⟨[], [x.d.toNat], [], [], 7, []⟩ else ⟨[], [], [], if x.w = 1#1 then pairOf x.d.toNat else [x.d.toNat], 7, []⟩
  | .wrsr x => ⟨[], [], if x.w = 1#1 then pairOf x.d.toNat else [x.d.toNat], [], 7, []⟩
  | .plop _ => Uses.none
  | .p2v x => ⟨[], [x.d.toNat], [], [], 7, []⟩
  | .v2p x => (let p := useA x.pf x.a.toNat; let q := useB x.pf x.b.toNat; ⟨p.1 ++ q.1, [], p.2 ++ q.2, [], 7, []⟩)
  | .rdtime x => ⟨[], [], [], pairOf x.d.toNat, x.k.toNat, []⟩
  | .cape _ => ⟨[], [], upFrom 368 4, [], 7, []⟩
  | .cres _ => Uses.none
  | .iadd x => usesV3 x.pf x.d.toNat x.a.toNat x.b.toNat false
  | .isub x => usesV3 x.pf x.d.toNat x.a.toNat x.b.toNat false
  | .imul x => usesV3 x.pf x.d.toNat x.a.toNat x.b.toNat false
  | .imulh x => usesV3 x.pf x.d.toNat x.a.toNat x.b.toNat false
  | .imulhu x => usesV3 x.pf x.d.toNat x.a.toNat x.b.toNat false
  | .imad x => usesV3 x.pf x.d.toNat x.a.toNat x.b.toNat true
  | .imin x => usesV3 x.pf x.d.toNat x.a.toNat x.b.toNat false
  | .imax x => usesV3 x.pf x.d.toNat x.a.toNat x.b.toNat false
  | .umin x => usesV3 x.pf x.d.toNat x.a.toNat x.b.toNat false
  | .umax x => usesV3 x.pf x.d.toNat x.a.toNat x.b.toNat false
  | .iabs x => usesV2 x.pf x.d.toNat x.a.toNat
  | .ineg x => usesV2 x.pf x.d.toNat x.a.toNat
  | .iand x => usesV3 x.pf x.d.toNat x.a.toNat x.b.toNat false
  | .ior x => usesV3 x.pf x.d.toNat x.a.toNat x.b.toNat false
  | .ixor x => usesV3 x.pf x.d.toNat x.a.toNat x.b.toNat false
  | .inot x => usesV2 x.pf x.d.toNat x.a.toNat
  | .ishl x => usesV3 x.pf x.d.toNat x.a.toNat x.b.toNat false
  | .ishr x => usesV3 x.pf x.d.toNat x.a.toNat x.b.toNat false
  | .isra x => usesV3 x.pf x.d.toNat x.a.toNat x.b.toNat false
  | .irot x => usesV3 x.pf x.d.toNat x.a.toNat x.b.toNat false
  | .iclz x => usesV2 x.pf x.d.toNat x.a.toNat
  | .ipopc x => usesV2 x.pf x.d.toNat x.a.toNat
  | .ibrev x => usesV2 x.pf x.d.toNat x.a.toNat
  | .ibfx x => usesV3 x.pf x.d.toNat x.a.toNat x.b.toNat false
  | .ubfx x => usesV3 x.pf x.d.toNat x.a.toNat x.b.toNat false
  | .ibfi x => usesV3 x.pf x.d.toNat x.a.toNat x.b.toNat true
  | .iaddw x => (let p := match pfSubA x.pf with | some k => ([], pairOf k) | none => (pairOf x.a.toNat, [])
     let q := match pfSubB x.pf with | some k => ([], pairOf k) | none => if (pfHimms x.pf).isEmpty then (pairOf x.b.toNat, []) else ([], [])
     ⟨p.1 ++ q.1, pairOf x.d.toNat, p.2 ++ q.2, [], 7, []⟩)
  | .imadw x => (let p := useA x.pf x.a.toNat; let q := useB x.pf x.b.toNat; ⟨p.1 ++ q.1 ++ pairOf x.d.toNat, pairOf x.d.toNat, p.2 ++ q.2, [], 7, []⟩)
  | .idot4 x => usesV3 x.pf x.d.toNat x.a.toNat x.b.toNat true
  | .isad x => usesV3 x.pf x.d.toNat x.a.toNat x.b.toNat true
  | .iaddsat x => usesV3 x.pf x.d.toNat x.a.toNat x.b.toNat false
  | .isubsat x => usesV3 x.pf x.d.toNat x.a.toNat x.b.toNat false
  | .fadd x => usesV3 x.pf x.d.toNat x.a.toNat x.b.toNat false
  | .fsub x => usesV3 x.pf x.d.toNat x.a.toNat x.b.toNat false
  | .fmul x => usesV3 x.pf x.d.toNat x.a.toNat x.b.toNat false
  | .ffma x => usesV3 x.pf x.d.toNat x.a.toNat x.b.toNat true
  | .fmin x => usesV3 x.pf x.d.toNat x.a.toNat x.b.toNat false
  | .fmax x => usesV3 x.pf x.d.toNat x.a.toNat x.b.toNat false
  | .fabs x => usesV2 x.pf x.d.toNat x.a.toNat
  | .fneg x => usesV2 x.pf x.d.toNat x.a.toNat
  | .frcp x => usesV2 x.pf x.d.toNat x.a.toNat
  | .frsq x => usesV2 x.pf x.d.toNat x.a.toNat
  | .fsqrt x => usesV2 x.pf x.d.toNat x.a.toNat
  | .fex2 x => usesV2 x.pf x.d.toNat x.a.toNat
  | .flg2 x => usesV2 x.pf x.d.toNat x.a.toNat
  | .fsin x => usesV2 x.pf x.d.toNat x.a.toNat
  | .fcos x => usesV2 x.pf x.d.toNat x.a.toNat
  | .ftanh x => usesV2 x.pf x.d.toNat x.a.toNat
  | .ffloor x => usesV2 x.pf x.d.toNat x.a.toNat
  | .fceil x => usesV2 x.pf x.d.toNat x.a.toNat
  | .ftrunc x => usesV2 x.pf x.d.toNat x.a.toNat
  | .frint x => usesV2 x.pf x.d.toNat x.a.toNat
  | .fclass x => usesV2 x.pf x.d.toNat x.a.toNat
  | .fscale x => usesV3 x.pf x.d.toNat x.a.toNat x.b.toNat false
  | .hadd2 x => usesV3 x.pf x.d.toNat x.a.toNat x.b.toNat false
  | .hmul2 x => usesV3 x.pf x.d.toNat x.a.toNat x.b.toNat false
  | .hfma2 x => usesV3 x.pf x.d.toNat x.a.toNat x.b.toNat true
  | .hmin2 x => usesV3 x.pf x.d.toNat x.a.toNat x.b.toNat false
  | .hmax2 x => usesV3 x.pf x.d.toNat x.a.toNat x.b.toNat false
  | .badd2 x => usesV3 x.pf x.d.toNat x.a.toNat x.b.toNat false
  | .bmul2 x => usesV3 x.pf x.d.toNat x.a.toNat x.b.toNat false
  | .bfma2 x => usesV3 x.pf x.d.toNat x.a.toNat x.b.toNat true
  | .bmin2 x => usesV3 x.pf x.d.toNat x.a.toNat x.b.toNat false
  | .bmax2 x => usesV3 x.pf x.d.toNat x.a.toNat x.b.toNat false
  | .cvt x => (let p := useA x.pf x.a.toNat; ⟨p.1, if x.f = 15#4 then pairOf x.d.toNat else [x.d.toNat], p.2, [], 7, []⟩)
  | .cvtefF8a x => (let p := useA x.pf x.a.toNat; ⟨p.1 ++ [x.b.toNat, x.d.toNat], [x.d.toNat, x.b.toNat], p.2, [], 7, []⟩)
  | .cvtefF8b x => (let p := useA x.pf x.a.toNat; ⟨p.1 ++ [x.b.toNat, x.d.toNat], [x.d.toNat, x.b.toNat], p.2, [], 7, []⟩)
  | .cvtefF4 x => (let p := useA x.pf x.a.toNat; ⟨p.1 ++ [x.b.toNat, x.d.toNat], [x.d.toNat, x.b.toNat], p.2, [], 7, []⟩)
  | .cvtefH16 x => (let p := useA x.pf x.a.toNat; ⟨p.1 ++ [x.b.toNat, x.d.toNat], [x.d.toNat, x.b.toNat], p.2, [], 7, []⟩)
  | .cvtefB16 x => (let p := useA x.pf x.a.toNat; ⟨p.1 ++ [x.b.toNat, x.d.toNat], [x.d.toNat, x.b.toNat], p.2, [], 7, []⟩)
  | .cvtefI8 x => (let p := useA x.pf x.a.toNat; ⟨p.1 ++ [x.b.toNat, x.d.toNat], [x.d.toNat, x.b.toNat], p.2, [], 7, []⟩)
  | .pack x => usesV3 x.pf x.d.toNat x.a.toNat x.b.toNat true
  | .icmpEq x => usesCmp x
  | .icmpNe x => usesCmp x
  | .icmpLt x => usesCmp x
  | .icmpLe x => usesCmp x
  | .icmpGt x => usesCmp x
  | .icmpGe x => usesCmp x
  | .icmpLtu x => usesCmp x
  | .icmpLeu x => usesCmp x
  | .icmpGtu x => usesCmp x
  | .icmpGeu x => usesCmp x
  | .fcmpEq x => usesCmp x
  | .fcmpNe x => usesCmp x
  | .fcmpLt x => usesCmp x
  | .fcmpLe x => usesCmp x
  | .fcmpGt x => usesCmp x
  | .fcmpGe x => usesCmp x
  | .fcmpUn x => usesCmp x
  | .fcmpOr x => usesCmp x
  | .scmpEq x => ⟨[], [], sclA x.pf x.a.toNat :: sclB x.pf x.b.toNat, [], 7, [x.p.toNat, x.q.toNat]⟩
  | .scmpNe x => ⟨[], [], sclA x.pf x.a.toNat :: sclB x.pf x.b.toNat, [], 7, [x.p.toNat, x.q.toNat]⟩
  | .scmpLt x => ⟨[], [], sclA x.pf x.a.toNat :: sclB x.pf x.b.toNat, [], 7, [x.p.toNat, x.q.toNat]⟩
  | .scmpLtu x => ⟨[], [], sclA x.pf x.a.toNat :: sclB x.pf x.b.toNat, [], 7, [x.p.toNat, x.q.toNat]⟩
  | .tex x => ⟨upFrom x.y.toNat 4, upFrom x.d.toNat 4, pairOf x.n.toNat, [], x.k.toNat, []⟩
  | .tld x => ⟨upFrom x.y.toNat 4, upFrom x.d.toNat 4, pairOf x.n.toNat, [], x.k.toNat, []⟩
  | .sadd x => usesS3 x false
  | .ssub x => usesS3 x false
  | .smul x => usesS3 x false
  | .smulh x => usesS3 x false
  | .sand x => usesS3 x false
  | .sor x => usesS3 x false
  | .sxor x => usesS3 x false
  | .sshl x => usesS3 x false
  | .sshr x => usesS3 x false
  | .ssra x => usesS3 x false
  | .smin x => usesS3 x false
  | .smax x => usesS3 x false
  | .smovw x => ⟨[], [], [x.a.toNat], [x.d.toNat], x.k.toNat, []⟩
  | .sfadd x => usesS3 x false
  | .sfmul x => usesS3 x false
  | .sffma x => usesS3 x true
  | .bra _ => Uses.none
  | .br _ => Uses.none
  | .rcv _ => Uses.none
  | .call _ => ⟨[], [126, 127], [], [], 7, []⟩
  | .ret x => ⟨pairOf x.n.toNat, [], [], [], 7, []⟩
  | .jmpi x => ⟨[], [], pairOf x.n.toNat, [], x.k.toNat, []⟩
  | .exit _ => Uses.none
  | .yield _ => Uses.none
  | .bkoff _ => Uses.none
  | .bkoffClr _ => Uses.none
  | .trap _ => Uses.none
  | .svcD x => ⟨upFrom x.n.toNat 4, upFrom x.n.toNat 4, [], [], 7, []⟩
  | .svcC x => ⟨upFrom x.n.toNat 4, [], [], [], 7, []⟩
  | .bkpt _ => Uses.none
  | .tret _ => Uses.none
  | .dcmd x => ⟨[], [], pairOf x.n.toNat, [], x.k.toNat, []⟩
  | .setview x => ⟨[], [], [x.n.toNat], [], x.k.toNat, []⟩
  | .tlinc x => ⟨[], [], [], [], x.k.toNat, []⟩
  | .ldW x => usesM [] (upFrom x.d.toNat 1) x.a.toNat x.b.toNat true
  | .ldD x => usesM [] (upFrom x.d.toNat 2) x.a.toNat x.b.toNat true
  | .ldQ x => usesM [] (upFrom x.d.toNat 4) x.a.toNat x.b.toNat true
  | .ldN x => usesM [] (upFrom x.d.toNat 1) x.a.toNat x.b.toNat true
  | .stW x => usesM (upFrom x.d.toNat 1) [] x.a.toNat x.b.toNat true
  | .stD x => usesM (upFrom x.d.toNat 2) [] x.a.toNat x.b.toNat true
  | .stQ x => usesM (upFrom x.d.toNat 4) [] x.a.toNat x.b.toNat true
  | .stN x => usesM (upFrom x.d.toNat 1) [] x.a.toNat x.b.toNat true
  | .ldl x => usesM [] [x.d.toNat] x.a.toNat x.b.toNat false
  | .stl x => usesM [x.d.toNat] [] x.a.toNat x.b.toNat false
  | .ldw x => ⟨[x.a.toNat, x.d.toNat], [], upFrom x.b.toNat 3, [], 7, []⟩
  | .ldk x => ⟨[], [x.d.toNat], [], [], 7, []⟩
  | .stk x => ⟨[x.d.toNat], [], [], [], 7, []⟩
  | .sld x => ⟨[], [], pairOf (sclA x.pf x.a.toNat) ++ sclB x.pf x.b.toNat ++ [], [x.d.toNat], x.k.toNat, []⟩
  | .sst x => ⟨[], [], pairOf (sclA x.pf x.a.toNat) ++ sclB x.pf x.b.toNat ++ [x.d.toNat], [], x.k.toNat, []⟩
  | .pref x => usesM [] [] x.a.toNat x.b.toNat true
  | .atom x => usesM [x.d.toNat] [] x.a.toNat x.b.toNat true
  | .atomr x => usesM [x.d.toNat] [x.d.toNat] x.a.toNat x.b.toNat true
  | .atoml x => usesM [x.d.toNat] [x.d.toNat] x.a.toNat x.b.toNat false
  | .cas x => usesM (pairOf x.d.toNat) [x.d.toNat] x.a.toNat x.b.toNat true
  | .casl x => usesM (pairOf x.d.toNat) [x.d.toNat] x.a.toNat x.b.toNat false
  | .satom x => ⟨[], [], pairOf (sclA x.pf x.a.toNat) ++ sclB x.pf x.b.toNat ++ [x.d.toNat], [x.d.toNat], x.k.toNat, []⟩
  | .cwb x => usesM [] [] x.a.toNat x.b.toNat true
  | .cinv x => usesM [] [] x.a.toNat x.b.toNat true
  | .cinvP x => usesM [] [] x.a.toNat x.b.toNat true
  | .fence _ => Uses.none
  | .waitp _ => Uses.none
  | .arrv x => ⟨[], [], x.n.toNat :: (if x.u = 1#1 then [x.t.toNat] else []), [], x.k.toNat, []⟩
  | .waitb x => ⟨[], [], [x.n.toNat], [], x.k.toNat, []⟩
  | .waittl x => ⟨[], [], pairOf x.n.toNat, [], x.k.toNat, []⟩
  | .waitc x => ⟨[], [], pairOf x.n.toNat ++ pairOf x.m.toNat, [], x.k.toNat, []⟩
  | .freezeG _ => Uses.none
  | .freezeT _ => Uses.none
  | .regx x => ⟨[], [], [x.n.toNat], [], x.k.toNat, []⟩
  | .mma x => ⟨[], [], usesSel x.y ++ usesSel x.z, [], x.k.toNat, []⟩
  | .mmas x => ⟨[], [], usesSel x.y ++ usesSel x.z, [], x.k.toNat, []⟩
  | .mloop x => ⟨[], [], usesSel x.y ++ usesSel x.z, [], x.k.toNat, []⟩
  | .mzero x => ⟨[], [], [], [], x.k.toNat, []⟩
  | .mldt x => ⟨[], [], usesSel x.y, [], x.k.toNat, []⟩
  | .mstt x => ⟨[], [], usesSel x.y, [], x.k.toNat, []⟩
  | .scalc x => ⟨[x.z.toNat], [], [], [], x.k.toNat, []⟩
  | .mtrn x => ⟨[], [], [], [], x.k.toNat, []⟩
  | .perc x => ⟨[], [], [x.n.toNat], [], x.k.toNat, [0]⟩
  | .pset x => ⟨[], [], upFrom x.n.toNat (x.c.toNat + 1), [], x.k.toNat, []⟩
  | .cpy x => ⟨[], [], copyBlock x 4 ++ (if x.o = 1#1 then [x.b.toNat] else []), [], x.k.toNat, []⟩
  | .cpyt x => ⟨[], [], copyBlock x 8 ++ (if x.o = 1#1 then [x.b.toNat] else []), [], x.k.toNat, []⟩
  | .cpyx x => ⟨[], [], upFrom x.n.toNat 8 ++ (if x.o = 1#1 then [x.b.toNat] else []), [], x.k.toNat, []⟩
  | .launch x => ⟨[], [], pairOf x.n.toNat, [], x.k.toNat, []⟩
  | .capb x => ⟨[], [], upFrom 368 16 ++ pairOf x.n.toNat, [], x.k.toNat, []⟩
  | .cstep _ => ⟨[], [], upFrom 368 16, [], 7, []⟩
  | .gspawn _ => Uses.none
  | .gjoin _ => Uses.none
  | .vlt _ => Uses.none
  | .vstT _ => Uses.none
  | .teamAdmission _ _ => Uses.none
  | .park _ => Uses.none
  | .parkReturn _ => Uses.none
  | .retire _ => Uses.none
  | .backoffExpiry _ _ => Uses.none
  | .fragmentStarved _ _ => Uses.none
  | .trapEntry _ => Uses.none
  | .deferredTrapTaken _ => Uses.none
  | .loadCompletion _ _ => Uses.none
  | .storePerformed _ _ => Uses.none
  | .atomicPerformed _ _ => Uses.none
  | .windowAccessPerformed _ _ => Uses.none
  | .ldwLaneLanding _ _ _ => Uses.none
  | .remoteBarrierStep _ => Uses.none
  | .regxGrow _ => Uses.none
  | .samplerCompletion _ _ => Uses.none
  | .sfuCompletion _ _ => Uses.none
  | .lineMissFill _ _ => Uses.none
  | .l1EvictionWriteback _ _ => Uses.none
  | .translationWalk _ => Uses.none
  | .matrixUnitOperation _ => Uses.none
  | .matrixOperationComplete _ => Uses.none
  | .mloopStart _ => Uses.none
  | .percStart _ => Uses.none
  | .percIteration _ => Uses.none
  | .copyAccept _ _ => Uses.none
  | .copyUnitLanding _ _ _ => Uses.none
  | .capbAttempt _ => Uses.none
  | .cstepCommit _ _ => Uses.none
  | .launchAccept _ => Uses.none
  | .launchCompletion _ => Uses.none
  | .serviceRequestTake _ => Uses.none
  | .serviceCallReply _ _ => Uses.none
  | .controlReply _ _ _ _ => Uses.none
  | .serviceRoundPriority _ _ => Uses.none
  | .doorbell _ _ => Uses.none
  | .queueFetch _ _ => Uses.none
  | .sliceEnd _ => Uses.none
  | .corePreempt _ _ => Uses.none
  | .preemptResume _ => Uses.none
  | .staggerExpiry _ => Uses.none
  | .operatingPointHoldEnd _ => Uses.none
  | .throttleWindowEnd _ => Uses.none
  | .throttleOverride _ _ => Uses.none
  | .bandwidthPublication _ _ => Uses.none
  | .commandJournal _ => Uses.none
  | .hostCommandGo _ => Uses.none
  | .create _ => Uses.none
  | .destroy _ => Uses.none
  | .grantCore _ => Uses.none
  | .grantMem _ => Uses.none
  | .grantQueues _ => Uses.none
  | .grantLink _ => Uses.none
  | .setHandler _ => Uses.none
  | .freeze _ => Uses.none
  | .thaw _ => Uses.none
  | .checkpoint _ => Uses.none
  | .restore _ => Uses.none
  | .revoke _ => Uses.none
  | .dirtyscan _ => Uses.none
  | .query _ => Uses.none
  | .bindVf _ => Uses.none
  | .bindVfUnbind _ => Uses.none
  | .bindPartition _ => Uses.none
  | .bindPartitionUnbind _ => Uses.none
  | .bindPartitionReset _ => Uses.none
  | .genbump _ => Uses.none
  | .genbumpCtx _ => Uses.none
  | .recordPost _ => Uses.none
  | .retryReply _ _ => Uses.none
  | .endReply _ _ => Uses.none
  | .passReply _ _ => Uses.none
  | .errorFence _ => Uses.none
  | .journalRecopy _ _ => Uses.none
  | .coldReset _ => Uses.none
  | .getCertificate _ => Uses.none
  | .challenge _ => Uses.none
  | .getMeasurements _ => Uses.none
  | .keyExchange _ _ _ => Uses.none
  | .ideKm _ _ => Uses.none
  | .keyUpdate _ _ _ => Uses.none
  | .lifeCycleChange _ => Uses.none
  | .ideIntegrityFailure _ => Uses.none
  | .hostMemoryRead _ _ _ => Uses.none
  | .hostMemoryWrite _ _ _ _ => Uses.none
  | .registerWrite _ _ => Uses.none
  | .tctlWrite _ => Uses.none
  | .ictlWrite _ _ => Uses.none
  | .sctlWrite _ _ _ => Uses.none
  | .ingressDropRead _ => Uses.none
  | .ingressWrite _ _ _ => Uses.none
  | .ptpMessage _ => Uses.none
  | .ptmResponse _ => Uses.none
  | .clockLockChange _ => Uses.none
  | .powerLimit _ _ => Uses.none
  | .dramOvertemp _ _ => Uses.none
  | .thermalThrottle _ _ => Uses.none
  | .dramCrcRetry _ _ => Uses.none
  | .uncorrectableError _ => Uses.none
  | .serviceCoreCacheError _ _ => Uses.none
  | .flitReceive _ _ _ => Uses.none
  | .nack _ _ => Uses.none
  | .ackTimeout _ => Uses.none
  | .peerDetected _ => Uses.none
  | .linkTrained _ => Uses.none
  | .trainingTimeout _ => Uses.none
  | .retrainTimeout _ => Uses.none
  | .remoteRequest _ => Uses.none
  | .noRoute _ => Uses.none
  | .exportWithdraw _ _ => Uses.none
  | .cxlBackInvalidate _ => Uses.none
  | .cxlPortDown _ => Uses.none
  | .correctedError _ _ => Uses.none
  | .modulePowerOff => Uses.none

/-- Class B operations that must be covered by setB (R58). -/
def instrMustCover (i : Instr) : Bool :=
  match i with
  | .frcp _ | .frsq _ | .fsqrt _ | .fex2 _ | .flg2 _ | .fsin _ | .fcos _ | .ftanh _ | .mma _ | .mmas _ | .mzero _ | .mldt _ | .mstt _ | .scalc _ | .mtrn _ | .cstep _ | .cres _ => true
  | _ => false

/-- The control instructions of R44 with CAPB and CAPE (R331, R337): each ends its clause. -/
def instrEndsClause (i : Instr) : Bool :=
  match i with
  | .bra _ | .br _ | .call _ | .ret _ | .jmpi _ | .exit _ | .tret _ | .capb _ | .cape _ => true
  | _ => false

/-- Does the instruction read its sources in every lane whatever its active set (04 R93): the lane instructions of formats V3 and P? -/
def readsAlways (i : Instr) : Bool :=
  match instrWord i with
  | some w =>
    let o := (w.extractLsb' 24 8).toNat
    (decide (0x01 ≤ o) && decide (o ≤ 0x07)) || (decide (0x0A ≤ o) && decide (o ≤ 0x0C)) || (decide (0x10 ≤ o) && decide (o ≤ 0x57))
  | none => false

/-- Is the instruction a service-core word (R383)? -/
def instrIsService (i : Instr) : Bool :=
  match i with
  | .gspawn _ | .gjoin _ | .vlt _ | .vstT _ => true
  | _ => false

end Sys2Proof.Machine
end

