-- ==== Sys2Proof/Machine/Sparse.lean ====
section
/-! DEFINITION. Sparse stores: lists of (key, value) pairs in one canonical form (keys strictly
rising, no entry equal to 0, which is what an unlisted key reads as), and tables of structured entries. -/
namespace Sys2Proof

/-- A store of `w`-bit values by key. An unlisted key reads 0. `Sparse 8` is a list of `Host.Cell`. -/
abbrev Sparse (w : Nat) := List (Nat × BitVec w)

/-- What key `k` reads as. -/
def Sparse.get {w : Nat} (m : Sparse w) (k : Nat) : BitVec w :=
  match m with
  | [] => 0
  | (a, v) :: t => if a = k then v else Sparse.get t k

/-- Writes `v` at `k`, keeping the canonical form: writing 0 removes the entry. -/
def Sparse.set {w : Nat} (m : Sparse w) (k : Nat) (v : BitVec w) : Sparse w :=
  m.filter (fun c => decide (c.1 < k)) ++ (if v = 0 then [] else [(k, v)]) ++ m.filter (fun c => decide (k < c.1))

/-- The canonical form: keys strictly rising and above `lo`, no value 0. -/
def Sparse.wfFrom {w : Nat} (lo : Nat) (m : Sparse w) : Bool :=
  match m with
  | [] => true
  | (a, v) :: t => decide (lo ≤ a) && decide (v ≠ 0) && Sparse.wfFrom (a + 1) t

/-- The canonical form of a store. -/
def Sparse.wf {w : Nat} (m : Sparse w) : Bool := Sparse.wfFrom 0 m

/-- The nonzero values of a list as entries from `k` upward. -/
def Sparse.ofList {w : Nat} (k : Nat) (vs : List (BitVec w)) : Sparse w :=
  match vs with
  | [] => []
  | v :: t => if v = 0 then Sparse.ofList (k + 1) t else (k, v) :: Sparse.ofList (k + 1) t

/-- Writes the values `vs` at `k`, `k + 1`, … in one pass. -/
def Sparse.setList {w : Nat} (m : Sparse w) (k : Nat) (vs : List (BitVec w)) : Sparse w :=
  m.filter (fun c => decide (c.1 < k)) ++ Sparse.ofList k vs
    ++ m.filter (fun c => decide (k + vs.length ≤ c.1))

/-- Makes the `n` keys from `k` upward read 0. -/
def Sparse.clear {w : Nat} (m : Sparse w) (k n : Nat) : Sparse w :=
  m.filter (fun c => decide (c.1 < k) || decide (k + n ≤ c.1))

/-- The `n` values from key `k` upward. -/
def Sparse.getList {w : Nat} (m : Sparse w) (k n : Nat) : List (BitVec w) :=
  match n with
  | 0 => []
  | n + 1 => Sparse.get m k :: Sparse.getList m (k + 1) n

/-- A table of structured entries by number, numbers strictly rising. -/
abbrev Tab (α : Type) := List (Nat × α)

/-- Entry `k`, or none. -/
def Tab.find {α : Type} (t : Tab α) (k : Nat) : Option α :=
  match t with
  | [] => none
  | (a, v) :: r => if a = k then some v else Tab.find r k

/-- Entry `k`, or `d`. -/
def Tab.findD {α : Type} (t : Tab α) (k : Nat) (d : α) : α := (Tab.find t k).getD d

/-- Puts `v` at number `k`, keeping the numbers strictly rising. -/
def Tab.put {α : Type} (t : Tab α) (k : Nat) (v : α) : Tab α :=
  match t with
  | [] => [(k, v)]
  | (a, u) :: r =>
    if a < k then (a, u) :: Tab.put r k v
    else if a = k then (k, v) :: r
    else (k, v) :: (a, u) :: r

/-- Removes entry `k`. -/
def Tab.drop {α : Type} (t : Tab α) (k : Nat) : Tab α := t.filter (fun c => decide (c.1 ≠ k))

/-- Numbers strictly rising and at least `lo`. -/
def Tab.wfFrom {α : Type} (lo : Nat) (t : Tab α) : Bool :=
  match t with
  | [] => true
  | (a, _) :: r => decide (lo ≤ a) && Tab.wfFrom (a + 1) r

/-- The lowest number from `lo` on, of `fuel` candidates, that the table does not hold. -/
def Tab.lowestFree {α : Type} (t : Tab α) (lo fuel : Nat) : Option Nat :=
  match fuel with
  | 0 => none
  | f + 1 => if (Tab.find t lo).isNone then some lo else Tab.lowestFree t (lo + 1) f

/-- Little-endian bytes of a value (R4): byte 0 is the least significant. -/
def leBytes (n v : Nat) : List (BitVec 8) :=
  match n with
  | 0 => []
  | n + 1 => BitVec.ofNat 8 v :: leBytes n (v / 256)

/-- The value of little-endian bytes (R4). -/
def leNat (bs : List (BitVec 8)) : Nat :=
  match bs with
  | [] => 0
  | b :: t => b.toNat + 256 * leNat t

end Sys2Proof
end

