-- ==== Sys2Proof/Machine/GroupState.lean ====
section
/-! DEFINITION. The state a group owns (01 R16 to R38): registers, fragments, split table, outstanding operations, trap state,
capsule state. Plain data; no update is defined here. -/
namespace Sys2Proof.Machine

/-- The four memory paths (01 R24, 07 R183). -/
inductive PathK where
  | ld | st | win | smp
  deriving DecidableEq, Repr

/-- The access kinds of a translation (17 R358). -/
inductive AccK where
  | fetch | read | write | atomic | maint
  deriving DecidableEq, Repr

/-- A position in the code (05 R125): the clause header, the next body word (0: at the header, with the wait mask still to
be tested) and the clause's setA, setB and Y. -/
structure Pos where
  hdr : Dword
  next : Nat
  setA : BitVec 4
  setB : BitVec 4
  y : Bool
  deriving DecidableEq, Repr

/-- What a fragment waits for (01 R33) or is held by. -/
inductive Wait where
  | none
  /-- A clause header whose wait mask names these flags (R42). -/
  | flags (m : BitVec 12)
  /-- WAITP (07 R184). -/
  | path (p : PathK) (n : Nat)
  /-- WAITB (07 R203): a barrier object's window address and the parity waited for. -/
  | barrier (addr : Word) (q : Bool)
  /-- WAITTL (12 R287). -/
  | timeline (i : Nat) (target : Dword)
  /-- WAITC (18 R381): block address and expected count. -/
  | counter (addr : Dword) (target : Dword)
  /-- CAPB on a lock held by a running holder (14 R332): the record address. -/
  | lock (addr : Dword)
  /-- SVC.D's reply, by the call's tl6 number (18 R390). -/
  | service (n : Dword)
  /-- SVC while the request ring is full (18 R387). -/
  | ring
  /-- LAUNCH while the pending-launch queue is full (18 R376). -/
  | pending
  /-- REGX's phase (06 R168): the object, the parity, and the group's new budget. -/
  | regx (addr : Word) (q : Bool) (new : Nat)
  /-- REGX's grow, a stall and not a wait (R168, R169): the new budget. -/
  | grow (new : Nat)
  /-- TRET's wait for the replies of parent-bound entries (05 R148). -/
  | replies
  /-- The stall of FREEZE.G until the seal (10 R254): a stall, not a wait. -/
  | freeze
  deriving DecidableEq, Repr

/-- A fragment (01 R18): position, mask, backoff level (05 R135), whether its delay still runs, what it waits for, and the
aging and throttle escapes (11 R269, R272). -/
structure Frag where
  pos : Pos
  mask : BitVec 32
  bko : Nat
  delayed : Bool
  wait : Wait
  starved : Bool
  loadFree : Bool
  /-- It has reached its header but not entered it yet: an operation it issued in deferred mode is short of its fault
  point (05 R128, R143). -/
  arriving : Bool
  deriving DecidableEq, Repr

/-- A split-table entry that is in use (01 R19). -/
inductive SplitKind where
  | spilled (f : Frag)
  | reconv (addr : Dword) (mask arrived : BitVec 32)
  deriving DecidableEq, Repr

/-- A split-table entry with its creation order (R19). -/
structure SplitEntry where
  order : BitVec 14
  kind : SplitKind
  deriving DecidableEq, Repr

/-- A lane's checked address of an operation: the system physical address of a global access, with the address in the physical space of each context of
the chain (17 R368), or a window byte. -/
inductive Loc where
  | mem (pa : Nat) (path : List Nat)
  /-- A frame of another world (22 R442): reads give zero, writes are dropped. -/
  | void
  /-- An access that the completer of last resort has answered (21 R432): reads give poison, writes are dropped. -/
  | dead
  | win (core key : Nat)
  deriving DecidableEq, Repr

/-- The view registers (06 R153). -/
structure View where
  v : BitVec 8
  t : BitVec 8
  a : BitVec 8
  deriving DecidableEq, Repr

/-- An issued operation that has not completed (01 R23, R24): a memory, sampler, special-function, capsule or matrix
instruction. Its operands are those captured at issue (05 R147). -/
structure Op where
  instr : Instr
  words : List Word
  pc : Dword
  /-- Slot of the issuing fragment. -/
  slot : Nat
  /-- 0 lane instruction, 1 PERC, 2 scalar instruction (R147). -/
  kind : Nat
  /-- The active set M at issue. -/
  m : BitVec 32
  /-- Lanes whose effect is still owed: M less the done mask of a re-injected entry (R148). -/
  todo : BitVec 32
  /-- The fault point is passed (05 R141). -/
  passed : Bool
  flag : Option Nat
  path : Option PathK
  base : Dword
  /-- Captured operand slots of R147, 32 words each. -/
  slots : List (List Word)
  /-- Destination register lines, resolved at issue (06 R154). -/
  lines : List Nat
  /-- Lines that a matrix or percolation operation reads (08 R219, 09 R243). -/
  reads : List Nat
  /-- Checked locations by lane (07 R178), second location for LDW's window side. -/
  locs : List (Nat × Loc)
  locs2 : List (Nat × Loc)
  /-- A number on a timeline that the operation completes (08 R224, 09 R231). -/
  n : Dword
  /-- A barrier object that landings add to (R189), in a window. -/
  obj : Option (Nat × Nat)
  /-- Release steps still owed before the operation is performed (07 R198). -/
  rel : Bool
  /-- Lanes already landed (LDW). -/
  landed : BitVec 32
  /-- The view registers at issue (06 R154): tile operands are resolved with them. -/
  view : View
  /-- Place in the group's issue order; a replay keeps it (12 R296). -/
  ord : Nat
  /-- Issued in a capsule body (14 R329, R334). -/
  body : Bool
  /-- Operations of the group that come before it although another fragment issued them: a fusion lies between (05 R129, 13 R317). -/
  after : List Nat
  /-- The issuing fragment's mask: operations that share a lane of it are in program order (13 R306). -/
  fm : BitVec 32
  deriving DecidableEq, Repr

/-- A replay entry (05 R147). -/
structure ReplayEntry where
  words : List Word
  pc : Dword
  done : BitVec 32
  held : BitVec 32
  kind : Nat
  cause : Nat
  flag : Option Nat
  path : Option PathK
  m : BitVec 32
  base : Dword
  cont : Pos
  contBko : Nat
  faddr : Dword
  slots : List (List Word)
  /-- Number of the operation, slot of the issuing fragment, and a percolation run's tl4 number (09 R244). -/
  seq : Nat
  slot : Nat
  n : Dword
  ord : Nat
  body : Bool
  after : List Nat
  fm : BitVec 32
  deriving DecidableEq, Repr

/-- A trap frame (05 R146): what is written at sr.tframe, or kept in the group's save record when the context has no frame
region. -/
structure Frame where
  tcause : Word
  tmask : BitVec 32
  tfault : BitVec 32
  exited : BitVec 32
  f0 : Option Frag
  f1 : Option Frag
  pc : Dword
  faddr : Dword
  split : Tab SplitEntry
  replay : List ReplayEntry
  deriving DecidableEq, Repr

/-- A raised trap that has not been taken (05 R142). -/
structure Raise where
  cause : Nat
  code : BitVec 16
  slot : Nat
  /-- M of the instruction, or the issuing fragment's mask for a cause raised at issue (R144). -/
  m : BitVec 32
  lanes : BitVec 32
  /-- Address of the word that raised it, and the fault address (R146). -/
  pc : Dword
  faddr : Dword
  win : Bool
  opcode : Nat
  /-- The operation that raised it; none when it was raised at issue. -/
  op : Option Nat
  /-- Its records are posted already. -/
  posted : Bool
  deriving DecidableEq, Repr

/-- The states of 01 R32 that a live group can be in; a RETIRED group is gone. -/
inductive Life where
  | resident | waiting | parked
  /-- PREEMPTED, and whether the group was PARKED before (R32). -/
  | preempted (wasParked : Bool)
  deriving DecidableEq, Repr

/-- The states of a capsule (14 R328). -/
inductive CapSt where
  | idle | hold | adopting | displaced | delivered | failed | doneOwn
  deriving DecidableEq, Repr

/-- The capsule state of a group (14 R328). -/
structure Capsule where
  rcd : Dword
  gen : BitVec 16
  exit : Dword
  capb : Pos
  saved : List Word
  results : List Word
  step : Nat
  count : Nat
  loads : Nat
  st : CapSt
  body : Bool
  /-- A commit is in progress (14 R336): SLD, CSTEP and CAPE stall. -/
  busy : Bool
  deriving DecidableEq, Repr

/-- A LAUNCH waiting to be accepted (18 R375, R376): the launching group with its context, launch and mode; record copy, tl5
number, issue time, covering flag; class, priority and the slot's words of its launch, which bound the child's (R377). -/
structure PendingLaunch where
  g : Nat
  ctx : Nat
  launch : Nat
  sup : Bool
  rcd : List Byte
  n : Nat
  issued : Nat
  flag : Option Nat
  cls : Nat
  prio : Nat
  pace : Nat
  th : Nat
  thEn : Bool
  deriving DecidableEq, Repr

/-- A group. -/
structure Grp where
  /-- Device context id, launch number, team number in the launch's teams. -/
  ctx : Nat
  launch : Nat
  team : Nat
  core : Nat
  slot : Nat
  fidx : Nat
  /-- Its area was moved out and its frame index given away while it was pre-empted (11 R280). -/
  moved : Bool
  age : Nat
  life : Life
  /-- Device time at which the group entered WAITING (R33), or was pre-empted (11 R280). -/
  waitAt : Nat
  /-- Place in the team (01 R14, R15). -/
  idx : Nat
  role : Nat
  roleIdx : Nat
  teamXyz : Nat × Nat × Nat
  gridXyz : Nat × Nat × Nat
  teamLanes : Nat
  gmask : BitVec 32
  sup : Bool
  params : Dword
  parkns : Word
  /-- The adopt delay of its context as the group was created (21 R423). -/
  adopt : Word
  cowcnt : Word
  parkcnt : Word
  /-- Trap mode: deferred (05 R143). -/
  defer : Bool
  /-- Oversubscribed residency (06 R165). -/
  overs : Bool
  /-- Register space (06 R152): L lines; word `32 * line + lane`. -/
  nlines : Nat
  /-- It returned from being parked with its REGX's phase complete: it resizes before any other instruction of it issues (06 R169). -/
  resizeFirst : Bool
  rs : Sparse 32
  poison : List Nat
  /-- Lines written since creation (R159), and lines still shared with a roast (10 R258) by roast number. -/
  written : List Nat
  shared : Tab Nat
  view : View
  /-- Scalars (R16): count n, values, poisoned marks (07 R211). -/
  nsc : Nat
  s : Sparse 32
  spoison : List Nat
  p : Sparse 32
  k : BitVec 7
  flags : Sparse 6
  paths : Sparse 8
  tlc : Sparse 64
  tln : Sparse 64
  coef : Sparse 32
  f0 : Option Frag
  f1 : Option Frag
  split : Tab SplitEntry
  orderNext : BitVec 14
  exited : BitVec 32
  /-- Trap registers (01 R27, 05 R144). -/
  tcause : Word
  tmask : Word
  tprev : Dword
  tfault : Word
  tframe : Dword
  tvec : Dword
  inHandler : Bool
  /-- The frame as the trap entry made it (05 R146); `frameKept`: it stands in the group's save record, because the context
  has no frame region or its writing failed. -/
  frame : Option Frame
  frameKept : Bool
  raised : List Raise
  /-- Deferred entries with held lanes (05 R143). -/
  deferred : List ReplayEntry
  /-- Records posted for the group whose replies are still out (05 R139, R148), and whether a trap taken to the parent
  waits for them. -/
  replies : Nat
  escalated : Bool
  /-- A pre-emption's replay queue (11 R278). -/
  preQueue : List ReplayEntry
  pstate : Dword
  cap : Capsule
  /-- Executed FREEZE levels (10 R252); stalled at FREEZE.G. -/
  froze : Bool × Bool
  stalled : Bool
  ops : Tab Op
  opNext : Nat
  /-- Outstanding accesses that fusions have ordered before the later accesses of lanes: operation and lanes (05 R129, 13 R317). -/
  fused : List (Nat × BitVec 32)
  /-- TLINC numbers whose accesses are not complete (12 R288): timeline, first and last number, the operations covered. -/
  tlinc : List (Nat × Nat × Nat × List Nat)
  /-- Completed numbers above the completed value of a timeline (R286). -/
  tldone : List (Nat × Nat)
  pend : List PendingLaunch
  deriving DecidableEq, Repr

end Sys2Proof.Machine
end

