-- ==== Sys2Proof/Machine/CoreState.lean ====
section
/-! DEFINITION. The state a core owns (06 R158, 07 R173 to R182, 08 R217 to R225, 09 R241, 11 R270 to R273, 12 R293) and the
composed translation entries of 17 R362. -/
namespace Sys2Proof.Machine

/-- A composed translation entry (17 R362). -/
structure TEntry where
  ctx : Nat
  /-- First virtual byte and size in bytes of the page (at most 2 MiB). -/
  va : Nat
  size : Nat
  /-- The chain from the context up to depth 1 with the context generation of each. -/
  chain : List (Nat × BitVec 8)
  /-- The page's address in the physical space of each context of the chain (R368). -/
  path : List Nat
  /-- Region generation of R363; none for a global leaf (R366). -/
  rgen : Option (BitVec 6)
  pa : Nat
  r : Bool
  w : Bool
  x : Bool
  a : Bool
  p : Bool
  /-- AND of the W bits of every map. -/
  mapW : Bool
  /-- Every D bit on the path is set. -/
  dset : Bool
  /-- World of the frame. -/
  world : Nat
  /-- Table level of the leaf. -/
  lvl : Nat
  deriving DecidableEq, Repr

/-- An L1 line (07 R180 to R182, R199; 17 R363). -/
structure L1Line where
  ctx : Nat
  /-- Virtual and system physical address of byte 0. -/
  va : Nat
  pa : Nat
  data : BitVec 1024
  dirty : BitVec 128
  /-- Poisoned 8-byte words (R211). -/
  poison : BitVec 16
  stamp : BitVec 6
  pol : Nat
  held : Bool
  lastPc : Dword
  /-- The line's address in the physical space of each context of its context's chain (17 R368). -/
  path : List Nat
  deriving DecidableEq, Repr

/-- The local window range of a team on the core (07 R173, R174), its 256 B blocks still shared with a grid roast (10 R259):
roast number and position in the set. -/
structure LocalRange where
  ctx : Nat
  launch : Nat
  team : Nat
  base : Nat
  size : Nat
  shared : List Nat
  roast : Nat
  place : Nat
  deriving DecidableEq, Repr

/-- A matrix loop (08 R224, R225). -/
structure Loop where
  g : Nat
  op : Nat
  quarter : Nat
  /-- Next step and step count. -/
  step : Nat
  count : Nat
  sp : Bool
  n : Dword
  launch : Nat
  deriving DecidableEq, Repr

/-- The operation in the matrix unit (08 R217): its group and operation, whether it is a loop step, the quarter it comes from (4: the percolation
sequencer, 09 R242), the lines it writes with their words, the window bytes it writes with their poison, and the lines it writes poison into (06 R172). -/
structure UnitOp where
  g : Nat
  op : Nat
  isLoop : Bool
  quarter : Nat
  lines : List (Nat × List Word)
  win : List (Nat × Nat × List Byte × Bool)
  poison : List Nat
  deriving DecidableEq, Repr

/-- A percolation run (09 R234, R239): what it has read, and the block products that the unit still owes its iteration or POLY step (R242). -/
structure Perc where
  g : Nat
  op : Nat
  coef : List Word
  cap : Nat
  n : Dword
  launch : Nat
  left : Nat
  deriving DecidableEq, Repr

/-- A copy of the dray (12 R289 to R300). -/
structure Copy where
  g : Nat
  ctx : Nat
  launch : Nat
  sup : Bool
  /-- Frame index and team of the issuing group. -/
  fidx : Nat
  team : Nat
  instr : Instr
  pc : Dword
  block : List Word
  flag : Option Nat
  /-- Timeline and number, or the barrier object's window address. -/
  tl : Option (Nat × Nat)
  obj : Option Word
  /-- Indices of a CPYX read so far, by element (R290). -/
  idx : List Word
  /-- Pages translated so far: number of the virtual 4 KiB page, its system physical address, whether its frame is of another world, and its address in the
  physical space of each context of the chain (17 R368). -/
  pages : List (Nat × Nat × Bool × List Nat)
  /-- 16 B chunks in copy order whose page is translated; units landed, by first chunk; chunks landed. -/
  upto : Nat
  landed : List Nat
  count : Nat
  /-- A record on a page is out (R298): its reply decides. -/
  faulted : Bool
  /-- The group's window accesses issued before this place in its order come before the first unit (R296). -/
  after : Nat
  /-- Quarter of its queue; issued in a trap handler (17 R371); stopped by a pre-emption and not yet in a place again (R300). -/
  quarter : Nat
  nested : Bool
  away : Bool
  deriving DecidableEq, Repr

/-- A team's line pool on the core, by bank, less what its groups hold (06 R167). -/
structure Pool where
  launch : Nat
  team : Nat
  free : List Nat
  /-- Groups whose grow waits, oldest first (R169). -/
  grows : List Nat
  deriving DecidableEq, Repr

/-- A local window range of a pre-empted launch, with its bytes and poison (11 R278). -/
structure SavedRange where
  r : LocalRange
  win : Sparse 8
  poison : List Nat
  deriving DecidableEq, Repr

/-- What a pre-emption saves of a core for a launch (09 R246, 11 R278, R279; 12 R300): matrix queues by group and operation, loops
(the running ones first), percolation runs (the running one first), window ranges, copies not accepted yet. -/
structure SavedCore where
  launch : Nat
  mq : List (Nat × Nat)
  loops : List Loop
  percs : List Perc
  ranges : List SavedRange
  dq : List Copy
  deriving DecidableEq, Repr

/-- The exported window that a context's pre-empted launches left on a core whose split was set anew (11 R278). -/
structure SavedExp where
  ctx : Nat
  l1Kib : Nat
  exp : Nat
  win : Sparse 8
  poison : List Nat
  deriving DecidableEq, Repr

/-- A core. -/
structure Core where
  /-- The split (07 R173): set by a launch of context `owner`; L1 KiB and exported window bytes. -/
  splitOn : Bool
  owner : Nat
  l1Kib : Nat
  exp : Nat
  ranges : List LocalRange
  /-- Window bytes: key o for the local part, 2^21 + o for the exported one; poisoned 8-byte words by key / 8. -/
  win : Sparse 8
  winPoison : List Nat
  l1 : List L1Line
  /-- Victim tags (11 R270): context and line address, newest first; hits of the window; throttle level. -/
  victims : List (Nat × Nat)
  vhits : Nat
  level : Nat
  /-- ICTL (11 R273). -/
  ten : Bool
  thi : Nat
  tlo : Nat
  tlb : List TEntry
  /-- Matrix queues of the four quarters (08 R217), quarter served last (4: the percolation sequencer), quarters whose loop
  step went last. -/
  mq : List (List (Nat × Nat))
  mlast : Nat
  loopLast : List Nat
  loops : List Loop
  lq : List Loop
  unit : Option UnitOp
  perc : Option Perc
  percq : List Perc
  /-- The dray (12 R293): queues of the quarters, quarter served last, accepted copies. -/
  dq : List (List Copy)
  dlast : Nat
  copies : Tab Copy
  copyNext : Nat
  ageNext : Nat
  pools : List Pool
  /-- Register lines held in the file, most recently used first, with a dirty mark (06 R158, R159). -/
  file : List (Nat × Nat × Bool)
  saved : List SavedCore
  savedExp : List SavedExp
  deriving DecidableEq, Repr

end Sys2Proof.Machine
end

