-- ==== Sys2Proof/Machine/DevState.lean ====
section
/-! DEFINITION. The state of launches, roasts, device contexts, dies and the package (18 to 24). -/
namespace Sys2Proof.Machine

/-! ### Records (17 R370, R371; 21 R426, R474; 24 R464) -/

/-- What a record is about: whose reply decides what (21 R427). -/
inductive Subj where
  | group (g : Nat)
  | copy (core copy : Nat)
  | launchWb (l core va : Nat)
  | other
  deriving DecidableEq, Repr

/-- The classes of a handler queue's mask (21 R423). -/
inductive RecClass where
  | mem | trap | queue | child | link | world
  deriving DecidableEq, Repr

/-- A fault record by its fields (17 R370). -/
structure Rcd where
  tag : Word
  idx : Nat
  cnt : Nat
  flags : BitVec 16
  cause : Nat
  stage : Nat
  level : Nat
  kind : Nat
  acc : Nat
  ctx : Nat
  missCtx : Nat
  addr : Dword
  missPa : Dword
  pc : Dword
  lanes : Word
  core : Nat
  fidx : Nat
  opcode : Nat
  w30 : Dword
  w38 : Word
  w3c : Word
  cls : RecClass
  subj : Subj
  /-- The context whose handler queue is tried first (R425). -/
  dest : Nat
  /-- Device time at which it was raised (18 R394). -/
  since : Nat
  deriving DecidableEq, Repr

/-- A request entry of a service call (18 R388), with what the reply needs: group, fragment slot, destination lines. -/
structure CallEntry where
  seq : Nat
  imm : BitVec 24
  ctx : Nat
  launch : Nat
  g : Nat
  core : Nat
  fidx : Nat
  slot : Nat
  m : BitVec 32
  masks : Dword
  nsplit : Nat
  pc : Dword
  n : Nat
  issued : Nat
  slots : List (List Word)
  lines : List Nat
  /-- The caller's mode, under which a reply block is written (R392), and whether the caller has been ended since (R393). -/
  sup : Bool
  lost : Bool
  deriving DecidableEq, Repr

/-! ### Contexts (21 R413 to R436) -/

/-- Why firmware resets a context that it was not told to (21 R433, R435): the CHILD record's reason, cause, stage, level and access, the context whose map
missed where it is not the context itself, and the address that faulted (R426). -/
structure FenceWhy where
  reason : Nat
  cause : Nat
  stage : Nat
  level : Nat
  missCtx : Option Nat
  acc : Nat
  addr : Nat
  deriving DecidableEq, Repr

/-- The states of 21 R414. -/
inductive CtxSt where
  | free | frozen | active | fenced
  deriving DecidableEq, Repr

/-- A device context. -/
structure Ctx where
  st : CtxSt
  parent : Nat
  depth : Nat
  gen : BitVec 8
  world : Nat
  /-- Stage-1 root, stage map (system physical base, entries), dirty bitmap in the parent.s memory, device pool (17, 21 R420). -/
  root : Nat
  mapBase : Nat
  mapCount : Nat
  dirtyMap : Option Nat
  pool : Nat
  poolCount : Nat
  /-- Grants of R421, R422. -/
  clMask : BitVec 64
  share : Nat
  qtab : Nat
  qcount : Nat
  doorbell : Nat
  restart : Bool
  qpriv : Bool
  ports : BitVec 16
  portShares : List Nat
  packages : BitVec 64
  save : Nat
  part : Option Nat
  /-- Handler queue (R423): mask empty when there is none. -/
  ring : Nat
  lgsz : Nat
  mask : BitVec 7
  replies : Nat
  notify : Nat
  replyBell : Nat
  callRing : Nat
  /-- Parameters (R423). -/
  frames : Nat
  stackBase : Nat
  tvec : Dword
  parkns : Word
  adopt : Word
  tag : Word
  fenceCount : Nat
  /-- Why it is to be error-fenced, or is the root of an error fence under way (21 R433). -/
  errFence : Option FenceWhy
  /-- Records in the ring without a reply, by slot; records that wait for a slot; calls in the call ring. -/
  posted : Tab Rcd
  backlog : List Rcd
  calls : Tab CallEntry
  /-- Number of the recovery image (R430, R431). -/
  recov : Option Nat
  /-- Length of the log of replaced values when the last completed command that bumped the generation issued (17 R367). -/
  mark : Nat
  deriving DecidableEq, Repr

/-! ### Launches and roasts (10, 18) -/

/-- A launch record's fields (18 R373), with the class and priority that hold after acceptance. -/
structure LRec where
  dline : Nat
  stag : Nat
  ophint : Nat
  prio : Nat
  cls : Nat
  npre : Nat
  wkib : Nat
  e64 : Nat
  l1 : Bool
  coop : Bool
  tm : Nat
  priv : Bool
  viewA : Nat
  viewT : Nat
  viewV : Nat
  overs : Bool
  nsc : Nat
  lc : Nat
  lp : Nat
  nC : Nat
  nP : Nat
  span : Nat
  lanes : Nat
  wmark : Nat
  tT : Bool
  tG : Bool
  inc : Nat
  gz : Nat
  gy : Nat
  gx : Nat
  cblk : Dword
  params : Dword
  entry : Dword
  /-- Every reserved field is zero. -/
  resOk : Bool
  deriving DecidableEq, Repr

/-- One group's part of a roast (10 R255). -/
structure RoastPart where
  rs : Sparse 32
  written : List Nat
  poison : List Nat
  nlines : Nat
  s : Sparse 32
  spoison : List Nat
  p : Sparse 32
  k : BitVec 7
  coef : Sparse 32
  view : View
  pstate : Dword
  pos : Pos
  tln : Sparse 64
  froze : Bool × Bool
  /-- What else a poured group has as its source (R256): sr.parkns and the adopt delay, the vector base, and the trap state that a TRET left. -/
  parkns : Word
  adopt : Word
  tvec : Dword
  tcause : Word
  tmask : Word
  tprev : Dword
  tfault : Word
  deriving DecidableEq, Repr

/-- A roast (10 R255, R261): parts by group index, template window bytes by position in the set with their poisoned 8-byte words. -/
structure Roast where
  launch : Nat
  sealed : Bool
  parts : Tab RoastPart
  win : Tab (List Byte)
  winPoison : Tab (List Nat)
  /-- Grid roast this team roast was made from. -/
  base : Option Nat
  deriving DecidableEq, Repr

/-- A team (10 R250, 18 R380): cores of its set, groups not created yet (to be poured), groups alive. -/
structure Team where
  num : Nat
  cores : List Nat
  /-- Placements of all its groups: core, slot, frame index, by group index. -/
  places : List (Nat × Nat × Nat)
  toPour : List Nat
  /-- Groups that live, by index. -/
  groups : Tab Nat
  roast : Option Nat
  deriving DecidableEq, Repr

/-- How a launch stands. -/
inductive LaunchSt where
  | running | preempted | aborting
  deriving DecidableEq, Repr

/-- An accepted launch (18 R377). -/
structure Launch where
  ctx : Nat
  /-- Launcher: group and tl5 number. -/
  launcher : Option (Nat × Nat)
  id : Nat
  die : Nat
  r : LRec
  deadline : Option Nat
  preload : List (Word × Bool)
  /-- Next team in linear order; retired teams. -/
  next : Nat
  done : Nat
  teams : Tab Team
  st : LaunchSt
  aborted : Bool
  /-- Refused (R374): it only completes. -/
  refused : Bool
  /-- Device time of its first team's admission (19 R406). -/
  began : Option Nat
  /-- Records that hold its completion (18 R380). -/
  holds : Nat
  /-- Cut short by a reset: what becomes of it is settled at RESTORE or THAW (21 R431). -/
  cut : Bool
  skips : Nat
  /-- Virtual queue and index it came from; slot's PACE and SVCTH at acceptance (19 R401). -/
  queue : Option (Nat × Nat)
  pace : Nat
  th : Nat
  thEn : Bool
  /-- Pre-empted by R391 until these calls have their replies. -/
  calls : List Nat
  roast : Option Nat
  /-- Bytes of its roast storage that are free again (10 R261). -/
  roastFree : Nat
  /-- Join counter of a GSPAWN team (18 R384): system physical address. -/
  join : Option Nat
  /-- First team not held (19 R275 to R277); slice start (R405); codeLog mark (02 R41); service mark. -/
  first : Bool
  held : Bool
  sliceAt : Option Nat
  codeMark : Nat
  deriving DecidableEq, Repr

/-! ### Dies (18 to 21) -/

/-- The states of a hardware queue slot (19 R400). -/
inductive SlotSt where
  | free | bound | draining
  deriving DecidableEq, Repr

/-- A hardware queue slot (19 R399, R400). -/
structure QSlot where
  st : SlotSt
  ctx : Nat
  q : Nat
  desc : Nat
  flim : Nat
  pace : Nat
  thEn : Bool
  th : Nat
  fetched : Nat
  completed : Nat
  inFlight : Nat
  rung : Nat
  /-- The write index as the slot read it last (R399). -/
  write : Nat
  /-- The write indexes that it has read since an entry was pending, oldest first, each with the length of the log then (R396). -/
  seen : List (Nat × Nat)
  deriving DecidableEq, Repr

/-- A service core's hart (18 R382 to R386). -/
structure Hart where
  x : Sparse 64
  pc : Dword
  /-- 3 machine, 1 supervisor, 0 user. -/
  mode : Nat
  v : Sparse 1024
  vstart : Nat
  mstatus : Dword
  mepc : Dword
  mcause : Dword
  mtval : Dword
  mtvec : Dword
  /-- The f registers, the other control and status registers by number, and the reservation of a load-reserved: its address, the length of the log of replaced
  values, and the 8-byte word that it read (log 74). -/
  f : Sparse 64
  csr : Sparse 64
  res : Option (Dword × Nat × Nat)
  deriving DecidableEq, Repr

/-- A die. -/
structure Die where
  /-- Device clock and the offset still to be slewed (22 R448, R449), in ns. -/
  clock : Nat
  slew : Int
  point : Nat
  refresh : List Nat
  seq : Nat
  calls : List CallEntry
  /-- Fair queuing of the service complex (18 R394; log 72): the start tag of the item served last, and the finish tag of each context's last one. -/
  svcTime : Nat
  svcTags : Tab Nat
  /-- Calls that a service core has taken to serve itself (18 R387, R389). -/
  serving : List CallEntry
  /-- Pending entries of groups that have retired (01 R37, 18 R376). -/
  orphans : List PendingLaunch
  /-- Launch processor: group served last for round robin. -/
  rr : Nat
  slots : List QSlot
  slices : Nat × Nat
  passes : List (Nat × Nat × Nat)
  /-- Contexts with an eligible launch, by class (19 R403). -/
  elig : List (Nat × Nat)
  throttle : List (Nat × Nat × Nat)
  shares : Tab Nat
  reserved : List (Nat × Nat)
  /-- Stagger: launch and time of its last start (11 R275). -/
  starts : List (Nat × Nat)
  /-- Fence log (21 R432): requester, address, kind, time. Error log (22 R453): place and time. -/
  fence : List (Nat × Nat × Nat × Nat)
  errors : List (ErrAt × Nat)
  corrected : Tab Nat
  flat : List TEntry
  regionGen : Sparse 6
  harts : List Hart
  bells : List (Nat × Nat)
  /-- Device time at which the die's service complex is back from its reset (22 R454). -/
  svcBack : Nat
  /-- Highest operating points that firmware lets launches have: BULK, INTERACTIVE, DEADLINE (22 R452). -/
  limits : Nat × Nat × Nat
  deriving DecidableEq, Repr

/-! ### Package (22, 24) -/

/-- A device command handed to firmware (21 R415 to R417): its block, issuer, and where its status goes. -/
structure Cmd where
  block : List Byte
  issuer : Nat
  /-- Issuing group, its tl7 number, the block's address and flag; or the function whose command page it came from. -/
  src : Option (Nat × Nat × Dword × Option Nat)
  vf : Option Nat
  /-- Its place in the order of acceptance, once journaled, and the dies that hold the journal's copies (21 R417, R429). -/
  accepted : Option Nat
  dies : List Nat
  die : Nat
  /-- Device time at which it was handed over (18 R394). -/
  since : Nat
  /-- It has begun and waits: for the engines that it stops (R428, R432), or for the accesses that used what it made stale (17 R364):
  group and operation, core and copy. -/
  begun : Bool
  waits : List (Nat × Nat)
  copyWaits : List (Nat × Nat)
  /-- Length of the log of replaced values when it issued (17 R364, R367). -/
  mark : Nat
  deriving DecidableEq, Repr

/-- A completed GENBUMP: context, first virtual 2 MiB region and count, and the length of the log of replaced values when it issued (17 R364, R367). -/
structure Bump where
  ctx : Nat
  first : Nat
  count : Nat
  mark : Nat
  deriving DecidableEq, Repr

/-- The states of a fabric port (24 R462). -/
inductive PortSt where
  | down | training | keying | up | retrain | isolated
  deriving DecidableEq, Repr

/-- A fabric port (24 R458 to R463). -/
structure Port where
  st : PortSt
  /-- The peer that the topology table names (R458). -/
  peer : Option Nat
  /-- Next sequence number expected and next to send; GCM counters and keys of the two directions (R460, R461). -/
  rxSeq : Nat
  txSeq : Nat
  rxCtr : Nat
  txCtr : Nat
  rxKey : List Byte
  txKey : List Byte
  /-- Keys that apply from a sequence number on (R461). -/
  rxNext : Option (Nat × List Byte)
  txNext : Option (Nat × List Byte)
  /-- Flits sent and not acknowledged, oldest first: sequence number and how often it was resent. -/
  sent : List (Nat × Nat)
  /-- Key exchanges that failed in a row (R462). -/
  fails : Nat
  /-- The NACK sent last: the number that it names. -/
  nacked : Option Nat
  deriving DecidableEq, Repr

/-- An L2 copy of a pooled or remote line (17 R350, R363; 24 R467). -/
structure L2Line where
  pa : Nat
  data : BitVec 1024
  dirty : BitVec 128
  stamp : BitVec 6
  deriving DecidableEq, Repr

/-- An ingress window (22 R450, R451). -/
structure Ingress where
  en : Bool
  base : Nat
  port : Nat
  lgsz : Nat
  lwin : Nat
  ctx : Nat
  ring : Nat
  drops : Nat
  trailDrops : Nat
  seq : Nat
  deriving DecidableEq, Repr

/-- The life-cycle states (22 R444). -/
inductive LifeCycle where
  | manufacture | deployed | returned
  deriving DecidableEq, Repr

/-- Boot status (22 R437, R445). -/
inductive Boot where
  | off | failed | ready
  deriving DecidableEq, Repr

/-- A hardware partition (17 R350, R353, 21 R434): its interleave set's DRAM range and channels in ascending order, its clusters, and its bound context. -/
structure Partition where
  base : Nat
  size : Nat
  channels : List Nat
  clMask : BitVec 64
  ctx : Option Nat
  deriving DecidableEq, Repr

/-- A checkpoint image (21 R430): what the bytes of image number n stand for. -/
structure Image where
  size : Nat
  target : Nat
  clMask : BitVec 64
  ctxs : Tab Ctx
  launches : Tab Launch
  groups : Tab Grp
  roasts : Tab Roast
  /-- By core: what pre-emption saved, exported windows, copies, line pools. -/
  saved : Tab (List SavedCore)
  savedExp : Tab (List SavedExp)
  copies : Tab (Tab Copy)
  pools : Tab (List Pool)
  /-- Calls by die: in the ring, and taken by the die's service cores. -/
  calls : Tab (List CallEntry × List CallEntry)
  orphans : Tab (List PendingLaunch)
  deriving DecidableEq, Repr

/-- A function's command page (21 R416). -/
structure CmdPage where
  block : List Byte
  /-- Pending bits of its vectors, and the words of its MSI-X table (22 R447). -/
  msix : BitVec 64
  vectors : Sparse 32
  deriving DecidableEq, Repr

/-- The package's trust and host state (22). -/
structure Pkg where
  id : Nat
  boot : Boot
  lifeCycle : LifeCycle
  /-- TCTL (22 R448). -/
  lock : Bool
  src : Nat
  ofs : Nat
  vfs : Tab Nat
  pages : Tab CmdPage
  partitions : Tab Partition
  /-- The base of the shared set's DRAM range (17 R350, R353). -/
  sharedBase : Nat
  ingress : List Ingress
  ports : List Port
  /-- Firmware's routing table: the ports that lead to a package through peers (24 R466). -/
  routes : Tab (List Nat)
  cxlUp : List Bool
  ide : Tab (List Byte)
  ideInsecure : List Nat
  sessions : Tab (List Byte)
  secretLocked : Bool
  /-- What SPDM answered last. -/
  spdm : List Byte
  /-- What a host read returned last, and its poison (22 R453). -/
  hostRead : List Byte
  hostPoison : Bool
  /-- What a request of another package was answered with last (24 R465), and its poison. -/
  answer : List Byte
  answerPoison : Bool
  /-- Ingress drop count read last. -/
  dropRead : Nat
  /-- Exported ranges that were withdrawn (24 R469). -/
  withdrawn : List (Nat × Nat)
  /-- Checkpoint images by number (21 R430). -/
  images : Tab Image
  nextImage : Nat
  /-- Records that firmware logged (21 R425). -/
  logged : List Rcd
  deriving DecidableEq, Repr

end Sys2Proof.Machine
end

