-- ==== Sys2Proof/Machine/Init.lean ====
section
/-! DEFINITION. What each part of the machine holds before anything is put into it: the value of an entry that a table of
`State` does not list, and the values of a structure at its creation (01 R16, 06 R153, 08 to 12, 17 to 24). -/
namespace Sys2Proof.Machine

/-- A position at clause header `h`. -/
def posAt (h : Dword) : Pos := ⟨h, 0, 15#4, 15#4, false⟩

/-- A fragment at clause header `h` with mask `m` (01 R18). -/
def fragAt (h : Dword) (m : BitVec 32) : Frag := ⟨posAt h, m, 0, false, .none, false, false, false⟩

/-- The capsule state at a group's creation: IDLE (14 R328). -/
def capInit : Capsule := ⟨0, 0, 0, posAt 0, [], [], 0, 0, 0, .idle, false, false⟩

/-- A group with everything zero (01 R16); creation fills in what the launch gives. -/
def grpInit : Grp := {
  ctx := 0, launch := 0, team := 0, core := 0, slot := 0, fidx := 0, moved := false, age := 0, life := .resident, waitAt := 0
  idx := 0, role := 0, roleIdx := 0, teamXyz := (0, 0, 0), gridXyz := (1, 1, 1), teamLanes := 0, gmask := 0
  sup := false, params := 0, parkns := 20000#32, adopt := 2000#32, cowcnt := 0, parkcnt := 0, defer := false, overs := false
  nlines := 0, resizeFirst := false, rs := [], poison := [], written := [], shared := [], view := ⟨0, 0, 0⟩
  nsc := 16, s := [], spoison := [], p := [], k := 0, flags := [], paths := [], tlc := [], tln := [], coef := []
  f0 := none, f1 := none, split := [], orderNext := 0, exited := 0
  tcause := 0, tmask := 0, tprev := 0, tfault := 0, tframe := 0, tvec := 0, inHandler := false
  frame := none, frameKept := false, raised := [], deferred := [], replies := 0, escalated := false, preQueue := []
  pstate := 0, cap := capInit, froze := (false, false), stalled := false, ops := [], opNext := 0, fused := [], tlinc := []
  tldone := [], pend := [] }

/-- A core after a cold reset (06 R158, 07 R173, 08 R217, 11 R270 to R273, 12 R293): windows zero, nothing else held. -/
def coreInit : Core := {
  splitOn := false, owner := 0, l1Kib := 0, exp := 0, ranges := [], win := [], winPoison := [], l1 := []
  victims := [], vhits := 0, level := 32, ten := true, thi := 256, tlo := 64, tlb := []
  mq := [[], [], [], []], mlast := 4, loopLast := [0, 0, 0, 0], loops := [], lq := [], unit := none, perc := none
  percq := [], dq := [[], [], [], []], dlast := 3, copies := [], copyNext := 0, ageNext := 0, pools := [], file := [], saved := [], savedExp := [] }

/-- A context that does not exist (21 R414, R420, R423). -/
def ctxInit : Ctx := {
  st := .free, parent := 0, depth := 0, gen := 0, world := 0, root := 0, mapBase := 0, mapCount := 0, dirtyMap := none
  pool := 0, poolCount := 0, clMask := 0, share := 0, qtab := 0, qcount := 0, doorbell := 0, restart := false
  qpriv := false, ports := 0, portShares := [], packages := 0, save := 0, part := none, ring := 0, lgsz := 0
  mask := 0, replies := 0, notify := 0, replyBell := 0, callRing := 0, frames := 0, stackBase := 0, tvec := 0
  parkns := 20000#32, adopt := 2000#32, tag := 0, fenceCount := 0, errFence := none, posted := [], backlog := [], calls := []
  recov := none, mark := 0 }

/-- The root context: ACTIVE, depth 0, every cluster, share 2^32 (21 R413, R422; 22 R441). -/
def ctxRoot : Ctx := { ctxInit with st := .active, world := 1, clMask := 0xFFFFFFFFFFFF#64, share := 2 ^ 32 }

/-- A hardware queue slot after reset (19 R400). -/
def slotInit : QSlot := ⟨.free, 0, 0, 0, 15, 0, true, 128, 0, 0, 0, 0, 0, []⟩

/-- A service core's hart after reset (logs 9, 74): vtype is not set. -/
def hartInit : Hart := ⟨[], 0, 3, [], 0, 0, 0, 0, 0, 0, [], [(0xC21, 0x8000000000000000#64)], none⟩

/-- A die after a cold reset (11 R275, 18 R387, 19 R399 to R405, 22 R445 to R452). -/
def dieInit : Die := {
  clock := 0, slew := 0, point := 15, refresh := [], seq := 0, calls := [], svcTime := 0, svcTags := [], serving := [], orphans := [], rr := 0
  slots := List.replicate 24 slotInit, slices := (500, 2000), passes := [], elig := [], throttle := [], shares := [], reserved := []
  starts := [], fence := [], errors := [], corrected := [], flat := [], regionGen := []
  harts := List.replicate 16 hartInit, bells := [], svcBack := 0, limits := (15, 15, 15) }

/-- A fabric port after reset (24 R460 to R462). -/
def portInit : Port := ⟨.down, none, 0, 0, 0, 0, [], [], none, none, [], 0, none⟩

/-- An ingress window after reset (22 R450). -/
def ingressInit : Ingress := ⟨false, 0, 0, 0, 0, 0, 0, 0, 0, 0⟩

/-- The package after a cold reset (22 R437, R444, R448; 24 R462). -/
def pkgInit : Pkg := {
  id := 0, boot := .ready, lifeCycle := .deployed, lock := false, src := 0, ofs := 0, vfs := [], pages := []
  partitions := [], sharedBase := 0, ingress := List.replicate 16 ingressInit, ports := List.replicate 16 portInit, routes := []
  cxlUp := [true, true, true, true], ide := [], ideInsecure := [], sessions := [], secretLocked := true, spdm := []
  hostRead := [], hostPoison := false, answer := [], answerPoison := false, dropRead := 0, withdrawn := [], images := [], nextImage := 0, logged := [] }

/-- A record with every field zero (17 R370). -/
def rcdInit : Rcd := {
  tag := 0, idx := 0, cnt := 1, flags := 0, cause := 0, stage := 0, level := 0, kind := 0, acc := 0, ctx := 0
  missCtx := 0, addr := 0, missPa := 0, pc := 0, lanes := 0, core := 0, fidx := 0, opcode := 0, w30 := 0, w38 := 0
  w3c := 0, cls := .mem, subj := .other, dest := 0, since := 0 }

/-- A launch record with every field zero (18 R373). -/
def lrecInit : LRec := {
  dline := 0, stag := 0, ophint := 0, prio := 0, cls := 0, npre := 0, wkib := 0, e64 := 0, l1 := false, coop := false
  tm := 0, priv := false, viewA := 0, viewT := 0, viewV := 0, overs := false, nsc := 0, lc := 0, lp := 0, nC := 0, nP := 0
  span := 0, lanes := 0, wmark := 0, tT := false, tG := false, inc := 0, gz := 0, gy := 0, gx := 0, cblk := 0
  params := 0, entry := 0, resOk := true }

/-- A launch before its record is read (18 R377). -/
def launchInit : Launch := {
  ctx := 0, launcher := none, id := 0, die := 0, r := lrecInit, deadline := none, preload := [], next := 0, done := 0
  teams := [], st := .running, aborted := false, refused := false, began := none, holds := 0, cut := false, skips := 0, queue := none, pace := 0, th := 128
  thEn := true, calls := [], roast := none, roastFree := 0, join := none, first := true, held := false
  sliceAt := none, codeMark := 0 }

end Sys2Proof.Machine
end

