-- ==== Sys2Proof/Machine/State.lean ====
section
/-! DEFINITION. The machine's state as plain data, its faults and refusals, and the state right after reset. -/
namespace Sys2Proof.Machine

/-- Which agent moves next (log 1). An entry that is not due changes nothing. -/
inductive Turn where
  /-- One of the device's own steps. -/
  | event (i : Instr)
  /-- The fragment in a slot of a group issues its next word. -/
  | issue (g slot : Nat)
  /-- Both fragments of a group issue in one clock, F0 first (04 R95, 05 R151). -/
  | both (g : Nat)
  /-- One clock of a quarter (11 R266): it issues what it picks, where `busy` names the fragments, by group and slot, whose unit is not free. -/
  | clock (core quarter : Nat) (busy : List (Nat × Nat))
  /-- A service core's hart runs one instruction. -/
  | hart (die n : Nat)
  /-- Time passes, in ns. -/
  | tick (ns : Nat)
  deriving DecidableEq, Repr

/-- What is being issued (log 3): the group and fragment slot, or the hart; the address of the instruction word, the words
with prefixes in fetch order, the address of the first of them, and whether it is its clause's last word. -/
structure Issue where
  g : Nat
  slot : Nat
  pc : Dword
  words : List Word
  start : Dword
  last : Bool
  /-- Position after the instruction. -/
  after : Pos
  /-- The other fragment raises a cause in the same clock (05 R151). -/
  both : Bool
  die : Nat
  hart : Nat
  deriving DecidableEq, Repr

/-- Why the machine stops. Each is the model's own: the hardware has no such state. -/
inductive Fault where
  /-- An instruction word was executed with no group, no fragment or no hart issuing it: `exec` was applied outside an
  issue. Raised by every word's meaning. Safe: no step of the hardware is like that. -/
  | noIssuer
  /-- A turn names a hart whose next word computes on f or v registers: the spec names RV64GCV and describes none of its words (18 R382), and the model takes over
  only the others (log 74). Raised by the step of a hart. Safe. -/
  | baseWord
  deriving DecidableEq, Repr

/-- Why a meaning refuses. -/
inductive Refusal where
  /-- The instruction has no meaning in this model. Safe. -/
  | notModelled (mnemonic : String)
  deriving DecidableEq, Repr

/-- The whole machine. -/
structure State where
  agenda : List Turn
  iss : Issue
  freeCtr : Nat
  /-- System physical memory (17 R349): bytes by 52-bit address, an unlisted byte reads 0 (22 R445; log 7), and its poisoned
  8-byte words by address / 8 (22 R453). -/
  mem : Sparse 8
  memPoison : List Nat
  /-- Replaced 8-byte words, newest first: address and old value (02 R41, 17 R367). -/
  codeLog : List (Nat × Dword)
  bumps : List Bump
  /-- Worlds of 64 KiB frames, by frame number (22 R440). -/
  worlds : Sparse 16
  l2 : List L2Line
  /-- Lines of this package's DRAM of which another package holds an L2 copy (24 R467): address and package. -/
  dir : List (Nat × Nat)
  poolGen : Sparse 6
  cores : Tab Core
  groups : Tab Grp
  nextGroup : Nat
  launches : Tab Launch
  nextLaunch : Nat
  launchId : Nat
  roasts : Tab Roast
  nextRoast : Nat
  ctxs : Tab Ctx
  dies : List Die
  /-- Records raised and not posted yet (21 R425). -/
  records : List Rcd
  /-- Device commands (21 R415, R429). -/
  cmds : Tab Cmd
  nextCmd : Nat
  /-- Journaled submissions: context, queue, index, launch, dies that hold the copies (21 R431). -/
  journal : List (Nat × Nat × Nat × Nat × List Nat)
  /-- Barrier steps on their way to another core (12 R284). -/
  barriers : List (Nat × Nat)
  pkg : Pkg
  deriving DecidableEq, Repr

/-- No instruction is being issued. -/
def issNone : Issue := ⟨0, 0, 0, [], 0, false, posAt 0, false, 0, 0⟩

/-- The machine right after the cold reset of 22 R437 and R445: no launch, no group, context 0 alone. -/
def State.reset : State := {
  agenda := [], iss := issNone, freeCtr := 0, mem := [], memPoison := [], codeLog := [], bumps := [], worlds := [], l2 := [], dir := []
  poolGen := [], cores := [], groups := [], nextGroup := 0, launches := [], nextLaunch := 0, launchId := 0
  roasts := [], nextRoast := 0, ctxs := [(0, ctxRoot)], dies := List.replicate 4 dieInit, records := [], cmds := []
  nextCmd := 0, journal := [], barriers := [], pkg := pkgInit }

end Sys2Proof.Machine
end

