-- ==== Sys2Proof/Machine/Access.lean ====
section
/-! DEFINITION. Reading and writing the parts of State: entries of its tables, a group's registers (01 R16 to R26, 06 R152 to R172),
and system physical memory at its home (17 R349 to R351, 22 R453, 02 R41). -/
namespace Sys2Proof.Machine

/-- Virtual address bits of an access, as L1 tags them. -/
def va48 (a : Dword) : Nat := (a.setWidth 48).toNat

/-! ### Which instructions are accesses -/

/-- The path an instruction counts on (07 R183). -/
def pathOf (i : Instr) : Option PathK :=
  match i with
  | .ldW _ | .ldD _ | .ldQ _ | .ldN _ | .sld _ | .ldk _ | .ldw _ | .pref _ => some .ld
  | .stW _ | .stD _ | .stQ _ | .stN _ | .sst _ | .stk _ | .atom _ | .atomr _ | .cas _ | .satom _ | .cwb _ | .cinv _ | .cinvP _ => some .st
  | .ldl _ | .stl _ | .atoml _ | .casl _ | .arrv _ => some .win
  | .tex _ | .tld _ => some .smp
  | _ => none

/-- Is it an access in the sense of 07 R197? -/
def isAccess (i : Instr) : Bool :=
  (pathOf i).isSome ||
  match i with
  | .cpy _ | .cpyt _ | .cpyx _ => true
  | .mma x => selWin x.y || selWin x.z
  | .mmas _ | .mloop _ | .mldt _ | .mstt _ => true
  | _ => false

/-! ### Entries of the tables -/

/-- Group `n`, as created when it is not listed. -/
def State.grp (s : State) (n : Nat) : Grp := Tab.findD s.groups n grpInit

def State.setGrp (s : State) (n : Nat) (g : Grp) : State := { s with groups := Tab.put s.groups n g }

/-- Changes group `n` if it lives. -/
def State.modGrp (s : State) (n : Nat) (f : Grp → Grp) : State :=
  match Tab.find s.groups n with
  | some g => s.setGrp n (f g)
  | none => s

def State.coreAt (s : State) (c : Nat) : Core := Tab.findD s.cores c coreInit

def State.setCore (s : State) (c : Nat) (k : Core) : State := { s with cores := Tab.put s.cores c k }

def State.modCore (s : State) (c : Nat) (f : Core → Core) : State := s.setCore c (f (s.coreAt c))

def State.ctxAt (s : State) (x : Nat) : Ctx := Tab.findD s.ctxs x ctxInit

def State.setCtx (s : State) (x : Nat) (c : Ctx) : State := { s with ctxs := Tab.put s.ctxs x c }

def State.modCtx (s : State) (x : Nat) (f : Ctx → Ctx) : State := s.setCtx x (f (s.ctxAt x))

def State.dieAt (s : State) (d : Nat) : Die := s.dies.getD d dieInit

def State.modDie (s : State) (d : Nat) (f : Die → Die) : State := { s with dies := s.dies.set d (f (s.dieAt d)) }

/-- The die of a core (01 R27: sr.core). -/
def coreDie (c : Nat) : Nat := c / 96

/-- The cluster of a core: its number in the package (01 R27). -/
def coreCluster (c : Nat) : Nat := c / 8

def State.modLaunch (s : State) (l : Nat) (f : Launch → Launch) : State :=
  match Tab.find s.launches l with
  | some x => { s with launches := Tab.put s.launches l (f x) }
  | none => s

/-- One more free value is used (log 4). -/
def State.useFree (s : State) (n : Nat) : State := { s with freeCtr := s.freeCtr + n }

/-- The device time seen by a core (22 R448). -/
def State.clockOf (s : State) (c : Nat) : Nat := (s.dieAt (coreDie c)).clock

/-! ### Predicates, flags, counters and timelines (R22 to R25) -/

/-- Lane predicate by its 3-bit number; p7 reads 1. -/
def Grp.pred (g : Grp) (i : Nat) : BitVec 32 := if i = 7 then BitVec.allOnes 32 else Sparse.get g.p i

/-- Writes a lane predicate; a write to p7 is discarded (R22). -/
def Grp.setPred (g : Grp) (i : Nat) (v : BitVec 32) : Grp := if i = 7 then g else { g with p := Sparse.set g.p i v }

/-- Uniform predicate; k7 reads 1. -/
def Grp.upred (g : Grp) (i : Nat) : Bool := if i = 7 then true else g.k.getLsbD i

/-- `x` with bit `i` equal to `b`. -/
def setBit {w : Nat} (x : BitVec w) (i : Nat) (b : Bool) : BitVec w :=
  if b then x ||| BitVec.twoPow w i else x &&& ~~~(BitVec.twoPow w i)

/-- Writes a uniform predicate; a write to k7 is discarded (R22). -/
def Grp.setUpred (g : Grp) (i : Nat) (b : Bool) : Grp := if i = 7 then g else { g with k := setBit g.k i b }

def Grp.flagVal (g : Grp) (i : Nat) : Nat := (Sparse.get g.flags i).toNat

/-- Raises or lowers a completion flag. -/
def Grp.flagUp (g : Grp) (f : Option Nat) : Grp :=
  match f with | some i => { g with flags := Sparse.set g.flags i (Sparse.get g.flags i + 1) } | none => g

def Grp.flagDown (g : Grp) (f : Option Nat) : Grp :=
  match f with | some i => { g with flags := Sparse.set g.flags i (Sparse.get g.flags i - 1) } | none => g

/-- Number of a path counter (R27: sr.pcld, sr.pcst, sr.pcwin, sr.pcsmp; 07 R184). -/
def PathK.num (p : PathK) : Nat := match p with | .ld => 0 | .st => 1 | .win => 2 | .smp => 3

def PathK.ofNum (n : Nat) : PathK := match n with | 0 => .ld | 1 => .st | 2 => .win | _ => .smp

def Grp.pathVal (g : Grp) (p : PathK) : Nat := (Sparse.get g.paths p.num).toNat

def Grp.pathUp (g : Grp) (p : Option PathK) : Grp :=
  match p with | some p => { g with paths := Sparse.set g.paths p.num (Sparse.get g.paths p.num + 1) } | none => g

def Grp.pathDown (g : Grp) (p : Option PathK) : Grp :=
  match p with | some p => { g with paths := Sparse.set g.paths p.num (Sparse.get g.paths p.num - 1) } | none => g

/-- Completed value and last assigned number of a timeline (R25). -/
def Grp.tlDone (g : Grp) (i : Nat) : Dword := Sparse.get g.tlc i
def Grp.tlLast (g : Grp) (i : Nat) : Dword := Sparse.get g.tln i

/-- Assigns `k` numbers on timeline `i` (12 R286, R288). -/
def Grp.tlAssign (g : Grp) (i k : Nat) : Grp :=
  { g with tln := Sparse.set g.tln i (g.tlLast i + BitVec.ofNat 64 k) }

/-- Moves the completed value over every number that is complete, as far as there is no gap (12 R286). -/
def tlAdvance (fuel c i : Nat) (xs : List (Nat × Nat)) : Nat :=
  match fuel with
  | 0 => c
  | f + 1 => if xs.contains (i, c + 1) then tlAdvance f (c + 1) i xs else c

/-- Number `n` of timeline `i` is complete (12 R286): the completed value is the greatest number below which all are. -/
def Grp.tlComplete (g : Grp) (i n : Nat) : Grp :=
  let xs := (i, n) :: g.tldone
  let c := tlAdvance xs.length (g.tlDone i).toNat i xs
  { g with tlc := Sparse.set g.tlc i (BitVec.ofNat 64 c)
           tldone := xs.filter (fun p => decide (p.1 ≠ i) || decide (c < p.2)) }

/-! ### Scalars (R16, R17, 07 R211) -/

def Grp.scalar (g : Grp) (n : Nat) : Word := Sparse.get g.s n

/-- A write of the whole scalar clears its poison mark (07 R211). -/
def Grp.setScalar (g : Grp) (n : Nat) (v : Word) : Grp :=
  { g with s := Sparse.set g.s n v, spoison := g.spoison.filter (fun k => decide (k ≠ n)) }

/-- The pair of R5. -/
def Grp.scalarPair (g : Grp) (n : Nat) : Dword := pair (g.scalar (n + 1)) (g.scalar n)

def Grp.setScalarPair (g : Grp) (n : Nat) (v : Dword) : Grp := (g.setScalar n (lo32 v)).setScalar (n + 1) (hi32 v)

/-! ### The register space (06 R152 to R155, R159, R170 to R172) -/

/-- The word of lane `l` in line `ln`. -/
def Grp.word (g : Grp) (ln l : Nat) : Word := Sparse.get g.rs (32 * ln + l)

/-- The 32 words of a line. -/
def Grp.lineWords (g : Grp) (ln : Nat) : List Word := Sparse.getList g.rs (32 * ln) 32

/-- The line of vector register `v` (R153). -/
def Grp.vline (g : Grp) (v : Nat) : Nat := g.view.v.toNat + v

/-- Lane `l` of vector register `v`. -/
def Grp.vreg (g : Grp) (v l : Nat) : Word := g.word (g.vline v) l

/-- What a write to line `ln` does beside the bytes: a first write to a line still shared copies it and counts (R170), the
line is no longer zero-fill (R159), and a write of all 128 bytes clears poison (R172). -/
def Grp.touchLine (g : Grp) (ln : Nat) (whole : Bool) : Grp :=
  let sh := (Tab.find g.shared ln).isSome
  { g with shared := Tab.drop g.shared ln
           cowcnt := if sh then g.cowcnt + 1 else g.cowcnt
           written := if g.written.contains ln then g.written else ln :: g.written
           poison := if whole then g.poison.filter (fun k => decide (k ≠ ln)) else g.poison }

/-- The words of line `ln` after writing `f` in the lanes of `m`. -/
def Grp.mergedLine (g : Grp) (ln : Nat) (m : BitVec 32) (f : Nat → Word) : List Word :=
  (List.range 32).map (fun l => if m.getLsbD l then f l else g.word ln l)

/-- Writes `f` in the lanes of `m` of line `ln`. -/
def Grp.writeLine (g : Grp) (ln : Nat) (m : BitVec 32) (f : Nat → Word) : Grp :=
  if m = 0 then g
  else
    let t := g.touchLine ln (decide (m = BitVec.allOnes 32))
    { t with rs := Sparse.setList g.rs (32 * ln) (g.mergedLine ln m f) }

/-- Poisons a line. -/
def Grp.poisonLine (g : Grp) (ln : Nat) : Grp :=
  { g with poison := if g.poison.contains ln then g.poison else ln :: g.poison }

/-- Writes a vector register in the lanes of `m`. -/
def Grp.setV (g : Grp) (v : Nat) (m : BitVec 32) (f : Nat → Word) : Grp := g.writeLine (g.vline v) m f

/-- Writes a register pair (R5). -/
def Grp.setVPair (g : Grp) (v : Nat) (m : BitVec 32) (f : Nat → Dword) : Grp :=
  (g.setV v m (fun l => lo32 (f l))).setV (v + 1) m (fun l => hi32 (f l))

/-- Is line `ln` poisoned for the group? A poisoned roast line poisons every group that still shares it at once (R172). -/
def State.linePoisoned (_ : State) (g : Grp) (ln : Nat) : Bool := g.poison.contains ln

/-! ### Fragments (R18) -/

def Grp.frag (g : Grp) (slot : Nat) : Option Frag := if slot = 0 then g.f0 else g.f1

def Grp.setFrag (g : Grp) (slot : Nat) (f : Option Frag) : Grp := if slot = 0 then { g with f0 := f } else { g with f1 := f }

/-- Present lanes that have not exited. -/
def Grp.alive (g : Grp) : BitVec 32 := g.gmask &&& ~~~g.exited

/-! ### Members of a mask -/

/-- Lane numbers of a mask, ascending. -/
def lanesOf (m : BitVec 32) : List Nat := (List.range 32).filter (fun l => m.getLsbD l)

/-- The mask of a list of lanes. -/
def maskOf (ls : List Nat) : BitVec 32 := ls.foldl (fun m l => m ||| BitVec.twoPow 32 l) 0

/-- The lanes where a test holds. -/
def maskWhere (f : Nat → Bool) : BitVec 32 := maskOf ((List.range 32).filter f)

/-! ### System physical memory at its home (17 R349 to R351) -/

/-- What a system physical address reaches (R349). -/
inductive Reach where
  | dram | pooled (port : Nat) | service | remote (package : Nat) | nothing
  deriving DecidableEq, Repr

/-- R349, for a package with id `id`; of a remote package only its DRAM is reached (24 R465). -/
def reachOf (id pa : Nat) : Reach :=
  let pk := pa / 2 ^ 46 % 64
  if 2 ^ 52 ≤ pa then .nothing
  else if pk ≠ id then (if pa / 2 ^ 44 % 4 = 0 ∧ pa % 2 ^ 44 < 384 * 2 ^ 30 then .remote pk else .nothing)
  else
    match pa / 2 ^ 44 % 4 with
    | 0 => if pa % 2 ^ 44 < 384 * 2 ^ 30 then .dram else .nothing
    | 1 => .pooled (pa / 2 ^ 42 % 4)
    | 2 => .service
    | _ => .nothing

/-- Does the L2 hold copies of this address (R350)? -/
def State.l2Held (s : State) (pa : Nat) : Bool :=
  match reachOf s.pkg.id pa with | .pooled _ => true | .remote _ => true | _ => false

/-- The L2 copy of a pooled or remote line, if its stamp is current (R363). -/
def State.l2Find (s : State) (pa : Nat) : Option L2Line :=
  s.l2.find? (fun l => decide (l.pa = pa / 128 * 128) && decide (l.stamp = Sparse.get s.poolGen (pa / 2 ^ 21 % 1024)))

/-- Byte `i` of a line. -/
def lineByte (x : BitVec 1024) (i : Nat) : Byte := x.extractLsb' (8 * i) 8

/-- `x` with byte `i` replaced. -/
def setLineByte (x : BitVec 1024) (i : Nat) (b : Byte) : BitVec 1024 :=
  (x &&& ~~~((0xFF#1024) <<< (8 * i))) ||| ((b.setWidth 1024) <<< (8 * i))

/-- `x` with the bytes from `i` on replaced. -/
def setLineBytes (x : BitVec 1024) (i : Nat) (bs : List Byte) : BitVec 1024 :=
  match bs with
  | [] => x
  | b :: t => setLineBytes (setLineByte x i b) (i + 1) t

/-- The byte that the home slice of `pa` gives. -/
def State.homeByte (s : State) (pa : Nat) : Byte :=
  if s.l2Held pa then
    (match s.l2Find pa with
     | some l => lineByte l.data (pa % 128)
     | none => Sparse.get s.mem pa)
  else Sparse.get s.mem pa

/-- `n` bytes read at the home slice. -/
def State.homeRead (s : State) (pa n : Nat) : List Byte :=
  match n with
  | 0 => []
  | n + 1 => s.homeByte pa :: s.homeRead (pa + 1) n

/-- A 64-bit value read at the home slice. -/
def State.homeDword (s : State) (pa : Nat) : Nat := leNat (s.homeRead pa 8)

/-- A 32-bit value read at the home slice. -/
def State.homeWord (s : State) (pa : Nat) : Nat := leNat (s.homeRead pa 4)

/-- The 8-byte words that a write of `n` bytes at `pa` covers, wholly or in part. -/
def wordsTouched (pa n : Nat) : List Nat := (List.range ((pa % 8 + n + 7) / 8)).map (fun i => pa / 8 * 8 + 8 * i)

/-- The 8-byte word of memory at `a`. -/
def State.memWord (s : State) (a : Nat) : Dword := BitVec.ofNat 64 (leNat (Sparse.getList s.mem a 8))

/-- Writes bytes to memory at its owner: whole 8-byte words lose their poison (22 R453), copies that other packages hold go (24 R467), and the words
replaced are remembered for fetches and table lookups (02 R41, 17 R367). -/
def State.memWrite (s : State) (pa : Nat) (bs : List Byte) : State :=
  if bs.isEmpty then s
  else
    let m := Sparse.setList s.mem pa bs
    let old := ((wordsTouched pa bs.length).map (fun a => (a, s.memWord a))).filter
      (fun p => decide (BitVec.ofNat 64 (leNat (Sparse.getList m p.1 8)) ≠ p.2))
    { s with mem := m
             dir := s.dir.filter (fun d => !(decide (pa < d.1 + 128) && decide (d.1 < pa + bs.length)))
             memPoison := s.memPoison.filter (fun w => !(decide (pa ≤ 8 * w) && decide (8 * w + 8 ≤ pa + bs.length)))
             codeLog := old ++ s.codeLog }

/-- The line of bytes at `pa` as memory holds it. -/
def State.memLine (s : State) (pa : Nat) : BitVec 1024 :=
  setLineBytes 0 0 (Sparse.getList s.mem (pa / 128 * 128) 128)

/-- The 8-byte word at `a` of a line's data. -/
def lineWord (x : BitVec 1024) (a : Nat) : Dword := x.extractLsb' (8 * (a % 128)) 64

/-- Writes bytes within one line into the L2 copy of a pooled or remote line, which it allocates; the words replaced there are remembered
like those in memory (02 R41, 17 R367). -/
def State.l2Write (s : State) (pa : Nat) (bs : List Byte) : State :=
  let base := pa / 128 * 128
  let old := (s.l2Find pa).getD ⟨base, s.memLine pa, 0, Sparse.get s.poolGen (pa / 2 ^ 21 % 1024)⟩
  let new := { old with data := setLineBytes old.data (pa % 128) bs
                        dirty := old.dirty ||| ((BitVec.allOnes 128 >>> (128 - bs.length)) <<< (pa % 128)) }
  let was := ((wordsTouched pa bs.length).map (fun a => (a, lineWord old.data a))).filter
    (fun p => decide (lineWord new.data p.1 ≠ p.2))
  { s with l2 := new :: s.l2.filter (fun l => decide (l.pa ≠ base)), codeLog := was ++ s.codeLog }

/-- Writes bytes within one line at the home slice (07 R181; `owner`: at the owner, for scopes .k and .y). -/
def State.homeWrite (s : State) (pa : Nat) (bs : List Byte) (owner : Bool) : State :=
  if s.l2Held pa then
    if owner then
      let t := s.memWrite pa bs
      match s.l2Find pa with
      | some _ => t.l2Write pa bs
      | none => t
    else s.l2Write pa bs
  else s.memWrite pa bs

/-- Is a byte of `pa` to `pa + n - 1` in a poisoned word (22 R453)? -/
def State.memPoisoned (s : State) (pa n : Nat) : Bool :=
  s.memPoison.any (fun w => decide (8 * w < pa + n) && decide (pa < 8 * w + 8))

/-- Poisons the 8-byte word of `pa`. -/
def State.poisonMem (s : State) (pa : Nat) : State :=
  { s with memPoison := if s.memPoison.contains (pa / 8) then s.memPoison else (pa / 8) :: s.memPoison }

/-- Writes a 64-bit value at the home slice. -/
def State.homeSetDword (s : State) (pa v : Nat) : State := s.homeWrite pa (leBytes 8 v) true

/-- Writes a 32-bit value at the home slice. -/
def State.homeSetWord (s : State) (pa v : Nat) : State := s.homeWrite pa (leBytes 4 v) true

end Sys2Proof.Machine
end

