-- ==== Sys2Proof/Machine/Translate.lean ====
section
/-! DEFINITION. Nested translation (17 R355 to R367), worlds (22 R440 to R442) and the fetch of code words (02 R40, R41). -/
namespace Sys2Proof.Machine

/-- A bit to set with an indivisible OR at a table or map entry's home (R357, R359): the entry's system physical address. -/
structure DSet where
  pa : Nat
  bit : Nat
  deriving DecidableEq, Repr

/-- What a translation leaves behind besides its result: D bits to set (R357, R359), and how many free values its lookups of changed entries drew (R367). -/
structure XTrace where
  dsets : List DSet
  drew : Nat
  deriving DecidableEq, Repr

/-- Nothing left behind. -/
def XTrace.none : XTrace := ⟨[], 0⟩

/-- One more D bit. -/
def XTrace.set (t : XTrace) (pa bit : Nat) : XTrace := { t with dsets := t.dsets ++ [⟨pa, bit⟩] }

/-- A translation fault (R360): cause, stage, table level (0xFF: none), WALK, BADENTRY, the context whose map missed and the
physical address that missed in it; what the walk leaves behind. -/
structure XFault where
  cause : Nat
  stage : Nat
  level : Nat
  walk : Bool
  bad : Bool
  missCtx : Nat
  missPa : Nat
  tr : XTrace
  deriving DecidableEq, Repr

/-- A translation's result: system physical address, whether the frame is of another world (22 R442), the composed entry to
fill (R362), the address in the physical space of each context of the chain (R368), and what it leaves behind. -/
structure XOk where
  pa : Nat
  void : Bool
  fill : Option TEntry
  path : List Nat
  tr : XTrace
  deriving DecidableEq, Repr

/-- Does the access kind write (R358)? -/
def AccK.writes (k : AccK) : Bool := match k with | .write => true | .atomic => true | _ => false

/-- The contexts of the chain from `x` up to depth 1 (R362). -/
def State.chainOf (s : State) (fuel x : Nat) : List Nat :=
  match fuel with
  | 0 => []
  | f + 1 => if (s.ctxAt x).depth = 0 then [] else x :: s.chainOf f (s.ctxAt x).parent

/-- The chain of a context; no context is deeper than 4 (21 R413). -/
def State.chain (s : State) (x : Nat) : List Nat := s.chainOf 4 x

/-- The values that stood in the entry at `pa`, differ from its value now, and were replaced since the log held `mark` entries (R367). -/
def State.oldEntries (s : State) (mark pa : Nat) : List Nat :=
  ((s.codeLog.take (s.codeLog.length - mark)).filter (fun e => decide (e.1 = pa) && decide (e.2.toNat ≠ s.homeDword pa))).map (fun e => e.2.toNat)

/-- One lookup of a table or map entry: its value, or, until the matching bump completes, any value it had since (R361, R367); with the number of free
values drawn. -/
def State.lookup (s : State) (mark pa drew : Nat) : BitVec 64 × Nat :=
  match s.oldEntries mark pa with
  | [] => (BitVec.ofNat 64 (s.homeDword pa), drew)
  | o :: os => (BitVec.ofNat 64 ((o :: os).getD (Config.freeNat (s.freeCtr + drew) % (os.length + 2)) (s.homeDword pa)), drew + 1)

/-- The place in the log of the last completed bump that matches a lookup of context `x`'s table for `va` (R364, R365). -/
def State.tableMark (s : State) (x va : Nat) : Nat :=
  s.bumps.foldl (fun m b => if b.ctx = x ∧ b.first ≤ va / 2 ^ 21 ∧ va / 2 ^ 21 < b.first + b.count then max m b.mark else m) (s.ctxAt x).mark

/-- The result of the map lookups of a nest: the address, the AND of the W bits, whether every D bit was set, whether the frame is of another world
than the context's (22 R442), and the address in the physical space of each context of the chain. -/
structure NestOk where
  pa : Nat
  w : Bool
  d : Bool
  void : Bool
  path : List Nat
  tr : XTrace
  deriving DecidableEq, Repr

/-- The map lookups of `nest` (R359, R360) over a chain, from stage `stage` on. -/
def State.nestMaps (s : State) (chain : List Nat) (stage a lvl : Nat) (walk write : Bool) (tr : XTrace) :
    Except XFault NestOk :=
  match chain with
  | [] => .ok ⟨a, true, true, false, [], tr⟩
  | c :: rest =>
    let cx := s.ctxAt c
    let i := a / 2 ^ 21
    let ea := cx.mapBase + 8 * i
    let e := s.lookup cx.mark ea tr.drew
    let m := e.1
    let t := { tr with drew := e.2 }
    let f (cause : Nat) (bad : Bool) : XFault := ⟨cause, stage, lvl, walk, bad, c, a, t⟩
    if cx.mapCount ≤ i then .error { f 0x10 false with tr := tr }
    else if m.getLsbD 0 = false then .error (f 0x10 false)
    else if m.extractLsb' 52 12 ≠ 0#12 ∨ m.extractLsb' 3 18 ≠ 0#18 then .error (f 0x10 true)
    else if write ∧ m.getLsbD 1 = false then .error (f 0x12 false)
    else
      let u := if write ∧ m.getLsbD 2 = false then t.set ea 2 else t
      match s.nestMaps rest (stage + 1) ((m.extractLsb' 21 31).toNat * 2 ^ 21 + a % 2 ^ 21) lvl walk write u with
      | .error e => .error e
      | .ok r => .ok { r with w := r.w && m.getLsbD 1, d := r.d && m.getLsbD 2, path := a :: r.path }

/-- R353: local DRAM that the context may reach: its partition's range, or, bound to none, no partition's range. -/
def State.partitionAllows (s : State) (chain : List Nat) (pa : Nat) : Bool :=
  match chain.getLast? with
  | none => true
  | some top =>
    match (s.ctxAt top).part with
    | some p =>
      (match Tab.find s.pkg.partitions p with
       | some q => decide (q.base ≤ pa % 2 ^ 44) && decide (pa % 2 ^ 44 < q.base + q.size)
       | none => true)
    | none => s.pkg.partitions.all (fun e => decide (pa % 2 ^ 44 < e.2.base) || decide (e.2.base + e.2.size ≤ pa % 2 ^ 44))

/-- Ports that lead from context `x` to package `pk` (24 R466): UP or RETRAIN, in its port mask. -/
def State.routesTo (s : State) (x pk : Nat) : List Nat :=
  (List.range 16).filter (fun i =>
    let p := s.pkg.ports.getD i portInit
    (decide (p.st = .up) || decide (p.st = .retrain)) && (decide (p.peer = some pk) || (Tab.findD s.pkg.routes pk []).contains i)
      && (s.ctxAt x).ports.getLsbD i)

/-- May a request of context `x` go to package `pk` (24 R466): it is reachable, and a route has a share? -/
def State.mayReach (s : State) (x pk : Nat) : Bool :=
  (s.ctxAt x).packages.getLsbD pk && (s.routesTo x pk).any (fun i => decide ((s.ctxAt x).portShares.getD i 0 ≠ 0))

/-- The checks of R349 and R353, and of 24 R466 for a remote package, at the end of a nest; `stage` is the walk's last stage. -/
def State.finalCheck (s : State) (chain : List Nat) (lvl : Nat) (walk : Bool) (pa : Nat) (tr : XTrace) : Option XFault :=
  let f : XFault := ⟨0x10, chain.length + 1, lvl, walk, false, 0, pa, tr⟩
  match reachOf s.pkg.id pa with
  | .nothing => some f
  | .dram => if s.partitionAllows chain pa then none else some f
  | .remote pk =>
    (match chain with
     | [] => none
     | x :: _ => if s.mayReach x pk then none else some { f with missCtx := x })
  | _ => none

/-! ### Worlds (22 R440 to R442) -/

/-- The world of the frame at `pa` (R440). -/
def State.frameWorld (s : State) (pa : Nat) : Nat :=
  match reachOf s.pkg.id pa with
  | .dram => (Sparse.get s.worlds (pa / 2 ^ 16)).toNat % 2 ^ 12
  | .service => 1
  | _ => 0

/-- Is a fetch or a data access by world `w` to a frame of world `fw` performed (R442)? -/
def worldAllows (w fw : Nat) (fetch : Bool) : Bool :=
  decide (w = 1) || decide (fw = w) || (decide (fw = 0) && !fetch)

/-! ### Stage 1 -/

/-- `nest` of R360. -/
def State.nest (s : State) (x a lvl : Nat) (walk write : Bool) (tr : XTrace) : Except XFault NestOk :=
  match s.nestMaps (s.chain x) 2 a lvl walk write tr with
  | .error e => .error e
  | .ok r =>
    match s.finalCheck (s.chain x) lvl walk r.pa r.tr with
    | some e => .error e
    | none => .ok { r with void := !worldAllows (s.ctxAt x).world (s.frameWorld r.pa) false }

/-- Is a stage-1 entry with V = 1 malformed at level `lvl` (R356)? -/
def s1Malformed (e : BitVec 64) (lvl : Nat) : Bool :=
  let leaf := decide (e.extractLsb' 1 3 ≠ 0#3)
  let size := (e.extractLsb' 8 2).toNat
  decide (e.extractLsb' 52 12 ≠ 0#12) || decide (e.extractLsb' 10 2 ≠ 0#2)
    || (!leaf && (decide (e.extractLsb' 4 6 ≠ 0#6) || decide (lvl = 3)))
    || (leaf && (decide (lvl = 0) || (decide (size = 3) && decide (lvl ≠ 1)) || (decide (size = 2) && decide (lvl ≠ 2))
        || (decide (size ≤ 1) && decide (lvl ≠ 3)) || (decide (size = 1) && decide (e.extractLsb' 12 4 ≠ 0#4))
        || (decide (size = 2) && decide (e.extractLsb' 12 9 ≠ 0#9)) || (decide (size = 3) && decide (e.extractLsb' 12 18 ≠ 0#18))))

/-- Page size of a leaf in bytes (R356). -/
def leafBytes (e : BitVec 64) : Nat :=
  match (e.extractLsb' 8 2).toNat with | 0 => 2 ^ 12 | 1 => 2 ^ 16 | 2 => 2 ^ 21 | _ => 2 ^ 30

/-- The cause that a leaf's permissions give an access (R358). -/
def leafCause (k : AccK) (sup r w x a p : Bool) : Option Nat :=
  if p && !sup then some 0x15
  else
    match k with
    | .fetch => if x then none else some 0x13
    | .read => if r then none else some 0x11
    | .write => if w then none else some 0x12
    | .atomic => if !r then some 0x11 else if !w then some 0x12 else if a then none else some 0x14
    | .maint => none

/-- A leaf found by the table walk: its level, bits, and x-physical address; free values drawn. -/
structure Leaf where
  lvl : Nat
  e : BitVec 64
  at0 : Nat
  drew : Nat
  deriving DecidableEq, Repr

/-- The table walk of R360 from table `t` (x-physical) at level `lvl`. A table in a frame of another world reads zero (22 R442). -/
def State.walkTables (s : State) (x va fuel t lvl drew : Nat) : Except XFault Leaf :=
  match fuel with
  | 0 => .error ⟨0x10, 1, lvl, false, true, x, 0, ⟨[], drew⟩⟩
  | f + 1 =>
    let ea := t + 8 * (va / 2 ^ (39 - 9 * lvl) % 512)
    match s.nest x ea lvl true false ⟨[], drew⟩ with
    | .error e => .error e
    | .ok r =>
      let q := if r.void then (0#64, r.tr.drew) else s.lookup (s.tableMark x va) r.pa r.tr.drew
      let e := q.1
      if e.getLsbD 0 = false then .error ⟨0x10, 1, lvl, false, false, x, 0, ⟨[], q.2⟩⟩
      else if s1Malformed e lvl then .error ⟨0x10, 1, lvl, false, true, x, 0, ⟨[], q.2⟩⟩
      else if e.extractLsb' 1 3 ≠ 0#3 then .ok ⟨lvl, e, ea, q.2⟩
      else s.walkTables x va f ((e.extractLsb' 12 40).toNat * 2 ^ 12) (lvl + 1) q.2

/-- Index of a virtual address's region generation (R363). -/
def regionIndex (x va : Nat) : Nat := (va / 2 ^ 21 % 1024) ^^^ (x % 1024)

/-- The D step of R360 for a leaf: sets its D bit, nesting the entry's address for write. -/
def State.setLeafD (s : State) (x : Nat) (l : Leaf) (k : AccK) : Except XFault XTrace :=
  if k.writes && !(l.e.getLsbD 7) then
    match s.nest x l.at0 l.lvl true true ⟨[], l.drew⟩ with
    | .error e => .error e
    | .ok r => .ok (r.tr.set r.pa 7)
  else .ok ⟨[], l.drew⟩

/-- The full walk of R360, with the checks of permissions and worlds, by a requester of die `die`. -/
def State.walk (s : State) (die x : Nat) (sup : Bool) (va : Nat) (k : AccK) : Except XFault XOk :=
  match s.walkTables x va 4 (s.ctxAt x).root 0 0 with
  | .error e => .error e
  | .ok l =>
    let b (i : Nat) : Bool := l.e.getLsbD i
    match leafCause k sup (b 1) (b 2) (b 3) (b 4) (b 5) with
    | some c => .error ⟨c, 1, l.lvl, false, false, x, 0, ⟨[], l.drew⟩⟩
    | none =>
      match s.setLeafD x l k with
      | .error e => .error e
      | .ok tr =>
        let page := leafBytes l.e
        let frame := (l.e.extractLsb' 12 40).toNat * 2 ^ 12
        match s.nest x (frame + va % page) 0xFF false k.writes tr with
        | .error e => .error e
        | .ok r =>
          let fw := s.frameWorld r.pa
          if decide (k = .fetch) && !worldAllows (s.ctxAt x).world fw true then
            .error ⟨0x16, (s.chain x).length + 1, 0xFF, false, false, x, 0, r.tr⟩
          else
            let size := min page (2 ^ 21)
            .ok { pa := r.pa
                  void := decide (k ≠ .fetch) && r.void
                  path := r.path
                  tr := r.tr
                  fill := some {
                    ctx := x, va := va / size * size, size := size
                    chain := (s.chain x).map (fun c => (c, (s.ctxAt c).gen))
                    path := r.path.map (fun a => a - va % size)
                    rgen := if b 6 then none else some (Sparse.get (s.dieAt die).regionGen (regionIndex x va))
                    pa := r.pa - va % size, r := b 1, w := b 2, x := b 3, a := b 4, p := b 5
                    mapW := r.w, dset := k.writes || (r.d && b 7), world := fw, lvl := l.lvl } }

/-- Is a composed entry current for context `x` and address `va` on die `die` (R362 to R366)? -/
def State.entryHits (s : State) (die x va : Nat) (e : TEntry) : Bool :=
  decide (e.ctx = x) && decide (e.va ≤ va) && decide (va < e.va + e.size)
    && e.chain.all (fun c => decide ((s.ctxAt c.1).gen = c.2))
    && (match e.rgen with
        | none => true
        | some g => decide (g = Sparse.get (s.dieAt die).regionGen (regionIndex x va)))

/-- Canonical form (07 R176). -/
def canonical (va : Dword) : Bool := decide ((va.setWidth 48).signExtend 64 = va)

/-- `translate` of R360, by core `core`: its own translation cache, then the die's flattening cache, then a walk. A write
through an entry whose D bits are not all set, or which no map lets write, walks. -/
def State.translate (s : State) (core x : Nat) (sup : Bool) (va : Dword) (k : AccK) : Except XFault XOk :=
  if canonical va = false then .error ⟨0x10, 1, 0xFF, false, false, x, 0, XTrace.none⟩
  else
    let die := coreDie core
    let v := (va.setWidth 48).toNat
    let hit := match (s.coreAt core).tlb.find? (s.entryHits die x v) with
      | some e => some e
      | none => (s.dieAt die).flat.find? (s.entryHits die x v)
    match hit with
    | none => s.walk die x sup v k
    | some e =>
      if k.writes && !(e.mapW && e.dset) then s.walk die x sup v k
      else
        match leafCause k sup e.r e.w e.x e.a e.p with
        | some c => .error ⟨c, 1, e.lvl, false, false, x, 0, XTrace.none⟩
        | none =>
          let w := (s.ctxAt x).world
          if decide (k = .fetch) && !worldAllows w e.world true then
            .error ⟨0x16, (s.chain x).length + 1, 0xFF, false, false, x, 0, XTrace.none⟩
          else
            .ok { pa := e.pa + (v - e.va), void := decide (k ≠ .fetch) && !worldAllows w e.world false, fill := some e
                  path := e.path.map (fun a => a + (v - e.va)), tr := XTrace.none }

/-- Sets the D bits of a walk (R357, R359), each by an indivisible OR at its entry's home. -/
def State.setDs (s : State) (ds : List DSet) : State :=
  match ds with
  | [] => s
  | d :: r => ({ s.homeSetDword d.pa (s.homeDword d.pa ||| 2 ^ d.bit) with codeLog := s.codeLog } : State).setDs r

/-- What a translation leaves behind, whether it succeeds or faults. -/
def State.traced (s : State) (t : XTrace) : State := (s.setDs t.dsets).useFree t.drew

/-- Puts a composed entry into a core's and its die's cache, most recently used first (R362). -/
def State.fillEntry (s : State) (core : Nat) (e : Option TEntry) : State :=
  match e with
  | none => s
  | some e =>
    let f (n : Nat) (es : List TEntry) : List TEntry :=
      (e :: es.filter (fun o => !(decide (o.ctx = e.ctx) && decide (o.va = e.va)))).take n
    (s.modCore core (fun k => { k with tlb := f 256 k.tlb })).modDie (coreDie core) (fun d => { d with flat := f 16384 d.flat })

/-- What a successful translation leaves behind. -/
def State.xCommit (s : State) (core : Nat) (r : XOk) : State := (s.traced r.tr).fillEntry core r.fill

/-- A physical address of context `x` through the stage maps alone (07 R196: CINV.P; R359). -/
def State.physNest (s : State) (x a : Nat) (write : Bool) : Except XFault NestOk := s.nest x a 0xFF false write XTrace.none

/-- Where it leads. -/
def State.nestPa (s : State) (x a : Nat) (write : Bool) : Except XFault Nat :=
  match s.physNest x a write with
  | .error e => .error e
  | .ok r => .ok r.pa

/-! ### Fetching code words (02 R40, R41) -/

/-- The words that stood at `pa` after launch `l` started and were replaced since (R41). -/
def State.oldWords (s : State) (l pa : Nat) : List Word :=
  match Tab.find s.launches l with
  | none => []
  | some x =>
    ((s.codeLog.take (s.codeLog.length - x.codeMark)).filterMap (fun e =>
      if e.1 = pa / 8 * 8 then some (e.2.extractLsb' (8 * (pa % 8)) 32) else none)).filter (fun w => decide (w.toNat ≠ s.homeWord pa))

/-- A fetched word: the word in memory, or, where it was replaced while the launch runs, any of the old and new (R41). -/
def State.fetchWordPa (s : State) (l pa : Nat) : Word × State :=
  match s.oldWords l pa with
  | [] => (BitVec.ofNat 32 (s.homeWord pa), s)
  | [o] => (if Config.freeBool s.freeCtr then o else BitVec.ofNat 32 (s.homeWord pa), s.useFree 1)
  | o :: os =>
    let n := Config.freeNat s.freeCtr % (os.length + 2)
    ((o :: os).getD n (BitVec.ofNat 32 (s.homeWord pa)), s.useFree 1)

/-- Fetches the code word at `va` for a group (R40). -/
def State.fetchWord (s : State) (g : Grp) (va : Dword) : Except XFault (Word × State) :=
  match s.translate g.core g.ctx g.sup va .fetch with
  | .error e => .error e
  | .ok r =>
    let t := s.xCommit g.core r
    .ok (t.fetchWordPa g.launch r.pa)

end Sys2Proof.Machine
end

