-- ==== Sys2Proof/Machine/Memory.lean ====
section
/-! DEFINITION. Core memory: L1 and its write-back (07 R180 to R182, R195 to R199; 13 R308), windows and barrier objects (07 R175,
R200 to R202, R211), dirty bitmaps (17 R368). -/
namespace Sys2Proof.Machine

/-! ### Dirty bitmaps (17 R368) -/

/-- Sets the bit of the page at `a` of context `c`'s physical space, if `c` has tracking on: an indivisible OR in its parent's memory. -/
def State.markPage (s : State) (c a : Nat) : State :=
  match (s.ctxAt c).dirtyMap with
  | none => s
  | some b =>
    let i := a / 2 ^ 12
    match s.physNest (s.ctxAt c).parent (b + 8 * (i / 64)) true with
    | .error e => s.traced e.tr
    | .ok r =>
      let t := s.traced r.tr
      if r.void then t else t.homeSetDword r.pa (t.homeDword r.pa ||| 2 ^ (i % 64))

/-- The page written, in the physical space of each context of the chain, is marked in that context's bitmap. -/
def State.trackPath (s : State) (chain path : List Nat) : State :=
  (chain.zip path).foldl (fun (t : State) p => t.markPage p.1 p.2) s

/-! ### L1 -/

/-- The generation of a line's region as a core holds it (17 R363). -/
def State.regionGenOf (s : State) (core x va : Nat) : BitVec 6 :=
  Sparse.get (s.dieAt (coreDie core)).regionGen (regionIndex x va)

/-- The core's line of context `x` at virtual address `va`. -/
def State.l1Find (s : State) (core x va : Nat) : Option L1Line :=
  (s.coreAt core).l1.find? (fun l => decide (l.ctx = x) && decide (l.va = va / 128 * 128))

/-- Puts a line into L1. -/
def State.l1Put (s : State) (core : Nat) (l : L1Line) : State :=
  s.modCore core (fun k => { k with l1 := l :: k.l1.filter (fun o => !(decide (o.ctx = l.ctx) && decide (o.va = l.va))) })

/-- Invalidates a line of L1. -/
def State.l1Drop (s : State) (core x va : Nat) : State :=
  s.modCore core (fun k => { k with l1 := k.l1.filter (fun o => !(decide (o.ctx = x) && decide (o.va = va / 128 * 128))) })

/-- Writes the dirty bytes of 8-byte word `i` of a line to the home of `pa` (R182, R211). -/
def State.putWord8 (s : State) (pa : Nat) (l : L1Line) (i : Nat) : State :=
  let d := (l.dirty.extractLsb' (8 * i) 8)
  if d = 0#8 then s
  else
    let w := leBytes 8 (l.data.extractLsb' (64 * i) 64).toNat
    let t :=
      if d = 0xFF#8 then s.homeWrite (pa + 8 * i) w false
      else
        (List.range 8).foldl
          (fun u j => if d.getLsbD j then u.homeWrite (pa + 8 * i + j) [w.getD j 0] false else u) s
    if l.poison.getLsbD i then t.poisonMem (pa + 8 * i) else t

/-- Writes a line's dirty bytes to its home and tracks the write (R182, 17 R368). -/
def State.putDirty (s : State) (l : L1Line) : State :=
  if l.dirty = 0 then s
  else ((List.range 16).foldl (fun u i => u.putWord8 l.pa l i) s).trackPath (s.chain l.ctx) l.path

/-- Is a line's stamp current (17 R363)? -/
def State.l1Fresh (s : State) (core : Nat) (l : L1Line) : Bool := decide (l.stamp = s.regionGenOf core l.ctx l.va)

/-- The write-back of a line after the check of its stamp (R199): a stale line's address is translated again. -/
def State.writeBackLine (s : State) (core : Nat) (sup : Bool) (l : L1Line) : Except XFault State :=
  if l.dirty = 0 ∨ s.l1Fresh core l then .ok (s.putDirty l)
  else
    match s.translate core l.ctx sup (((BitVec.ofNat 48 l.va).signExtend 64)) .write with
    | .error e => .error e
    | .ok r => .ok (if r.void then s.xCommit core r else (s.xCommit core r).putDirty { l with pa := r.pa, path := r.path })

/-- A write-back of a line was denied (R199): the line stays in L1, dirty and held. -/
def State.holdLine (s : State) (core : Nat) (l : L1Line) (e : XFault) : State := (s.traced e.tr).l1Put core { l with held := true }

/-- Writes back every dirty line of context `x` on the core; `keep` leaves the lines valid and clean, else they are
invalidated. Lines whose write-back is denied stay, held; the first of them is answered with its fault. -/
def State.writeBackAll (s : State) (core x : Nat) (sup keep : Bool) (ls : List L1Line) (bad : Option (XFault × L1Line)) :
    State × Option (XFault × L1Line) :=
  match ls with
  | [] => (s, bad)
  | l :: rest =>
    if l.ctx ≠ x then s.writeBackAll core x sup keep rest bad
    else
      match s.writeBackLine core sup l with
      | .ok t =>
        let u := if keep then t.l1Put core { l with dirty := 0, held := false } else t.l1Drop core x l.va
        u.writeBackAll core x sup keep rest bad
      | .error e =>
        (s.holdLine core l e).writeBackAll core x sup keep rest (match bad with | some b => some b | none => some (e, l))

/-- The release step of FENCE.rel at wide scope on a core (R197). -/
def State.releaseL1 (s : State) (core x : Nat) (sup : Bool) : State × Option (XFault × L1Line) :=
  s.writeBackAll core x sup true ((s.coreAt core).l1.filter (fun l => decide (l.dirty ≠ 0))) none

/-- The acquire step of FENCE.acq at wide scope on a core (R197). -/
def State.acquireL1 (s : State) (core x : Nat) (sup : Bool) : State :=
  (s.writeBackAll core x sup false (s.coreAt core).l1 none).1

/-- The poison bits of a line of memory. -/
def State.linePoison (s : State) (pa : Nat) : BitVec 16 :=
  (List.range 16).foldl (fun m i => if s.memPoison.contains (pa / 128 * 16 + i) then m ||| BitVec.twoPow 16 i else m) 0

/-- A line as its home gives it. -/
def State.homeLine (s : State) (core x va pa pol : Nat) (path : List Nat) : L1Line :=
  ⟨x, va / 128 * 128, pa / 128 * 128, setLineBytes 0 0 (s.homeRead (pa / 128 * 128) 128), 0, s.linePoison pa,
   s.regionGenOf core x va, pol, false, 0, path.map (fun a => a / 128 * 128)⟩

/-- Allocates an L2 copy of a pooled or remote line that is read (17 R350). -/
def State.l2Touch (s : State) (pa : Nat) : State :=
  if s.l2Held pa && (s.l2Find pa).isNone then
    { s with l2 := ⟨pa / 128 * 128, s.memLine pa, 0, Sparse.get s.poolGen (pa / 2 ^ 21 % 1024)⟩
                     :: s.l2.filter (fun l => decide (l.pa ≠ pa / 128 * 128)) }
  else s

/-- The line that an access of context `x` finds in L1: a stale line misses, after its write-back if it is dirty (17 R363); one whose write-back is denied
is found held, and the access is performed at the home slice (R199). -/
def State.l1Lookup (s : State) (core x va : Nat) (sup : Bool) : Option L1Line × State :=
  match s.l1Find core x va with
  | none => (none, s)
  | some l =>
    if s.l1Fresh core l then (some l, s)
    else
      match s.writeBackLine core sup l with
      | .ok t => (none, t.l1Drop core x va)
      | .error e => (some { l with held := true }, s.holdLine core l e)

/-- Does a line that misses find no evictable way in its set (R199)? -/
def State.noWay (s : State) (core va : Nat) : Bool :=
  let hs := ((s.coreAt core).l1.filter (fun l => l.held)).filter (fun l => decide (Config.l1Set l.va = Config.l1Set (va / 128 * 128)))
  !hs.isEmpty && decide (Config.l1Ways ≤ hs.length)

/-- Where an access of 07 R181 is performed, and how. -/
structure How where
  core : Nat
  ctx : Nat
  sup : Bool
  /-- Narrow scope: in L1. -/
  narrow : Bool
  /-- Scope .k or .y: pooled and remote lines at the owner. -/
  owner : Bool
  pol : Nat
  /-- Program counter of the instruction. -/
  pc : Dword
  /-- The address accessed, in the physical space of each context of the chain (17 R368). -/
  path : List Nat
  deriving DecidableEq, Repr

/-- An access to another address. -/
def How.on (h : How) (path : List Nat) : How := { h with path := path }

/-- The policy that an access is performed under (R180, R199): on a held line, or a miss without an evictable way, that of `.l2`. -/
def State.polOf (s : State) (h : How) (va : Nat) (l : Option L1Line) : Nat :=
  match l with
  | some l => if l.held then 2 else h.pol
  | none => if s.noWay h.core va then 2 else h.pol

/-- A byte as it is read at the owner: this package's dirty L2 bytes, else memory (R181). -/
def State.ownerByte (s : State) (pa : Nat) : Byte :=
  match s.l2Find pa with
  | some l => if l.dirty.getLsbD (pa % 128) then lineByte l.data (pa % 128) else Sparse.get s.mem pa
  | none => Sparse.get s.mem pa

def State.readHome (s : State) (owner : Bool) (pa n : Nat) : List Byte :=
  if owner && s.l2Held pa then (List.range n).map (fun i => s.ownerByte (pa + i)) else s.homeRead pa n

/-- Bytes `i` to `i + n - 1` of a line. -/
def lineBytes (x : BitVec 1024) (i n : Nat) : List Byte := (List.range n).map (fun j => lineByte x (i + j))

/-- The bytes that a load performed at the home slice gets: its own core's dirty L1 bytes, else the home's (13 R308). -/
def mergeDirty (l : Option L1Line) (off : Nat) (bs : List Byte) : List Byte :=
  match l with
  | none => bs
  | some l => (List.range bs.length).map (fun j => if l.dirty.getLsbD (off + j) then lineByte l.data (off + j) else bs.getD j 0)

/-- Is a word of the bytes `off` to `off + n - 1` of a line poisoned? -/
def L1Line.poisoned (l : L1Line) (off n : Nat) : Bool :=
  (List.range 16).any (fun i => l.poison.getLsbD i && decide (8 * i < off + n) && decide (off < 8 * i + 8))

/-- The line's bytes `off` on and the poison of their words as the home slice gave them, but for what the line holds dirty: a later hit returns no older
write than this read (13 R309). -/
def L1Line.refresh (l : L1Line) (off : Nat) (bs : List Byte) (poison : BitVec 16) : L1Line :=
  { l with data := setLineBytes l.data off bs
           poison := (List.range 16).foldl (fun m i =>
             if l.dirty.extractLsb' (8 * i) 8 = 0#8 ∧ 8 * i < off + bs.length ∧ off < 8 * i + 8 then
               (if poison.getLsbD i then m ||| BitVec.twoPow 16 i else m &&& ~~~(BitVec.twoPow 16 i))
             else m) l.poison }

/-- A read at the owner leaves the L2 copy no older (13 R309). -/
def State.l2Refresh (s : State) (pa : Nat) (bs : List Byte) : State :=
  match s.l2Find pa with
  | none => s
  | some l => { s with l2 := { l with data := setLineBytes l.data (pa % 128) bs } :: s.l2.filter (fun k => decide (k.pa ≠ pa / 128 * 128)) }

/-- A read: bytes and whether a poisoned word was read (R211). -/
def State.readGlobal (s : State) (h : How) (va pa n : Nat) : (List Byte × Bool) × State :=
  let r := s.l1Lookup h.core h.ctx va h.sup
  let t := r.2
  let off := pa % 128
  if h.narrow && decide (t.polOf h va r.1 ≠ 2) then
    match r.1 with
    | some l =>
      let u := if decide (h.pol = 4) && decide (l.dirty = 0) then t.l1Drop h.core h.ctx va
               else if decide (h.pol = 1) || decide (h.pol = 3) then t.l1Put h.core { l with pol := h.pol } else t
      ((lineBytes l.data off n, l.poisoned off n), u)
    | none =>
      let u := t.l2Touch pa
      let l := u.homeLine h.core h.ctx va pa h.pol h.path
      ((lineBytes l.data off n, l.poisoned off n), if h.pol = 4 then u else u.l1Put h.core l)
  else
    let b := (if h.owner then t else t.l2Touch pa).readHome h.owner pa n
    let u := if h.owner then t.l2Refresh pa b else t.l2Touch pa
    let d := match r.1 with | some l => (List.range n).all (fun j => l.dirty.getLsbD (off + j)) | none => false
    let p := match r.1 with
      | some l => if d then l.poisoned off n else u.memPoisoned pa n
      | none => u.memPoisoned pa n
    let bs := mergeDirty r.1 off b
    ((bs, p), match r.1 with | some l => u.l1Put h.core (l.refresh off bs (u.linePoison pa)) | none => u)

/-- The dirty bits of `n` bytes from `off` on. -/
def dirtyBits (off n : Nat) : BitVec 128 := (BitVec.allOnes 128 >>> (128 - n)) <<< off

/-- The poison bits of a line after `n` bytes from `off` on were written: wholly written words lose it (R211). -/
def clearPoison (p : BitVec 16) (off n : Nat) : BitVec 16 :=
  (List.range 16).foldl (fun m i => if off ≤ 8 * i ∧ 8 * i + 8 ≤ off + n then m &&& ~~~(BitVec.twoPow 16 i) else m) p

/-- Writes bytes into a line as dirty bytes. -/
def L1Line.store (l : L1Line) (off : Nat) (bs : List Byte) (pc : Dword) (pol : Nat) : L1Line :=
  { l with data := setLineBytes l.data off bs, dirty := l.dirty ||| dirtyBits off bs.length
           poison := clearPoison l.poison off bs.length, lastPc := pc
           pol := if pol = 1 ∨ pol = 3 then pol else l.pol }

/-- Writes bytes into a line as clean bytes, after a write through (R180). -/
def L1Line.through (l : L1Line) (off : Nat) (bs : List Byte) : L1Line :=
  { l with data := setLineBytes l.data off bs, dirty := l.dirty &&& ~~~(dirtyBits off bs.length)
           poison := clearPoison l.poison off bs.length }

/-- Bytes written at the home slice, the page marked dirty (R181; 17 R368). -/
def State.putHome (s : State) (h : How) (pa : Nat) (bs : List Byte) : State := (s.homeWrite pa bs h.owner).trackPath (s.chain h.ctx) h.path

/-- A write (R180, R181): into L1, or through to the home slice. -/
def State.writeGlobal (s : State) (h : How) (va pa : Nat) (bs : List Byte) : State :=
  let r := s.l1Lookup h.core h.ctx va h.sup
  let t := r.2
  let off := pa % 128
  let pol := if h.narrow then t.polOf h va r.1 else 2
  if pol = 2 then
    (match r.1 with
     | some l => t.l1Put h.core (l.through off bs)
     | none => t).putHome h pa bs
  else if pol = 4 then
    (match r.1 with
     | some l => (t.putDirty (l.through off bs)).l1Drop h.core h.ctx va
     | none => t).putHome h pa bs
  else
    match r.1 with
    | some l => t.l1Put h.core (l.store off bs h.pc h.pol)
    | none =>
      let u := t.l2Touch pa
      u.l1Put h.core ((u.homeLine h.core h.ctx va pa h.pol h.path).store off bs h.pc h.pol)

/-- Words that a store of several lanes wrote whole lose their poison (R211), where the store was performed. -/
def State.cleanWord (s : State) (h : How) (va pa : Nat) : State :=
  let inL1 := h.narrow && decide (h.pol ≠ 2) && decide (h.pol ≠ 4)
  match s.l1Find h.core h.ctx va with
  | some l =>
    let t := s.l1Put h.core { l with poison := clearPoison l.poison (pa % 128 / 8 * 8) 8 }
    if inL1 && !l.held then t else { t with memPoison := t.memPoison.filter (fun w => decide (w ≠ pa / 8)) }
  | none => { s with memPoison := s.memPoison.filter (fun w => decide (w ≠ pa / 8)) }

/-- Makes an access at the home slice see and leave nothing in the core's L1 (R195): its dirty bytes of the line are written
back and the copy is dropped. -/
def State.flushLine (s : State) (h : How) (va : Nat) : State :=
  match s.l1Lookup h.core h.ctx va h.sup with
  | (some l, t) => if l.held then t else (t.putDirty l).l1Drop h.core h.ctx va
  | (none, t) => t

/-- An indivisible read and write of `n` bytes (R193, R195): `f` gives the bytes to write from those read, or none. A
poisoned word is not written (R211). -/
def State.rmwGlobal (s : State) (h : How) (va pa n : Nat) (f : List Byte → Option (List Byte)) : (List Byte × Bool) × State :=
  let t := if h.narrow then s else s.flushLine h va
  let h' := { h with pol := 0 }
  let r := t.readGlobal h' va pa n
  if r.1.2 then r
  else
    match f r.1.1 with
    | none => r
    | some bs => (r.1, r.2.writeGlobal h' va pa bs)

/-! ### Windows (07 R175, R211) -/

/-- First key of a core's exported window. -/
def expKey : Nat := 2 ^ 21

/-- Where a window address leads for a team's groups on core `core` (R175): core and byte, or nothing. -/
def State.winLocOf (s : State) (core ctx launch team a : Nat) : Option (Nat × Nat) :=
  if a < 0x01000000 then
    match (s.coreAt core).ranges.find? (fun r => decide (r.ctx = ctx) && decide (r.launch = launch) && decide (r.team = team)) with
    | some r => if a < r.size then some (core, r.base + a) else none
    | none => none
  else if a < 0x01800000 then
    let c := coreCluster core * 8 + (a - 0x01000000) / 0x100000
    let o := a % 0x100000
    let k := s.coreAt c
    if k.splitOn && decide (k.owner = ctx) && decide (o < k.exp) then some (c, expKey + o) else none
  else none

/-- The same for a group. -/
def State.winLoc (s : State) (g : Grp) (a : Word) : Option (Nat × Nat) := s.winLocOf g.core g.ctx g.launch g.team a.toNat

def State.winRead (s : State) (core key n : Nat) : List Byte := Sparse.getList (s.coreAt core).win key n

def State.winPoisoned (s : State) (core key n : Nat) : Bool :=
  (s.coreAt core).winPoison.any (fun w => decide (8 * w < key + n) && decide (key < 8 * w + 8))

/-- Writes window bytes: wholly written words lose their poison (R211), and a block still shared with a roast is the
team's own from then on (10 R259). -/
def State.winWrite (s : State) (core key : Nat) (bs : List Byte) : State :=
  if bs.isEmpty then s
  else
    s.modCore core (fun k => { k with
      win := Sparse.setList k.win key bs
      winPoison := k.winPoison.filter (fun w => !(decide (key ≤ 8 * w) && decide (8 * w + 8 ≤ key + bs.length)))
      ranges := k.ranges.map (fun r =>
        { r with shared := r.shared.filter (fun b => decide (r.base + 256 * b + 256 ≤ key) || decide (key + bs.length ≤ r.base + 256 * b)) }) })

def State.poisonWin (s : State) (core key : Nat) : State :=
  s.modCore core (fun k => { k with winPoison := if k.winPoison.contains (key / 8) then k.winPoison else (key / 8) :: k.winPoison })

/-! ### Barrier objects (07 R200 to R203) -/

/-- Scope of a barrier object by where its window is (R200). -/
def objScope (key : Nat) : Nat := if expKey ≤ key then 2 else 1

/-- Word `i` of the object at a window byte. -/
def State.objWord (s : State) (core key i : Nat) : Word := BitVec.ofNat 32 (leNat (s.winRead core (key + 4 * i) 4))

def State.objSet (s : State) (core key i : Nat) (w : Word) : State := s.winWrite core (key + 4 * i) (leBytes 4 w.toNat)

/-- Bit 0 of word 0: the parity of the current phase. -/
def State.objPhase (s : State) (core key : Nat) : Bool := (s.objWord core key 0).getLsbD 0

/-- Arrivals still due in the phase: bits [15:1] of word 0. -/
def State.objLeft (s : State) (core key : Nat) : Nat := ((s.objWord core key 0).extractLsb' 1 15).toNat

/-- Word 0 with `left` and `phase` replaced. Its reserved bits, where a plain store set them, stay as they are: the spec does not say how they read
(DESIGN CHOICE, log 66). -/
def objWord0 (w : Word) (left : BitVec 15) (phase : Bool) : Word :=
  (w &&& 0xFFFF0000#32) ||| ((left ++ BitVec.ofBool phase : BitVec 16).setWidth 32)

/-- `complete()` of R202: the phase flips, `left` takes roster[14:0], got and due are zero. -/
def State.objComplete (s : State) (core key : Nat) : State :=
  let w0 := objWord0 (s.objWord core key 0) ((s.objWord core key 1).extractLsb' 16 15) (!s.objPhase core key)
  ((s.objSet core key 0 w0).objSet core key 2 0).objSet core key 3 0

/-- Evaluates completion, after an arrival or a landing (R202). -/
def State.objCheck (s : State) (core key : Nat) : State :=
  if s.objLeft core key = 0 ∧ s.objWord core key 2 = s.objWord core key 3 then s.objComplete core key else s

/-- One indivisible arrival of R201: `due` more bytes announced, `arr` arrivals. -/
def State.objArrive (s : State) (core key : Nat) (due : Word) (arr : Nat) : State :=
  let left := s.objLeft core key
  let a := if due = 0 then s else s.objSet core key 3 (s.objWord core key 3 + due)
  let b := if left < arr then a.objSet core key 1 (a.objWord core key 1 ||| 1#32) else a
  let w0 := b.objWord core key 0
  (b.objSet core key 0 (objWord0 w0 (BitVec.ofNat 15 (left - arr)) (w0.getLsbD 0))).objCheck core key

/-- A landing of `n` bytes on the object (R202). -/
def State.objLand (s : State) (core key n : Nat) : State :=
  (s.objSet core key 2 (s.objWord core key 2 + BitVec.ofNat 32 n)).objCheck core key

end Sys2Proof.Machine
end

