-- ==== Sys2Proof/Machine/Flow.lean ====
section
/-! DEFINITION. A group's fragments and split table as functions on the group: places, arrival at a header and fusion (05 R124 to R133,
01 R18 to R20). -/
namespace Sys2Proof.Machine

/-- Where a fragment stands: a slot, or a split-table entry as a spilled fragment. -/
inductive Place where
  | slot (n : Nat)
  | entry (i : Nat)
  deriving DecidableEq, Repr

/-- The fragment at a place. -/
def Grp.at (g : Grp) (p : Place) : Option Frag :=
  match p with
  | .slot n => g.frag n
  | .entry i =>
    match Tab.find g.split i with
    | some e => (match e.kind with | .spilled f => some f | .reconv _ _ _ => none)
    | none => none

/-- Puts a fragment, or nothing, at a place; an entry keeps its order. -/
def Grp.putAt (g : Grp) (p : Place) (f : Option Frag) : Grp :=
  match p with
  | .slot n => g.setFrag n f
  | .entry i =>
    match f, Tab.find g.split i with
    | some f, some e => { g with split := Tab.put g.split i { e with kind := .spilled f } }
    | some f, none => { g with split := Tab.put g.split i ⟨g.orderNext, .spilled f⟩, orderNext := g.orderNext + 1 }
    | none, _ => { g with split := Tab.drop g.split i }

/-- How many creations ago an entry was made (R19): the newest has the least. -/
def Grp.entryAge (g : Grp) (e : SplitEntry) : Nat := (g.orderNext - 1 - e.order).toNat

/-- The member of a list with the least measure, the first among equals. -/
def leastBy {α : Type} (f : α → Nat) (xs : List α) : Option α :=
  xs.foldl (fun b x => match b with | none => some x | some y => if f x < f y then some x else some y) none

/-- Inserts by a measure, after the members that are not greater. -/
def insertBy {α : Type} (f : α → Nat) (x : α) (xs : List α) : List α :=
  match xs with
  | [] => [x]
  | y :: t => if f x < f y then x :: y :: t else y :: insertBy f x t

/-- Sorts by a measure, least first, equals in their order. -/
def sortBy {α : Type} (f : α → Nat) (xs : List α) : List α := xs.foldl (fun acc x => insertBy f x acc) []

/-- The lowest empty split-table entry (R19: 64 entries). -/
def Grp.freeEntry (g : Grp) : Option Nat := Tab.lowestFree g.split 0 64

/-- Number of empty slots. -/
def Grp.emptySlots (g : Grp) : Nat := (if g.f0.isNone then 1 else 0) + (if g.f1.isNone then 1 else 0)

/-- Number of empty split-table entries. -/
def Grp.emptyEntries (g : Grp) : Nat := 64 - g.split.length

/-- The empty slot a placement rule means (R18). -/
def Grp.emptySlot (g : Grp) : Option Nat := if g.f0.isNone then some 0 else if g.f1.isNone then some 1 else none

/-- Puts a fragment into an empty slot, or else into the table as the newest entry (R18). The caller has checked for room. -/
def Grp.place (g : Grp) (f : Frag) : Place × Grp :=
  match g.emptySlot with
  | some n => (.slot n, g.setFrag n (some f))
  | none =>
    let i := g.freeEntry.getD 64
    (.entry i, { g with split := Tab.put g.split i ⟨g.orderNext, .spilled f⟩, orderNext := g.orderNext + 1 })

/-- The newest reconvergence entry at header `h` that expects a lane of `m` (R128). -/
def Grp.newestEntry (g : Grp) (h : Dword) (m : BitVec 32) : Option (Nat × SplitEntry) :=
  leastBy (fun p => g.entryAge p.2) (g.split.filter (fun p =>
    match p.2.kind with
    | .reconv a k _ => decide (a = h) && decide (k &&& m ≠ 0)
    | .spilled _ => false))

/-- Is the reconvergence entry complete (R128)? -/
def Grp.entryDone (g : Grp) (mask arrived : BitVec 32) : Bool := decide (arrived ||| (g.exited &&& mask) = mask)

/-- A fusion of the lanes `m` orders every access that their fragments have outstanding, and whatever those come after, before each later access of the
fused fragment (R129, 13 R317). -/
def Grp.fuseOrder (g : Grp) (m : BitVec 32) : Grp :=
  let before (p : Nat × Op) : Bool :=
    isAccess p.2.instr && (decide (p.2.m &&& m ≠ 0) || g.fused.any (fun q => decide (q.1 = p.1) && decide (q.2 &&& m ≠ 0)))
  let now := (g.ops.filter before).map (fun p => (p.1, m))
  { g with fused := now ++ g.fused.filter (fun q => (Tab.find g.ops q.1).isSome) }

/-- The outstanding accesses that fusions have ordered before the next access of the lanes `m`. -/
def Grp.fusedBefore (g : Grp) (m : BitVec 32) : List Nat :=
  (g.ops.filter (fun p => g.fused.any (fun q => decide (q.1 = p.1) && decide (q.2 &&& m ≠ 0)))).map (fun p => p.1)

/-- `fuse` of R129 without the arrival of the fused fragment: its place, or none when no lane is left. -/
def Grp.fuse (g0 : Grp) (i : Nat) (h : Dword) (mask : BitVec 32) : Option Place × Grp :=
  let m := mask &&& ~~~g0.exited
  let g := g0.fuseOrder m
  let f := fragAt h m
  if m = 0 then (none, { g with split := Tab.drop g.split i })
  else
    match g.emptySlot with
    | some n => (some (.slot n), { (g.setFrag n (some f)) with split := Tab.drop g.split i })
    | none => (some (.entry i), { g with split := Tab.put g.split i ⟨g.orderNext, .spilled f⟩, orderNext := g.orderNext + 1 })

/-- Arrival of the fragment at place `p` at its header (R128), with the fusions it completes (R129). -/
def Grp.enter (fuel : Nat) (g : Grp) (p : Place) : Grp :=
  match fuel with
  | 0 => g
  | n + 1 =>
    match g.at p with
    | none => g
    | some f =>
      match g.newestEntry f.pos.hdr f.mask with
      | none => g
      | some (i, e) =>
        match e.kind with
        | .spilled _ => g
        | .reconv a mask arrived =>
          let w := f.mask &&& mask
          let arr := arrived ||| w
          let g1 := { g with split := Tab.put g.split i { e with kind := .reconv a mask arr } }
          let rest := f.mask &&& ~~~w
          let g2 := g1.putAt p (if rest = 0 then none else some { f with mask := rest })
          if g2.entryDone mask arr then
            match g2.fuse i a mask with
            | (some q, g3) => g3.enter n q
            | (none, g3) => g3
          else g2

/-- Every chain of fusions is shorter than the table. -/
def Grp.enterAt (g : Grp) (p : Place) : Grp := g.enter 66 p

/-- Fuses the complete entries, newest first (R129, R133). -/
def Grp.fuseDone (fuel : Nat) (g : Grp) : Grp :=
  match fuel with
  | 0 => g
  | n + 1 =>
    match leastBy (fun p => g.entryAge p.2) (g.split.filter (fun p =>
        match p.2.kind with | .reconv _ k a => g.entryDone k a | .spilled _ => false)) with
    | none => g
    | some (i, e) =>
      match e.kind with
      | .spilled _ => g
      | .reconv a mask _ =>
        match g.fuse i a mask with
        | (some q, g2) => (g2.enterAt q).fuseDone n
        | (none, g2) => g2.fuseDone n

/-- Lanes exit: every reconvergence entry counts them, and complete entries fuse (R133). -/
def Grp.exitLanes (g : Grp) (x : BitVec 32) : Grp :=
  Grp.fuseDone 65 { g with
    exited := g.exited ||| x
    split := g.split.map (fun p => (p.1, { p.2 with kind :=
      match p.2.kind with
      | .reconv a k r => .reconv a k (r ||| (x &&& k))
      | .spilled f => .spilled f })) }

/-- The fragment of slot `n` transfers to header `h` and enters it (R123, R128). -/
def Grp.goto (g : Grp) (n : Nat) (h : Dword) : Grp :=
  match g.frag n with
  | none => g
  | some f => (g.setFrag n (some { f with pos := posAt h, wait := .none, arriving := false, starved := false, loadFree := false })).enterAt (.slot n)

/-- Does the fragment wait for the reply to its SVC.D, or has it just come (18 R390)? -/
def Frag.served (f : Frag) : Bool := match f.wait with | .service _ => true | _ => false

/-- The spilled fragments by place, oldest first (R21). -/
def Grp.spilledOldest (g : Grp) : List (Nat × Frag) :=
  let xs := g.split.filterMap (fun p => match p.2.kind with | .spilled f => some (g.entryAge p.2, p.1, f) | .reconv _ _ _ => none)
  (sortBy (fun x => 2 ^ 14 - x.1) xs).map (fun x => x.2)

/-- All fragments with their places. -/
def Grp.allFrags (g : Grp) : List (Place × Frag) :=
  (match g.f0 with | some f => [(Place.slot 0, f)] | none => []) ++ (match g.f1 with | some f => [(Place.slot 1, f)] | none => [])
    ++ g.split.filterMap (fun p => match p.2.kind with | .spilled f => some (Place.entry p.1, f) | .reconv _ _ _ => none)

/-- Lanes that wait in reconvergence entries (R18). -/
def Grp.arrivedLanes (g : Grp) : BitVec 32 :=
  g.split.foldl (fun m p => match p.2.kind with | .reconv _ _ a => m ||| (a &&& ~~~g.exited) | .spilled _ => m) 0

end Sys2Proof.Machine
end

