-- ==== Sys2Proof/Machine/CapOps.lean ====
section
/-! DEFINITION. Capsule records and the capsule state of a group: the lock word, descheduling, the check on return, failure
(14 R324 to R330, R333, R334, R337). -/
namespace Sys2Proof.Machine

/-! ### The lock word (R325) and the holder id (R326) -/

def lwGen (w : Dword) : BitVec 16 := w.extractLsb' 48 16
def lwScope (w : Dword) : BitVec 3 := w.extractLsb' 37 3
def lwFail (w : Dword) : Bool := w.getLsbD 36
def lwDone (w : Dword) : Bool := w.getLsbD 35
def lwDesched (w : Dword) : Bool := w.getLsbD 34
def lwActive (w : Dword) : Bool := w.getLsbD 33
def lwHolder (w : Dword) : Word := w.extractLsb' 0 32

/-- A lock word from its fields. -/
def lockWord (gen : BitVec 16) (scope : BitVec 3) (fail done desched active : Bool) (holder : Word) : Dword :=
  gen ++ 0#8 ++ scope ++ BitVec.ofBool fail ++ BitVec.ofBool done ++ BitVec.ofBool desched ++ BitVec.ofBool active ++ 0#1 ++ holder

/-- R326. -/
def holderId (ctx core fidx : Nat) : Word :=
  1#1 ++ 0#3 ++ BitVec.ofNat 12 ctx ++ BitVec.ofNat 9 core ++ BitVec.ofNat 7 fidx

def Grp.me (g : Grp) : Word := holderId g.ctx g.core g.fidx

/-- Is the group in a body (R328)? -/
def Grp.inBody (g : Grp) : Bool := g.cap.body && (decide (g.cap.st = .hold) || decide (g.cap.st = .adopting))

/-- Where the group's record stands in memory; none while it does not translate. -/
def State.capPa (s : State) (g : Grp) : Option Nat :=
  match s.translate g.core g.ctx g.sup g.cap.rcd .atomic with
  | .ok r => if r.void then none else some r.pa
  | .error _ => none

/-- The lock word of a record at `pa`. -/
def State.lock (s : State) (pa : Nat) : Dword := BitVec.ofNat 64 (s.homeDword pa)

def State.setLock (s : State) (pa : Nat) (w : Dword) : State := s.homeSetDword pa w.toNat

/-- Does the group hold the record (R330, R333, R334)? -/
def Grp.holds (g : Grp) (w : Dword) : Bool := decide (lwHolder w = g.me) && decide (lwGen w = g.cap.gen)

/-- The device time as R333 writes it. -/
def State.now64 (s : State) (core : Nat) : Dword := BitVec.ofNat 64 (s.clockOf core)

/-- R333: a body is descheduled; `ended`: the group is ended, and the time is set back by the adopt delay. -/
def State.capDesched (s : State) (gid : Nat) (ended : Bool) : State :=
  let g := s.grp gid
  if g.inBody then
    match s.capPa g with
    | none => s
    | some pa =>
      let w := s.lock pa
      if g.holds w then
        let t := if ended then s.now64 g.core - g.adopt.setWidth 64 else s.now64 g.core
        ((s.setLock pa (w ||| (1#64 <<< 34))).homeSetDword (pa + 0x10) t.toNat)
      else s
  else s

/-- Words 368 to 383 of the scalars (R328). -/
def Grp.capRegs (g : Grp) : List Word := Sparse.getList g.s 368 16

def Grp.setCapRegs (g : Grp) (ws : List Word) : Grp :=
  { g with s := Sparse.setList g.s 368 (ws.take 16), spoison := g.spoison.filter (fun k => decide (k < 368)) }

/-- The checkpoint words of a record (R324). -/
def State.checkpoint (s : State) (pa : Nat) : List Word :=
  (List.range 16).map (fun i => BitVec.ofNat 32 (s.homeWord (pa + 0x20 + 4 * i)))

/-- Writes consecutive words at a home slice. -/
def State.homeSetWords (s : State) (pa : Nat) (ws : List Word) : State :=
  match ws with
  | [] => s
  | w :: r => (s.homeSetWord pa w.toNat).homeSetWords (pa + 4) r

/-- F0 goes to header `h` with its mask unchanged, next = 0 and no arrival (R125, R334). -/
def Grp.redirect (g : Grp) (h : Dword) : Grp :=
  match g.f0 with
  | some f => { g with f0 := some { f with pos := posAt h, wait := .none, arriving := false } }
  | none => g

/-- The adopt delay has passed since DESCHED was set (R332). -/
def State.adoptDue (s : State) (g : Grp) (pa : Nat) : Bool :=
  decide (g.adopt.toNat ≤ (s.now64 g.core - BitVec.ofNat 64 (s.homeDword (pa + 0x10))).toNat)

/-- The header where step `i` begins, and the exit header (R324). -/
def State.capEntry (s : State) (pa i : Nat) : Dword :=
  BitVec.ofNat 64 (s.homeDword (pa + 0x18) + s.homeWord (pa + 0x80 + 4 * i))

def State.capExit (s : State) (pa : Nat) : Dword := BitVec.ofNat 64 (s.homeDword (pa + 0x18) + s.homeWord (pa + 0x70))

/-- Takes a descheduled lock for the group as R332 adopts it: the holder becomes the group, DESCHED clears, the capsule
registers take the checkpoint, the body starts over at the step counter. -/
def State.capAdopt (s : State) (gid pa : Nat) (st : CapSt) (save : Bool) : State :=
  let g := s.grp gid
  let w := s.lock pa
  let step := s.homeWord (pa + 8)
  let t := s.setLock pa (lockWord (lwGen w) (lwScope w) (lwFail w) (lwDone w) false true g.me)
  let c := { g.cap with gen := lwGen w, exit := s.capExit pa, saved := if save then g.capRegs else g.cap.saved
                        step := step, count := 0, loads := 0, st := st, body := true, busy := false }
  t.setGrp gid ((({ g with cap := c }).setCapRegs (s.checkpoint pa)).redirect (s.capEntry pa step))

/-- An adopter gives up (R334, R336): its own capsule registers, IDLE, F0 at its own CAPB. -/
def Grp.capLeave (g : Grp) : Grp :=
  let h := g.setCapRegs g.cap.saved
  { h with cap := { h.cap with st := .idle, body := false, busy := false }
           f0 := match h.f0 with | some f => some { f with pos := g.cap.capb, wait := .none, arriving := false } | none => none }

/-- Is there something for a CAPB that waits on the record at `a` to do (R332): the lock is free, failed, or descheduled for the adopt
delay, or the record is no longer reached? -/
def State.lockOpen (s : State) (g : Grp) (a : Dword) : Bool :=
  match s.translate g.core g.ctx g.sup a .atomic with
  | .error _ => true
  | .ok r =>
    let w := s.lock r.pa
    r.void || !lwActive w || lwFail w || (lwDesched w && s.adoptDue g r.pa)

/-- A body ends without finishing (R334): an owner is displaced and goes to the exit, an adopter leaves. -/
def Grp.capLost (g : Grp) : Grp :=
  if g.cap.st = .adopting then g.capLeave
  else
    let st := if g.cap.st = .hold then CapSt.displaced else g.cap.st
    ({ g with cap := { g.cap with st := st, body := false, busy := false } }).redirect g.cap.exit

/-- The check of R334 on a group whose body flag is set, as it returns; whether the body goes on where it stood. A re-entry is an acquire, like an adoption (R332). -/
def State.capReturn (s : State) (gid : Nat) : State × Bool :=
  let g := s.grp gid
  if !g.cap.body then (s, true)
  else
    match s.capPa g with
    | none => (s.setGrp gid g.capLost, false)
    | some pa =>
      let w := s.lock pa
      if g.holds w then (s.setLock pa (w &&& ~~~(1#64 <<< 34)), true)
      else if g.cap.st = .delivered ∨ g.cap.st = .failed then (s.setGrp gid g.capLost, false)
      else if lwActive w && lwDesched w && !lwFail w && s.adoptDue g pa && decide (lwGen w = g.cap.gen)
          && decide (g.cap.st = .hold) then
        ((s.capAdopt gid pa .hold true).acquireL1 g.core g.ctx g.sup, false)
      else (s.setGrp gid g.capLost, false)

/-- The group that a holder id names (R326). -/
def State.groupOf (s : State) (id : Word) : Option Nat :=
  (s.groups.find? (fun p => decide (p.2.me = id))).map (fun p => p.1)

/-- The owner of the record at `pa`, if it lives and still waits for this generation's outcome (R330, R337). -/
def State.capOwner (s : State) (pa : Nat) : Option Nat :=
  match s.groupOf (BitVec.ofNat 32 (s.homeWord (pa + 0x74))) with
  | none => none
  | some o =>
    let k := s.grp o
    if (k.cap.st = .hold ∨ k.cap.st = .displaced) ∧ s.capPa k = some pa ∧ k.cap.gen = lwGen (s.lock pa) then some o else none

/-! ### CRES's completion (R338) -/

/-- What CRES does at its completion in state DONE_OWN, DELIVERED or FAILED. -/
def Grp.cresDone (g : Grp) : Grp :=
  let h := match g.cap.st with
    | .doneOwn => (g.setUpred 6 false).setUpred 5 false
    | .delivered =>
      let k := { g with s := Sparse.setList g.s 368 (g.cap.results.take 4)
                        spoison := g.spoison.filter (fun n => decide (n < 368) || decide (372 ≤ n)) }
      (k.setUpred 6 true).setUpred 5 false
    | .failed => (g.setUpred 6 true).setUpred 5 true
    | _ => g
  { h with cap := { h.cap with st := .idle, body := false, busy := false } }

/-- The CRES operations that wait for their outcome. -/
def Grp.cresOps (g : Grp) : List Nat :=
  (g.ops.filter (fun p => match p.2.instr with | .cres _ => true | _ => false)).map (fun p => p.1)

/-- An operation without a path leaves (R23): its flag falls. -/
def Grp.dropOp (g : Grp) (n : Nat) : Grp :=
  match Tab.find g.ops n with
  | none => g
  | some o => ({ g with ops := Tab.drop g.ops n }).flagDown o.flag

/-- Every waiting CRES leaves. -/
def Grp.dropCres (g : Grp) : Grp := g.cresOps.foldl Grp.dropOp g

/-- The outcome of its capsule reaches an owner (R330, R337): a CRES that waits for it completes, and acquires. -/
def State.capOutcome (s : State) (o : Nat) (st : CapSt) (ws : List Word) : State :=
  let k := s.grp o
  let k1 := { k with cap := { k.cap with st := st, results := ws } }
  if k1.cresOps.isEmpty then s.setGrp o k1
  else (s.setGrp o k1.cresDone.dropCres).acquireL1 k.core k.ctx k.sup

/-- R330: the record fails when the group breaks a limit; its owner, another group, learns of it; the group leaves. -/
def State.capFail (s : State) (gid : Nat) : State :=
  let g := s.grp gid
  let t := match s.capPa g with
    | none => s
    | some pa =>
      let w := s.lock pa
      if g.holds w then
        let u := s.setLock pa (w ||| (1#64 <<< 36))
        if BitVec.ofNat 32 (s.homeWord (pa + 0x74)) = g.me then u
        else
          match s.capOwner pa with
          | some o => u.capOutcome o .failed []
          | none => u
      else s
  t.modGrp gid (fun (k : Grp) =>
    let h := if k.cap.st = CapSt.adopting then k.setCapRegs k.cap.saved else k
    { h with cap := { h.cap with st := .idle, body := false, busy := false } })

end Sys2Proof.Machine
end

