-- ==== Sys2Proof/Machine/Flags.lean ====
section
/-! DEFINITION. Completion flags and path counters by instruction (02 R56 to R58, 07 R183), the fault point (05 R141), the combining
types of compares (02 R53), and the completion of an operation (01 R23, R24; 12 R288). -/
namespace Sys2Proof.Machine

/-- The latency classes of R56 that raise a flag. -/
inductive FlagClass where
  | a | b
  deriving DecidableEq, Repr

/-- R56. -/
def flagClass (i : Instr) : Option FlagClass :=
  match i with
  | .ldW _ | .ldD _ | .ldQ _ | .ldN _ | .ldl _ | .ldk _ | .sld _ | .tex _ | .tld _ => some .a
  | .frcp _ | .frsq _ | .fsqrt _ | .fex2 _ | .flg2 _ | .fsin _ | .fcos _ | .ftanh _ => some .b
  | .atomr _ | .atoml _ | .cas _ | .casl _ | .satom _ => some .b
  | .mma _ | .mmas _ | .mloop _ | .mzero _ | .mldt _ | .mstt _ | .scalc _ | .mtrn _ | .perc _ => some .b
  | .cpy _ | .cpyt _ | .cpyx _ | .launch _ | .dcmd _ | .cstep _ | .cres _ => some .b
  | _ => none

/-- Special functions and FSQRT, which stand in the replay queue until they complete (04 R95, R104). -/
def isSfu (i : Instr) : Bool :=
  match i with
  | .frcp _ | .frsq _ | .fsqrt _ | .fex2 _ | .flg2 _ | .fsin _ | .fcos _ | .ftanh _ => true
  | _ => false

/-- Does the instruction's fault point lie after its issue (05 R141; 04 R104)? -/
def lateFault (i : Instr) : Bool :=
  isSfu i ||
  match i with
  | .ldW _ | .ldD _ | .ldQ _ | .ldN _ | .stW _ | .stD _ | .stQ _ | .stN _ | .ldl _ | .stl _ | .ldw _ | .ldk _ | .stk _ => true
  | .sld _ | .sst _ | .satom _ | .pref _ | .atom _ | .atomr _ | .atoml _ | .cas _ | .casl _ | .cwb _ | .cinv _ | .cinvP _ => true
  | .tex _ | .tld _ | .perc _ => true
  | _ => false

/-- Is the instruction a global load that the throttle holds back (11 R271)? -/
def isGlobalLoad (i : Instr) : Bool :=
  match i with
  | .ldW _ | .ldD _ | .ldQ _ | .ldN _ | .sld _ | .ldw _ | .pref _ => true
  | _ => false

/-- The matrix instructions of the unit's queues and of the sequencers (08 R217, R224; 09 R231). -/
def isMatrix (i : Instr) : Bool :=
  match i with
  | .mma _ | .mmas _ | .mloop _ | .mzero _ | .mldt _ | .mstt _ | .scalc _ | .mtrn _ | .perc _ => true
  | _ => false

/-- The loads and window or scalar atomics and loads with acquire order (07 R198). -/
def acquires (i : Instr) : Bool :=
  match i with
  | .ldW x | .ldD x | .ldQ x | .ldN x | .ldl x => decide (memOrder x.pf = 1)
  | .sld x => decide (memOrder x.pf = 1)
  | .atomr x | .atoml x | .cas x | .casl x => decide (atomOrder x.pf = 1) || decide (atomOrder x.pf = 3)
  | .satom x => decide (atomOrder x.pf = 1) || decide (atomOrder x.pf = 3)
  | _ => false

/-- The stores and atomics with release order (07 R198). -/
def releases (i : Instr) : Bool :=
  match i with
  | .stW x | .stD x | .stQ x | .stN x | .stl x => decide (memOrder x.pf = 2)
  | .sst x => decide (memOrder x.pf = 2)
  | .atom x | .atomr x | .atoml x | .cas x | .casl x => decide (2 ≤ atomOrder x.pf)
  | .satom x => decide (2 ≤ atomOrder x.pf)
  | _ => false

/-- The flag that an instruction of the class raises in a clause with these setA and setB (R57, R58). -/
def flagOf (c : Option FlagClass) (setA setB : BitVec 4) : Option Nat :=
  match c with
  | none => none
  | some .a => if setA = 15#4 then none else some setA.toNat
  | some .b => if setB = 15#4 then none else some setB.toNat

/-- The new value of a compare's predicate field (R53): `first` for p1, `c` the compare's result, `m` the active set. -/
def cmpCombine (ct : BitVec 3) (first : Bool) (m old c : BitVec 32) : BitVec 32 :=
  let v := if first then c else ~~~c
  match ct.toNat with
  | 0 => (old &&& ~~~m) ||| (v &&& m)
  | 1 => v &&& m
  | 2 => (old &&& ~~~m) ||| (old &&& v &&& m)
  | 3 => old ||| (v &&& m)
  | 4 => if first then (old &&& ~~~m) ||| (old &&& v &&& m) else old ||| (v &&& m)
  | _ => if first then old ||| (v &&& m) else (old &&& ~~~m) ||| (old &&& v &&& m)

/-- Writes p1 and p2 of a lane compare. -/
def Grp.cmpWrite (g : Grp) (x : Cmp) (m c : BitVec 32) : Grp :=
  let a := cmpCombine x.c true m (g.pred x.p.toNat) c
  let b := cmpCombine x.c false m (g.pred x.q.toNat) c
  (g.setPred x.p.toNat a).setPred x.q.toNat b

/-- Writes the uniform predicates of an SCMP (R53). -/
def Grp.scmpWrite (g : Grp) (x : Cmp) (c : Bool) : Grp :=
  let w (first : Bool) (i : Nat) : Bool :=
    (cmpCombine x.c first 1#32 (BitVec.ofBool (g.upred i) |>.setWidth 32) (BitVec.ofBool c |>.setWidth 32)).getLsbD 0
  (g.setUpred x.p.toNat (w true x.p.toNat)).setUpred x.q.toNat (w false x.q.toNat)

/-- Completes the numbers `first` to `last` of timeline `i`. -/
def Grp.tlCompleteRange (g : Grp) (i first n : Nat) : Grp :=
  match n with
  | 0 => g
  | n + 1 => (g.tlComplete i first).tlCompleteRange i (first + 1) n

/-- Completes the TLINC numbers whose accesses are all complete (12 R288). -/
def Grp.tlincCheck (g : Grp) (xs : List (Nat × Nat × Nat × List Nat)) : Grp :=
  match xs with
  | [] => g
  | (i, a, b, ops) :: r => if ops.isEmpty then (g.tlCompleteRange i a (b + 1 - a)).tlincCheck r else g.tlincCheck r

/-- Operation `n` is gone: TLINC numbers no longer wait for it. -/
def Grp.tlincDone (g : Grp) (n : Nat) : Grp :=
  let xs := g.tlinc.map (fun t => (t.1, t.2.1, t.2.2.1, t.2.2.2.filter (fun k => decide (k ≠ n))))
  ({ g with tlinc := xs.filter (fun t => !t.2.2.2.isEmpty) }).tlincCheck xs

/-- Operation `n` completes (R23, R24): it is no longer outstanding, its flag and path counter fall. -/
def Grp.opDone (g : Grp) (n : Nat) : Grp :=
  match Tab.find g.ops n with
  | none => g
  | some o => ((({ g with ops := Tab.drop g.ops n }).flagDown o.flag).pathDown o.path).tlincDone n

/-- Lanes whose effect is owed and has not landed. -/
def Op.owed (o : Op) : BitVec 32 := o.todo &&& ~~~o.landed

/-- Is operation `n` the oldest on its path (R24), and is every access done that a fusion orders before it (05 R129)? -/
def Grp.pathFirst (g : Grp) (n : Nat) : Bool :=
  match Tab.find g.ops n with
  | none => false
  | some o => (o.path.isNone || g.ops.all (fun p => decide (p.2.path ≠ o.path) || decide (n ≤ p.1)))
      && o.after.all (fun k => (Tab.find g.ops k).isNone)

/-- Is a percolation run of the group open? A later MLOOP starts after it (09 R242). -/
def Grp.percOpen (g : Grp) : Bool := g.ops.any (fun p => match p.2.instr with | .perc _ => true | _ => false)

/-- Does the instruction's result land after its issue, so that it is held there and not at its issue while a direct matrix instruction uses the line (08 R219)? -/
def landsLater (i : Instr) : Bool :=
  match i with
  | .ldW _ | .ldD _ | .ldQ _ | .ldN _ | .ldk _ | .ldl _ | .atomr _ | .atoml _ | .cas _ | .casl _ | .tex _ | .tld _ | .svcD _ | .svcC _ | .setl _ => true
  | _ => false

/-- Lines that a matrix operation of the group reads or writes (08 R219). -/
def Grp.matrixLines (g : Grp) : List Nat :=
  g.ops.flatMap (fun p => if isMatrix p.2.instr then p.2.lines ++ p.2.reads else [])

/-- Lines busy for every access: the accumulators of loops and the matrices of percolation runs (08 R226, 09 R243). -/
def Grp.busyLines (g : Grp) : List Nat :=
  g.ops.flatMap (fun p => match p.2.instr with
    | .mloop _ => p.2.lines
    | .perc _ => p.2.lines ++ p.2.reads
    | _ => [])

/-- May a result land on these lines now (08 R219, R226)? -/
def Grp.canLand (g : Grp) (ls : List Nat) : Bool := ls.all (fun l => !g.matrixLines.contains l)

end Sys2Proof.Machine
end

