-- ==== Sys2Proof/Machine/Operands.lean ====
section
/-! DEFINITION. The operand forms of the instructions: registers, scalars in place of registers, immediates, pairs, and addresses
(02 R49 to R53, 04 R94, 07 R176). -/
namespace Sys2Proof.Machine

/-- Operand a of a lane form in lane `l` (R94). -/
def Grp.opA (g : Grp) (pf : List Pf) (a : BitVec 7) (l : Nat) : Word :=
  match pfSubA pf with
  | some n => g.scalar n
  | none => g.vreg a.toNat l

/-- Operand b of a lane form in lane `l`; `f32`: a HIMM is an F32 operand (R50). -/
def Grp.opB (g : Grp) (pf : List Pf) (b : BitVec 7) (f32 : Bool) (l : Nat) : Word :=
  match pfSubB pf with
  | some n => g.scalar n
  | none =>
    match (if f32 then himmF32 pf else himmInt pf) with
    | some w => w
    | none => g.vreg b.toNat l

/-- A 64-bit operand a. -/
def Grp.opA64 (g : Grp) (pf : List Pf) (a : BitVec 7) (l : Nat) : Dword :=
  match pfSubA pf with
  | some n => g.scalarPair n
  | none => pair (g.vreg (a.toNat + 1) l) (g.vreg a.toNat l)

/-- A 64-bit operand b. -/
def Grp.opB64 (g : Grp) (pf : List Pf) (b : BitVec 7) (l : Nat) : Dword :=
  match pfSubB pf with
  | some n => g.scalarPair n
  | none =>
    match himm64 pf with
    | some w => w
    | none => pair (g.vreg (b.toNat + 1) l) (g.vreg b.toNat l)

/-- Operand a of a scalar form (R49, R119). -/
def Grp.sclOpA (g : Grp) (pf : List Pf) (a : BitVec 7) : Word := g.scalar (sclA pf a.toNat)

/-- Operand b of a scalar form. -/
def Grp.sclOpB (g : Grp) (pf : List Pf) (b : BitVec 7) (f32 : Bool) : Word :=
  match pfSubB pf with
  | some n => g.scalar n
  | none =>
    match (if f32 then himmF32 pf else himmInt pf) with
    | some w => w
    | none => g.scalar b.toNat

/-- The active set of a lane form: M = amask AND p[g]. -/
def Grp.lanes (g : Grp) (f : Frag) (gd : BitVec 3) : BitVec 32 := f.mask &&& g.pred gd.toNat

/-- The active set of a form with a uniform guard. -/
def Grp.guarded (g : Grp) (f : Frag) (kg : BitVec 3) : BitVec 32 := if g.upred kg.toNat then f.mask else 0

/-- A lane's global address (07 R176). -/
def globalAddr (base : Dword) (off : Word) (imm : Dword) : Dword := base + off.signExtend 64 + imm

/-- A lane's window address (07 R176). -/
def windowAddr (base off : Word) (imm : Dword) : Word := base + off + lo32 imm

/-- The address of a scalar access (07 R187). -/
def scalarAddr (base : Dword) (b : Word) : Dword := base + b.signExtend 64

/-- A captured operand slot of 32 words (05 R147): the operand in every lane of `m`, zero elsewhere. -/
def capture (m : BitVec 32) (f : Nat → Word) : List Word := (List.range 32).map (fun l => if m.getLsbD l then f l else 0)

/-- A scalar in lane 0 of a slot (05 R147). -/
def captureScalar (w : Word) : List Word := w :: List.replicate 31 0

/-- Lane `l` of captured slot `i`. -/
def Op.slotAt (o : Op) (i l : Nat) : Word := (o.slots.getD i []).getD l 0

end Sys2Proof.Machine
end

