-- ==== Sys2Proof/Machine/Frames.lean ====
section
/-! DEFINITION. The trap frame as bytes (05 R125, R146, R147) and its checks on the way back (R148). -/
namespace Sys2Proof.Machine

/-- The resume word of a fragment (R125). -/
def resumeWord (f : Frag) : Dword :=
  0#44 ++ BitVec.ofNat 4 f.bko ++ 0#2 ++ BitVec.ofBool f.pos.y ++ BitVec.ofNat 5 f.pos.next ++ f.pos.setB ++ f.pos.setA

/-- The same for the continuation of a replay entry. -/
def contWord (e : ReplayEntry) : Dword := resumeWord { fragAt 0 0 with pos := e.cont, bko := e.contBko }

/-- The reserved fields of a resume word (R125). -/
def resumeReserved (w : Dword) : Bool := decide (w.extractLsb' 20 44 = 0#44) && decide (w.extractLsb' 14 2 = 0#2)

/-- Position and backoff level of a position record; none where a reserved bit is set (R148). Every other field is taken as it stands: a changed position
is checked when its fragment issues there (R149). -/
def readPos (hdr w : Dword) : Option (Pos × Nat) :=
  if resumeReserved w then
    some (⟨hdr, (w.extractLsb' 8 5).toNat, w.extractLsb' 0 4, w.extractLsb' 4 4, w.getLsbD 13⟩, (w.extractLsb' 16 4).toNat)
  else none

/-- Two words as one doubleword, low word first. -/
def wordPair (ws : List Word) (i : Nat) : Dword := pair (ws.getD (2 * i + 1) 0) (ws.getD (2 * i) 0)

/-- The path code of R147. -/
def pathCode (p : Option PathK) : BitVec 3 :=
  match p with | none => 0 | some .ld => 1 | some .st => 2 | some .win => 3 | some .smp => 4

/-- The status word of a replay entry (R147). -/
def entryStatus (e : ReplayEntry) : Word :=
  0#9 ++ pathCode e.path ++ BitVec.ofNat 4 (e.flag.getD 15) ++ BitVec.ofNat 8 e.cause ++ BitVec.ofNat 4 e.kind
    ++ BitVec.ofNat 4 e.words.length

/-- A replay entry's 128 doublewords (R147). -/
def entryDwords (e : ReplayEntry) : List Dword :=
  let ws := e.words ++ List.replicate (8 - e.words.length) (BitVec.allOnes 32)
  (List.range 4).map (wordPair ws)
    ++ [e.pc, pair e.held e.done, pair e.m (entryStatus e), e.base, e.cont.hdr, contWord e, e.faddr]
    ++ List.replicate 21 0
    ++ (List.range 6).flatMap (fun k => (List.range 16).map (wordPair (e.slots.getD k [])))

/-- A split-table entry's two doublewords (01 R19). -/
def splitDwords (e : SplitEntry) : Dword × Dword :=
  match e.kind with
  | .spilled f => (0b01#2 ++ e.order ++ f.pos.hdr.setWidth 48, pair f.mask 0)
  | .reconv a m r => (0b10#2 ++ e.order ++ a.setWidth 48, pair m r)

/-- Mask of a slot, 0 where it is empty. -/
def maskOfSlot (f : Option Frag) : BitVec 32 := match f with | some f => f.mask | none => 0

/-- Header address and resume word of a slot. -/
def slotPos (f : Option Frag) : List Dword := match f with | some f => [f.pos.hdr, resumeWord f] | none => [0, 0]

/-- The frame's 1,408 doublewords by index (R146), zero where not listed. -/
def frameDwords (f : Frame) : Sparse 64 :=
  let h : List Dword := [pair f.tmask f.tcause, pair f.exited f.tfault, pair (maskOfSlot f.f1) (maskOfSlot f.f0), f.pc]
    ++ slotPos f.f0 ++ slotPos f.f1 ++ [f.faddr]
  let a := Sparse.setList ([] : Sparse 64) 0 h
  let b := f.split.foldl (fun m p =>
    let d := splitDwords p.2
    let m1 := Sparse.setList m (128 + 2 * p.1) [d.1, d.2]
    match p.2.kind with | .spilled g => Sparse.set m1 (256 + p.1) (resumeWord g) | .reconv _ _ _ => m1) a
  (f.replay.zipIdx).foldl (fun m p => Sparse.setList m (384 + 128 * p.2) (entryDwords p.1)) b

/-- A checked fragment of a frame: a fragment the frame leaves as it was keeps what it waits for (R149, R151). -/
def readFrag (olds : List Frag) (hdr w : Dword) (m : BitVec 32) : Option Frag :=
  match readPos hdr w with
  | none => none
  | some (p, bko) =>
    match olds.find? (fun o => decide (o.pos = p) && decide (o.mask = m) && decide (o.bko = bko)) with
    | some o => some o
    | none => some { fragAt hdr m with pos := p, bko := bko }

/-- Fragments of a frame as it was made. -/
def frameFrags (f : Frame) : List Frag :=
  f.f0.toList ++ f.f1.toList ++ f.split.filterMap (fun p => match p.2.kind with | .spilled g => some g | .reconv _ _ _ => none)

/-- All of a list of options, or none. -/
def allSome {α : Type} (xs : List (Option α)) : Option (List α) :=
  match xs with
  | [] => some []
  | none :: _ => none
  | some x :: r => (allSome r).map (fun t => x :: t)

/-- Split-table entry `i` of a frame image (R19, R125); the outer none is a failed check: a reserved bit of the entry or of its resume word, or the
`arrived` field of a spilled fragment, that is not zero. Kind 3, which is never written, restores nothing, like kind 0 (log 63). -/
def readSplit (d : Nat → Dword) (olds : List Frag) (i : Nat) : Option (Option (Nat × SplitEntry)) :=
  let lo := d (128 + 2 * i)
  let hi := d (129 + 2 * i)
  let w := d (256 + i)
  let order := lo.extractLsb' 48 14
  let a : Dword := ((lo.extractLsb' 0 48).signExtend 64)
  let k := lo.extractLsb' 62 2
  if lo.extractLsb' 0 2 ≠ 0#2 ∨ resumeReserved w = false then none
  else if k = 1#2 then
    if lo32 hi ≠ 0 then none else (readFrag olds a w (hi32 hi)).map (fun f => some (i, ⟨order, .spilled f⟩))
  else if k = 2#2 then some (some (i, ⟨order, .reconv a (hi32 hi) (lo32 hi)⟩))
  else some none

/-- Replay entry `k` of a frame image, against the entry as it was made (R147, R148): its zero fields, its opcode and its prefix words are checked.
A flag number from 12 to 14 names no flag, and a path code above 4 no path (log 63); words past the word count are not looked at. -/
def readEntry (d : Nat → Dword) (k : Nat) (old : ReplayEntry) : Option ReplayEntry :=
  let b := 384 + 128 * k
  let st := lo32 (d (b + 6))
  let n := (st.extractLsb' 0 4).toNat
  let ws := (List.range 8).map (fun i => if i % 2 = 0 then lo32 (d (b + i / 2)) else hi32 (d (b + i / 2)))
  let words := ws.take n
  let flag := (st.extractLsb' 16 4).toNat
  let path := (st.extractLsb' 20 3).toNat
  let op (l : List Word) : Nat := match l.getLast? with | some w => (w.extractLsb' 24 8).toNat | none => 256
  let pfOk := match decode words with
    | .ok (i, []) => (match instrIllegal i with | some (.pfx _) => false | _ => true)
    | .error .badWord => true
    | _ => false
  if n = 0 ∨ 7 < n ∨ st.extractLsb' 23 9 ≠ 0#9
      ∨ (List.range 21).any (fun i => decide (d (b + 11 + i) ≠ 0)) = true ∨ op words ≠ op old.words ∨ pfOk = false then none
  else
    match readPos (d (b + 8)) (d (b + 9)) with
    | none => none
    | some (cont, bko) =>
      some { old with
        words := words, pc := d (b + 4), done := lo32 (d (b + 5)), held := hi32 (d (b + 5))
        kind := (st.extractLsb' 4 4).toNat, cause := (st.extractLsb' 8 8).toNat
        flag := if 12 ≤ flag then none else some flag
        path := if path = 0 ∨ 4 < path then none else some (PathK.ofNum (path - 1))
        m := hi32 (d (b + 6)), base := d (b + 7), cont := cont, contBko := bko, faddr := d (b + 10)
        slots := (List.range 6).map (fun s => (List.range 32).map (fun l =>
          let x := d (b + 32 + 16 * s + l / 2)
          if l % 2 = 0 then lo32 x else hi32 x)) }

/-- Are the masks pairwise disjoint with union `all` (R148)? -/
def partitionOk (all : BitVec 32) (ms : List (BitVec 32)) : Bool :=
  let r := ms.foldl (fun (acc : Bool × BitVec 32) m => (acc.1 && decide (acc.2 &&& m = 0), acc.2 ||| m)) (true, 0)
  r.1 && decide (r.2 = all)

/-- The distinct continuations of a list of entries with held lanes, in order, with the lanes of each (R148). -/
def contLanes (es : List ReplayEntry) : List (Pos × Nat × BitVec 32) :=
  es.foldl (fun acc e =>
    if e.held = 0 then acc
    else if acc.any (fun c => decide (c.1 = e.cont)) then
      acc.map (fun c => if c.1 = e.cont then (c.1, c.2.1, c.2.2 ||| e.held) else c)
    else acc ++ [(e.cont, e.contBko, e.held)]) []

/-- The checks of R148 on a frame of a group with present lanes `gmask`. -/
def frameOk (gmask : BitVec 32) (f : Frame) : Bool :=
  let sp := f.split.map (fun p => match p.2.kind with
    | .spilled g => g.mask
    | .reconv _ _ a => a &&& ~~~f.exited)
  let free := (if f.f0.isNone then 1 else 0) + (if f.f1.isNone then 1 else 0) + (64 - f.split.length)
  partitionOk gmask ([maskOfSlot f.f0, maskOfSlot f.f1, f.exited] ++ sp ++ f.replay.map (fun e => e.held))
    && decide (f.replay.length ≤ 8) && decide ((contLanes f.replay).length ≤ free)

/-- A frame read back from its doublewords, with every check of R148; `old` is the frame as it was made. -/
def readFrame (gmask : BitVec 32) (old : Frame) (d : Nat → Dword) : Option Frame :=
  let olds := frameFrags old
  let tcause := lo32 (d 0)
  let nq := (tcause.extractLsb' 12 4).toNat
  let m0 := lo32 (d 2)
  let m1 := hi32 (d 2)
  let fr (m : BitVec 32) (i : Nat) : Option (Option Frag) :=
    if m = 0 then (if resumeReserved (d (i + 1)) then some none else none) else (readFrag olds (d i) (d (i + 1)) m).map some
  if nq > 8 ∨ nq > old.replay.length ∨ tcause.getLsbD 9 = true
      ∨ (List.range 119).any (fun i => decide (d (9 + i) ≠ 0)) = true
      ∨ (List.range 64).any (fun i => decide (d (320 + i) ≠ 0)) = true
      ∨ (List.range (128 * (8 - nq))).any (fun i => decide (d (384 + 128 * nq + i) ≠ 0)) = true then none
  else
    match fr m0 4, fr m1 6, allSome ((List.range 64).map (readSplit d olds)),
        allSome ((old.replay.take nq).zipIdx.map (fun p => readEntry d p.2 p.1)) with
    | some f0, some f1, some sp, some es =>
      let f : Frame := { old with
        tcause := tcause, tmask := hi32 (d 0), tfault := lo32 (d 1), exited := hi32 (d 1), f0 := f0, f1 := f1, pc := d 3
        faddr := d 8, split := sp.filterMap id, replay := es }
      if frameOk gmask f then some f else none
    | _, _, _, _ => none

end Sys2Proof.Machine
end

