-- ==== Sys2Proof/Machine/Matrix.lean ====
section
/-! DEFINITION. What the matrix unit computes (03 R87 to R92; 08 R212 to R215, R221, R222): elements of a line, chunked sums, sparse
patterns, block scaling, and the products of percolation (09 R236 to R238). -/
namespace Sys2Proof.Machine

/-! ### Formats (R213) -/

/-- An element format of an operand. -/
inductive MEl where
  | flt (f : Ff)
  | int (bits : Nat)
  deriving DecidableEq, Repr

/-- Width of an element in bits. -/
def MEl.bits (e : MEl) : Nat := match e with | .flt f => f.bits | .int b => b

/-- A format code's row of R213 and R87: the two element formats, elements in a line, products in a chunk, saturation. -/
structure MFmt where
  a : MEl
  b : MEl
  kt : Nat
  chunk : Nat
  sat : Bool
  deriving DecidableEq, Repr

/-- The row of a format code; codes 12 to 15 are ILLEGAL and have none. -/
def mFmt (f : BitVec 4) : MFmt :=
  match f.toNat with
  | 0 => ⟨.flt .h16, .flt .h16, 64, 16, false⟩
  | 1 => ⟨.flt .b16, .flt .b16, 64, 16, false⟩
  | 2 => ⟨.flt .f8a, .flt .f8a, 128, 32, false⟩
  | 3 => ⟨.flt .f8b, .flt .f8b, 128, 32, false⟩
  | 4 => ⟨.flt .f8a, .flt .f8b, 128, 32, false⟩
  | 5 => ⟨.flt .f8b, .flt .f8a, 128, 32, false⟩
  | 6 => ⟨.flt .f4, .flt .f4, 256, 64, false⟩
  | 7 => ⟨.int 8, .int 8, 128, 32, false⟩
  | 8 => ⟨.int 8, .int 8, 128, 32, true⟩
  | 9 => ⟨.int 4, .int 4, 256, 64, false⟩
  | 10 => ⟨.int 4, .int 4, 256, 64, true⟩
  | _ => ⟨.flt .f32, .flt .f32, 32, 16, false⟩

/-- The elements of consecutive words, least significant first (R72). -/
def wordElems (w : Nat) (ws : List Word) : List Nat :=
  ws.flatMap (fun (x : Word) => (List.range (32 / w)).map (fun i => x.toNat / 2 ^ (w * i) % 2 ^ w))

/-- An operand's element in a sum: a floating-point value, an integer, or none where a sparse pattern keeps nothing. -/
inductive MVal where
  | flt (v : Fv)
  | int (v : Int)
  | zero
  deriving DecidableEq, Repr

/-- The value of an element's bits; integers are signed (R212). -/
def MEl.value (e : MEl) (x : Nat) : MVal :=
  match e with
  | .flt f => .flt (f.value x)
  | .int b => .int (BitVec.ofNat b x).toInt

/-- The elements of a row of words. -/
def MEl.row (e : MEl) (ws : List Word) : List MVal := (wordElems e.bits ws).map e.value

/-! ### Chunked sums (R87 to R89) -/

/-- A floating-point product; a product with an element that was not kept counts as +0 (R87). -/
def MVal.mulF (a b : MVal) : Fv :=
  match a, b with
  | .flt x, .flt y => x.mul y
  | _, _ => .fin false 0 0

/-- An integer product. -/
def MVal.mulI (a b : MVal) : Int :=
  match a, b with
  | .int x, .int y => x * y
  | _, _ => 0

/-- The exact sum of a chunk's products (R88): a zero sum is -0 only if every product is -0. -/
def sumF (ps : List Fv) : Fv :=
  match ps with
  | [] => .fin false 0 0
  | p :: r => r.foldl (Fv.add .rne) p

/-- One F32 rounding by RNE. -/
def roundF (v : Fv) : Word := BitVec.ofNat 32 (Ff.f32.round FpMod.none v)

/-- The value of an F32 pattern. -/
def f32Val (w : Word) : Fv := Ff.f32.value w.toNat

/-- An F32 accumulator through the chunks of `n` products in ascending order (R88). -/
def chunksF (fuel n : Nat) (d : Word) (ps : List Fv) : Word :=
  match fuel with
  | 0 => d
  | k + 1 => if ps.isEmpty then d else chunksF k n (roundF (Fv.add .rne (f32Val d) (sumF (ps.take n)))) (ps.drop n)

/-- The I32 accumulator of one chunk (R89). -/
def addI (sat : Bool) (d : Word) (s : Int) : Word :=
  if sat then BitVec.ofInt 32 (clampInt (-(2 ^ 31)) (2 ^ 31 - 1) (d.toInt + s)) else BitVec.ofInt 32 (d.toInt + s)

/-- An I32 accumulator through its chunks (R89). -/
def chunksI (fuel n : Nat) (sat : Bool) (d : Word) (ps : List Int) : Word :=
  match fuel with
  | 0 => d
  | k + 1 => if ps.isEmpty then d else chunksI k n sat (addI sat d ((ps.take n).foldl (· + ·) 0)) (ps.drop n)

/-- One output element of a step: the old value, row `a` of A and column `b` of B. -/
def MFmt.dot (f : MFmt) (d : Word) (a b : List MVal) : Word :=
  match f.a with
  | .flt _ => chunksF 8 f.chunk d ((a.zip b).map (fun p => p.1.mulF p.2))
  | .int _ => chunksI 8 f.chunk f.sat d ((a.zip b).map (fun p => p.1.mulI p.2))

/-- A step: the 32 lines of the accumulator after it (R220). -/
def MFmt.step (f : MFmt) (d : List (List Word)) (a b : List (List MVal)) : List (List Word) :=
  (d.zip a).map (fun p => (p.1.zip b).map (fun q => f.dot q.1 p.2 q.2))

/-! ### Generated sparsity (R221, R222) -/

/-- mix32 of R222. -/
def mix32 (x : Word) : Word :=
  let a := (x ^^^ (x >>> 16)) * 0x7FEB352D#32
  let b := (a ^^^ (a >>> 15)) * 0x846CA68B#32
  b ^^^ (b >>> 16)

/-- The kept pair of group `g` in row `i` (R222). -/
def keptPair (seed : Word) (i g : Nat) : Nat × Nat :=
  let h := mix32 (seed ^^^ (BitVec.ofNat 32 i * 0x9E3779B9#32) ^^^ (BitVec.ofNat 32 g * 0x85EBCA6B#32))
  match (h >>> 16).toNat % 6 with
  | 0 => (0, 1) | 1 => (0, 2) | 2 => (0, 3) | 3 => (1, 2) | 4 => (1, 3) | _ => (2, 3)

/-- A compressed row expanded (R222). -/
def expandRow (seed : Word) (i : Nat) (row : List MVal) : List MVal :=
  (List.range (row.length / 2)).flatMap (fun g =>
    let p := keptPair seed i g
    (List.range 4).map (fun e => if e = p.1 then row.getD (2 * g) .zero else if e = p.2 then row.getD (2 * g + 1) .zero else .zero))

/-- Is an operand header of four words valid for the format code (R221)? -/
def sparseOk (f : BitVec 4) (h : List Word) : Bool :=
  let seed := h.getD 0 0
  let w1 := h.getD 1 0
  decide (w1 = 0x00000001#32 ||| (f.setWidth 32 <<< 8)) && decide (h.getD 2 0 = seed ^^^ 0x5EED0000#32 ^^^ 0x100#32 ^^^ f.setWidth 32)
    && decide (h.getD 3 0 = 0)

/-! ### Feedback and scaling (R90, R92) -/

/-- A fed-back F32 element under format code 1: rounded once to B16 (R90). -/
def feedB16 (w : Word) : MVal := .flt (Ff.b16.value (Ff.b16.round FpMod.none (f32Val w)))

/-- A value scaled by a power of two, exactly. -/
def Fv.scale (v : Fv) (k : Int) : Fv := match v with | .fin s m e => .fin s m (e + k) | x => x

/-- One element of SCALC (R92). -/
def scaleAdd (d p : Word) (er ec : BitVec 8) : Word :=
  if er = 0xFF#8 ∨ ec = 0xFF#8 then roundF .nan
  else roundF (Fv.add .rne (f32Val d) ((f32Val p).scale ((er.toNat : Int) + ec.toNat - 254)))

/-! ### Window operands (R215) -/

/-- A window operand's descriptor as captured at issue. -/
structure WinOp where
  base : Word
  rot : Nat
  tpitch : Nat
  rpitch : Nat
  deriving DecidableEq, Repr

/-- The descriptor of R215 from its two words. -/
def winOp (base ctl : Word) : WinOp :=
  ⟨base, (ctl.extractLsb' 28 4).toNat, (ctl.extractLsb' 12 16).toNat, (ctl.extractLsb' 0 12).toNat⟩

/-- Bytes of an operand's row: the compressed A of a sparse step has half (R215). -/
def rowBytes (comp : Bool) : Nat := if comp then 64 else 128

/-- Does the descriptor raise ILLEGAL (R215)? -/
def WinOp.illegal (w : WinOp) (comp : Bool) : Bool :=
  decide (7 < w.rot) || (decide (w.rpitch ≠ 0) && decide (w.rpitch < rowBytes comp / 16))

/-- Window address of chunk `c` of row `r` at loop step `s`. -/
def WinOp.chunkAt (w : WinOp) (comp : Bool) (s r c : Nat) : Word :=
  let p := if w.rpitch = 0 then rowBytes comp else 16 * w.rpitch
  let pos := (c + w.rot * (r / 8)) % (rowBytes comp / 16)
  w.base + BitVec.ofNat 32 (128 * w.tpitch * s + (if comp then 16 else 0) + r * p + 16 * pos)

/-- Window addresses of every 16-byte piece of the operand at a step, the header first. -/
def WinOp.pieces (w : WinOp) (comp : Bool) (s : Nat) : List Word :=
  (if comp then [w.base + BitVec.ofNat 32 (128 * w.tpitch * s)] else [])
    ++ (List.range 32).flatMap (fun r => (List.range (rowBytes comp / 16)).map (fun c => w.chunkAt comp s r c))

/-! ### Percolation (09 R236 to R238) -/

/-- A square matrix by rows. -/
abbrev Mat := List (List Word)

/-- Element of a matrix. -/
def Mat.el (m : Mat) (i j : Nat) : Word := (m.getD i []).getD j 0

/-- A matrix from its elements. -/
def matOf (n : Nat) (f : Nat → Nat → Word) : Mat := (List.range n).map (fun i => (List.range n).map (fun j => f i j))

/-- Transpose. -/
def Mat.transpose (n : Nat) (m : Mat) : Mat := matOf n (fun i j => m.el j i)

/-- The product function mm of R236. -/
def mm (n : Nat) (j0 y z : Mat) : Mat :=
  let zt := z.transpose n
  (List.range n).map (fun i =>
    let yi := (y.getD i []).map f32Val
    (List.range n).map (fun j => chunksF 4 16 (j0.el i j) ((yi.zip ((zt.getD j []).map f32Val)).map (fun p => p.1.mul p.2))))

/-- c·I as an initial matrix: +0 off the diagonal. -/
def diagMat (n : Nat) (c : Word) : Mat := matOf n (fun i j => if i = j then c else 0)

/-- One rounding of a sum of exact terms. -/
def roundSum (ts : List Fv) : Word := roundF (sumF ts)

/-- The residual of R238. -/
def residual (n : Nat) (a : Mat) : Word :=
  roundSum ((List.range n).flatMap (fun i => (List.range n).map (fun j =>
    let v := if i = j then Fv.add .rne (f32Val (a.el i j)) (.fin true 1 0) else f32Val (a.el i j)
    v.mul v)))

end Sys2Proof.Machine
end

