-- ==== Sys2Proof/Machine/PercRun.lean ====
section
/-! DEFINITION. A percolation run's iterations (09 R236 to R240), its end (R239, R244), and its stop at the boundary ahead of it (R244, R246). -/
namespace Sys2Proof.Machine

/-- Writes the lines of an operation of the unit, poison into those that derive from poison (06 R172). -/
def Grp.putLines (g : Grp) (ls : List (Nat × List Word)) (poison : List Nat) : Grp :=
  ls.foldl (fun (k : Grp) p =>
    let h := k.writeLine p.1 (BitVec.allOnes 32) (fun l => p.2.getD l 0)
    if poison.contains p.1 then h.poisonLine p.1 else h) g

/-- No earlier matrix operation of the group is open (R218, R242). -/
def Grp.matrixFirst (g : Grp) (n : Nat) : Bool := g.ops.all (fun p => decide (n ≤ p.1) || !isMatrix p.2.instr)

/-- Opcode of the last of a list of words. -/
def wordsOpcode (ws : List Word) : Nat := match ws.getLast? with | some w => (w.extractLsb' 24 8).toNat | none => 0

/-- Count of sr.pstate (09 R240). -/
def pstateCount (p : Dword) : Nat := (p.extractLsb' 32 16).toNat

/-- Removes a group from the percolation sequencer's view and ends a run (09 R239, R244): k0, the end code, flag and tl4. -/
def State.percEnd (s : State) (gid opn : Nat) (k0 : Option Bool) (code : Nat) : State :=
  let g := s.grp gid
  let n := match Tab.find g.ops opn with | some o => o.n.toNat | none => 0
  let g1 := match k0 with | some b => g.setUpred 0 b | none => g
  let g2 := { g1 with pstate := (g1.pstate &&& ~~~(0x000E000000000000#64)) ||| (BitVec.ofNat 64 code <<< 49) }
  let g3 := g2.opDone opn
  (s.setGrp gid (if n = 0 then g3 else g3.tlComplete 4 n)).modCore g.core (fun k =>
    { k with perc := match k.perc with | some p => if p.g = gid ∧ p.op = opn then none else some p | none => none
             percq := k.percq.filter (fun p => !(decide (p.g = gid) && decide (p.op = opn))) })

/-- Block products of the unit in an iteration, or under POLY in step `h` (R242, R247): one a product at order 32, eight at order 64. -/
def percBlocks (x : Prc) (h : Nat) : Nat :=
  let products := match x.m.toNat with | 0 => if h = 0 then 0 else 1 | 2 => 3 | _ => 2
  products * (if x.o = 1#1 then 8 else 1)

/-- The POLY step that a run stands at (R240). -/
def percStep (g : Grp) : Nat := (g.pstate.extractLsb' 60 4).toNat

/-! ### An iteration -/

/-- The matrix that lies in the lines of one tile, or of four (R232). -/
def Grp.mat (g : Grp) (n : Nat) (ls : List Nat) : Mat :=
  matOf n (fun r c => g.word (ls.getD (32 * (2 * (r / 32) + c / 32) + r % 32) 0) (c % 32))

/-- Writes a matrix to its lines. -/
def Grp.putMat (g : Grp) (n : Nat) (ls : List Nat) (m : Mat) (poison : Bool) : Grp :=
  let tile (i : Nat) : Nat × Nat := ((i / 32 / 2) * 32 + i % 32, (i / 32 % 2) * 32)
  g.putLines ((ls.take (n * n / 32)).zipIdx.map (fun p =>
    let rc := tile p.2
    (p.1, ((m.getD rc.1 []).drop rc.2).take 32))) (if poison then ls else [])

/-- What an iteration or a POLY step gives: the new X and W, the residual, and whether the iteration is whole. -/
structure PercOut where
  x : Option Mat
  w : Option Mat
  rho : Word
  hstep : Nat
  whole : Bool
  deriving DecidableEq, Repr

/-- A coefficient times an element. -/
def coefMul (c e : Word) : Fv := (f32Val c).mul (f32Val e)

/-- One POLY step from `h` (R237): Horner from the top; the last step copies W to X. -/
def polyStep (n d h : Nat) (c : List Word) (x w : Mat) : PercOut :=
  let cj (j : Nat) : Word := c.getD j 0
  let w1 :=
    if h = 0 then
      matOf n (fun i j =>
        if i = j then roundSum [coefMul (cj d) (x.el i j), f32Val (cj (d - 1))] else roundSum [coefMul (cj d) (x.el i j)])
    else mm n (diagMat n (cj (d - 1 - h))) w x
  if h + 1 = d then ⟨some w1, some w1, 0, 0, true⟩ else ⟨none, some w1, 0, h + 1, false⟩

/-- An iteration of NS3, NS5 or INV (R237) with its residual; `bad`: a poisoned line makes it NaN (R246). -/
def residualStep (n mode : Nat) (c : List Word) (x w : Mat) (bad : Bool) : PercOut :=
  let zero : Mat := []
  let a := if mode = 3 then mm n zero w x else mm n zero x (x.transpose n)
  let rho := if bad then roundF .nan else residual n a
  let c0 := c.getD 0 0
  let c1 := c.getD 1 0
  let c2 := c.getD 2 0
  let x1 :=
    if mode = 3 then
      mm n zero x (matOf n (fun i j =>
        if i = j then roundSum [.fin false 2 0, (f32Val (a.el i j)).neg] else roundSum [(f32Val (a.el i j)).neg]))
    else
      let b := mm n zero a x
      if mode = 1 then matOf n (fun i j => roundSum [coefMul c0 (x.el i j), coefMul c1 (b.el i j)])
      else
        let e := mm n zero a b
        matOf n (fun i j => roundSum [coefMul c0 (x.el i j), coefMul c1 (b.el i j), coefMul c2 (e.el i j)])
  ⟨some x1, none, rho, 0, true⟩

/-- sr.pstate after an iteration or step (R240). -/
def pstateNext (p : Dword) (hstep count : Nat) (code : Nat) (rho : Word) : Dword :=
  BitVec.ofNat 4 hstep ++ (0#4) ++ p.extractLsb' 52 4 ++ BitVec.ofNat 3 code ++ (0#1) ++ BitVec.ofNat 16 count ++ rho

/-- The run's end or continuation after an iteration (R239). -/
def State.percAfter (s : State) (p : Perc) (x : Prc) (r : PercOut) (lx lw : List Nat) (bad : Bool) : State :=
  let g := s.grp p.g
  let n := if x.o = 1#1 then 64 else 32
  let count := pstateCount g.pstate + (if r.whole then 1 else 0)
  let g1 := match r.x with | some m => g.putMat n lx m bad | none => g
  let g2 := match r.w with | some m => g1.putMat n lw m bad | none => g1
  let g3 := { g2 with pstate := pstateNext g.pstate r.hstep count 0 r.rho }
  let t := s.setGrp p.g g3
  let rho := f32Val r.rho
  let c13 := f32Val (p.coef.getD 13 0)
  let next := t.modCore g.core (fun k => { k with perc := some { p with left := percBlocks x r.hstep } })
  if !r.whole then next
  else if x.m = 0#3 then (if count = p.cap then t.percEnd p.g p.op (some true) 2 else next)
  else if !rho.isNan && !c13.isNan && decide (Fv.cmp rho c13 ≤ 0) then t.percEnd p.g p.op (some true) 1
  else if count = p.cap then t.percEnd p.g p.op (some false) 2
  else next

/-- The end of the iteration, or of the POLY step, that a core's run is in (R239): what it computes; a failed divergence test stops the run, and raises PERCDIV at its
fault point (R245). -/
def State.percAdvance (s : State) (core : Nat) (p : Perc) (g : Grp) (o : Op) (x : Prc) : State :=
  let n := if x.o = 1#1 then 64 else 32
  let lx := o.lines.take (n * n / 32)
  let lw := o.lines.drop (n * n / 32)
  let bad := o.lines.any (fun l => s.linePoisoned g l)
  let xm := g.mat n lx
  let wm := g.mat n lw
  let r :=
    if x.m = 0#3 then polyStep n x.d.toNat (percStep g) p.coef xm wm
    else residualStep n x.m.toNat p.coef xm wm bad
  let rho := f32Val r.rho
  let c14 := f32Val (p.coef.getD 14 0)
  if decide (x.m ≠ 0#3) && (rho.isNan || (!c14.isNan && decide (0 < Fv.cmp rho c14))) then
    let t := s.modCore core (fun k => { k with perc := none })
    t.modGrp p.g (fun (h : Grp) => { h with
      pstate := pstateNext h.pstate 0 (pstateCount h.pstate) 3 r.rho
      raised := h.raised ++ [⟨0x0B, 0, o.slot, o.m, o.m, o.pc, o.pc, false, wordsOpcode o.words, some p.op, false⟩] })
  else s.percAfter p x r lx lw bad

/-- A run of the group on its core comes to the boundary ahead of it, and its product leaves the unit (R244, R246): it ends there, it raises PERCDIV, or it stands there
with the next stretch still to do. -/
def State.percStop (s : State) (gid : Nat) : State :=
  let g := s.grp gid
  match (s.coreAt g.core).perc with
  | none => s
  | some p =>
    if p.g ≠ gid then s
    else
      match Tab.find g.ops p.op with
      | none => s
      | some o =>
        match o.instr with
        | .perc x =>
          let t := s.modCore g.core (fun k => { k with unit := match k.unit with | some u => if u.quarter = 4 then none else some u | none => none })
          t.percAdvance g.core p g o x
        | _ => s

end Sys2Proof.Machine
end

