-- ==== Sys2Proof/Machine/Ops.lean ====
section
/-! DEFINITION. The shared operations: records (17 R370 to R372, 21 R425, R474), taking a trap (05 R139 to R147), resuming from a frame
(R148 to R150), and the issue of an instruction (02 R59, 11 R267). -/
namespace Sys2Proof.Machine

/-! ### Records -/

/-- The context to whose handler queue a translation fault goes (17 R360): the parent of the context whose map missed. -/
def State.faultDest (s : State) (f : XFault) : Nat := (s.ctxAt f.missCtx).parent

/-- Code of an access in a record (17 R370). -/
def AccK.code (k : AccK) : Nat := match k with | .fetch => 0 | .read => 1 | .write => 2 | .atomic => 3 | .maint => 4

/-- Flag bits of R371. -/
def fEnd : BitVec 16 := 1
def fWalk : BitVec 16 := 4
def fWin : BitVec 16 := 8
def fNested : BitVec 16 := 0x10
def fUnhandled : BitVec 16 := 0x20
def fBadVector : BitVec 16 := 0x40
def fDef : BitVec 16 := 0x80
def fBadEntry : BitVec 16 := 0x100

/-- NESTED inside a handler (R139), DEF in deferred mode (R143). -/
def Grp.rcdFlags (g : Grp) : BitVec 16 := if g.inHandler then fNested else if g.defer then fDef else 0

/-- The record of a group's translation fault on one page (R370). -/
def State.xRcd (s : State) (g : Grp) (f : XFault) (k : AccK) (addr pc : Dword) (lanes : BitVec 32) (opcode : Nat) : Rcd :=
  { rcdInit with
    flags := (if f.walk then fWalk else 0) ||| (if f.bad then fBadEntry else 0) ||| g.rcdFlags
    cause := f.cause, stage := f.stage, level := f.level, acc := k.code, ctx := g.ctx, missCtx := f.missCtx
    addr := addr, missPa := BitVec.ofNat 64 (if f.stage ≤ 1 then 0 else f.missPa), pc := pc, lanes := lanes
    core := g.core, fidx := g.fidx, opcode := opcode, dest := s.faultDest f }

/-- Gives the records of one event their tag, index, count and END (R370), for the context `x`, and raises them. -/
def State.raiseEvent (s : State) (x : Nat) (rs : List Rcd) : State :=
  if rs.isEmpty then s
  else
    let t := s.modCtx x (fun c => { c with tag := c.tag + 1 })
    let tag := (t.ctxAt x).tag
    { t with records := t.records ++ rs.zipIdx.map (fun p => { p.1 with
        tag := tag, since := (s.dieAt 0).clock, idx := p.2, cnt := rs.length, flags := p.1.flags ||| (if p.2 + 1 = rs.length then fEnd else 0) }) }

/-- The records of one event of a group: posting releases at .y (13 R318), and the group waits for the replies (R150). -/
def State.raiseGroup (s : State) (gid : Nat) (rs : List Rcd) : State :=
  if rs.isEmpty then s
  else
    let g := s.grp gid
    let t := (s.releaseL1 g.core g.ctx g.sup).1
    (t.raiseEvent g.ctx (rs.map (fun r => { r with subj := Subj.group gid }))).modGrp gid
      (fun (k : Grp) => { k with replies := k.replies + rs.length })

/-- A lane whose check failed: its address, the cause, and the translation's fault where there was one. -/
structure LaneFault where
  lane : Nat
  addr : Dword
  cause : Nat
  win : Bool
  x : Option XFault
  deriving DecidableEq, Repr

/-- The record of one page of window addresses (07 R175, 17 R371): no translation is involved. -/
def State.winRcd (s : State) (g : Grp) (k : AccK) (addr pc : Dword) (lanes : BitVec 32) (opcode : Nat) : Rcd :=
  { rcdInit with
    flags := fWin ||| g.rcdFlags, cause := 0x10, stage := 0, level := 0xFF, acc := k.code
    ctx := g.ctx, missCtx := g.ctx, addr := addr, pc := pc, lanes := lanes, core := g.core, fidx := g.fidx
    opcode := opcode, dest := (s.ctxAt g.ctx).parent }

/-- The lowest address of a page's faults. -/
def lowestAddr (a : Dword) (fs : List LaneFault) : Dword := fs.foldl (fun m f => if f.addr < m then f.addr else m) a

/-- One record for each distinct 4 KiB page on which a lane faults in translation, by its lowest lane; its address is the lowest that faults there (R370, R372). -/
def State.pageRcds (s : State) (g : Grp) (k : AccK) (pc : Dword) (opcode : Nat) (fs : List LaneFault) : List Rcd :=
  let bad := fs.filter (fun f => decide (0x10 ≤ f.cause))
  let page (f : LaneFault) : Nat × Bool := (f.addr.toNat / 2 ^ 12, f.win)
  let firsts := bad.foldl (fun acc f => if acc.any (fun o => decide (page o = page f)) then acc else acc ++ [f]) []
  firsts.map (fun f =>
    let here := bad.filter (fun o => decide (page o = page f))
    let lanes := maskOf (here.map (fun o => o.lane))
    match f.x with
    | some x => s.xRcd g x k (lowestAddr f.addr here) pc lanes opcode
    | none => s.winRcd g k (lowestAddr f.addr here) pc lanes opcode)

/-- WORLD records (22 R442): one a page of another world's frames that an access of the group touched. -/
def State.worldRcds (s : State) (g : Grp) (k : AccK) (pc : Dword) (opcode : Nat) (fs : List LaneFault) : State :=
  s.raiseEvent g.ctx ((s.pageRcds g k pc opcode fs).map (fun r => { r with
    kind := 7, cls := RecClass.world, flags := 0, cause := if k.writes then 0x12 else 0x11
    stage := (s.chain g.ctx).length + 1, level := 0xFF, subj := Subj.other, dest := (s.ctxAt g.ctx).parent }))

/-! ### Accesses of the Terkor itself under a group's translation, at scope .g -/

/-- How a group's narrow accesses are performed. -/
def Grp.how (g : Grp) (pc : Dword) : How := ⟨g.core, g.ctx, g.sup, true, false, 0, pc, []⟩

/-- Reads 8 bytes under the group's translation at scope .g. -/
def State.ownRead (s : State) (g : Grp) (va : Dword) : Option (Dword × State) :=
  match s.translate g.core g.ctx g.sup va .read with
  | .error _ => none
  | .ok r =>
    if r.void then some (0, s)
    else
      let t := (s.xCommit g.core r).readGlobal ((g.how 0).on r.path) (va.setWidth 48).toNat r.pa 8
      some (BitVec.ofNat 64 (leNat t.1.1), t.2)

/-- Writes up to a line of bytes under the group's translation at scope .g. -/
def State.ownWrite (s : State) (g : Grp) (va : Dword) (bs : List Byte) : Option State :=
  match s.translate g.core g.ctx g.sup va .write with
  | .error _ => none
  | .ok r =>
    if r.void then some s else some ((s.xCommit g.core r).writeGlobal ((g.how 0).on r.path) (va.setWidth 48).toNat r.pa bs)

/-- Writes `n` lines of a frame from line `i` on (R146); none when a translation fails. -/
def State.writeLines (s : State) (g : Grp) (base : Dword) (ds : Sparse 64) (i n : Nat) : Option State :=
  match n with
  | 0 => some s
  | n + 1 =>
    match s.ownWrite g (base + BitVec.ofNat 64 (128 * i)) ((Sparse.getList ds (16 * i) 16).flatMap (fun d => leBytes 8 d.toNat)) with
    | none => none
    | some t => t.writeLines g base ds (i + 1) n

/-- Reads `n` doublewords of a frame from index `i` on. -/
def State.readDwords (s : State) (g : Grp) (base : Dword) (i n : Nat) : Option (List Dword × State) :=
  match n with
  | 0 => some ([], s)
  | n + 1 =>
    match s.ownRead g (base + BitVec.ofNat 64 (8 * i)) with
    | none => none
    | some (d, t) => (t.readDwords g base (i + 1) n).map (fun r => (d :: r.1, r.2))

/-- The word at an address is a clause header, under the checks of R46; or the fault of its fetch. -/
inductive Target where
  | header | bad | fetch (f : XFault)
  deriving DecidableEq, Repr

/-- The test of a transfer's target (02 R46). `far`: the address is a 64-bit one, as RET and JMPI take it, whose form is tested first; a target that is named by
an offset is tested by its fetch alone. -/
def State.target (s : State) (far : Bool) (g : Grp) (a : Dword) : Target × State :=
  if far = true ∧ (a.extractLsb' 0 2 ≠ 0#2 ∨ canonical a = false) then (.bad, s)
  else
    match s.fetchWord g a with
    | .error f => (.fetch f, s.useFree f.tr.drew)
    | .ok (w, t) => (if wordClass w = .header then .header else .bad, t)

/-! ### The entry of a trap -/

/-- Does the cause go in-group (R138)? -/
def inGroupCause (c : Nat) : Bool := decide (1 ≤ c) && decide (c ≤ 0x0D)

/-- Is the cause deferrable (R138)? -/
def deferrable (c : Nat) : Bool :=
  match c with | 0x09 => true | 0x10 => true | 0x11 => true | 0x12 => true | 0x14 => true | 0x15 => true | _ => false

/-- Operations short of their fault point (R141). -/
def Grp.unpassed (g : Grp) : List (Nat × Op) := g.ops.filter (fun p => !p.2.passed)

/-- A position record of zeros. -/
def posZero : Pos := ⟨0, 0, 0, 0, false⟩

/-- The replay entry of an operation (R147), with the cause its fault point raised. -/
def entryOf (rs : List Raise) (p : Nat × Op) : ReplayEntry :=
  let r := rs.find? (fun r => decide (r.op = some p.1))
  { words := p.2.words, pc := p.2.pc, done := p.2.m &&& ~~~p.2.owed, held := 0, kind := p.2.kind
    cause := match r with | some r => r.cause | none => 0
    flag := p.2.flag, path := p.2.path, m := p.2.m, base := p.2.base, cont := posZero, contBko := 0
    faddr := match r with | some r => r.faddr | none => 0
    slots := p.2.slots, seq := p.1, slot := p.2.slot, n := p.2.n, ord := p.2.ord, body := p.2.body, after := p.2.after
    fm := p.2.fm }

/-- Step 3 of R142: the operations short of their fault point leave; their flags and path counters fall by 1. -/
def Grp.capture (g : Grp) : Grp :=
  g.unpassed.foldl (fun k p => (({ k with ops := Tab.drop k.ops p.1 }).flagDown p.2.flag).pathDown p.2.path) g

/-- A core's percolation sequencer lets go of a group's runs (09 R244). -/
def Core.dropPerc (k : Core) (gid : Nat) : Core :=
  { k with perc := match k.perc with | some p => if p.g = gid then none else some p | none => none
           percq := k.percq.filter (fun p => decide (p.g ≠ gid)) }

/-- What the first fault of a trap gives (R144, R146, R151). -/
structure First where
  cause : Nat
  code : BitVec 16
  m : BitVec 32
  lanes : BitVec 32
  slot : Nat
  pc : Dword
  faddr : Dword
  win : Bool
  opcode : Nat
  posted : Bool
  deriving DecidableEq, Repr

def Raise.first (r : Raise) : First := ⟨r.cause, r.code, r.m, r.lanes, r.slot, r.pc, r.faddr, r.win, r.opcode, r.posted⟩

def ReplayEntry.first (e : ReplayEntry) (lanes : BitVec 32) : First :=
  ⟨e.cause, 0, e.m, lanes, e.slot, e.pc, e.faddr, decide (e.path = some .win), wordsOpcode e.words, decide (0x10 ≤ e.cause)⟩

/-- sr.tcause (R144). -/
def tcauseWord (code : BitVec 16) (nq : Nat) (multi : Bool) (slot : Nat) (dfr : Bool) (cause : Nat) : Word :=
  code ++ BitVec.ofNat 4 nq ++ BitVec.ofBool multi ++ BitVec.ofNat 1 slot ++ 0#1 ++ BitVec.ofBool dfr ++ BitVec.ofNat 8 cause

/-- Tests targets in order (02 R46, R59): the first whose fetch faults, and whether one is no header. -/
def State.testAll (s : State) (far : Bool) (g : Grp) (ts : List Dword) (fl : Option (XFault × Dword)) : (Bool × Option (XFault × Dword)) × State :=
  match ts with
  | [] => ((false, fl), s)
  | t :: r =>
    match s.target far g t with
    | (.header, u) => u.testAll far g r fl
    | (.bad, u) => let q := u.testAll far g r fl; ((true, q.1.2), q.2)
    | (.fetch e, u) => u.testAll far g r (match fl with | some x => some x | none => some (e, t))

/-- The handler of a cause: none when it is not taken in-group; the Bool is BADVECTOR (R139, R140). EN is looked at before the rest of the entry: with EN 0
the trap escalates, and BADVECTOR is not set whatever the entry's other bits are (log 61). -/
def State.vector (s : State) (g : Grp) (cause : Nat) : (Option Dword × Bool) × State :=
  if !(inGroupCause cause) || decide (g.tframe = 0) || decide (g.tvec = 0) || g.inHandler
      || decide (g.tvec.extractLsb' 0 9 ≠ 0#9) then ((none, false), s)
  else
    let a := g.tvec + BitVec.ofNat 64 (16 * cause)
    match s.ownRead g a with
    | none => ((none, true), s)
    | some (lo, s1) =>
      match s1.ownRead g (a + 8) with
      | none => ((none, true), s1)
      | some (hi, s2) =>
        if hi.getLsbD 0 = false then ((none, false), s2)
        else if hi.extractLsb' 1 63 ≠ 0#63 then ((none, true), s2)
        else
          match s2.target true g lo with
          | (.header, s3) => ((some lo, false), s3)
          | (_, s3) => ((none, true), s3)

/-- The record of an escalated trap (21 R474). -/
def State.instRcd (s : State) (g : Grp) (f : First) (cause : Nat) (dfr badvec : Bool) : Rcd :=
  let addrCause := decide (cause = 0x09) || decide (cause = 0x0A)
  { rcdInit with
    flags := (if g.inHandler then fNested else 0) ||| (if dfr then fDef else 0) ||| (if badvec then fBadVector else 0)
               ||| (if f.win && addrCause then fWin else 0)
    cause := cause, stage := 0, level := 0xFF, acc := 15, ctx := g.ctx, missCtx := g.ctx, cls := RecClass.trap
    addr := if cause = 0x0E then g.tframe else if addrCause then f.faddr else f.pc
    pc := f.pc, lanes := if f.lanes ≠ 0 then f.lanes else f.m
    core := g.core, fidx := g.fidx, opcode := f.opcode, dest := (s.ctxAt g.ctx).parent }

/-! ### A capsule step's commit (14 R336) -/

/-- How a body's store and the lock's steps are performed: at the home slice. -/
def Grp.capHow (g : Grp) (pc : Dword) (sc : Nat) : How := ⟨g.core, g.ctx, g.sup, false, decide (4 ≤ sc), 0, pc, []⟩

/-- The commit of CSTEP operation `n`: indivisible on the record at `pa`, and an acquire after it; its release is done at its issue. -/
def State.commitStep (s : State) (gid n : Nat) (o : Op) (pa : Nat) : State :=
  let g := s.grp gid
  let w := s.lock pa
  if g.holds w && decide (s.homeWord (pa + 8) = g.cap.step) then
    let v := ((o.slots.getD 0 []).headD 0).toNat
    let u := match o.locs with
      | (_, .mem a path) :: _ => s.writeGlobal ((g.capHow o.pc (lwScope w).toNat).on path) (va48 o.base) a (leBytes 4 v)
      | _ => s
    let q := (u.homeSetWords (pa + 0x20) (o.slots.getD 1 [])).homeSetWord (pa + 8) (g.cap.step + 1)
    (q.modGrp gid (fun (k : Grp) => { k with cap := { k.cap with step := k.cap.step + 1, loads := 0, busy := false } }.opDone n)).acquireL1
      g.core g.ctx g.sup
  else s.modGrp gid (fun (k : Grp) => k.capLost.opDone n)

/-- Commits CSTEP operation `n` where its record is reached; a poisoned record word makes the operation fault instead (R339): it is
then short of its fault point. The Bool says that it faulted. -/
def State.tryCommit (s : State) (gid n : Nat) : State × Bool :=
  let g := s.grp gid
  match Tab.find g.ops n with
  | none => (s, false)
  | some o =>
    match s.capPa g with
    | none => (s.modGrp gid (fun (k : Grp) => k.capLost.opDone n), false)
    | some pa =>
      if s.memPoisoned pa 16 then (s.modGrp gid (fun (k : Grp) => { k with ops := Tab.put k.ops n { o with passed := false } }), true)
      else (s.commitStep gid n o pa, false)

/-- The commit in flight of a group. -/
def Grp.cstepOp (g : Grp) : Option Nat :=
  (g.ops.find? (fun p => p.2.passed && (match p.2.instr with | .cstep _ => true | _ => false))).map (fun p => p.1)

/-- A body is descheduled (R333); a commit in flight completes first (R339). -/
def State.capStop (s : State) (gid : Nat) (ended : Bool) : State :=
  let t := match (s.grp gid).cstepOp with
    | some n => (s.tryCommit gid n).1
    | none => s
  t.capDesched gid ended

/-- Taking a trap (R142 to R147): `rs` are the faults raised, in order, `behind` replay entries that stay behind the new
ones. Deferred entries are taken with it (R143). A body is descheduled (14 R333). MULTI: more than one entry holds a fault (R144), or both fragments raise a
cause in one clock (R151). A running PERC comes to its next boundary first (09 R244). A trap in a handler replaces the frame, which stays what the reply RETRY resumes (R150; log 61). -/
def State.takeTrap (sIn : State) (gid : Nat) (rs0 : List Raise) (behind : List ReplayEntry) : State :=
  let s0 := sIn.percStop gid
  let more := (s0.grp gid).raised.drop (sIn.grp gid).raised.length
  let rs := rs0 ++ more
  let s := s0.capStop gid false
  let g0 := s.grp gid
  -- a fragment that reached a header arrives there before the frame is made (R136, R146), but for one that waits for a service reply
  let g1 := g0.allFrags.foldl (fun (k : Grp) p => match k.at p.1 with
    | some f => if f.arriving && !f.served then (k.putAt p.1 (some { f with arriving := false })).enterAt p.1 else k
    | none => k) g0
  let q := g1.deferred ++ (g1.unpassed.map (entryOf rs)) ++ behind
  let held := g1.deferred.foldl (fun m e => m ||| e.held) 0
  let dfr := g1.defer && !g1.inHandler
  let firsts := (g1.deferred.map (fun e => e.first held)) ++ rs.map Raise.first
  match firsts.head? with
  | none => s
  | some f0 =>
    let f := match f0 with | f => { f with lanes := if g1.deferred.isEmpty then f.lanes else held }
    let cause := match firsts.find? (fun x => inGroupCause x.cause) with | some x => x.cause | none => f.cause
    let multi := decide (1 < (q.filter (fun e => decide (e.cause ≠ 0))).length) || !more.isEmpty || (s.iss.both && rs.any (fun r => r.op.isNone))
    let tc := tcauseWord f.code q.length multi f.slot dfr f.cause
    let fr : Frame := { tcause := tc, tmask := f.m, tfault := f.lanes, exited := g1.exited, f0 := g1.f0, f1 := g1.f1
                        pc := f.pc, faddr := f.faddr, split := g1.split, replay := q }
    let s1 := (s.setGrp gid g1).modCore g1.core (fun k => k.dropPerc gid)
    let v := s1.vector g1 cause
    let w := if g1.tframe = 0 then some v.2 else v.2.writeLines g1 g1.tframe (frameDwords fr) 0 88
    let s2 := match w with | some t => t | none => v.2
    let g2 := { (s2.grp gid).capture with
      f0 := none, f1 := none, split := [], deferred := [], raised := [], frame := some fr
      frameKept := decide (g1.tframe = 0) || w.isNone }
    match v.1.1, w with
    | some h, some _ =>
      s2.setGrp gid { g2 with
        f0 := some (fragAt h g1.gmask), exited := 0, inHandler := true, tcause := tc, tmask := f.m
        tprev := pair (maskOfSlot g1.f1) (maskOfSlot g1.f0), tfault := f.lanes, escalated := false }
    | _, _ =>
      let s3 := s2.setGrp gid { g2 with escalated := true }
      if w.isNone then s3.raiseGroup gid [s3.instRcd g1 f 0x0E dfr false]
      else if inGroupCause cause then
        let x := (firsts.find? (fun x => inGroupCause x.cause)).getD f
        s3.raiseGroup gid [s3.instRcd g1 { x with lanes := f.lanes } cause dfr v.1.2]
      else s3

/-! ### Resuming from a frame -/

/-- Lines of consecutive vector registers. -/
def Grp.vlines (g : Grp) (vs : List Nat) : List Nat := vs.map g.vline

/-- Does every line an instruction names exist (06 R154)? -/
def Grp.linesOk (g : Grp) (ls : List Nat) : Bool := ls.all (fun l => decide (l < g.nlines) && decide (l ≤ 255))

/-- An operation made from a replay entry (R148): its registers are resolved anew (06 R154). -/
def opOfEntry (g : Grp) (i : Instr) (e : ReplayEntry) : Op :=
  { instr := i, words := e.words, pc := e.pc, slot := e.slot, kind := e.kind, m := e.m, todo := e.m &&& ~~~e.done
    passed := false, flag := e.flag, path := e.path, base := e.base, slots := e.slots
    lines := g.vlines (instrUses i).vw, reads := [], locs := [], locs2 := [], n := e.n, obj := none
    rel := releases i || (match i with | .arrv _ => true | _ => false), landed := e.done, view := g.view, ord := e.ord, body := e.body, after := e.after
    fm := e.fm }

/-- The tiles that a percolation run works on (09 R232): lines of X and of W. -/
def percLines (g : Grp) (x : Prc) : List Nat × List Nat :=
  let tile (i : Nat) : List Nat := (List.range 32).map (fun r => g.view.a.toNat + 32 * i + r)
  let n := if x.o = 1#1 then [0, 1, 2, 3] else [0]
  (n.flatMap tile, if x.m = 0#3 ∨ x.m = 3#3 then (n.map (fun i => i + 4)).flatMap tile else [])

/-- Re-injects a percolation run (09 R244): whether it went on or ended, else the ILLEGAL of its cap or of a tile that its register space does not hold (06 R154). -/
def State.percReinject (s : State) (gid : Nat) (i : Instr) (x : Prc) (e : ReplayEntry) : Option State :=
  let g := s.grp gid
  let l := percLines g x
  let o := { opOfEntry g i e with lines := l.1 ++ l.2, reads := [] }
  let g1 := ({ g with ops := Tab.put g.ops e.seq o }).flagUp e.flag
  let s1 := s.setGrp gid g1
  let cap := (g.scalar x.n.toNat).toNat
  if e.done = BitVec.allOnes 32 then some (s1.percEnd gid e.seq (some false) 4)
  else if cap = 0 ∨ 65535 < cap ∨ g.linesOk (l.1 ++ l.2) = false then none
  else if cap ≤ pstateCount g.pstate then some (s1.percEnd gid e.seq (some false) 2)
  else
    some (s1.modCore g.core (fun k => { k with percq := k.percq ++ [⟨gid, e.seq, Sparse.getList g.coef 0 16, cap, e.n, g.launch, percBlocks x (percStep g)⟩] }))

/-- Re-injects one entry (R148): an entry with nothing left to do is complete. The answer is none where the instruction, as it
now stands, is ILLEGAL. -/
def State.reinject (s : State) (gid : Nat) (e : ReplayEntry) : Option State :=
  let g := s.grp gid
  match decode e.words with
  | .error _ => none
  | .ok (i, _) =>
    let u := instrUses i
    if (instrIllegal i).isSome || !(g.linesOk (g.vlines (u.vr ++ u.vw))) || (u.sr ++ u.sw).any (fun n => decide (g.nsc ≤ n)) then none
    else
      match i with
      | .perc x => s.percReinject gid i x e
      | _ =>
        if e.m &&& ~~~e.done = 0 then some (s.setGrp gid (g.tlincDone e.seq))
        else some (s.setGrp gid ((({ g with ops := Tab.put g.ops e.seq (opOfEntry g i e) }).flagUp e.flag).pathUp e.path))

/-- Have the flags and the path counters room for the operations of these entries (01 R23, R24)? An entry that would raise one past its limit waits until
operations of the group complete. -/
def Grp.replayRoom (g : Grp) (es : List ReplayEntry) : Bool :=
  (List.range 12).all (fun i => decide (g.flagVal i + (es.filter (fun e => decide (e.flag = some i))).length ≤ 63))
    && [PathK.ld, .st, .win, .smp].all (fun p => decide (g.pathVal p + (es.filter (fun e => decide (e.path = some p))).length ≤ 255))

/-- Re-injects entries in queue order up to the first that is ILLEGAL: that one and those behind it are answered. -/
def State.reinjectAll (s : State) (gid : Nat) (es : List ReplayEntry) : State × List ReplayEntry :=
  match es with
  | [] => (s, [])
  | e :: r =>
    match s.reinject gid e with
    | some t => t.reinjectAll gid r
    | none => (s, e :: r)

/-- Forms the fragments of held lanes (R148): one for each continuation, entering its header if it stands at one. -/
def Grp.formHeld (g : Grp) (cs : List (Pos × Nat × BitVec 32)) : Grp :=
  match cs with
  | [] => g
  | (p, bko, m) :: r =>
    let wait := g.defer && decide (p.next = 0)
    let q := g.place { fragAt p.hdr m with pos := p, bko := bko, arriving := wait }
    ((if p.next = 0 ∧ wait = false then q.2.enterAt q.1 else q.2)).formHeld r

/-- A re-injected entry is ILLEGAL (R148): a new trap, with the fragments restored; it and the entries behind it stay queued, and hold no lane any more. -/
def State.replayTraps (s : State) (gid : Nat) (es : List ReplayEntry) : State :=
  match es with
  | [] => s
  | e :: r =>
    s.takeTrap gid [⟨1, 0, e.slot, e.m, 0, e.pc, e.pc, false, wordsOpcode e.words, none, false⟩]
      (({ e with cause := 1, held := 0 } :: r.map (fun k => { k with held := 0 })))

/-- The lanes that faults of a body's instructions hold, at their continuation: the body's one fragment, where there are such (14 R329, R334). -/
def bodyHeld (es : List ReplayEntry) : Option Frag :=
  match contLanes (es.filter (fun e => e.body)) with
  | (p, bko, m) :: _ => some { fragAt p.hdr m with pos := p, bko := bko }
  | [] => none

/-- Resumes a group from a frame that passed its checks (R148, R150; 14 R334): where its body does not go on, the body's own entries are dropped, and its fragment
stands where the check has put it, lanes that the body's faults held among it. -/
def State.resume (s : State) (gid : Nat) (f : Frame) : State :=
  let g := s.grp gid
  let s1 := s.setGrp gid { g with
    f0 := f.f0, f1 := f.f1, split := f.split, exited := f.exited, inHandler := false, escalated := false
    frame := none, frameKept := false }
  let lost := match f.f0 with | none => bodyHeld f.replay | some _ => none
  let c := (match lost with | some k => s1.modGrp gid (fun (h : Grp) => { h with f0 := some k }) | none => s1).capReturn gid
  let t := if c.2 then c.1.modGrp gid (fun (h : Grp) => { h with f0 := f.f0 }) else c.1
  let es := if c.2 then f.replay else f.replay.filter (fun e => !e.body)
  let r := t.reinjectAll gid es
  (r.1.modGrp gid (fun (k : Grp) => k.formHeld (contLanes es))).replayTraps gid r.2

/-- The group's frame as it stands: in its save record, or read from memory under the group's translation (R146, R150). -/
def State.frameNow (s : State) (gid : Nat) : Option Frame × State :=
  let g := s.grp gid
  match g.frame with
  | none => (none, s)
  | some f =>
    if g.frameKept then (if frameOk g.gmask f then some f else none, s)
    else
      match s.readDwords g g.tframe 0 1408 with
      | none => (none, s)
      | some (ds, t) => (readFrame g.gmask f (fun i => ds.getD i 0), t)

/-- A frame check failed (R148): BADFRAME escalates and no state changes. -/
def State.badFrame (s : State) (gid : Nat) : State :=
  let g := s.grp gid
  let f : First := match g.frame with
    | some f => ⟨0x0E, 0, f.tmask, f.tfault, 0, f.pc, f.faddr, false, 0x8C, false⟩
    | none => ⟨0x0E, 0, 0, 0, 0, 0, 0, false, 0x8C, false⟩
  s.raiseGroup gid [s.instRcd g f 0x0E false false]

/-- The reply RETRY once every reply is in (R150; 13 R318: an acquire at .y): as a TRET on the frame as it stands. -/
def State.retryResume (s : State) (gid : Nat) : State :=
  let g := s.grp gid
  let s1 := s.acquireL1 g.core g.ctx g.sup
  match s1.frameNow gid with
  | (some f, t) => if (t.grp gid).replayRoom f.replay then t.resume gid f else t
  | (none, t) => t.badFrame gid

/-! ### Issue -/

/-- Raises a cause of an instruction at its issue (R141): nothing has changed, and the trap is taken at once. -/
def State.raiseIssue (s : State) (cause : Nat) (code : BitVec 16) (lanes : BitVec 32) (pc faddr : Dword) (win : Bool)
    (opcode : Nat) (posted : Bool) : State :=
  let m := match (s.grp s.iss.g).frag s.iss.slot with | some f => f.mask | none => 0
  s.takeTrap s.iss.g [⟨cause, code, s.iss.slot, m, lanes, pc, faddr, win, opcode, none, posted⟩] []

/-- The opcode of the instruction being issued. -/
def Issue.opcode (i : Issue) : Nat := wordsOpcode i.words

/-- Raises a cause without an address on the instruction being issued. -/
def State.trapHere (s : State) (cause : Nat) (code : BitVec 16) : State :=
  s.raiseIssue cause code 0 s.iss.pc s.iss.pc false s.iss.opcode false

/-- Raises a cause with a fault address on the whole instruction being issued; a translation cause posts its record. -/
def State.trapAddr (s : State) (k : AccK) (f : LaneFault) : State :=
  let g := s.grp s.iss.g
  let m := match g.frag s.iss.slot with | some f => f.mask | none => 0
  let rs := (s.pageRcds g k s.iss.pc s.iss.opcode [f]).map (fun r => { r with lanes := m })
  let t := match f.x with | some e => s.traced e.tr | none => s
  (t.raiseGroup s.iss.g rs).raiseIssue f.cause 0 m s.iss.pc f.addr f.win s.iss.opcode (decide (0x10 ≤ f.cause))

/-- Raises the fault of a fetch at address `a` for the word at `pc` (R40, R46). -/
def State.trapFetch (s : State) (f : XFault) (pc a : Dword) (opcode : Nat) : State :=
  let g := s.grp s.iss.g
  let m := match g.frag s.iss.slot with | some f => f.mask | none => 0
  ((s.useFree f.tr.drew).raiseGroup s.iss.g [s.xRcd g f .fetch a pc m opcode]).raiseIssue f.cause 0 0 pc a false opcode true

/-- The fragment goes on after the instruction (R43, R45): at the end of its clause it enters the next header, unless in deferred
mode an operation it issued is short of its fault point (R143). -/
def Grp.advance (g : Grp) (slot : Nat) (i : Issue) : Grp :=
  match g.frag slot with
  | none => g
  | some f =>
    let late := g.defer && !g.inHandler && g.unpassed.any (fun p => decide (p.2.m &&& f.mask ≠ 0))
    let h := g.setFrag slot (some { f with pos := i.after, wait := .none, arriving := i.last && late, starved := false, loadFree := false })
    if i.last && !late then h.enterAt (.slot slot) else h

/-- The issuing group's change, and the fragment goes on. -/
def State.finish (s : State) (g : Grp) : State := s.setGrp s.iss.g (g.advance s.iss.slot s.iss)

/-- The fragment being issued waits at its instruction (R33); it is not starved any more (11 R269). -/
def State.waitHere (s : State) (w : Wait) : State :=
  s.modGrp s.iss.g (fun (g : Grp) => match g.frag s.iss.slot with
    | some f => g.setFrag s.iss.slot (some { f with wait := w, starved := false, loadFree := false })
    | none => g)

/-- Is the instruction privileged in the group's mode (02 R61; 01 R30)? -/
def privBlocked (i : Instr) (g : Grp) : Bool :=
  !g.sup &&
  match i with
  | .dcmd _ => true
  | .cinvP _ => true
  | .wrsr x => decide (x.n.toNat = 0x100) || decide (x.n.toNat = 0x101)
  | _ => false

/-- The fields and views that an instruction names outside its Uses: lines of tiles (06 R153, R154; 08 R214). -/
def tileLines (g : Grp) (sel : BitVec 7) : List Nat :=
  if sel.toNat < 8 then (List.range 32).map (fun r => g.view.t.toNat + 32 * sel.toNat + r)
  else if sel.toNat < 16 then (List.range 32).map (fun r => g.view.a.toNat + 32 * (sel.toNat - 8) + r)
  else []

/-- Lines of an operand selector under format code `f`: a feedback selector of code 1 names two accumulators (08 R214). -/
def operandLines (g : Grp) (f : BitVec 4) (sel : BitVec 7) : List Nat :=
  tileLines g sel ++ (if f = 1#4 ∧ 8 ≤ sel.toNat ∧ sel.toNat < 15 then tileLines g (sel + 1) else [])

/-- Lines that a matrix instruction reads and writes. -/
def matrixOperands (g : Grp) (i : Instr) : List Nat × List Nat :=
  let acc (a : BitVec 3) : List Nat := tileLines g (8#7 + a.setWidth 7)
  match i with
  | .mma x => (operandLines g x.f x.y ++ operandLines g x.f x.z ++ acc x.a, acc x.a)
  | .mmas x => (operandLines g x.f x.z ++ acc x.a, acc x.a)
  | .mloop x => ([], acc x.a)
  | .mzero x => ([], tileLines g x.t)
  | .mldt x => ([], tileLines g x.t)
  | .mstt x => (tileLines g x.t, [])
  | .mtrn x => (tileLines g x.y, tileLines g x.t)
  | .scalc x => (tileLines g x.x ++ tileLines g x.y, tileLines g x.x ++ (if pfMod x.pf = 1#24 then tileLines g x.y else []))
  | .perc x => let l := percLines g x; (l.1 ++ l.2, l.1 ++ l.2)
  | _ => ([], [])

/-- The capsule instructions that are ILLEGAL in the group's state (14 R329, R335, R337, R338): CSTEP and CAPE outside a body, CRES without an outcome to come. -/
def capIllegal (i : Instr) (g : Grp) : Bool :=
  match i with
  | .cstep _ => !g.inBody || g.inHandler
  | .cape _ => !g.inBody || g.inHandler
  | .cres _ => decide (g.cap.st = .idle) || decide (g.cap.st = .hold) || decide (g.cap.st = .adopting)
  | _ => false

/-- ILLEGAL at issue (R60): in the words, by coverage (R58), or by what the group holds (R17, 06 R154); the offending word:
the index of a prefix, or none for the instruction's own word. -/
def issueIllegal (i : Instr) (g : Grp) (f : Frag) : Option (Option Nat) :=
  match instrIllegal i with
  | some (.pfx n) => some (some n)
  | some .word => some none
  | none =>
    let u := instrUses i
    let t := matrixOperands g i
    if (instrMustCover i && decide (f.pos.setB = 15#4)) || (u.sr ++ u.sw).any (fun n => decide (g.nsc ≤ n))
        || !(g.linesOk (g.vlines (u.vr ++ u.vw))) || !(g.linesOk (t.1 ++ t.2)) || capIllegal i g then some none
    else none

/-- The limits of a capsule body (14 R329). -/
def capBreaks (i : Instr) (g : Grp) : Bool :=
  let u := instrUses i
  let sOk (n : Nat) : Bool := (decide (112 ≤ n) && decide (n ≤ 127)) || (decide (368 ≤ n) && decide (n ≤ 383))
  let kOk (n : Nat) : Bool := decide (n = 4) || decide (n = 5) || decide (n = 7)
  let opOk := match i with
    | .nop _ | .scmpEq _ | .scmpNe _ | .scmpLt _ | .scmpLtu _ => true
    | .sadd _ | .ssub _ | .smul _ | .smulh _ | .sand _ | .sor _ | .sxor _ | .sshl _ | .sshr _ | .ssra _ | .smin _ | .smax _ => true
    | .smovw _ | .sfadd _ | .sfmul _ | .sffma _ | .jmpi _ | .cape _ => true
    | .bra x => decide (x.g = 7#3)
    | .sld _ => decide (g.cap.loads < 2)
    | .cstep _ => decide (g.cap.step < 31)
    | _ => false
  !(opOk && (u.sr ++ u.sw).all sOk && kOk u.kg && u.kw.all kOk && decide (g.cap.count < 256))

/-- Does the instruction begin with release steps that its issue waits for (07 R197; 12 R292; 18 R375, R387; 21 R415; 06 R168; 14 R336, R337)? -/
def owesRelease (i : Instr) (g : Grp) : Bool :=
  match i with
  | .fence x => x.k.getLsbD 1
  | .cstep _ => true
  | .cape _ => true
  | .svcD _ => true
  | .svcC _ => true
  | .launch x => g.upred x.k.toNat
  | .dcmd x => g.upred x.k.toNat
  | .cpy x => g.upred x.k.toNat && decide (x.r ≠ 0#2)
  | .cpyt x => g.upred x.k.toNat && decide (x.r ≠ 0#2)
  | .cpyx x => g.upred x.k.toNat && decide (x.r ≠ 0#2)
  | _ => false

/-- Has the group no flag, load, store, window or sampler access, loop or percolation run outstanding (06 R168)? -/
def Grp.drained (g : Grp) : Bool :=
  (List.range 12).all (fun i => decide (g.flagVal i = 0)) && (List.range 4).all (fun i => decide (Sparse.get g.paths i = 0))
    && !g.ops.any (fun p => match p.2.instr with | .mloop _ => true | .perc _ => true | _ => false)

/-- Does the throttle hold the group's global loads back (11 R271, R273)? Permitted are the oldest groups of its quarter that are
resident and not WAITING, as many as the level says. -/
def State.throttled (s : State) (g : Grp) : Bool :=
  let k := s.coreAt g.core
  let older := s.groups.filter (fun p => decide (p.2.core = g.core) && decide (p.2.slot / 32 = g.slot / 32)
    && decide (p.2.life = .resident) && decide (p.2.age < g.age))
  k.ten && decide (k.level ≤ older.length)

/-- A commit in progress stalls the body's next SLD, CSTEP or CAPE (14 R336). -/
def capStalls (i : Instr) (g : Grp) : Bool :=
  g.cap.busy && g.inBody && !g.inHandler && (match i with | .sld _ => true | .cstep _ => true | .cape _ => true | _ => false)

/-- Direct matrix instructions in a quarter's queue, the one in the unit among them: it stays at the queue's head until it completes (08 R217, 11 R279; log 67). -/
def Core.directCount (k : Core) (q : Nat) : Nat :=
  (k.mq.getD q []).length + (if k.unit.any (fun u => !u.isLoop && decide (u.quarter = q)) then 1 else 0)

/-- What keeps an instruction from issuing now without being a wait (11 R267): a limit of a flag, counter or queue, busy lines,
a pending acquire step, a commit of its capsule, or in deferred mode an operation of the fragment short of its fault point. -/
def State.stalls (s : State) (i : Instr) (g : Grp) (f : Frag) : Bool :=
  let u := instrUses i
  let t := matrixOperands g i
  let ls := g.vlines (u.vr ++ u.vw) ++ t.1 ++ t.2
  let k := s.coreAt g.core
  (match flagOf (flagClass i) f.pos.setA f.pos.setB with | some n => decide (g.flagVal n = 63) | none => false)
    || (match pathOf i with | some p => decide (g.pathVal p = 255) | none => false)
    || (lateFault i && decide (8 ≤ g.unpassed.length + g.deferred.length))
    || ls.any (fun l => g.busyLines.contains l)
    || (!isMatrix i && !landsLater i && (g.vlines u.vw).any (fun l => g.matrixLines.contains l))
    || (isAccess i && g.ops.any (fun p => acquires p.2.instr))
    || capStalls i g
    || (g.defer && !g.inHandler && g.unpassed.any (fun p => decide (p.2.m &&& f.mask ≠ 0)))
    || (match i with
        | .mma _ | .mmas _ | .mzero _ | .mldt _ | .mstt _ | .scalc _ | .mtrn _ =>
          decide (4 ≤ k.directCount (g.slot / 32))
        | .mloop _ => ((k.loops ++ k.lq).any (fun l => decide (l.quarter = g.slot / 32)) || g.percOpen) && decide (2 ≤ k.lq.length)
        | .perc _ => decide (4 ≤ k.percq.length)
        | .cpy _ | .cpyt _ | .cpyx _ => decide (8 ≤ (k.dq.getD (g.slot / 32) []).length)
        | _ => false)
    || (owesRelease i g && g.ops.any (fun p => isAccess p.2.instr))
    || (isGlobalLoad i && !f.loadFree && s.throttled g)
    || (match i with | .regx x => g.upred x.k.toNat && decide (f.wait = .none) && !g.drained | _ => false)

/-- The cause of reading poison at issue (06 R172, 07 R211). -/
def State.poisonCause (s : State) (i : Instr) (g : Grp) : Option Nat :=
  let u := instrUses i
  if (g.vlines u.vr).any (fun l => s.linePoisoned g l) then some 0x07
  else if u.sr.any (fun n => g.spoison.contains n) then some 0x08
  else none

/-- Counts an instruction of a body (14 R329). -/
def Grp.capCount (g : Grp) (i : Instr) : Grp :=
  { g with cap := { g.cap with count := g.cap.count + 1, loads := match i with | .sld _ => g.cap.loads + 1 | _ => g.cap.loads } }

/-- Target of a format B instruction at `pc` (R46). -/
def branchTarget (pc : Dword) (o : BitVec 21) : Dword := pc + 4 * o.signExtend 64

/-- Does the guard hold in every active lane (R123)? -/
def Grp.guardAll (g : Grp) (f : Frag) (gd : BitVec 3) : Bool := decide (f.mask &&& ~~~(g.pred gd.toNat) = 0)

/-- The distinct targets of RET, least first (R131). -/
def retTargets (g : Grp) (f : Frag) (n : Nat) : List Dword :=
  let ts := (lanesOf f.mask).map (fun l => pair (g.vreg (n + 1) l) (g.vreg n l))
  sortBy BitVec.toNat (ts.foldl (fun acc t => if acc.contains t then acc else acc ++ [t]) [])

/-- Is the address that an instruction transfers to a 64-bit one (02 R46)? -/
def isFar (i : Instr) : Bool := match i with | .ret _ => true | .jmpi _ => true | _ => false

/-- The targets that the instruction being issued names (02 R46, R59). -/
def namedTargets (i : Instr) (g : Grp) (f : Frag) (pc : Dword) : List Dword :=
  match i with
  | .bra x | .call x => if g.guardAll f x.g then [branchTarget pc x.o] else []
  | .br x => if f.mask &&& g.pred x.g.toNat = 0 ∨ branchTarget pc x.o = pc + 4 then [] else [branchTarget pc x.o]
  | .rcv x => [branchTarget pc x.o]
  | .ret x => retTargets g f x.n.toNat
  | .jmpi x => if g.upred x.k.toNat then [g.scalarPair x.n.toNat] else []
  | _ => []

/-- What the tests of the targets that an instruction names raise before the causes that its own rule gives (02 R59), else `k`. -/
def State.targetsFirst (s : State) (i : Instr) (g : Grp) (f : Frag) (k : State) : State :=
  match s.testAll (isFar i) g (namedTargets i g f s.iss.pc) none with
  | ((_, some (e, a)), u) => u.trapFetch e s.iss.pc a s.iss.opcode
  | ((true, none), u) => u.trapHere 0x03 0
  | ((false, none), _) => k

/-- The outcome type of a step. -/
abbrev Out := Host.Outcome State Fault Refusal

/-- What the fetch of the word after a control instruction shows (R44): its opcode, 0 for a prefix, header or reserved word. -/
def State.opcodeAt (s : State) (g : Grp) (a : Dword) : Nat :=
  match s.fetchWord g a with
  | .ok (w, _) => if wordClass w = .instr then (w.extractLsb' 24 8).toNat else 0
  | .error _ => 0

/-- The issue of a Terkor instruction by the fragment that `s.iss` names (R59, R60): its static faults, PRIV, the limits of a
capsule body, stalls, poison; then `body` on the group and fragment. `act` is the active set: with none active only the lane instructions read (R93). -/
def issue (i : Instr) (s : State) (act : Grp → Frag → BitVec 32) (body : State → Grp → Frag → State) : Out :=
  let gid := s.iss.g
  match Tab.find s.groups gid with
  | none => .fault .noIssuer
  | some g =>
    match g.frag s.iss.slot with
    | none => .fault .noIssuer
    | some f =>
      match issueIllegal i g f with
      | some (some n) =>
        let a := s.iss.start + BitVec.ofNat 64 (4 * n)
        .next (s.raiseIssue 0x01 0 0 a a false 0 false)
      | some none => .next (s.trapHere 0x01 0)
      | none =>
        if instrEndsClause i && !s.iss.last then
          let a := s.iss.pc + 4
          .next (s.raiseIssue 0x01 0 0 a a false (s.opcodeAt g a) false)
        else if privBlocked i g then .next (s.trapHere 0x02 0)
        else if capStalls i g then .next s
        else if g.inBody && !g.inHandler && capBreaks i g then .next (s.targetsFirst i g f ((s.capFail gid).trapHere 0x0D 0))
        else if s.stalls i g f then .next s
        else
          match (if act g f = 0 ∧ readsAlways i = false then none else s.poisonCause i g) with
          | some c => .next (s.targetsFirst i g f (s.trapHere c 0))
          | none => .next (body s g f)

/-- A class F instruction that changes only its group: the change, and the fragment goes on. -/
def issueF (i : Instr) (s : State) (act : Grp → Frag → BitVec 32) (f : State → Grp → Frag → Grp) : Out :=
  issue i s act (fun s g fr => s.finish (f s g fr))

/-- Adds an operation (R23, R24, R147): its flag and path counter rise, and the fragment goes on. -/
def Grp.addOp (g : Grp) (o : Op) : Grp :=
  ((({ g with ops := Tab.put g.ops g.opNext o, opNext := g.opNext + 1 }).flagUp o.flag).pathUp o.path)

/-- An operation of the instruction being issued, with its captured operands (R147). -/
def mkOp (s : State) (g : Grp) (f : Frag) (i : Instr) (kind : Nat) (m : BitVec 32) (base : Dword) (slots : List (List Word)) : Op :=
  { instr := i, words := s.iss.words, pc := s.iss.pc, slot := s.iss.slot, kind := kind, m := m, todo := m
    passed := !(lateFault i), flag := flagOf (flagClass i) f.pos.setA f.pos.setB, path := pathOf i, base := base
    slots := slots, lines := g.vlines (instrUses i).vw, reads := [], locs := [], locs2 := [], n := 0, obj := none
    rel := releases i, landed := 0, view := g.view, ord := g.opNext, body := g.inBody && !g.inHandler
    after := if isAccess i then g.fusedBefore f.mask else [], fm := f.mask }

/-- A deferred fault (R143): the lanes `fl` of operation `n` leave their fragments and are held; the operation goes on for the
others, its fault point passed. -/
def Grp.deferFault (g : Grp) (n : Nat) (fl : BitVec 32) (cause : Nat) (faddr : Dword) : Grp :=
  match Tab.find g.ops n with
  | none => g
  | some o =>
    let home := g.allFrags.find? (fun p => decide (p.2.mask &&& fl ≠ 0))
    let e : ReplayEntry := {
      words := o.words, pc := o.pc, done := o.m &&& ~~~fl, held := fl, kind := o.kind, cause := cause, flag := o.flag
      path := o.path, m := o.m, base := o.base, cont := match home with | some p => p.2.pos | none => posZero
      contBko := match home with | some p => p.2.bko | none => 0, faddr := faddr, slots := o.slots, seq := g.opNext
      slot := o.slot, n := o.n, ord := o.ord, body := o.body, after := o.after, fm := o.fm }
    let cut (f : Frag) : Option Frag := if f.mask &&& ~~~fl = 0 then none else some { f with mask := f.mask &&& ~~~fl }
    let g1 := g.allFrags.foldl (fun k p => if p.2.mask &&& fl = 0 then k else k.putAt p.1 (cut p.2)) g
    { g1 with
      ops := Tab.put g1.ops n { o with todo := o.todo &&& ~~~fl, passed := true }
      deferred := g1.deferred ++ [e], opNext := g1.opNext + 1
      tlinc := g1.tlinc.map (fun t => if t.2.2.2.contains n then (t.1, t.2.1, t.2.2.1, g1.opNext :: t.2.2.2) else t) }

end Sys2Proof.Machine
end

