-- ==== Sys2Proof/Machine/Waits.lean ====
section
/-! DEFINITION. What fragments wait for (01 R33), the acquire steps at the end of a wait (07 R197, 13 R318), the eligibility and the swaps of
spilled fragments (01 R21, 05 R126), and the words of the next instruction (02 R43 to R47, R59). -/
namespace Sys2Proof.Machine

/-- Does the group's team lie on more than one core (12 R282)? -/
def State.spans (s : State) (g : Grp) : Bool :=
  match Tab.find s.launches g.launch with
  | some l => decide (l.r.span ≠ 0)
  | none => false

/-- Is scope code `sc` wide for the group (07 R181; 00 R8: 0 .g to 5 .y)? -/
def State.wide (s : State) (g : Grp) (sc : Nat) : Bool := decide (2 ≤ sc) || (decide (sc = 1) && s.spans g)

/-- The acquire step of FENCE.acq at a scope (07 R197), by the group. -/
def State.acquire (s : State) (gid sc : Nat) : State :=
  let g := s.grp gid
  if s.wide g sc then s.acquireL1 g.core g.ctx g.sup else s

/-- Is the die's request ring closed to a context (18 R387)? -/
def State.ringFull (s : State) (core ctx : Nat) : Bool :=
  let cs := (s.dieAt (coreDie core)).calls
  decide (4096 ≤ cs.length) || decide (256 ≤ (cs.filter (fun c => decide (c.ctx = ctx))).length)

/-- Is the condition of a wait met? A service reply and the lines of a grow end their waits by an event of their own, and so does the attempt on a lock; an address
that is not reached lets the instruction go on, and raise its cause. A service wait numbered 0 has its reply. -/
def State.waitMet (s : State) (g : Grp) (w : Wait) : Bool :=
  match w with
  | .none => true
  | .flags m => (List.range 12).all (fun i => !m.getLsbD i || decide (g.flagVal i = 0))
  | .path p n => decide (g.pathVal p ≤ n)
  | .barrier a q => match s.winLoc g a with | some l => decide (s.objPhase l.1 l.2 ≠ q) | none => true
  | .regx a q _ => match s.winLoc g a with | some l => decide (s.objPhase l.1 l.2 ≠ q) | none => true
  | .timeline i t => decide (t ≤ g.tlDone i)
  | .counter a t =>
    match s.translate g.core g.ctx g.sup a .read with
    | .error _ => true
    | .ok r => decide (t.toNat ≤ if r.void then 0 else s.homeDword r.pa)
  | .lock a => s.lockOpen g a
  | .service n => decide (n = 0)
  | .ring => !s.ringFull g.core g.ctx
  | .pending => decide (g.pend.length < 4)
  | .grow n => decide (g.nlines = n)
  | .replies => decide (g.replies = 0)
  | .freeze => !g.stalled

/-- Is it a wait (01 R33)? The grow of a REGX (06 R168) and the stall of FREEZE.G (10 R254) are none. -/
def Wait.waits (w : Wait) : Bool := match w with | .none => false | .grow _ => false | .freeze => false | _ => true

/-- The wait of a wait instruction (R184, R203, R287, R381), of a CAPB whose lock a running holder holds (14 R332), and of a LAUNCH or SVC for whose entry there is no
room (18 R376, R387). -/
def instrWait (g : Grp) (i : Instr) : Wait :=
  match i with
  | .waitp x => .path (PathK.ofNum x.p.toNat) x.n.toNat
  | .waitb x => if g.upred x.k.toNat then .barrier (g.scalar x.n.toNat) (decide (x.q = 1#1)) else .none
  | .waittl x => if g.upred x.k.toNat then .timeline x.i.toNat (g.scalarPair x.n.toNat) else .none
  | .waitc x => if g.upred x.k.toNat then .counter (g.scalarPair x.n.toNat) (g.scalarPair x.m.toNat) else .none
  | .capb x => if g.upred x.k.toNat ∧ (g.scalarPair x.n.toNat).toNat % 256 = 0 ∧ g.cap.st = .idle then .lock (g.scalarPair x.n.toNat) else .none
  | .launch x => if g.upred x.k.toNat then .pending else .none
  | .svcD _ => .ring
  | .svcC _ => .ring
  | _ => .none

/-! ### The next instruction's words -/

/-- What fetching an instruction gives: its words in fetch order, the ILLEGAL of a word, or the fault of a word's fetch. -/
inductive Fetched where
  | words (i : Instr) (ws : List Word) (last : Nat)
  | illegal (n : Nat) (opcode : Nat)
  | fault (f : XFault) (n : Nat)

/-- Address of body word `n` of the clause at `hdr` (R42). -/
def wordAddr (hdr : Dword) (n : Nat) : Dword := hdr + BitVec.ofNat 64 (4 * n)

/-- Fetches body word `n` of a clause of `len` words with its prefixes `pf` before it (R45, R47, R59). `bad` is the first prefix word that is ILLEGAL: the words
after it are still fetched, since the fault of a fetch comes first (R59). -/
def State.fetchBody (s : State) (g : Grp) (hdr : Dword) (len n fuel : Nat) (acc : List Word) (bad : Option Nat) : Fetched × State :=
  match fuel with
  | 0 => (.illegal n 0, s)
  | f + 1 =>
    if len < n then (.illegal (bad.getD n) 0, s)
    else
      match s.fetchWord g (wordAddr hdr n) with
      | .error e => (.fault e n, s)
      | .ok (w, t) =>
        match wordClass w with
        | .header => (.illegal (bad.getD n) 0, t)
        | .reserved => (.illegal (bad.getD n) 0, t)
        | .instr =>
          match bad with
          | some b => (.illegal b 0, t)
          | none =>
            match decode (acc ++ [w]) with
            | .ok (i, _) => if instrIsService i then (.illegal n (w.extractLsb' 24 8).toNat, t) else (.words i (acc ++ [w]) n, t)
            | .error _ => (.illegal n (w.extractLsb' 24 8).toNat, t)
        | _ =>
          let b := match bad with | some b => some b | none => if (decodePf w).isNone then some n else none
          if n = len then (.illegal (b.getD n) 0, t) else t.fetchBody g hdr len (n + 1) f (acc ++ [w]) b

/-- The body length of the clause at `hdr`: none when its word is no header. -/
def State.clauseLen (s : State) (g : Grp) (hdr : Dword) : Except XFault (Option Header × State) :=
  match s.fetchWord g hdr with
  | .error e => .error e
  | .ok (w, t) => .ok (decodeHeader w, t)

/-- Would the fragment's next issue wait (R126)? -/
def State.wouldWait (s : State) (g : Grp) (f : Frag) : Bool :=
  if f.wait ≠ .none then !s.waitMet g f.wait
  else
    match s.clauseLen g f.pos.hdr with
    | .error _ => false
    | .ok (none, _) => false
    | .ok (some h, t) =>
      if f.pos.next = 0 then !s.waitMet g (.flags h.wait)
      else
        match (t.fetchBody g f.pos.hdr (h.len.toNat + 1) f.pos.next 17 [] none).1 with
        | .words i _ _ => !s.waitMet g (instrWait g i)
        | _ => false

/-! ### Swaps (R21, R126, R134) -/

/-- The oldest spilled fragment that is eligible: its entry. -/
def State.eligible (s : State) (g : Grp) : Option (Nat × Frag) := g.spilledOldest.find? (fun p => !s.wouldWait g p.2)

/-- Entry `i` comes into slot `n`; a fragment there goes into the entry that it leaves, as the newest (log 62). -/
def Grp.bring (g : Grp) (n i : Nat) (f : Frag) : Grp :=
  let out := g.frag n
  let h := g.setFrag n (some f)
  match out with
  | none => { h with split := Tab.drop h.split i }
  | some o => { h with split := Tab.put h.split i ⟨h.orderNext, .spilled { o with starved := false }⟩, orderNext := h.orderNext + 1 }

/-- The swap of YIELD and of a clause with Y set (R21, R134). -/
def State.yieldSwap (s : State) (gid slot : Nat) : State :=
  let g := s.grp gid
  match g.frag slot, s.eligible g with
  | some _, some (i, f) => s.setGrp gid (g.bring slot i f)
  | _, _ => s

/-- Brings an eligible spilled fragment into slot `n` if it is empty or its fragment waits (R21, R126). -/
def State.bringIn (s : State) (gid n : Nat) : State :=
  let g := s.grp gid
  let free := match g.frag n with
    | none => true
    | some f => f.wait.waits && !s.waitMet g f.wait
  if free && !g.split.isEmpty then
    match s.eligible g with
    | some (i, f) => s.setGrp gid (g.bring n i f)
    | none => s
  else s

/-- Can a resident fragment of the group issue (R32)? A stall, a backoff delay and a fragment that a fault has stopped are no waits. -/
def State.canIssue (s : State) (g : Grp) : Bool :=
  (match g.f0 with | some f => !f.wait.waits || s.waitMet g f.wait | none => false)
    || (match g.f1 with | some f => !f.wait.waits || s.waitMet g f.wait | none => false)

/-- Is the group on its core? -/
def Life.onCore (l : Life) : Bool := match l with | .resident => true | .waiting => true | _ => false

/-- What follows every step for a group on its core: an escalated trap whose replies are all in resumes (R150), spilled fragments
come in, and the group is RESIDENT or WAITING (R32, R33). -/
def State.settleGroup (s : State) (gid : Nat) : State :=
  let g := s.grp gid
  if !g.life.onCore then s
  else if g.escalated then
    if g.replies = 0 then s.retryResume gid
    else if g.life = .waiting then s
    else s.setGrp gid { g with life := Life.waiting, waitAt := s.clockOf g.core }
  else
    let t := (s.bringIn gid 0).bringIn gid 1
    let h := t.grp gid
    if t.canIssue h || !h.raised.isEmpty then (if h.life = .resident then t else t.setGrp gid { h with life := Life.resident })
    else if h.life = .waiting then t
    else t.setGrp gid { h with life := Life.waiting, waitAt := t.clockOf h.core }

/-- The same for every group. -/
def State.settleAll (s : State) : State := s.groups.foldl (fun t p => if (Tab.find t.groups p.1).isSome then t.settleGroup p.1 else t) s

/-! ### An issue turn -/

/-- What an issue turn comes to: nothing to issue, a turn spent without an instruction, or an instruction to execute. -/
inductive Turned where
  | nothing
  | done (t : State)
  | run (i : Instr) (t : State)

/-- May the fragment issue now, apart from its next word (11 R267)? A returned group resizes first (06 R169). -/
def Grp.mayIssue (g : Grp) (f : Frag) : Bool :=
  g.life.onCore && g.raised.isEmpty && !g.escalated && !f.delayed
    && (!g.resizeFirst || (match f.wait with | .regx _ _ _ => true | .grow _ => true | _ => false))
    && (match f.wait with | .lock _ => false | .service n => decide (n = 0) | .grow n => decide (g.nlines = n) | .freeze => !g.stalled | _ => true)

/-- The header of the fragment's clause (R42, R43, R45): the wait mask is tested, and setA, setB and Y apply from here on. A position that a handler has edited is
checked here (05 R149): an address that is no word's, or whose word is no header, is ILLEGAL (log 63). -/
def State.enterClause (s : State) (gid slot : Nat) (g : Grp) (f : Frag) : State :=
  let s0 := { s with iss := { issNone with g := gid, slot := slot, pc := f.pos.hdr, start := f.pos.hdr, after := f.pos, both := s.iss.both } }
  if f.pos.hdr.extractLsb' 0 2 ≠ 0#2 then s0.raiseIssue 0x01 0 0 f.pos.hdr f.pos.hdr false 0 false
  else
  match s0.clauseLen g f.pos.hdr with
  | .error e => s0.trapFetch e f.pos.hdr f.pos.hdr 0
  | .ok (none, t) => t.raiseIssue 0x01 0 0 f.pos.hdr f.pos.hdr false 0 false
  | .ok (some h, t) =>
    let bad (x : BitVec 4) : Bool := decide (12 ≤ x.toNat) && decide (x.toNat ≤ 14)
    if bad h.setA || bad h.setB then t.raiseIssue 0x01 0 0 f.pos.hdr f.pos.hdr false 0 false
    else if t.waitMet g (.flags h.wait) then
      t.setGrp gid (g.setFrag slot (some { f with pos := ⟨f.pos.hdr, 1, h.setA, h.setB, h.y⟩, wait := .none }))
    else t.setGrp gid (g.setFrag slot (some { f with wait := .flags h.wait }))

/-- The fragment in a slot issues its next word: it resumes from a service call (18 R390: an acquire at .y), arrives at the header it reached, tests a header, or
fetches an instruction. -/
def State.turnOf (s : State) (gid slot : Nat) : Turned :=
  match Tab.find s.groups gid with
  | none => .nothing
  | some g =>
    match g.frag slot with
    | none => .nothing
    | some f =>
      if !g.mayIssue f then .nothing
      else if f.served then .done ((s.setGrp gid (g.setFrag slot (some { f with wait := .none }))).acquire gid 5)
      else if f.arriving then
        if g.unpassed.any (fun p => decide (p.2.m &&& f.mask ≠ 0)) then .nothing
        else .done (s.setGrp gid ((g.setFrag slot (some { f with arriving := false })).enterAt (.slot slot)))
      else if f.pos.next = 0 then .done (s.enterClause gid slot g f)
      else
        let pc0 := wordAddr f.pos.hdr f.pos.next
        let s0 := { s with iss := { issNone with g := gid, slot := slot, pc := pc0, start := pc0, after := f.pos, both := s.iss.both } }
        if f.pos.hdr.extractLsb' 0 2 ≠ 0#2 then .done (s0.raiseIssue 0x01 0 0 pc0 pc0 false 0 false)
        else
        match s0.clauseLen g f.pos.hdr with
        | .error e => .done (s0.trapFetch e f.pos.hdr f.pos.hdr 0)
        | .ok (none, t) => .done (t.raiseIssue 0x01 0 0 f.pos.hdr f.pos.hdr false 0 false)
        | .ok (some h, t) =>
          match t.fetchBody g f.pos.hdr (h.len.toNat + 1) f.pos.next 17 [] none with
          | (.fault e n, u) => let a := wordAddr f.pos.hdr n; .done (u.trapFetch e a a 0)
          | (.illegal n op, u) => let a := wordAddr f.pos.hdr n; .done (u.raiseIssue 0x01 0 0 a a false op false)
          | (.words i ws n, u) =>
            let last := decide (n = h.len.toNat + 1)
            .run i { u with iss := { issNone with
              both := s.iss.both, g := gid, slot := slot, pc := wordAddr f.pos.hdr n, words := ws, start := pc0, last := last
              after := if last then posAt (wordAddr f.pos.hdr (n + 1)) else { f.pos with next := n + 1 } } }

/-- What the end of a clause with Y set does after its last word (R21, R134): `f` is the fragment as it was issued. -/
def State.clauseYield (s : State) (before : Grp) (f : Frag) : State :=
  let i := s.iss
  let g := s.grp i.g
  if f.pos.y && i.last && (Tab.find s.groups i.g).isSome && decide (g.inHandler = before.inHandler) && decide (g.frame = before.frame) then
    match g.frag i.slot with
    | some k => if k.pos = f.pos ∨ k.mask &&& f.mask = 0 then s else s.yieldSwap i.g i.slot
    | none => s
  else s

/-- An instruction of a capsule body counts once it has issued (14 R329): one that stalled or trapped at its issue has changed nothing (05 R141). `before` is its
group and `f` its fragment as it was issued. -/
def State.capCounted (s : State) (i : Instr) (before : Grp) (f : Frag) : State :=
  if before.inBody && !before.inHandler then
    s.modGrp s.iss.g (fun (h : Grp) =>
      match h.frag s.iss.slot with
      | some k => if h.inBody && h.frame.isNone && decide (k.pos ≠ f.pos) then h.capCount i else h
      | none => h)
  else s

/-! ### The file's use (06 R159) -/

/-- The held ones of a group's lines that an access uses become the most recently used, and dirty where it writes. -/
def Core.useLines (k : Core) (gid : Nat) (rs ws : List Nat) : Core :=
  let hit (e : Nat × Nat × Bool) : Bool := decide (e.1 = gid) && (rs.contains e.2.1 || ws.contains e.2.1)
  { k with file := (k.file.filter hit).map (fun e => (e.1, e.2.1, e.2.2 || ws.contains e.2.1)) ++ k.file.filter (fun e => !hit e) }

/-- The same on the core of a group, where its file holds any line. -/
def State.fileUse (s : State) (core gid : Nat) (rs ws : List Nat) : State :=
  if (s.coreAt core).file.isEmpty then s else s.modCore core (fun k => k.useLines gid rs ws)

/-- What an instruction that has issued used. -/
def State.fileIssued (s : State) (i : Instr) (before : Grp) (f : Frag) : State :=
  match (s.grp s.iss.g).frag s.iss.slot with
  | some k =>
    if k.pos = f.pos then s
    else
      let u := instrUses i
      s.fileUse before.core s.iss.g (before.vlines u.vr) (before.vlines u.vw)
  | none => s

/-- What the operations used that a step has completed. -/
def State.fileLanded (s before : State) : State :=
  before.groups.foldl (fun (t : State) p =>
    let gone := p.2.ops.filter (fun o => (Tab.find (t.grp p.1).ops o.1).isNone)
    if gone.isEmpty then t
    else t.fileUse p.2.core p.1 (gone.flatMap (fun o => o.2.reads)) (gone.flatMap (fun o => o.2.lines))) s

/-! ### Which turn the machine takes when its agenda is empty -/

/-- Rank of a fragment whose next instruction is `i` (11 R268). -/
def rank (g : Grp) (slot : Nat) (f : Frag) (prio : Nat) : Nat :=
  let p := if prio = 1 then 0 else if prio = 2 then 2 else 1
  ((((if f.starved then 0 else 1) * 4 + p) * 16 + f.bko) * 2 ^ 40 + g.age) * 2 + slot

/-- The rank of the fragment in a slot if it is eligible (R267): nothing keeps its next word from issuing. -/
def State.issuer (s : State) (gid slot : Nat) (g : Grp) : Option (Nat × Nat × Nat) :=
  match g.frag slot with
  | none => none
  | some f =>
    if !s.waitMet g f.wait then none
    else
      match s.turnOf gid slot with
      | .nothing => none
      | .done _ => some (rank g slot f 0, gid, slot)
      | .run i t => if t.stalls i g f then none else some (rank g slot f (pfPrio i.pf), gid, slot)

/-- The fragments that are eligible, with their ranks. -/
def State.issuers (s : State) : List (Nat × Nat × Nat) :=
  s.groups.flatMap (fun p => [0, 1].filterMap (fun n => s.issuer p.1 n p.2))

/-- A resident fragment that is not eligible is not starved (11 R269). -/
def State.calm (s : State) (gid : Nat) (g : Grp) : Grp :=
  [0, 1].foldl (fun (k : Grp) n =>
    match g.frag n with
    | some f => if f.starved && (s.issuer gid n g).isNone then k.setFrag n (some { f with starved := false }) else k
    | none => k) g

/-- What follows every step. -/
def State.settle (s : State) : State :=
  let t := s.settleAll
  { t with groups := t.groups.map (fun p => (p.1, t.calm p.1 p.2)) }

end Sys2Proof.Machine
end

