-- ==== Sys2Proof/Machine/LaneForms.lean ====
section
/-! DEFINITION. The shared shapes of lane and scalar instructions (04 R93, R94, R100, R105, R109, R110, R119). -/
namespace Sys2Proof.Machine

/-- A binary lane form (R93): `fn` gets A, B and the old destination of a lane; `f32`: a HIMM b is an F32 operand. -/
def Grp.lane3 (g : Grp) (f : Frag) (x : V3) (f32 : Bool) (fn : Word → Word → Word → Word) : Grp :=
  g.setV x.d.toNat (g.lanes f x.g) (fun l => fn (g.opA x.pf x.a l) (g.opB x.pf x.b f32 l) (g.vreg x.d.toNat l))

/-- A unary lane form. -/
def Grp.lane2 (g : Grp) (f : Frag) (x : V2) (fn : Word → Word) : Grp :=
  g.setV x.d.toNat (g.lanes f x.g) (fun l => fn (g.opA x.pf x.a l))

/-- The issue of a binary lane form. -/
def issueLane3 (i : Instr) (x : V3) (f32 : Bool) (fn : Word → Word → Word → Word) (s : State) : Out :=
  issueF i s (fun g f => g.lanes f x.g) (fun _ g f => g.lane3 f x f32 fn)

/-- The issue of a unary lane form. -/
def issueLane2 (i : Instr) (x : V2) (fn : Word → Word) (s : State) : Out :=
  issueF i s (fun g f => g.lanes f x.g) (fun _ g f => g.lane2 f x fn)

/-- The result of a shift or bit-field instruction's count (R98). -/
def shl32 (a sh : Word) : Word := if 32 ≤ sh.toNat then 0 else a <<< sh.toNat
def shr32 (a sh : Word) : Word := if 32 ≤ sh.toNat then 0 else a >>> sh.toNat
def sra32 (a sh : Word) : Word := if 32 ≤ sh.toNat then (if a.getLsbD 31 then 0xFFFFFFFF#32 else 0) else a.sshiftRight sh.toNat

/-- Signed high half of a product (R97). -/
def mulhs (a b : Word) : Word := BitVec.ofInt 32 (a.toInt * b.toInt / 2 ^ 32)

def smin32 (a b : Word) : Word := if a.toInt ≤ b.toInt then a else b
def smax32 (a b : Word) : Word := if a.toInt ≤ b.toInt then b else a

/-- An F32 result of two operands under a MOD (R100). -/
def f32Add (o : FpMod) (a b : Word) : Word :=
  BitVec.ofNat 32 (Ff.f32.round o (Fv.add o.rm (Ff.f32.opnd o a.toNat) (Ff.f32.opnd o b.toNat)))
def f32Sub (o : FpMod) (a b : Word) : Word :=
  BitVec.ofNat 32 (Ff.f32.round o (Fv.add o.rm (Ff.f32.opnd o a.toNat) (Ff.f32.opnd o b.toNat).neg))
def f32Mul (o : FpMod) (a b : Word) : Word :=
  BitVec.ofNat 32 (Ff.f32.round o (Fv.mul (Ff.f32.opnd o a.toNat) (Ff.f32.opnd o b.toNat)))
def f32Fma (o : FpMod) (a b c : Word) : Word :=
  BitVec.ofNat 32 (Ff.f32.round o (Fv.add o.rm (Fv.mul (Ff.f32.opnd o a.toNat) (Ff.f32.opnd o b.toNat)) (Ff.f32.opnd o c.toNat)))

/-- The two elements of a packed word (R72, R105). -/
def packed2 (fn : Nat → Nat → Nat → Nat) (a b d : Word) : Word :=
  let el (w : Word) (i : Nat) : Nat := (w.extractLsb' (16 * i) 16).toNat
  BitVec.ofNat 32 (fn (el a 0) (el b 0) (el d 0) % 2 ^ 16 + 2 ^ 16 * (fn (el a 1) (el b 1) (el d 1) % 2 ^ 16))

/-- The issue of a lane compare with result `c` (R109); a CMP word has no guard. -/
def issueCmp (i : Instr) (x : Cmp) (f32 : Bool) (c : Word → Word → Bool) (s : State) : Out :=
  issueF i s (fun _ f => f.mask) (fun _ g f =>
    g.cmpWrite x f.mask (maskWhere (fun l => c (g.opA x.pf x.a l) (g.opB x.pf x.b f32 l))))

/-- The issue of a floating-point compare: FTZ flushes subnormal inputs (R109). -/
def issueFcmp (i : Instr) (x : Cmp) (c : Fv → Fv → Bool) (s : State) : Out :=
  issueCmp i x true (fun a b => c (Ff.f32.opnd (fpMod x.pf) a.toNat) (Ff.f32.opnd (fpMod x.pf) b.toNat)) s

/-- The issue of a scalar compare (R110). -/
def issueScmp (i : Instr) (x : Cmp) (c : Word → Word → Bool) (s : State) : Out :=
  issueF i s (fun _ f => f.mask) (fun _ g _ => g.scmpWrite x (c (g.sclOpA x.pf x.a) (g.sclOpB x.pf x.b false)))

/-- The issue of a scalar ALU instruction (R119). -/
def issueS3 (i : Instr) (x : S3) (f32 : Bool) (fn : Word → Word → Word → Word) (s : State) : Out :=
  issueF i s (fun g f => g.guarded f x.k) (fun _ g _ =>
    if g.upred x.k.toNat then g.setScalar x.d.toNat (fn (g.sclOpA x.pf x.a) (g.sclOpB x.pf x.b f32) (g.scalar x.d.toNat)) else g)

end Sys2Proof.Machine
end

