-- ==== Sys2Proof/Machine/ControlIns.lean ====
section
/-! DEFINITION. Control flow, backoff, software traps and TRET (05 R122 to R136, R148), SETVIEW (06 R156). -/
namespace Sys2Proof.Machine

/-- Tests a target (R46) and goes on with `k`, or raises BADTARGET or the fault of the fetch. -/
def State.withTarget (s : State) (far : Bool) (g : Grp) (a : Dword) (k : State → State) : State :=
  match s.target far g a with
  | (.header, t) => k t
  | (.bad, t) => t.trapHere 0x03 0
  | (.fetch e, t) => t.trapFetch e s.iss.pc a s.iss.opcode

/-- The whole fragment transfers to a header. -/
def State.jumpTo (s : State) (a : Dword) : State := s.modGrp s.iss.g (fun g => g.goto s.iss.slot a)

/-- BRA (R123). -/
def execBra (x : Br) (s : State) : Out :=
  issue (.bra x) s (fun _ _ => 0) (fun s g f =>
    if g.guardAll f x.g then s.withTarget false g (branchTarget s.iss.pc x.o) (fun t => t.jumpTo (branchTarget s.iss.pc x.o))
    else s.finish g)

/-- CALL (R123): the link pair v126, v127 in every active lane. -/
def execCall (x : Br) (s : State) : Out :=
  issue (.call x) s (fun _ _ => 0) (fun s g f =>
    if g.guardAll f x.g then
      s.withTarget false g (branchTarget s.iss.pc x.o) (fun t =>
        (t.modGrp s.iss.g (fun k => k.setVPair 126 f.mask (fun _ => s.iss.pc + 4))).jumpTo (branchTarget s.iss.pc x.o))
    else s.finish g)

/-- Two halves of a fragment: `lo` stays in the slot, `hi` goes to the other slot or the table; both enter their headers. -/
def Grp.splitTo (g : Grp) (slot : Nat) (f : Frag) (lo hi : Dword × BitVec 32) : Grp :=
  let h := g.setFrag slot (some { fragAt lo.1 lo.2 with bko := f.bko })
  let r := h.place { fragAt hi.1 hi.2 with bko := f.bko }
  (r.2.enterAt (.slot slot)).enterAt r.1

/-- BR (R124). -/
def execBr (x : Br) (s : State) : Out :=
  issue (.br x) s (fun _ _ => 0) (fun s g f =>
    let tgt := branchTarget s.iss.pc x.o
    let nxt := s.iss.pc + 4
    let t := f.mask &&& g.pred x.g.toNat
    let n := f.mask &&& ~~~(g.pred x.g.toNat)
    if t = 0 ∨ tgt = nxt then s.finish g
    else
      s.withTarget false g tgt (fun u =>
        if n = 0 then u.jumpTo tgt
        else if g.emptySlots = 0 ∧ g.emptyEntries = 0 then u.trapHere 0x04 0
        else if tgt < nxt then u.setGrp s.iss.g (g.splitTo s.iss.slot f (tgt, t) (nxt, n))
        else u.setGrp s.iss.g (g.splitTo s.iss.slot f (nxt, n) (tgt, t))))

/-- A new reconvergence entry, newest by order (R127). -/
def Grp.newEntry (g : Grp) (a : Dword) (m : BitVec 32) : Grp :=
  { g with split := Tab.put g.split (g.freeEntry.getD 64) ⟨g.orderNext, .reconv a m 0⟩, orderNext := g.orderNext + 1 }

/-- RCV (R127): the address is tested whatever the mask. -/
def execRcv (x : Br) (s : State) : Out :=
  issue (.rcv x) s (fun _ _ => 0) (fun s g f =>
    let a := branchTarget s.iss.pc x.o
    let m := g.lanes f x.g
    s.withTarget false g a (fun t =>
      if m = 0 then t.finish g
      else if g.emptyEntries = 0 then t.trapHere 0x04 0
      else t.finish (g.newEntry a m)))

/-- RET (R131). -/
def execRet (x : Ret) (s : State) : Out :=
  issue (.ret x) s (fun _ f => f.mask) (fun s g f =>
    let n := x.n.toNat
    let ts := retTargets g f n
    match s.testAll true g ts none with
    | ((_, some (e, a)), u) => u.trapFetch e s.iss.pc a s.iss.opcode
    | ((true, none), u) => u.trapHere 0x03 0
    | ((false, none), u) =>
      if g.emptySlots + g.emptyEntries < ts.length - 1 then u.trapHere 0x04 0
      else
        let lanes (t : Dword) : BitVec 32 :=
          maskWhere (fun l => f.mask.getLsbD l && decide (pair (g.vreg (n + 1) l) (g.vreg n l) = t))
        match ts with
        | [] => u
        | t1 :: rest =>
          let h := g.setFrag s.iss.slot (some { fragAt t1 (lanes t1) with bko := f.bko })
          let r := rest.foldl (fun (acc : List Place × Grp) t =>
            let q := acc.2.place { fragAt t (lanes t) with bko := f.bko }
            (acc.1 ++ [q.1], q.2)) ([Place.slot s.iss.slot], h)
          u.setGrp s.iss.g (r.1.foldl (fun k p => k.enterAt p) r.2))

/-- JMPI (R132). -/
def execJmpi (x : Xn) (s : State) : Out :=
  issue (.jmpi x) s (fun g f => g.guarded f x.k) (fun s g _ =>
    if g.upred x.k.toNat then
      let a := g.scalarPair x.n.toNat
      s.withTarget true g a (fun t => t.jumpTo a)
    else s.finish g)

/-- EXIT (R133); inside a handler it is ILLEGAL (R145). A fragment that ends leaves its slot before the entries it completes fuse, and entries that one EXIT
completes fuse newest first (log 62). -/
def execExit (x : Ex) (s : State) : Out :=
  issue (.exit x) s (fun _ _ => 0) (fun s g f =>
    let m := g.lanes f x.g
    if g.inHandler then s.trapHere 0x01 0
    else if m = 0 then s.finish g
    else if f.mask &&& ~~~m = 0 then s.setGrp s.iss.g ((g.setFrag s.iss.slot none).exitLanes m)
    else s.finish ((g.setFrag s.iss.slot (some { f with mask := f.mask &&& ~~~m })).exitLanes m))

/-- YIELD (R134). -/
def execYield (x : Z) (s : State) : Out :=
  issue (.yield x) s (fun _ _ => 0) (fun s g f =>
    let t := s.finish g
    match (t.grp s.iss.g).frag s.iss.slot with
    | some k => if k.mask &&& f.mask = 0 then t else t.yieldSwap s.iss.g s.iss.slot
    | none => t)

/-- The issuing fragment's backoff level, and whether its delay runs (R135). -/
def Grp.setBko (g : Grp) (slot n : Nat) (d : Bool) : Grp :=
  match g.frag slot with
  | some f => g.setFrag slot (some { f with bko := n, delayed := d })
  | none => g

/-- BKOFF (R135). -/
def execBkoff (x : Z) (s : State) : Out :=
  issueF (.bkoff x) s (fun _ _ => 0) (fun s g f => g.setBko s.iss.slot (min (f.bko + 1) 8) true)

/-- BKOFF.CLR (R135). -/
def execBkoffClr (x : Z) (s : State) : Out :=
  issueF (.bkoffClr x) s (fun _ _ => 0) (fun s g _ => g.setBko s.iss.slot 0 false)

/-- A software trap (R136): the fragment goes on to the word after, then the trap is taken. -/
def State.softTrap (s : State) (g : Grp) (f : Frag) (cause : Nat) (code : BitVec 16) : State :=
  (s.finish g).takeTrap s.iss.g
    [⟨cause, code, s.iss.slot, f.mask, 0, s.iss.pc, s.iss.pc, false, s.iss.opcode, none, false⟩] []

/-- TRAP (R136). -/
def execTrap (x : Code) (s : State) : Out :=
  issue (.trap x) s (fun _ _ => 0) (fun s g f => s.softTrap g f 0x05 x.c)

/-- BKPT (R136). -/
def execBkpt (x : Code) (s : State) : Out :=
  issue (.bkpt x) s (fun _ _ => 0) (fun s g f => s.softTrap g f 0x06 x.c)

/-- TRET (R148). A frame that fails its checks escalates as BADFRAME; replies that are out are waited for; after parent-bound replies
the group goes on with an acquire at .y (13 R318). -/
def execTret (x : Z) (s : State) : Out :=
  issue (.tret x) s (fun _ _ => 0) (fun s g f =>
    let gid := s.iss.g
    if !g.inHandler || (g.frag (1 - s.iss.slot)).isSome || !g.split.isEmpty || decide (f.mask ≠ g.gmask) then s.trapHere 0x01 0
    else
      match s.frameNow gid with
      | (none, t) => (t.modGrp gid (fun (k : Grp) => { k with escalated := true })).badFrame gid
      | (some fr, t) =>
        if g.replies ≠ 0 then t.waitHere .replies
        else if g.replayRoom fr.replay = false then t
        else
          let u := if fr.replay.any (fun e => decide (0x10 ≤ e.cause)) then t.acquireL1 g.core g.ctx g.sup else t
          u.resume gid fr)

/-- SETVIEW (06 R156). -/
def execSetview (x : Sv) (s : State) : Out :=
  issue (.setview x) s (fun g f => g.guarded f x.k) (fun s g _ =>
    if g.upred x.k.toNat then
      let w := g.scalar x.n.toNat
      if w.extractLsb' 24 8 ≠ 0#8 then s.trapHere 0x01 0
      else s.finish { g with view := ⟨if x.e.getLsbD 0 then w.extractLsb' 0 8 else g.view.v,
                                      if x.e.getLsbD 1 then w.extractLsb' 8 8 else g.view.t,
                                      if x.e.getLsbD 2 then w.extractLsb' 16 8 else g.view.a⟩ }
    else s.finish g)

end Sys2Proof.Machine
end

