-- ==== Sys2Proof/Machine/FloatIns.lean ====
section
/-! DEFINITION. Floating-point lane instructions (04 R100 to R105, R109), conversions and packing (R106 to R108). -/
namespace Sys2Proof.Machine

/-- FADD (R100). -/
def execFadd (x : V3) (s : State) : Out := issueLane3 (.fadd x) x true (fun a b _ => f32Add (fpMod x.pf) a b) s

/-- FSUB (R100). -/
def execFsub (x : V3) (s : State) : Out := issueLane3 (.fsub x) x true (fun a b _ => f32Sub (fpMod x.pf) a b) s

/-- FMUL (R100). -/
def execFmul (x : V3) (s : State) : Out := issueLane3 (.fmul x) x true (fun a b _ => f32Mul (fpMod x.pf) a b) s

/-- FFMA (R100). -/
def execFfma (x : V3) (s : State) : Out := issueLane3 (.ffma x) x true (fun a b d => f32Fma (fpMod x.pf) a b d) s

/-- FMIN and FMAX on a format (R101). -/
def ffMinMax (f : Ff) (o : FpMod) (wantMax : Bool) (a b : Nat) : Nat := f.pass o (Fv.minMax wantMax (f.opnd o a) (f.opnd o b))

/-- FMIN (R101). -/
def execFmin (x : V3) (s : State) : Out :=
  issueLane3 (.fmin x) x true (fun a b _ => BitVec.ofNat 32 (ffMinMax .f32 (fpMod x.pf) false a.toNat b.toNat)) s

/-- FMAX (R101). -/
def execFmax (x : V3) (s : State) : Out :=
  issueLane3 (.fmax x) x true (fun a b _ => BitVec.ofNat 32 (ffMinMax .f32 (fpMod x.pf) true a.toNat b.toNat)) s

/-- FABS (R101). -/
def execFabs (x : V2) (s : State) : Out :=
  issueLane2 (.fabs x) x (fun a => BitVec.ofNat 32 (Ff.f32.pass (fpMod x.pf) (Ff.f32.opnd (fpMod x.pf) a.toNat).abs)) s

/-- FNEG (R101). -/
def execFneg (x : V2) (s : State) : Out :=
  issueLane2 (.fneg x) x (fun a => BitVec.ofNat 32 (Ff.f32.pass (fpMod x.pf) (Ff.f32.opnd (fpMod x.pf) a.toNat).neg)) s

/-- Rounding to an integral value (R102). -/
def fIntegral (o : FpMod) (rm : Rm) (a : Word) : Word :=
  BitVec.ofNat 32 (Ff.f32.pass o ((Ff.f32.opnd o a.toNat).integral rm))

/-- FFLOOR (R102). -/
def execFfloor (x : V2) (s : State) : Out := issueLane2 (.ffloor x) x (fun a => fIntegral (fpMod x.pf) .rdn a) s

/-- FCEIL (R102). -/
def execFceil (x : V2) (s : State) : Out := issueLane2 (.fceil x) x (fun a => fIntegral (fpMod x.pf) .rup a) s

/-- FTRUNC (R102). -/
def execFtrunc (x : V2) (s : State) : Out := issueLane2 (.ftrunc x) x (fun a => fIntegral (fpMod x.pf) .rtz a) s

/-- FRINT (R102). -/
def execFrint (x : V2) (s : State) : Out := issueLane2 (.frint x) x (fun a => fIntegral (fpMod x.pf) (fpMod x.pf).rm a) s

/-- FCLASS (R103). -/
def execFclass (x : V2) (s : State) : Out :=
  issueLane2 (.fclass x) x (fun a => BitVec.ofNat 32 (Ff.f32.classify (Ff.f32.opnd (fpMod x.pf) a.toNat))) s

/-- FSCALE's result (R102): b is an integer. -/
def fScale (o : FpMod) (a b : Word) : Word :=
  BitVec.ofNat 32 (match Ff.f32.opnd o a.toNat with
    | .fin sg m e => if m = 0 then Ff.f32.pass o (.fin sg m e) else Ff.f32.round o (.fin sg m (e + b.toInt))
    | v => Ff.f32.pass o v)

/-- FSCALE (R102). -/
def execFscale (x : V3) (s : State) : Out := issueLane3 (.fscale x) x false (fun a b _ => fScale (fpMod x.pf) a b) s

/-- The issue of a special function (R104): a class B operation with A captured. -/
def issueSfu (i : Instr) (x : V2) (s : State) : Out :=
  issue i s (fun g f => g.lanes f x.g) (fun s g f =>
    let m := g.lanes f x.g
    s.finish (g.addOp (mkOp s g f i 0 m 0 [capture m (g.opA x.pf x.a)])))

/-- FRCP (R104). -/
def execFrcp (x : V2) (s : State) : Out := issueSfu (.frcp x) x s

/-- FRSQ (R104). -/
def execFrsq (x : V2) (s : State) : Out := issueSfu (.frsq x) x s

/-- FSQRT (R100). -/
def execFsqrt (x : V2) (s : State) : Out := issueSfu (.fsqrt x) x s

/-- FEX2 (R104). -/
def execFex2 (x : V2) (s : State) : Out := issueSfu (.fex2 x) x s

/-- FLG2 (R104). -/
def execFlg2 (x : V2) (s : State) : Out := issueSfu (.flg2 x) x s

/-- FSIN (R104). -/
def execFsin (x : V2) (s : State) : Out := issueSfu (.fsin x) x s

/-- FCOS (R104). -/
def execFcos (x : V2) (s : State) : Out := issueSfu (.fcos x) x s

/-- FTANH (R104). -/
def execFtanh (x : V2) (s : State) : Out := issueSfu (.ftanh x) x s

/-- The value of a special function or square root (R85, R86, R100) by instruction. -/
def sfuValue (i : Instr) (a : Word) : Word :=
  match i with
  | .frcp x => sfResult .rcp (fpMod x.pf) a
  | .frsq x => sfResult .rsq (fpMod x.pf) a
  | .fex2 x => sfResult .ex2 (fpMod x.pf) a
  | .flg2 x => sfResult .lg2 (fpMod x.pf) a
  | .fsin x => sfResult .sin (fpMod x.pf) a
  | .fcos x => sfResult .cos (fpMod x.pf) a
  | .ftanh x => sfResult .tanh (fpMod x.pf) a
  | .fsqrt x => sqrtResult (fpMod x.pf) a
  | _ => 0

/-! ### Packed 16-bit arithmetic -/

/-- One packed element operation in format `f` (R105). -/
def elAdd (f : Ff) (o : FpMod) (a b _d : Nat) : Nat := f.round o (Fv.add o.rm (f.opnd o a) (f.opnd o b))
def elMul (f : Ff) (o : FpMod) (a b _d : Nat) : Nat := f.round o (Fv.mul (f.opnd o a) (f.opnd o b))
def elFma (f : Ff) (o : FpMod) (a b d : Nat) : Nat := f.round o (Fv.add o.rm (Fv.mul (f.opnd o a) (f.opnd o b)) (f.opnd o d))

/-- HADD2 (R105). -/
def execHadd2 (x : V3) (s : State) : Out :=
  issueLane3 (.hadd2 x) x false (packed2 (elAdd .h16 (fpMod x.pf))) s

/-- HMUL2 (R105). -/
def execHmul2 (x : V3) (s : State) : Out :=
  issueLane3 (.hmul2 x) x false (packed2 (elMul .h16 (fpMod x.pf))) s

/-- HFMA2 (R105). -/
def execHfma2 (x : V3) (s : State) : Out :=
  issueLane3 (.hfma2 x) x false (packed2 (elFma .h16 (fpMod x.pf))) s

/-- HMIN2 (R105). -/
def execHmin2 (x : V3) (s : State) : Out :=
  issueLane3 (.hmin2 x) x false (packed2 (fun a b _ => ffMinMax .h16 (fpMod x.pf) false a b)) s

/-- HMAX2 (R105). -/
def execHmax2 (x : V3) (s : State) : Out :=
  issueLane3 (.hmax2 x) x false (packed2 (fun a b _ => ffMinMax .h16 (fpMod x.pf) true a b)) s

/-- BADD2 (R105). -/
def execBadd2 (x : V3) (s : State) : Out :=
  issueLane3 (.badd2 x) x false (packed2 (elAdd .b16 (fpMod x.pf))) s

/-- BMUL2 (R105). -/
def execBmul2 (x : V3) (s : State) : Out :=
  issueLane3 (.bmul2 x) x false (packed2 (elMul .b16 (fpMod x.pf))) s

/-- BFMA2 (R105). -/
def execBfma2 (x : V3) (s : State) : Out :=
  issueLane3 (.bfma2 x) x false (packed2 (elFma .b16 (fpMod x.pf))) s

/-- BMIN2 (R105). -/
def execBmin2 (x : V3) (s : State) : Out :=
  issueLane3 (.bmin2 x) x false (packed2 (fun a b _ => ffMinMax .b16 (fpMod x.pf) false a b)) s

/-- BMAX2 (R105). -/
def execBmax2 (x : V3) (s : State) : Out :=
  issueLane3 (.bmax2 x) x false (packed2 (fun a b _ => ffMinMax .b16 (fpMod x.pf) true a b)) s

/-! ### Conversions and packing -/

/-- CVT (R106): element 0 of the result and zero above it; I64 writes a pair (R80). -/
def execCvt (x : Cvt) (s : State) : Out :=
  issueF (.cvt x) s (fun g f => g.lanes f x.g) (fun _ g f =>
    let m := g.lanes f x.g
    let r (l : Nat) : Dword := convert (cvSrc x.s) (cvDst x.f) (fpMod x.pf) (g.opA x.pf x.a l)
    match cvDst x.f with
    | .int w => if w = 64 then g.setVPair x.d.toNat m r else g.setV x.d.toNat m (fun l => lo32 (r l))
    | _ => g.setV x.d.toNat m (fun l => lo32 (r l)))

/-- CVTEF on a format (R107): the destination shifts right by the element, the residue goes to b. -/
def issueCvtef (i : Instr) (x : V3) (ef : EfFmt) (s : State) : Out :=
  issueF i s (fun g f => g.lanes f x.g) (fun _ g f =>
    let m := g.lanes f x.g
    let r (l : Nat) : Nat × Word := errorFeedback ef (fpMod x.pf) (g.opA x.pf x.a l) (g.vreg x.b.toNat l)
    let w := ef.bits
    let h := g.setV x.d.toNat m (fun l => (BitVec.ofNat 32 ((r l).1 % 2 ^ w * 2 ^ (32 - w))) ||| (g.vreg x.d.toNat l >>> w))
    h.setV x.b.toNat m (fun l => (r l).2))

/-- CVTEF.F8A (R107). -/
def execCvtefF8a (x : V3) (s : State) : Out := issueCvtef (.cvtefF8a x) x (.flt .f8a) s

/-- CVTEF.F8B (R107). -/
def execCvtefF8b (x : V3) (s : State) : Out := issueCvtef (.cvtefF8b x) x (.flt .f8b) s

/-- CVTEF.F4 (R107). -/
def execCvtefF4 (x : V3) (s : State) : Out := issueCvtef (.cvtefF4 x) x (.flt .f4) s

/-- CVTEF.H16 (R107). -/
def execCvtefH16 (x : V3) (s : State) : Out := issueCvtef (.cvtefH16 x) x (.flt .h16) s

/-- CVTEF.B16 (R107). -/
def execCvtefB16 (x : V3) (s : State) : Out := issueCvtef (.cvtefB16 x) x (.flt .b16) s

/-- CVTEF.I8 (R107). -/
def execCvtefI8 (x : V3) (s : State) : Out := issueCvtef (.cvtefI8 x) x (.i8) s

/-- PACK's word (R108). -/
def packWord (a b d : Word) : Word :=
  (List.range 4).foldl (fun (r : Word) i =>
    let n := (b.extractLsb' (4 * i) 4).toNat
    let byte : Byte := if n ≤ 7 then (pair d a).extractLsb' (8 * n) 8 else 0
    r ||| (byte.setWidth 32 <<< (8 * i))) 0

/-- PACK (R108). -/
def execPack (x : V3) (s : State) : Out := issueLane3 (.pack x) x false packWord s

/-! ### Compares -/

/-- FCMP.EQ (R109). -/
def execFcmpEq (x : Cmp) (s : State) : Out := issueFcmp (.fcmpEq x) x (fun a b => !a.isNan && !b.isNan && decide (Fv.cmp a b = 0)) s

/-- FCMP.NE (R109). -/
def execFcmpNe (x : Cmp) (s : State) : Out := issueFcmp (.fcmpNe x) x (fun a b => a.isNan || b.isNan || decide (Fv.cmp a b ≠ 0)) s

/-- FCMP.LT (R109). -/
def execFcmpLt (x : Cmp) (s : State) : Out := issueFcmp (.fcmpLt x) x (fun a b => !a.isNan && !b.isNan && decide (Fv.cmp a b < 0)) s

/-- FCMP.LE (R109). -/
def execFcmpLe (x : Cmp) (s : State) : Out := issueFcmp (.fcmpLe x) x (fun a b => !a.isNan && !b.isNan && decide (Fv.cmp a b ≤ 0)) s

/-- FCMP.GT (R109). -/
def execFcmpGt (x : Cmp) (s : State) : Out := issueFcmp (.fcmpGt x) x (fun a b => !a.isNan && !b.isNan && decide (0 < Fv.cmp a b)) s

/-- FCMP.GE (R109). -/
def execFcmpGe (x : Cmp) (s : State) : Out := issueFcmp (.fcmpGe x) x (fun a b => !a.isNan && !b.isNan && decide (0 ≤ Fv.cmp a b)) s

/-- FCMP.UN (R109). -/
def execFcmpUn (x : Cmp) (s : State) : Out := issueFcmp (.fcmpUn x) x (fun a b => a.isNan || b.isNan) s

/-- FCMP.OR (R109). -/
def execFcmpOr (x : Cmp) (s : State) : Out := issueFcmp (.fcmpOr x) x (fun a b => !a.isNan && !b.isNan) s

end Sys2Proof.Machine
end

