-- ==== Sys2Proof/Machine/MatrixIns.lean ====
section
/-! DEFINITION. The matrix instructions and the unit's steps (08 R214 to R229): issue with every check, the unit's order, its operations
and loops. An operation reads its operands when the unit takes it and writes when it completes. -/
namespace Sys2Proof.Machine

/-! ### Issue -/

/-- First of the window addresses that reaches nothing. -/
def State.unmapped (s : State) (g : Grp) (as : List Word) : Option Word := as.find? (fun a => (s.winLoc g a).isNone)

/-- A window operand of an instruction: its descriptor, and the checks of R215 over its steps. -/
structure WinUse where
  w : WinOp
  comp : Bool
  steps : Nat
  kind : AccK
  deriving DecidableEq, Repr

/-- First failing address over the steps from `i` on; one step when every step is the same. -/
def State.stepsUnmapped (s : State) (g : Grp) (u : WinUse) (i n : Nat) : Option Word :=
  match n with
  | 0 => none
  | n + 1 =>
    match s.unmapped g (u.w.pieces u.comp i) with
    | some a => some a
    | none => if u.w.tpitch = 0 then none else s.stepsUnmapped g u (i + 1) n

/-- The checks of R215 in order: ILLEGAL, MISALIGN, NOTMAPPED; then `k`. -/
def State.withWindows (s : State) (g : Grp) (us : List WinUse) (k : State → State) : State :=
  if us.any (fun u => u.w.illegal u.comp) then s.trapHere 0x01 0
  else
    match us.find? (fun u => decide (u.w.base.toNat % 16 ≠ 0)) with
    | some u => s.trapAddr u.kind ⟨0, u.w.base.setWidth 64, 0x09, true, none⟩
    | none =>
      match us.findSome? (fun u => (s.stepsUnmapped g u 0 u.steps).map (fun a => (u, a))) with
      | some (u, a) => s.trapAddr u.kind ⟨0, a.setWidth 64, 0x10, true, none⟩
      | none => k s

/-- The descriptor words that a selector names, captured in lanes 0 and 1 of a slot. -/
def captureDesc (g : Grp) (sel : BitVec 7) : List Word :=
  if selWin sel then
    let n := 2 * (sel.toNat - 0x40)
    [g.scalar n, g.scalar (n + 1)] ++ List.replicate 30 0
  else []

/-- The descriptor of a captured slot. -/
def Op.desc (o : Op) (i : Nat) : WinOp := winOp (o.slotAt i 0) (o.slotAt i 1)

/-- The window uses of a selector. -/
def winUses (g : Grp) (sel : BitVec 7) (comp : Bool) (steps : Nat) (kind : AccK) : List WinUse :=
  if selWin sel then
    let n := 2 * (sel.toNat - 0x40)
    [⟨winOp (g.scalar n) (g.scalar (n + 1)), comp, steps, kind⟩]
  else []

/-- A matrix operation of the instruction being issued, with the lines it reads and writes. -/
def matrixOp (s : State) (g : Grp) (f : Frag) (i : Instr) (slots : List (List Word)) : Op :=
  let t := matrixOperands g i
  { mkOp s g f i 2 f.mask 0 slots with reads := t.1, lines := t.2 }

/-- Puts the operation into its quarter's queue (R217). -/
def State.enqueueDirect (s : State) (g : Grp) (o : Op) : State :=
  let q := g.slot / 32
  (s.modCore g.core (fun k => { k with mq := k.mq.set q (k.mq.getD q [] ++ [(s.iss.g, g.opNext)]) })).finish (g.addOp o)

/-- The issue of a direct matrix instruction with guard `kg`: its window checks, then the queue. -/
def issueDirect (i : Instr) (kg : BitVec 3) (us : Grp → List WinUse) (slots : Grp → List (List Word)) (s : State) : Out :=
  issue i s (fun g f => g.guarded f kg) (fun s g f =>
    if !g.upred kg.toNat then s.finish g
    else s.withWindows g (us g) (fun t => t.enqueueDirect g (matrixOp t g f i (slots g))))

/-- MMA (R220). -/
def execMma (x : Mm) (s : State) : Out :=
  issueDirect (.mma x) x.k (fun g => winUses g x.y false 1 .read ++ winUses g x.z false 1 .read)
    (fun g => [captureDesc g x.y, captureDesc g x.z]) s

/-- The four words of an operand header at a window address. -/
def State.headerAt (s : State) (g : Grp) (a : Word) : List Word :=
  match s.winLoc g a with
  | some p => (List.range 4).map (fun i => BitVec.ofNat 32 (leNat (s.winRead p.1 (p.2 + 4 * i) 4)))
  | none => []

/-- The check of an operand header at issue (R221): SPARSEHDR with the header's window address, else `k`. -/
def State.withHeader (s : State) (g : Grp) (f : BitVec 4) (a : Word) (k : State → State) : State :=
  if sparseOk f (s.headerAt g a) then k s
  else s.raiseIssue 0x0A 0 0 s.iss.pc (a.setWidth 64) true s.iss.opcode false

/-- MMAS (R223): the header is read and checked at issue, and its seed captured in slot 2. -/
def execMmas (x : Mm) (s : State) : Out :=
  issue (.mmas x) s (fun g f => g.guarded f x.k) (fun s g f =>
    if !g.upred x.k.toNat then s.finish g
    else
      s.withWindows g (winUses g x.y true 1 .read ++ winUses g x.z false 1 .read) (fun t =>
        let a := (winOp (g.scalar (2 * (x.y.toNat - 0x40))) 0).base
        t.withHeader g x.f a (fun u =>
          u.enqueueDirect g (matrixOp u g f (.mmas x)
            [captureDesc g x.y, captureDesc g x.z, captureScalar ((u.headerAt g a).getD 0 0)]))))

/-- MLOOP (R224, R225): it starts at once unless its quarter has a loop or a PERC of its group is open (09 R242). -/
def execMloop (x : Mm) (s : State) : Out :=
  issue (.mloop x) s (fun g f => g.guarded f x.k) (fun s g f =>
    if !g.upred x.k.toNat then s.finish g
    else
      let h := (mloopHimm x.pf).getD (false, 1)
      s.withWindows g (winUses g x.y h.1 h.2 .read ++ winUses g x.z false h.2 .read) (fun t =>
        let a := (winOp (g.scalar (2 * (x.y.toNat - 0x40))) 0).base
        let go (u : State) : State :=
          let n := g.tlLast 4 + 1
          let o := { matrixOp u g f (.mloop x) [captureDesc g x.y, captureDesc g x.z] with n := n }
          let l : Loop := ⟨s.iss.g, g.opNext, g.slot / 32, 0, h.2, h.1, n, g.launch⟩
          (u.modCore g.core (fun k =>
            if (k.loops ++ k.lq).any (fun e => decide (e.quarter = l.quarter)) || g.percOpen then { k with lq := k.lq ++ [l] }
            else { k with loops := k.loops ++ [l] })).finish ((g.tlAssign 4 1).addOp o)
        if h.1 then t.withHeader g x.f a go else go t))

/-- MZERO (R228). -/
def execMzero (x : Mz) (s : State) : Out := issueDirect (.mzero x) x.k (fun _ => []) (fun _ => []) s

/-- MLDT (R228). -/
def execMldt (x : Mt) (s : State) : Out :=
  issueDirect (.mldt x) x.k (fun g => winUses g x.y false 1 .read) (fun g => [captureDesc g x.y]) s

/-- MSTT (R228). -/
def execMstt (x : Mt) (s : State) : Out :=
  issueDirect (.mstt x) x.k (fun g => winUses g x.y false 1 .write) (fun g => [captureDesc g x.y]) s

/-- SCALC (R229): the scale vector is captured in slot 0, whatever the active mask. -/
def execScalc (x : Sc) (s : State) : Out :=
  issueDirect (.scalc x) x.k (fun _ => []) (fun g => [(List.range 32).map (g.vreg x.z.toNat)]) s

/-- MTRN (R228). -/
def execMtrn (x : Mt) (s : State) : Out := issueDirect (.mtrn x) x.k (fun _ => []) (fun _ => []) s

/-! ### The unit's operations -/

/-- Words and poison of a 16-byte piece at a window address. -/
def State.winPiece (s : State) (g : Grp) (a : Word) : List Word × Bool :=
  match s.winLoc g a with
  | some p => ((List.range 4).map (fun i => BitVec.ofNat 32 (leNat (s.winRead p.1 (p.2 + 4 * i) 4))), s.winPoisoned p.1 p.2 16)
  | none => (List.replicate 4 0, false)

/-- Row `r` of a window operand at a step, in element order. -/
def State.winRow (s : State) (g : Grp) (w : WinOp) (comp : Bool) (st r : Nat) : List Word × Bool :=
  let ps := (List.range (rowBytes comp / 16)).map (fun c => s.winPiece g (w.chunkAt comp st r c))
  (ps.flatMap (fun p => p.1), ps.any (fun p => p.2))

/-- The 32 rows of an operand as values, and which of them a poisoned word or line gave (06 R172). `view`: the views at issue; `comp`: the seed of a
compressed A operand. -/
def State.operandRows (s : State) (g : Grp) (o : Op) (e : MEl) (f : BitVec 4) (sel : BitVec 7) (i st : Nat) (comp : Option Word) :
    List (List MVal) × List Bool :=
  if selWin sel then
    let rows := (List.range 32).map (s.winRow g (o.desc i) comp.isSome st)
    let vals := rows.zipIdx.map (fun p => match comp with
      | some seed => expandRow seed p.2 (e.row p.1.1)
      | none => e.row p.1.1)
    (vals, rows.map (fun p => p.2))
  else
    let gv := { g with view := o.view }
    let ls := operandLines gv f sel
    if 8 ≤ sel.toNat ∧ f = 1#4 then
      ((List.range 32).map (fun r => (g.lineWords (ls.getD r 0) ++ g.lineWords (ls.getD (r + 32) 0)).map feedB16),
       (List.range 32).map (fun r => s.linePoisoned g (ls.getD r 0) || s.linePoisoned g (ls.getD (r + 32) 0)))
    else ((ls.take 32).map (fun l => e.row (g.lineWords l)), (ls.take 32).map (fun l => s.linePoisoned g l))

/-- What an operation of the unit writes: lines, window bytes with their poison, and the lines that derive from poison. -/
structure UnitOut where
  lines : List (Nat × List Word)
  win : List (Nat × Nat × List Byte × Bool)
  poison : List Nat
  deriving DecidableEq, Repr

/-- The lines whose row a test marks. -/
def markedLines (ls : List Nat) (bad : Nat → Bool) : List Nat := (ls.zipIdx.filter (fun p => bad p.2)).map (fun p => p.1)

/-- One multiply step into the accumulator: `seed` for a compressed A operand. Row r derives from row r of A, from itself and from all of B. -/
def State.mulStep (s : State) (g : Grp) (o : Op) (x : Mm) (st : Nat) (seed : Option Word) : UnitOut :=
  let f := mFmt x.f
  let a := s.operandRows g o f.a x.f x.y 0 st seed
  let b := s.operandRows g o f.b x.f x.z 1 st none
  let d := o.lines.map g.lineWords
  ⟨o.lines.zip (f.step d a.1 b.1), [], markedLines o.lines (fun r => a.2.getD r false || b.2.any id || s.linePoisoned g (o.lines.getD r 0))⟩

/-- What a direct operation writes (R220, R223, R228, R229). -/
def State.directOut (s : State) (g : Grp) (o : Op) : UnitOut :=
  let bad (ls : List Nat) (r : Nat) : Bool := s.linePoisoned g (ls.getD r 0)
  match o.instr with
  | .mma x => s.mulStep g o x 0 none
  | .mmas x => s.mulStep g o x 0 (some (o.slotAt 2 0))
  | .mzero _ => ⟨o.lines.map (fun l => (l, List.replicate 32 0)), [], []⟩
  | .mldt _ =>
    let rows := (List.range 32).map (s.winRow g (o.desc 0) false 0)
    ⟨o.lines.zip (rows.map (fun p => p.1)), [], markedLines o.lines (fun r => (rows.map (fun p => p.2)).getD r false)⟩
  | .mstt _ =>
    let w := o.desc 0
    let piece (r c : Nat) : List (Nat × Nat × List Byte × Bool) :=
      match s.winLoc g (w.chunkAt false 0 r c) with
      | some p => [(p.1, p.2, ((g.lineWords (o.reads.getD r 0)).drop (4 * c)).take 4 |>.flatMap (fun (v : Word) => leBytes 4 v.toNat), bad o.reads r)]
      | none => []
    ⟨[], (List.range 32).flatMap (fun r => (List.range 8).flatMap (piece r)), []⟩
  | .mtrn _ =>
    let src := o.reads.map g.lineWords
    ⟨o.lines.zip ((List.range 32).map (fun r => (List.range 32).map (fun e => (src.getD e []).getD r 0))), [],
     if (List.range 32).any (bad o.reads) then o.lines else []⟩
  | .scalc x =>
    let d := (o.reads.take 32).map g.lineWords
    let p := (o.reads.drop 32).map g.lineWords
    let sc := (List.range 32).map (o.slotAt 0)
    let er (i : Nat) : BitVec 8 := (sc.getD i 0).extractLsb' 0 8
    let ec (j : Nat) : BitVec 8 := (sc.getD j 0).extractLsb' 8 8
    let out := (List.range 32).map (fun i => (List.range 32).map (fun j =>
      scaleAdd ((d.getD i []).getD j 0) ((p.getD i []).getD j 0) (er i) (ec j)))
    ⟨(o.reads.take 32).zip out ++ (if pfMod x.pf = 1#24 then (o.reads.drop 32).map (fun l => (l, List.replicate 32 0)) else []), [],
     markedLines (o.reads.take 32) (fun r => bad o.reads r || bad o.reads (r + 32))⟩
  | _ => ⟨[], [], []⟩

/-- The direct instruction at the head of quarter `q`'s queue, if its group's order lets it go. -/
def State.readyDirect (s : State) (k : Core) (q : Nat) : Option (Nat × Nat) :=
  match k.mq.getD q [] with
  | (gid, n) :: _ => if (s.grp gid).matrixFirst n then some (gid, n) else none
  | [] => none

/-- The running loop of quarter `q`, if its group's order lets its next step go. -/
def State.readyLoop (s : State) (k : Core) (q : Nat) : Option Loop :=
  match k.loops.find? (fun l => decide (l.quarter = q)) with
  | some l => if (s.grp l.g).matrixFirst l.op then some l else none
  | none => none

/-- Does the percolation sequencer want the unit for a block product (09 R242)? Its turn stands after quarter 3's, as quarter 4. -/
def State.readyPerc (s : State) (k : Core) (q : Nat) : Option Perc :=
  match k.perc with
  | some p => if q = 4 ∧ 0 < p.left ∧ (s.grp p.g).matrixFirst p.op = true then some p else none
  | none => none

/-- Is the run's launch being pre-empted? The unit then serves the sequencer ahead of every other request (R242). -/
def State.percStopping (s : State) (p : Perc) : Bool :=
  match Tab.find s.launches p.launch with | some l => decide (l.st = .preempted) | none => false

/-- The next quarter with work, round robin after the one served last (R217; 09 R242). -/
def State.nextQuarter (s : State) (k : Core) : Option Nat :=
  if (s.readyPerc k 4).any s.percStopping then some 4
  else ((List.range 5).map (fun i => (k.mlast + 1 + i) % 5)).find? (fun q =>
    (s.readyDirect k q).isSome || (s.readyLoop k q).isSome || (s.readyPerc k q).isSome)

/-- A loop ends: its last value stands in its lines; its flag falls and its number on tl4 completes (R224). -/
def State.loopEnd (s : State) (core : Nat) (l : Loop) : State :=
  let t := s.modCore core (fun k => { k with loops := k.loops.filter (fun e => decide (e ≠ l)) })
  t.modGrp l.g (fun (g : Grp) => (g.opDone l.op).tlComplete 4 l.n.toNat)

/-- The unit takes a step of a loop (R224): a later sparse header that fails its check ends the loop, and SPARSEHDR is raised (R227). A loop of a group that has
retired runs on for nothing. -/
def State.takeLoop (s : State) (core q : Nat) (l : Loop) : State :=
  let g := s.grp l.g
  match Tab.find g.ops l.op with
  | none => s.modCore core (fun k => { k with unit := some ⟨l.g, l.op, true, q, [], [], []⟩, mlast := q, loopLast := k.loopLast.set q 1 })
  | some o =>
    match o.instr with
    | .mloop x =>
      let a := (o.desc 0).base + BitVec.ofNat 32 (128 * (o.desc 0).tpitch * l.step)
      let h := s.headerAt g a
      if l.sp && !sparseOk x.f h then
        (s.loopEnd core l).modGrp l.g (fun (k : Grp) => { k with raised := k.raised ++
          [⟨0x0A, 0, o.slot, o.m, 0, o.pc, a.setWidth 64, true, wordsOpcode o.words, none, false⟩] })
      else
        let r := s.mulStep g o x l.step (if l.sp then some (h.getD 0 0) else none)
        s.modCore core (fun k => { k with
          unit := some ⟨l.g, l.op, true, q, r.lines, r.win, r.poison⟩, mlast := q, loopLast := k.loopLast.set q 1 })
    | _ => s

/-- The unit takes a direct instruction. -/
def State.takeDirect (s : State) (core q gid n : Nat) : State :=
  let g := s.grp gid
  let t := s.modCore core (fun k => { k with mq := k.mq.set q ((k.mq.getD q []).drop 1), mlast := q, loopLast := k.loopLast.set q 0 })
  match Tab.find g.ops n with
  | none => t
  | some o =>
    let r := s.directOut g o
    t.modCore core (fun k => { k with unit := some ⟨gid, n, false, q, r.lines, r.win, r.poison⟩ })

/-- The unit takes a block product of the percolation sequencer (09 R242); what it computes shows at the end of the iteration. -/
def State.takePerc (s : State) (core : Nat) (p : Perc) : State :=
  s.modCore core (fun k => { k with
    unit := some ⟨p.g, p.op, false, 4, [], [], []⟩, mlast := 4, perc := some { p with left := p.left - 1 } })

/-- MATRIX_UNIT_OPERATION (R217): a quarter's loop and its oldest direct instruction take turns; the percolation sequencer has its own turn. -/
def execMatrixUnitOperation (core : Nat) (s : State) : Out :=
  .next (
    let k := s.coreAt core
    if k.unit.isSome then s
    else
      match s.nextQuarter k with
      | none => s
      | some q =>
        match s.readyLoop k q, s.readyDirect k q with
        | some l, some (gid, n) => if k.loopLast.getD q 0 = 1 then s.takeDirect core q gid n else s.takeLoop core q l
        | some l, none => s.takeLoop core q l
        | none, some (gid, n) => s.takeDirect core q gid n
        | none, none => match s.readyPerc k q with | some p => s.takePerc core p | none => s)

/-- Writes the window bytes of an MSTT, poison where its line held poison. -/
def State.putWin (s : State) (ws : List (Nat × Nat × List Byte × Bool)) : State :=
  ws.foldl (fun (t : State) p =>
    let u := t.winWrite p.1 p.2.1 p.2.2.1
    if p.2.2.2 then (u.poisonWin p.1 p.2.1).poisonWin p.1 (p.2.1 + 8) else u) s

/-- SETLs held while a direct matrix instruction used their line write it now (R219). -/
def Grp.landHeld (g : Grp) : Grp :=
  (g.ops.filter (fun p => match p.2.instr with | .setl _ => true | _ => false)).foldl (fun (k : Grp) p =>
    if k.canLand p.2.lines then (k.writeLine (p.2.lines.headD 0) p.2.m (fun l => p.2.slotAt 0 l)).opDone p.1 else k) g

/-- MATRIX_OPERATION_COMPLETE (R218, R224, R230): the result is written; a direct instruction's flag falls; a loop goes to its next
step, or ends. -/
def execMatrixOperationComplete (core : Nat) (s : State) : Out :=
  .next (
    let k := s.coreAt core
    match k.unit with
    | none => s
    | some u =>
      let t := ((s.putWin u.win).modCore core (fun k => { k with unit := none })).modGrp u.g (fun g => g.putLines u.lines u.poison)
      if u.isLoop then
        match k.loops.find? (fun l => decide (l.g = u.g) && decide (l.op = u.op)) with
        | none => t
        | some l =>
          if l.step + 1 = l.count then t.loopEnd core l
          else t.modCore core (fun k => { k with loops := k.loops.map (fun e => if e = l then { e with step := e.step + 1 } else e) })
      else if u.quarter = 4 then t
      else t.modGrp u.g (fun g => (g.opDone u.op).landHeld))

/-- Is no percolation run of the group open that was issued before operation `n` (09 R242)? -/
def Grp.percBefore (g : Grp) (n : Nat) : Bool :=
  g.ops.all (fun p => decide (n ≤ p.1) || (match p.2.instr with | .perc _ => false | _ => true))

/-- MLOOP_START (R225): the oldest queued loop whose quarter runs none; it starts after a PERC of its group (R242). -/
def execMloopStart (core : Nat) (s : State) : Out :=
  .next (
    let k := s.coreAt core
    match k.lq.find? (fun l => k.loops.all (fun e => decide (e.quarter ≠ l.quarter)) && (s.grp l.g).percBefore l.op) with
    | none => s
    | some l => s.setCore core { k with lq := k.lq.filter (fun e => decide (e ≠ l)), loops := k.loops ++ [l] })

end Sys2Proof.Machine
end

