-- ==== Sys2Proof/Machine/MemOps.lean ====
section
/-! DEFINITION. Memory operations after their issue: addresses, the fault point and its faults (05 R141, R143; 07 R176 to R178), how an
access is performed (R180, R181), and what lands (R183, R211). -/
namespace Sys2Proof.Machine

/-- The operations on windows (07 R188, R193, R194). -/
def isWindowOp (i : Instr) : Bool := match i with | .ldl _ => true | .stl _ => true | .atoml _ => true | .casl _ => true | _ => false

/-- Bytes a lane accesses (07 R185 to R194). -/
def accBytes (i : Instr) : Nat :=
  match i with
  | .ldD _ => 8
  | .stD _ => 8
  | .ldQ _ => 16
  | .stQ _ => 16
  | .ldw _ => 16
  | .ldN x => if memWidth x.pf = 1 then 2 else 1
  | .stN x => if memWidth x.pf = 1 then 2 else 1
  | .pref _ => 1
  | .cwb _ => 1
  | .cinv _ => 1
  | .cinvP _ => 1
  | _ => 4

/-- The access kind of a memory instruction (17 R358). -/
def accKind (i : Instr) : AccK :=
  match i with
  | .stW _ | .stD _ | .stQ _ | .stN _ | .sst _ | .stk _ | .stl _ => .write
  | .atom _ | .atomr _ | .atoml _ | .cas _ | .casl _ | .satom _ => .atomic
  | .cwb _ | .cinv _ | .cinvP _ | .pref _ => .maint
  | _ => .read

/-- Scope code of an access (R51); LDK, STK, LDW and PREF are at .g. -/
def accScope (i : Instr) : Nat :=
  match i with
  | .atom x | .atomr x | .atoml x | .cas x | .casl x => atomScope x.pf
  | .satom x => atomScope x.pf
  | .cwb x | .cinv x | .cinvP x => atomScope x.pf
  | .ldk _ | .stk _ | .ldw _ | .pref _ => 0
  | _ => memScope i.pf

/-- Cache policy of an access (R180). -/
def accPolicy (i : Instr) : Nat :=
  match i with
  | .atom _ | .atomr _ | .atoml _ | .cas _ | .casl _ | .satom _ | .cwb _ | .cinv _ | .cinvP _ => 0
  | _ => memPolicy i.pf

/-- Is the operation a load of a capsule body, which is performed at its home slice (14 R329)? -/
def Op.bodyLoad (o : Op) : Bool := match o.instr with | .sld _ => o.body | _ => false

/-- How an operation's accesses are performed (R181). -/
def State.howOf (s : State) (g : Grp) (o : Op) : How :=
  ⟨g.core, g.ctx, g.sup, !(s.wide g (accScope o.instr) || o.bodyLoad), decide (4 ≤ accScope o.instr), accPolicy o.instr, o.pc, []⟩

/-- Address of lane `l`'s word at offset `off` of a group's spill stack (R190). -/
def State.stackAddr (s : State) (g : Grp) (off l : Nat) : Dword :=
  BitVec.ofNat 64 ((s.ctxAt g.ctx).stackBase + 2 ^ 16 * (g.core * 128 + g.fidx) + 128 * (off / 4) + 4 * l)

/-- The address of a lane of an operation, from its captured operands (R176, R187, R190). -/
def State.opAddr (s : State) (g : Grp) (o : Op) (l : Nat) : Dword :=
  match o.instr with
  | .sld _ | .sst _ | .satom _ => scalarAddr (pair (o.slotAt 1 0) (o.slotAt 0 0)) (o.slotAt 2 0)
  | .ldk x | .stk x => s.stackAddr g (himmOff x.pf).toNat l
  | i =>
    if isWindowOp i then (windowAddr (lo32 o.base) (o.slotAt 0 l) (himmOff i.pf)).setWidth 64
    else globalAddr o.base (o.slotAt 0 l) (himmOff i.pf)

/-- Lanes of an operation that are still to be done: a scalar one has one, numbered by its lowest lane. -/
def Op.doLanes (o : Op) : List Nat := if o.kind = 2 then (lanesOf o.todo).take 1 else lanesOf o.todo

/-- Outcome of a lane's check. -/
structure LaneOk where
  loc : Loc
  loc2 : Option Loc
  deriving DecidableEq, Repr

/-- A window location, or NOTMAPPED marked as a window address (R175). -/
def State.winCheck (s : State) (g : Grp) (l : Nat) (a : Word) : Except LaneFault Loc :=
  match s.winLoc g a with
  | some p => .ok (.win p.1 p.2)
  | none => .error ⟨l, a.setWidth 64, 0x10, true, none⟩

/-- A lane's location, refused as MISALIGN when its address is no multiple of `n`: alignment comes last (17 R372). -/
def alignLoc (l n : Nat) (a : Dword) (win : Bool) (r : Except LaneFault Loc) : Except LaneFault Loc :=
  match r with
  | .error e => .error e
  | .ok p => if a.toNat % n = 0 then .ok p else .error ⟨l, a, 0x09, win, none⟩

/-- The window side of an LDW lane (R189): 16 bytes at `w`, and the object at `b`. -/
def State.checkLdw (s : State) (g : Grp) (l : Nat) (w b : Word) : Except LaneFault Loc :=
  match alignLoc l 16 (w.setWidth 64) true (s.winCheck g l w) with
  | .error e => .error e
  | .ok q =>
    match alignLoc l 16 (b.setWidth 64) true (s.winCheck g l b) with
    | .error e => .error e
    | .ok _ => .ok q

/-- The check of one lane (R176 to R178, R189, R196): canonical form, translation, alignment, in this order (17 R372). -/
def State.checkLane (s : State) (g : Grp) (o : Op) (l : Nat) : Except LaneFault LaneOk × State :=
  let a := s.opAddr g o l
  let n := accBytes o.instr
  let one (r : Except LaneFault Loc) : Except LaneFault LaneOk :=
    match alignLoc l n a (isWindowOp o.instr) r with | .ok p => .ok ⟨p, none⟩ | .error e => .error e
  if isWindowOp o.instr then (one (s.winCheck g l (lo32 a)), s)
  else
    match o.instr with
    | .cinvP _ =>
      match s.physNest g.ctx a.toNat false with
      | .ok r => (one (.ok (if r.void then .void else .mem r.pa r.path)), s.traced r.tr)
      | .error e => (.error ⟨l, a, e.cause, false, some e⟩, s.traced e.tr)
    | i =>
      match s.translate g.core g.ctx g.sup a (accKind i) with
      | .error e => (.error ⟨l, a, e.cause, false, some e⟩, s.traced e.tr)
      | .ok r =>
        let t := s.xCommit g.core r
        let p : Loc := if r.void then .void else .mem r.pa r.path
        match i with
        | .ldw _ =>
          (match one (.ok p), t.checkLdw g l (o.slotAt 1 l) (lo32 o.n) with
           | .error e, _ => (.error e, t)
           | .ok _, .error e => (.error e, t)
           | .ok _, .ok q => (.ok ⟨p, some q⟩, t))
        | _ => (one (.ok p), t)

/-- What the checks of a list of lanes find. -/
structure Checked where
  locs : List (Nat × Loc)
  locs2 : List (Nat × Loc)
  faults : List LaneFault
  deriving DecidableEq, Repr

/-- The checks of every lane (R178). -/
def State.checkLanes (s : State) (g : Grp) (o : Op) (ls : List Nat) (acc : Checked) : Checked × State :=
  match ls with
  | [] => (acc, s)
  | l :: r =>
    match s.checkLane g o l with
    | (.ok p, t) => t.checkLanes g o r { acc with
        locs := acc.locs ++ [(l, p.loc)], locs2 := acc.locs2 ++ (match p.loc2 with | some q => [(l, q)] | none => []) }
    | (.error e, t) => t.checkLanes g o r { acc with faults := acc.faults ++ [e] }

/-- Changes an operation of a group. -/
def State.modOp (s : State) (gid n : Nat) (f : Op → Op) : State :=
  s.modGrp gid (fun g => match Tab.find g.ops n with
    | some o => { g with ops := Tab.put g.ops n (f o) }
    | none => g)

/-- Raises a cause at an operation's fault point (R141, R142): the group's fragments stop, and the trap's entry follows. -/
def State.raiseOp (s : State) (gid n : Nat) (o : Op) (cause : Nat) (fl : BitVec 32) (faddr : Dword) (win : Bool) : State :=
  s.modGrp gid (fun (g : Grp) => { g with raised := g.raised ++
    [⟨cause, 0, o.slot, o.m, fl, o.pc, faddr, win, wordsOpcode o.words, some n, decide (0x10 ≤ cause)⟩] })

/-- The release steps that an operation owes before its fault point (R198, R199): a line whose write-back is denied raises the
denying cause for every lane. -/
def State.opRelease (s : State) (gid n : Nat) (g : Grp) (o : Op) (sc : Nat) : State :=
  if !s.wide g sc then s.modOp gid n (fun o => { o with rel := false })
  else
    match s.releaseL1 g.core g.ctx g.sup with
    | (t, none) => t.modOp gid n (fun o => { o with rel := false })
    | (t, some (e, l)) =>
      let va : Dword := (BitVec.ofNat 48 l.va).signExtend 64
      let rec0 := { t.xRcd g e .write va o.pc o.m (wordsOpcode o.words) with kind := 2, w30 := l.lastPc }
      (t.raiseGroup gid [rec0]).raiseOp gid n o e.cause o.m va false

/-- Faults of lanes `fs` of operation `n` at its fault point: deferred (R143), or raised. -/
def State.opFaults (s : State) (gid n : Nat) (o : Op) (fs : List LaneFault) : State :=
  match fs with
  | [] => s
  | f :: _ =>
    let g := s.grp gid
    let fl := if o.kind = 2 then o.m else maskOf (fs.map (fun e => e.lane))
    let recs := (s.pageRcds g (accKind o.instr) o.pc (wordsOpcode o.words) fs).map (fun r =>
      if o.kind = 2 then { r with lanes := o.m } else r)
    let t := s.raiseGroup gid recs
    if g.defer && !g.inHandler && fs.all (fun e => deferrable e.cause) then t.modGrp gid (fun k => k.deferFault n fl f.cause f.addr)
    else t.raiseOp gid n o f.cause fl f.addr f.win

/-- The fault point of a memory operation with its release steps done: every lane is checked (R178), then the lanes are performed,
deferred or raised; a lane of PREF whose address faults is dropped (R191). -/
def State.faultPoint (s : State) (gid n : Nat) (g : Grp) (o : Op) : State :=
  let r := s.checkLanes g o o.doLanes ⟨[], [], []⟩
  let c := r.1
  let voids := (c.locs.filter (fun p => decide (p.2 = .void))).map (fun p =>
    (⟨p.1, s.opAddr g o p.1, 0x10, false, none⟩ : LaneFault))
  let drop := match o.instr with | .pref _ => true | _ => false
  let t := if drop then r.2 else r.2.worldRcds g (accKind o.instr) o.pc (wordsOpcode o.words) voids
  let obj := match o.instr with | .ldw _ => t.winLoc g (lo32 o.n) | _ => none
  if c.faults.isEmpty || drop || (g.defer && !g.inHandler && c.faults.all (fun e => deferrable e.cause)) then
    let u := t.modOp gid n (fun k => { k with passed := true, locs := c.locs, locs2 := c.locs2, obj := obj })
    if drop then u else u.opFaults gid n o c.faults
  else t.opFaults gid n o c.faults

/-! ### Performing accesses -/

/-- Reads the pieces of `size` bytes of one location: bytes with a poison mark for each piece. -/
def State.readLoc (s : State) (h : How) (va : Nat) (l : Loc) (n : Nat) : (List Byte × Bool) × State :=
  match l with
  | .void => ((List.replicate n 0, false), s)
  | .dead => ((List.replicate n 0, true), s)
  | .mem pa path => s.readGlobal (h.on path) va pa n
  | .win c k => ((s.winRead c k n, s.winPoisoned c k n), s)

/-- A lane's words read, each with its poison mark. -/
def State.readWords (s : State) (h : How) (va : Nat) (l : Loc) (n : Nat) : List (Word × Bool) × State :=
  let step (p : List (Word × Bool) × State) (i : Nat) : List (Word × Bool) × State :=
    let k := min n 8
    let m : Loc := match l with | .void => .void | .dead => .dead | .mem pa path => .mem (pa + 8 * i) path | .win c q => .win c (q + 8 * i)
    let r := p.2.readLoc h (va + 8 * i) m k
    let ws := (List.range ((k + 3) / 4)).map (fun j => (BitVec.ofNat 32 (leNat ((r.1.1.drop (4 * j)).take 4)), r.1.2))
    (p.1 ++ ws, r.2)
  (List.range ((n + 7) / 8)).foldl step ([], s)

/-- The words of every lane, in lane order. -/
def State.readLanes (s : State) (h : How) (addr : Nat → Dword) (locs : List (Nat × Loc)) (n : Nat) :
    List (Nat × List (Word × Bool)) × State :=
  match locs with
  | [] => ([], s)
  | (l, p) :: r =>
    let q := s.readWords h (va48 (addr l)) p n
    let t := q.2.readLanes h addr r n
    ((l, q.1) :: t.1, t.2)

/-- Lands the words of lanes in register lines: register `i` of the destination gets word `i`; poison read poisons the line (R211). -/
def Grp.landWords (g : Grp) (lines : List Nat) (vs : List (Nat × List (Word × Bool))) : Grp :=
  (lines.zipIdx).foldl (fun (k : Grp) p =>
    let at1 (l : Nat) : Word × Bool := match vs.find? (fun v => decide (v.1 = l)) with | some v => v.2.getD p.2 (0, false) | none => (0, false)
    let h := k.writeLine p.1 (maskOf (vs.map (fun v => v.1))) (fun l => (at1 l).1)
    if vs.any (fun v => (v.2.getD p.2 (0, false)).2) then h.poisonLine p.1 else h) g

/-- A narrow load's value (R186). -/
def narrowValue (i : Instr) (w : Word) : Word :=
  match i with
  | .ldN x =>
    if memWidth x.pf = 1 then (if memSext x.pf then (w.setWidth 16).signExtend 32 else (w.setWidth 16).setWidth 32)
    else (if memSext x.pf then (w.setWidth 8).signExtend 32 else (w.setWidth 8).setWidth 32)
  | _ => w

/-- Marks scalar `n` as poisoned (R211). -/
def Grp.poisonScalar (g : Grp) (n : Nat) : Grp := { g with spoison := if g.spoison.contains n then g.spoison else n :: g.spoison }

/-- Writes a scalar result, with its poison mark. -/
def Grp.landScalar (g : Grp) (n : Nat) (v : Word × Bool) : Grp := if v.2 then (g.setScalar n v.1).poisonScalar n else g.setScalar n v.1

/-- Writes a lane's bytes to its location. -/
def State.writeLoc (s : State) (h : How) (va : Nat) (l : Loc) (bs : List Byte) : State :=
  match l with
  | .void => s
  | .dead => s
  | .mem pa path => s.writeGlobal (h.on path) va pa bs
  | .win c k => s.winWrite c k bs

/-- The bytes of a lane's store data: the captured words from slot `i` on (R186). -/
def Op.dataBytes (o : Op) (i n l : Nat) : List Byte :=
  ((List.range ((n + 3) / 4)).flatMap (fun j => leBytes 4 (o.slotAt (i + j) l).toNat)).take n

/-- The atomic operation of a code (R192): new value from old and operand. -/
def atomNew (op : Nat) (v x : Word) : Word :=
  match op with
  | 0 => v + x
  | 1 => smin32 v x
  | 2 => smax32 v x
  | 3 => if v ≤ x then v else x
  | 4 => if v ≤ x then x else v
  | 5 => v &&& x
  | 6 => v ||| x
  | 7 => v ^^^ x
  | 8 => x
  | _ => f32Add FpMod.none v x

/-- One lane of an atomic (R193, R194): `f` gives the new value, or none when nothing is written; the old value and its poison. -/
def State.atomLane (s : State) (h : How) (va : Nat) (l : Loc) (f : Word → Option Word) : (Word × Bool) × State :=
  let word (bs : List Byte) : Word := BitVec.ofNat 32 (leNat bs)
  match l with
  | .void => ((0, false), s)
  | .dead => ((0, true), s)
  | .mem pa path =>
    let r := s.rmwGlobal (h.on path) va pa 4 (fun bs => (f (word bs)).map (fun w => leBytes 4 w.toNat))
    ((word r.1.1, r.1.2), r.2)
  | .win c k =>
    let v := word (s.winRead c k 4)
    if s.winPoisoned c k 4 then ((v, true), s)
    else
      match f v with
      | some w => ((v, false), s.winWrite c k (leBytes 4 w.toNat))
      | none => ((v, false), s)

/-- What an atomic instruction writes in a lane, from the old value (R192 to R194). -/
def Op.atomFn (o : Op) (l : Nat) (v : Word) : Option Word :=
  match o.instr with
  | .cas _ | .casl _ => if v = o.slotAt 1 l then some (o.slotAt 2 l) else none
  | .satom x => some (atomNew (atomOp x.pf) v (o.slotAt 3 0))
  | i => some (atomNew (atomOp i.pf) v (o.slotAt 1 l))

/-- The lanes of an atomic in ascending order (R179, R193): the old values. -/
def State.atomLanes (s : State) (h : How) (addr : Nat → Dword) (o : Op) (locs : List (Nat × Loc)) :
    List (Nat × List (Word × Bool)) × State :=
  match locs with
  | [] => ([], s)
  | (l, p) :: r =>
    let q := s.atomLane h (va48 (addr l)) p (o.atomFn l)
    let t := q.2.atomLanes h addr o r
    ((l, [q.1]) :: t.1, t.2)

/-! ### Cache maintenance (R196) -/

/-- Writes the L2 copy of a pooled or remote line back to its owner, and drops it if `inv`. -/
def State.l2Clean (s : State) (pa : Nat) (inv : Bool) : State :=
  match s.l2Find pa with
  | none => s
  | some l =>
    let t := (List.range 128).foldl (fun (u : State) i =>
      if l.dirty.getLsbD i then u.memWrite (l.pa + i) [lineByte l.data i] else u) s
    let rest := t.l2.filter (fun k => decide (k.pa ≠ l.pa))
    { t with l2 := if inv then rest else { l with dirty := 0 } :: rest }

/-- CWB and CINV on one line of L1, found by virtual address, at scope code `sc`. A line whose write-back is denied stays, held, and the operation completes
(DESIGN CHOICE, log 66: R199 names releases, evictions and a launch's exit only). -/
def State.maintLine (s : State) (h : How) (va pa sc : Nat) (inv : Bool) : State :=
  let t := match s.l1Find h.core h.ctx va with
    | none => s
    | some l =>
      match s.writeBackLine h.core h.sup l with
      | .ok u => if inv then u.l1Drop h.core h.ctx va else u.l1Put h.core { l with dirty := 0, held := false }
      | .error e => s.holdLine h.core l e
  if sc = 5 then t.l2Clean pa inv else t

/-- CINV.P: every L1 line of the core that holds this system physical line. -/
def State.maintPhys (s : State) (h : How) (pa sc : Nat) : State :=
  let ls := (s.coreAt h.core).l1.filter (fun l => decide (l.pa = pa / 128 * 128))
  let t := ls.foldl (fun (u : State) l => match u.writeBackLine h.core h.sup l with
    | .ok v => v.l1Drop h.core l.ctx l.va
    | .error e => u.holdLine h.core l e) s
  if sc = 5 then t.l2Clean pa true else t

/-- The lines of a maintenance operation, lane by lane. -/
def State.maintLanes (s : State) (h : How) (addr : Nat → Dword) (i : Instr) (locs : List (Nat × Loc)) : State :=
  if h.narrow then s
  else
    locs.foldl (fun (u : State) p => match p.2 with
      | .mem pa _ =>
        (match i with
         | .cwb _ => u.maintLine h (va48 (addr p.1)) pa (accScope i) false
         | .cinv _ => u.maintLine h (va48 (addr p.1)) pa (accScope i) true
         | _ => u.maintPhys h pa (accScope i))
      | _ => u) s

end Sys2Proof.Machine
end

