-- ==== Sys2Proof/Machine/Routes.lean ====
section
/-! DEFINITION. Requests that leave the package: routes and ports (24 R460, R461, R466), pooled memory behind its CXL ports (24 R471, R473),
and the completer of last resort (21 R432 step 2; 24 R463). -/
namespace Sys2Proof.Machine

def State.portAt (s : State) (i : Nat) : Port := s.pkg.ports.getD i portInit

def State.setPort (s : State) (i : Nat) (p : Port) : State := { s with pkg := { s.pkg with ports := s.pkg.ports.set i p } }

/-- The port of a request of context `x` to `pa` of package `pk`: a fixed hash of package and line among the routes (R466). -/
def State.portFor (s : State) (x pk pa : Nat) : Option Nat :=
  let rs := s.routesTo x pk
  if rs.isEmpty then none else rs[Config.fabricHash pk (pa / 128 % 2 ^ 45) % rs.length]?

/-- Does an access of an operation by lane `l` at `pa` leave the package: no copy of the line here serves it (07 R181; R467, R472)? -/
def State.leaves (s : State) (g : Grp) (o : Op) (l pa : Nat) : Bool :=
  s.l2Held pa && (decide (4 ≤ accScope o.instr)
    || ((s.l2Find pa).isNone && (s.l1Find g.core g.ctx (va48 (s.opAddr g o l) / 128 * 128)).isNone))

/-- A request that is sent and not answered: group, operation, lane, context, address, and whether it writes. -/
structure Sent where
  g : Nat
  op : Nat
  lane : Nat
  ctx : Nat
  pa : Nat
  write : Bool
  deriving DecidableEq, Repr

/-- The requests of an operation. -/
def State.sentOf (s : State) (gid : Nat) (g : Grp) (n : Nat) (o : Op) : List Sent :=
  if !o.passed then []
  else
    o.locs.filterMap (fun p => match p.2 with
      | .mem pa _ =>
        if (o.kind = 2 ∨ (o.todo &&& ~~~o.landed).getLsbD p.1 = true) ∧ s.leaves g o p.1 pa = true then
          some ⟨gid, n, p.1, g.ctx, pa, (accKind o.instr).writes⟩
        else none
      | _ => none)

/-- Every request that is sent and not answered. -/
def State.sentAll (s : State) : List Sent := s.groups.flatMap (fun g => g.2.ops.flatMap (fun o => s.sentOf g.1 g.2 o.1 o.2))

/-- The port that a request is on. -/
def State.sentPort (s : State) (r : Sent) : Option Nat :=
  match reachOf s.pkg.id r.pa with | .remote pk => s.portFor r.ctx pk r.pa | _ => none

/-- Appends an entry to a die's fence log: requester, address, kind, time (21 R432); the log holds 4,096. -/
def State.fenceLog (s : State) (die x addr kind : Nat) : State :=
  (s.modDie die (fun d => { d with fence := if d.fence.length < 4096 then d.fence ++ [(x, addr, kind, d.clock)] else d.fence })).modCtx x
    (fun c => { c with fenceCount := c.fenceCount + 1 })

/-- Lane `l` of an operation has its answer. -/
def Op.deadLane (o : Op) (l : Nat) : Op := { o with locs := o.locs.map (fun p => if p.1 = l then (l, Loc.dead) else p) }

/-- The completer of last resort answers a request (21 R432): poison, or dropped; an entry in the die's fence log. -/
def State.answer (s : State) (r : Sent) : State :=
  let die := coreDie (s.grp r.g).core
  (s.modOp r.g r.op (fun o => o.deadLane r.lane)).fenceLog die r.ctx r.pa (if r.write then 1 else 0)

def State.answerAll (s : State) (rs : List Sent) : State := rs.foldl (fun (t : State) r => t.answer r) s

/-- Is a request to memory that is gone: a withdrawn range (R469), or a CXL port that is down or insecure (R473)? -/
def State.gone (s : State) (pa : Nat) : Bool :=
  match reachOf s.pkg.id pa with
  | .remote _ => s.pkg.withdrawn.any (fun w => decide (w.1 ≤ pa) && decide (pa < w.1 + w.2))
  | .pooled p => !(s.pkg.cxlUp.getD p true) || s.pkg.ideInsecure.contains (16 + p)
  | _ => false

/-- One new flit on a port (R460, R461): its number and GCM counter, kept until it is acknowledged; the agreed key comes in. -/
def Port.send (p : Port) : Port :=
  let q := match p.txNext with
    | some (n, k) => if n = p.txSeq then { p with txKey := k, txCtr := 0, txNext := none } else p
    | none => p
  { q with txSeq := (q.txSeq + 1) % 2 ^ 32, txCtr := q.txCtr + 1, sent := q.sent ++ [(q.txSeq, 0)] }

/-- May a port send: it is UP, and keeps fewer than 512 flits that wait for their acknowledgement (R460)? -/
def Port.maySend (p : Port) : Bool := decide (p.st = .up) && decide (p.sent.length < 512)

/-- An operation's requests go out: those to memory that is gone are answered; the others take one flit for each line; none while one of
them has no route or its port does not send (R466, R468). -/
def State.goOut (s : State) (gid : Nat) (g : Grp) (n : Nat) (o : Op) (pick : Nat → Bool) : Option State :=
  let rs := (s.sentOf gid g n o).filter (fun r => pick r.lane)
  if rs.isEmpty then some s
  else
    let t := s.answerAll (rs.filter (fun r => s.gone r.pa))
    let far := rs.filter (fun r => !s.gone r.pa && (match reachOf s.pkg.id r.pa with | .remote _ => true | _ => false))
    if far.all (fun r => match s.sentPort r with | some i => (s.portAt i).maySend | none => false) then
      let lines := far.foldl (fun (acc : List Sent) r => if acc.any (fun q => decide (q.pa / 128 = r.pa / 128)) then acc else acc ++ [r]) []
      some (lines.foldl (fun (u : State) r => match s.sentPort r with | some i => u.setPort i (u.portAt i).send | none => u) t)
    else none

/-! ### LINKFAULT records (R464) -/

/-- A LINKFAULT record about context `x`, to its parent. -/
def State.linkFault (s : State) (x port peer count reason : Nat) : State :=
  s.raiseEvent x [{ rcdInit with
    level := 0xFF, kind := 6, acc := 15, ctx := x, missCtx := x, addr := BitVec.ofNat 64 port, missPa := BitVec.ofNat 64 peer
    w30 := BitVec.ofNat 64 count, w38 := BitVec.ofNat 32 reason, cls := RecClass.link, dest := (s.ctxAt x).parent }]

end Sys2Proof.Machine
end

