-- ==== Sys2Proof/Machine/Sampler.lean ====
section
/-! DEFINITION. The sampler (07 R204 to R209): descriptors, coordinates as exact rationals, texels, filtering; the issue, the fault point and the
results of TEX and TLD. -/
namespace Sys2Proof.Machine

/-- An exact rational; the denominator is positive. -/
structure Rat2 where
  num : Int
  den : Nat
  deriving DecidableEq, Repr

def Rat2.ofInt (i : Int) : Rat2 := ⟨i, 1⟩
def Rat2.add (a b : Rat2) : Rat2 := ⟨a.num * b.den + b.num * a.den, a.den * b.den⟩
def Rat2.mulInt (a : Rat2) (i : Int) : Rat2 := ⟨a.num * i, a.den⟩
def Rat2.floor (a : Rat2) : Int := a.num / (a.den : Int)
def Rat2.le (a b : Rat2) : Bool := decide (a.num * b.den ≤ b.num * a.den)
def Rat2.half : Rat2 := ⟨1, 2⟩

/-- `q8` of R207, in 256ths: to the grid of 2^-8, RNE. -/
def Rat2.q8 (a : Rat2) : Int :=
  let n := a.num * 256
  let lo := n / (a.den : Int)
  let r := n - lo * a.den
  if 2 * r < a.den then lo else if 2 * r > a.den then lo + 1 else if lo % 2 = 0 then lo else lo + 1

/-- A coordinate or level: NaN, infinite with its sign, or exact. -/
inductive Co where
  | nan
  | inf (neg : Bool)
  | q (x : Rat2)
  deriving DecidableEq, Repr

/-- An F32 word as a coordinate. -/
def coOf (w : Word) : Co :=
  match Ff.f32.value w.toNat with
  | .nan => .nan
  | .inf s => .inf s
  | .fin s m e =>
    let n : Int := if s then -(m : Int) else (m : Int)
    if 0 ≤ e then .q ⟨n * 2 ^ e.toNat, 1⟩ else .q ⟨n, 2 ^ (-e).toNat⟩

def Co.add (a b : Co) : Co :=
  match a, b with
  | .q x, .q y => .q (x.add y)
  | .inf s, .inf t => if s = t then .inf s else .nan
  | .inf s, .q _ => .inf s
  | .q _, .inf s => .inf s
  | _, _ => .nan

/-- A descriptor block (R205, R206). -/
structure TexDesc where
  ok : Bool
  okSamp : Bool
  base : Nat
  kind : Nat
  fmt : Nat
  w : Nat
  h : Nat
  d : Nat
  levels : Nat
  filter : Nat
  au : Nat
  av : Nat
  aw : Nat
  norm : Bool
  bias : Word
  deriving DecidableEq, Repr

/-- The descriptor block in 64 bytes. -/
def texDesc (bs : List Byte) : TexDesc :=
  let x := leNat (bs.take 32)
  let y := leNat (bs.drop 32)
  let f (v lo n : Nat) : Nat := v / 2 ^ lo % 2 ^ n
  let kind := f x 64 3
  let d : TexDesc := {
    ok := decide (f x 118 138 = 0) && decide (f x 70 2 = 0) && decide (f x 67 3 ≤ 3) && decide (kind ≤ 2) && decide (f x 0 8 = 0)
            && (decide (kind ≠ 2) || decide (f x 72 14 = f x 86 14))
    okSamp := decide (f y 64 192 = 0) && decide (f y 9 23 = 0) && decide (f y 0 2 ≤ 2)
    base := f x 0 64, kind := kind, fmt := f x 67 3, w := f x 72 14 + 1, h := f x 86 14 + 1, d := f x 100 14 + 1
    levels := f x 114 4, filter := f y 0 2, au := f y 2 2, av := f y 4 2, aw := f y 6 2, norm := decide (f y 8 1 = 1)
    bias := BitVec.ofNat 32 (f y 32 32) }
  d

/-- Texel bytes (R205). -/
def TexDesc.bytes (t : TexDesc) : Nat := match t.fmt with | 1 => 8 | 2 => 16 | _ => 4

/-- Size of level `l` on the axes. -/
def lvlDim (n l : Nat) : Nat := max 1 (n / 2 ^ l)
def TexDesc.slices (t : TexDesc) (l : Nat) : Nat := if t.kind = 2 then 6 else lvlDim t.d l
def TexDesc.rowPitch (t : TexDesc) (l : Nat) : Nat := (lvlDim t.w l * t.bytes + 127) / 128 * 128

/-- Byte offset of level `l`. -/
def TexDesc.lvlOffset (t : TexDesc) (l : Nat) : Nat :=
  match l with
  | 0 => 0
  | k + 1 => t.lvlOffset k + t.rowPitch k * lvlDim t.h k * t.slices k

/-- A texel's place: level, i, j, k. -/
abbrev Texel := Nat × Nat × Nat × Nat

/-- Address of a texel (R205). -/
def TexDesc.addr (t : TexDesc) (p : Texel) : Dword :=
  BitVec.ofNat 64 (t.base + t.lvlOffset p.1 + t.rowPitch p.1 * lvlDim t.h p.1 * p.2.2.2 + t.rowPitch p.1 * p.2.2.1 + t.bytes * p.2.1)

/-- An index mapped onto an axis of size `n` (R207); none is a border texel. -/
def mapIdx (mode n : Nat) (i : Int) : Option Nat :=
  match mode with
  | 0 => some (min (max i 0) ((n : Int) - 1)).toNat
  | 1 => some (i % (n : Int)).toNat
  | 2 => let j := (i % (2 * n : Nat)).toNat
         some (if j < n then j else 2 * n - 1 - j)
  | _ => if 0 ≤ i ∧ i < n then some i.toNat else none

/-- The two texel indices of an axis and the weight of the second in 256ths. -/
structure Ax where
  i0 : Option Nat
  i1 : Option Nat
  t : Nat
  deriving DecidableEq, Repr

/-- An axis of `sample` (R207). An infinite coordinate reaches the edge or the border; where the axis wraps or mirrors, the spec states no
index, and `fr` supplies one. -/
def axisOf (linear norm : Bool) (mode n : Nat) (c : Co) (fr : Nat) : Ax :=
  let fin (x : Rat2) : Ax :=
    if linear then
      let y := x.add ⟨-1, 2⟩
      let i := y.floor
      let t := (y.add (Rat2.ofInt (-i))).q8
      if t = 256 then ⟨mapIdx mode n (i + 1), mapIdx mode n (i + 2), 0⟩ else ⟨mapIdx mode n i, mapIdx mode n (i + 1), t.toNat⟩
    else ⟨mapIdx mode n x.floor, mapIdx mode n x.floor, 0⟩
  match c with
  | .nan => fin (Rat2.ofInt 0)
  | .q x => fin (if norm then x.mulInt n else x)
  | .inf s =>
    match mode with
    | 0 => let e := if s then 0 else n - 1
           ⟨some e, some e, 0⟩
    | 3 => ⟨none, none, 0⟩
    | _ => let e := Config.freeNat fr % n
           ⟨some e, some (Config.freeNat (fr + 1) % n), if linear then Config.freeNat (fr + 2) % 256 else 0⟩

/-- The plan of one level: its axes, and the texels it takes in order. -/
structure LvlPlan where
  l : Nat
  u : Ax
  v : Ax
  w : Ax
  linear : Bool
  is3 : Bool
  deriving DecidableEq, Repr

/-- A place, or none for a border texel. -/
def texelAt (l : Nat) (i j k : Option Nat) : Option Texel :=
  match i, j, k with
  | some i, some j, some k => some (l, i, j, k)
  | _, _, _ => none

/-- The texels of a level's plan, in the order of R207. -/
def LvlPlan.texels (p : LvlPlan) : List (Option Texel) :=
  let quad (k : Option Nat) : List (Option Texel) :=
    if p.linear then [texelAt p.l p.u.i0 p.v.i0 k, texelAt p.l p.u.i1 p.v.i0 k, texelAt p.l p.u.i0 p.v.i1 k, texelAt p.l p.u.i1 p.v.i1 k]
    else [texelAt p.l p.u.i0 p.v.i0 k]
  if p.is3 && p.linear then quad p.w.i0 ++ quad p.w.i1 else quad p.w.i0

/-- A lane's plan: up to two levels, and γ in 256ths. -/
structure LanePlan where
  a : LvlPlan
  b : Option LvlPlan
  gamma : Nat
  deriving DecidableEq, Repr

/-- A face coordinate of an infinite direction: sc/|ma| is 0 for a finite sc; for an infinite one the spec states none, and `fr` supplies it. -/
def infCo (c : Co) (fr : Nat) : Rat2 :=
  match c with
  | .q _ => Rat2.half
  | _ => ⟨((Config.freeNat fr % 2 ^ 24 : Nat) : Int), 2 ^ 24⟩

/-- The cube face and its coordinates (R208): an infinite component is the largest, the first of several; where a component is NaN the spec states none, and
`fr` supplies them. -/
def cubeFace (x y z : Co) (fr : Nat) : Nat × Rat2 × Rat2 :=
  match x, y, z with
  | .q x, .q y, .q z =>
    let ab (a : Rat2) : Rat2 := ⟨a.num.natAbs, a.den⟩
    let neg (a : Rat2) : Rat2 := ⟨-a.num, a.den⟩
    let co (c m : Rat2) : Rat2 :=
      let d : Rat2 := ⟨c.num * m.den, m.num.natAbs * c.den⟩
      let e := d.add (Rat2.ofInt 1)
      ⟨e.num, e.den * 2⟩
    if x.num = 0 ∧ y.num = 0 ∧ z.num = 0 then (0, Rat2.half, Rat2.half)
    else if (ab y).le (ab x) && (ab z).le (ab x) then
      if 0 < x.num then (0, co (neg z) x, co (neg y) x) else (1, co z x, co (neg y) x)
    else if (ab z).le (ab y) then
      if 0 < y.num then (2, co x y, co z y) else (3, co x y, co (neg z) y)
    else if 0 < z.num then (4, co x z, co (neg y) z) else (5, co (neg x) z, co (neg y) z)
  | .nan, _, _ => (Config.freeNat fr % 6, infCo .nan (fr + 1), infCo .nan (fr + 2))
  | _, .nan, _ => (Config.freeNat fr % 6, infCo .nan (fr + 1), infCo .nan (fr + 2))
  | _, _, .nan => (Config.freeNat fr % 6, infCo .nan (fr + 1), infCo .nan (fr + 2))
  | .inf s, y, z => (if s then 1 else 0, infCo z (fr + 1), infCo y (fr + 2))
  | x, .inf s, z => (if s then 3 else 2, infCo x (fr + 1), infCo z (fr + 2))
  | x, y, .inf s => (if s then 5 else 4, infCo x (fr + 1), infCo y (fr + 2))

/-- The plan of TEX for one lane (R207): u, v, w and level words. -/
def texPlan (t : TexDesc) (u v w lv : Word) (fr : Nat) : LanePlan :=
  let lam : Rat2 := match (coOf lv).add (coOf t.bias) with
    | .nan => Rat2.ofInt 0
    | .inf s => Rat2.ofInt (if s then 0 else t.levels)
    | .q x => if x.le (Rat2.ofInt 0) then Rat2.ofInt 0 else if (Rat2.ofInt t.levels).le x then Rat2.ofInt t.levels else x
  let tri := decide (t.filter = 2)
  let l0 := (if tri then lam.floor else (lam.add Rat2.half).floor).toNat
  let g := if tri ∧ l0 ≠ t.levels then ((lam.add (Rat2.ofInt (-(l0 : Int)))).q8).toNat else 0
  let linear := decide (t.filter ≠ 0)
  let lvl (l : Nat) : LvlPlan :=
    if t.kind = 2 then
      let c := cubeFace (coOf u) (coOf v) (coOf w) fr
      ⟨l, axisOf linear true 0 (lvlDim t.w l) (.q c.2.1) fr, axisOf linear true 0 (lvlDim t.h l) (.q c.2.2) fr,
       ⟨some c.1, some c.1, 0⟩, linear, false⟩
    else
      ⟨l, axisOf linear t.norm t.au (lvlDim t.w l) (coOf u) fr, axisOf linear t.norm t.av (lvlDim t.h l) (coOf v) (fr + 3),
       if t.kind = 1 then axisOf linear t.norm t.aw (lvlDim t.d l) (coOf w) (fr + 6) else ⟨some 0, some 0, 0⟩, linear, decide (t.kind = 1)⟩
  ⟨lvl l0, if g ≠ 0 then some (lvl (l0 + 1)) else none, g⟩

/-- Texels of a lane's plan in order. -/
def LanePlan.texels (p : LanePlan) : List (Option Texel) :=
  p.a.texels ++ (match p.b with | some b => b.texels | none => [])

/-- Four components. -/
abbrev Rgba := List Word

def rgbaZero : Rgba := [0, 0, 0, 0]

/-- `lerp` of R207 on one component; `t` in 256ths. -/
def lerp1 (a b : Word) (t : Nat) : Word :=
  if t = 0 then a
  else if t = 256 then b
  else
    BitVec.ofNat 32 (Ff.f32.round FpMod.none (Fv.add .rne
      (Fv.mul (Ff.f32.value a.toNat) (.fin false (256 - t) (-8))) (Fv.mul (Ff.f32.value b.toNat) (.fin false t (-8)))))

def lerp4 (a b : Rgba) (t : Nat) : Rgba := (List.range 4).map (fun i => lerp1 (a.getD i 0) (b.getD i 0) t)

/-- A level's value from its texels. -/
def LvlPlan.value (p : LvlPlan) (ts : List Rgba) : Rgba :=
  let at1 (i : Nat) : Rgba := ts.getD i rgbaZero
  let quad (o : Nat) : Rgba := lerp4 (lerp4 (at1 o) (at1 (o + 1)) p.u.t) (lerp4 (at1 (o + 2)) (at1 (o + 3)) p.u.t) p.v.t
  if !p.linear then at1 0 else if p.is3 then lerp4 (quad 0) (quad 4) p.w.t else quad 0

def LanePlan.value (p : LanePlan) (ts : List Rgba) : Rgba :=
  match p.b with
  | none => p.a.value ts
  | some b => lerp4 (p.a.value ts) (b.value (ts.drop p.a.texels.length)) p.gamma

/-- A byte's component: n / 127, at least -1 (R209). -/
def snorm8 (b : Byte) : Word :=
  let n := b.toInt
  if n ≤ -127 then 0xBF800000#32
  else
    let m := n.natAbs
    let q := m * 2 ^ 40 / 127
    BitVec.ofNat 32 (Ff.f32.round FpMod.none (if m = 0 then .fin false 0 0 else sticky (decide (n < 0)) q (decide (m * 2 ^ 40 % 127 = 0)) (-40)))

/-- A texel's components (R209). -/
def texelValue (fmt : Nat) (bs : List Byte) : Rgba :=
  let word (i : Nat) : Word := BitVec.ofNat 32 (leNat ((bs.drop (4 * i)).take 4))
  let half (i : Nat) : Word := BitVec.ofNat 32 (Ff.f32.round FpMod.none (Ff.h16.value (leNat ((bs.drop (2 * i)).take 2))))
  match fmt with
  | 0 => (List.range 4).map (fun i => snorm8 (bs.getD i 0))
  | 1 => (List.range 4).map half
  | 2 => (List.range 4).map (fun i => match Ff.f32.value (word i).toNat with | .nan => 0x7FC00000#32 | _ => word i)
  | _ => [word 0, 0, 0, 0x3F800000#32]

/-- The plan of TLD for a lane: one texel, or none out of range (R207). -/
def tldTexel (t : TexDesc) (i j k l : Word) : Option Texel :=
  let inr (x : Word) (n : Nat) : Bool := decide (0 ≤ x.toInt) && decide (x.toInt < n)
  if inr l (t.levels + 1) && inr i (lvlDim t.w l.toNat) && inr j (lvlDim t.h l.toNat) && inr k (t.slices l.toNat) then
    some (l.toNat, i.toNat, j.toNat, k.toNat)
  else none

/-- The texels that lane `l` of an operation takes, in order; `fr`: first of the free values it may use. -/
def Op.lanePlan (o : Op) (t : TexDesc) (l fr : Nat) : List (Option Texel) × (List Rgba → Rgba) :=
  let c (i : Nat) : Word := o.slotAt i l
  match o.instr with
  | .tld _ => ([tldTexel t (c 0) (c 1) (c 2) (c 3)], fun ts => ts.getD 0 rgbaZero)
  | _ => let p := texPlan t (c 0) (c 1) (c 2) (c 3) fr
         (p.texels, p.value)

/-- Is the block valid for the instruction (R206)? TLD uses only the texture descriptor. -/
def Op.descOk (o : Op) (t : TexDesc) : Bool := match o.instr with | .tld _ => t.ok | _ => t.ok && t.okSamp

/-- The block read at the fault point, kept behind the six captured slots. -/
def Op.texBlock (o : Op) : List Byte := (o.slots.getD 6 []).flatMap (fun w => leBytes 4 w.toNat)

/-- What the translations of texels find: locations in order, faults, and texels in frames of another world. -/
structure TexWalk where
  locs : List (Nat × Loc)
  faults : List LaneFault
  voids : List LaneFault
  deriving DecidableEq, Repr

/-- Translates the texels of one lane, in order: each page that faults gets its record (17 R372). -/
def State.texLane (s : State) (g : Grp) (t : TexDesc) (l : Nat) (ts : List (Option Texel)) (acc : TexWalk) : TexWalk × State :=
  match ts with
  | [] => (acc, s)
  | none :: r => s.texLane g t l r acc
  | some p :: r =>
    let a := t.addr p
    match s.translate g.core g.ctx g.sup a .read with
    | .error e => (s.traced e.tr).texLane g t l r { acc with faults := acc.faults ++ [⟨l, a, e.cause, false, some e⟩] }
    | .ok x =>
      (s.xCommit g.core x).texLane g t l r { acc with
        locs := acc.locs ++ [(l, if x.void then .void else .mem x.pa x.path)]
        voids := if x.void then acc.voids ++ [⟨l, a, 0x10, false, none⟩] else acc.voids }

/-- Free values that one lane may use. -/
def texFree : Nat := 9

/-- The texels of every lane (R178). -/
def State.texLanes (s : State) (g : Grp) (o : Op) (t : TexDesc) (fr : Nat) (ls : List Nat) (acc : TexWalk) : TexWalk × State :=
  match ls with
  | [] => (acc, s)
  | l :: r =>
    let q := s.texLane g t l (o.lanePlan t l (fr + texFree * l)).1 acc
    q.2.texLanes g o t fr r q.1

/-- The fault point of TEX and TLD (R204): the block for every lane, its alignment last (17 R372), then each lane's texels. -/
def State.texFaultPoint (s : State) (gid n : Nat) (g : Grp) (o : Op) : State :=
  let a := o.base
  let all (cause : Nat) (e : Option XFault) : List LaneFault := (lanesOf o.todo).map (fun l => ⟨l, a, cause, false, e⟩)
  if o.todo = 0 then s.modOp gid n (fun k => { k with passed := true })
  else
    match s.translate g.core g.ctx g.sup a .read with
    | .error e => (s.traced e.tr).opFaults gid n o (all e.cause (some e))
    | .ok x =>
      let t0 := s.xCommit g.core x
      if a.toNat % 64 ≠ 0 then t0.opFaults gid n o (all 0x09 none)
      else
        let r := t0.readLoc (g.how o.pc) (va48 a) (if x.void then .void else .mem x.pa x.path) 64
        let ws := (List.range 16).map (fun i => BitVec.ofNat 32 (leNat ((r.1.1.drop (4 * i)).take 4)))
        let o2 := { o with slots := o.slots.take 4 ++ [[], [], ws], n := BitVec.ofNat 64 r.2.freeCtr }
        let t := texDesc r.1.1
        let c := if o.descOk t then r.2.texLanes g o2 t r.2.freeCtr (lanesOf o.todo) ⟨[], [], []⟩ else (⟨[], [], []⟩, r.2)
        let bad := c.1.faults.map (fun f => f.lane)
        let voids := (if x.void then all 0x10 none else []) ++ c.1.voids
        let u := (c.2.useFree (32 * texFree)).worldRcds g .read o.pc (wordsOpcode o.words) voids
        let put (v : State) : State := v.modOp gid n (fun k => { k with
          passed := true, locs := c.1.locs.filter (fun p => !bad.contains p.1), slots := o2.slots, n := o2.n })
        if c.1.faults.isEmpty then put u
        else if g.defer && !g.inHandler then (put u).opFaults gid n o c.1.faults
        else u.opFaults gid n o c.1.faults

/-- Reads a list of texels, border texels being zero. -/
def State.readTexels (s : State) (h : How) (t : TexDesc) (ts : List (Option Texel)) (locs : List Loc) : (List Rgba × Bool) × State :=
  match ts with
  | [] => (([], false), s)
  | none :: r =>
    let q := s.readTexels h t r locs
    ((rgbaZero :: q.1.1, q.1.2), q.2)
  | some p :: r =>
    let x := s.readLoc h (va48 (t.addr p)) (locs.headD .void) t.bytes
    let q := x.2.readTexels h t r locs.tail
    ((texelValue t.fmt x.1.1 :: q.1.1, x.1.2 || q.1.2), q.2)

/-- Every lane's result (R207): four words with their poison. -/
def State.texResults (s : State) (h : How) (o : Op) (t : TexDesc) (ls : List Nat) : List (Nat × List (Word × Bool)) × State :=
  match ls with
  | [] => ([], s)
  | l :: r =>
    if !o.descOk t then
      let q := s.texResults h o t r
      ((l, List.replicate 4 (0, false)) :: q.1, q.2)
    else
      let p := o.lanePlan t l (o.n.toNat + texFree * l)
      let x := s.readTexels h t p.1 ((o.locs.filter (fun y => decide (y.1 = l))).map (fun y => y.2))
      let q := x.2.texResults h o t r
      ((l, (p.2 x.1.1).map (fun w => (w, x.1.2))) :: q.1, q.2)

/-- The issue of TEX and TLD (R204; 05 R147): coordinates in slots 0 to 3, the block's address as base. -/
def issueTex (i : Instr) (x : Tx) (s : State) : Out :=
  issue i s (fun g f => g.guarded f x.k) (fun s g f =>
    if g.upred x.k.toNat then
      s.finish (g.addOp (mkOp s g f i 0 f.mask (g.scalarPair x.n.toNat) ((upFrom x.y.toNat 4).map (fun v => capture f.mask (g.vreg v)))))
    else s.finish g)

/-- TEX (R207). -/
def execTex (x : Tx) (s : State) : Out := issueTex (.tex x) x s

/-- TLD (R207). -/
def execTld (x : Tx) (s : State) : Out := issueTex (.tld x) x s

end Sys2Proof.Machine
end

