-- ==== Sys2Proof/Machine/Order.lean ====
section
/-! DEFINITION. What holds an access back behind the group's earlier ones: the same bytes in program order (13 R306, R309), and the accesses to a barrier
object before a landing on it (07 R189; 12 R296). -/
namespace Sys2Proof.Machine

/-- Does the operation read or write locations (13 R304)? Cache maintenance and PREF do not. -/
def touchesBytes (i : Instr) : Bool :=
  match i with
  | .pref _ | .cwb _ | .cinv _ | .cinvP _ => false
  | .tex _ | .tld _ | .arrv _ => true
  | i => lateFault i && !isSfu i && !isMatrix i

/-- Bytes that one location of an operation covers. -/
def Op.width (o : Op) : Nat :=
  match o.instr with
  | .tex _ | .tld _ => (texDesc o.texBlock).bytes
  | .arrv _ => 16
  | i => accBytes i

/-- A range of bytes: address space, first byte, count. -/
abbrev Span := Nat × Nat × Nat

/-- The bytes that a checked operation still owes in the lanes `m`: memory is space 0, the windows of core `c` are space `c + 1`. -/
def Op.spans (o : Op) (m : BitVec 32) : List Span :=
  let at1 (n : Nat) (p : Nat × Loc) : Option Span :=
    if o.kind = 2 ∨ (o.owed &&& m).getLsbD p.1 = true then
      (match p.2 with
       | .mem pa _ => some (0, pa, n)
       | .win c k => some (c + 1, k, n)
       | _ => none)
    else none
  o.locs.filterMap (at1 o.width) ++ o.locs2.filterMap (at1 16)

/-- The same by the addresses of the group: global ones are space 0, window ones space 1. -/
def State.addrSpans (s : State) (g : Grp) (o : Op) : List Span :=
  match o.instr with
  | .tex _ | .tld _ =>
    if o.passed then
      (lanesOf o.owed).flatMap (fun l => (o.lanePlan (texDesc o.texBlock) l (o.n.toNat + texFree * l)).1.filterMap (fun t =>
        t.map (fun t => (0, va48 ((texDesc o.texBlock).addr t), o.width))))
    else [(0, va48 o.base, 64)]
  | .arrv _ => [(1, (lo32 o.base).toNat, 16)]
  | .ldw _ => (lanesOf o.owed).flatMap (fun l => [(0, va48 (s.opAddr g o l), 16), (1, (o.slotAt 1 l).toNat, 16)])
  | i =>
    if isWindowOp i then (lanesOf o.owed).map (fun l => (1, (lo32 (s.opAddr g o l)).toNat, 4))
    else o.doLanes.map (fun l => (0, va48 (s.opAddr g o l), accBytes i))

/-- Do two lists of ranges share a byte? -/
def overlap (a b : List Span) : Bool :=
  a.any (fun x => b.any (fun y => decide (x.1 = y.1) && decide (x.2.1 < y.2.1 + y.2.2) && decide (y.2.1 < x.2.1 + x.2.2)))

/-- The accesses that come before operation `n` in the program order of a lane it has (13 R306). -/
def Grp.earlier (g : Grp) (n : Nat) (o : Op) : List Op :=
  (g.ops.filter (fun p => decide (p.1 < n) && decide (p.2.fm &&& o.fm ≠ 0) && touchesBytes p.2.instr)).map (fun p => p.2)

/-- Does an earlier access in program order still owe bytes that operation `n` touches in the lanes `m` (13 R309)? -/
def State.sameBytes (s : State) (g : Grp) (n : Nat) (o : Op) (m : BitVec 32) : Bool :=
  touchesBytes o.instr && (g.earlier n o).any (fun p =>
    if p.passed then overlap (p.spans (BitVec.allOnes 32)) (o.spans m) else overlap (s.addrSpans g p) (s.addrSpans g o))

/-- The same for an operation short of its fault point: an earlier access must have passed its own, and have been performed where this one reads a texture block
at its fault point. -/
def State.sameAddrs (s : State) (g : Grp) (n : Nat) (o : Op) : Bool :=
  let tex := match o.instr with | .tex _ => true | .tld _ => true | _ => false
  touchesBytes o.instr && (g.earlier n o).any (fun p => (!p.passed || tex) && overlap (s.addrSpans g p) (s.addrSpans g o))

/-- The window pieces of 16 bytes that a matrix operation reads or writes (08 R215, R225, R228). -/
def Op.winPieces (o : Op) : List Word :=
  match o.instr with
  | .mma x => (if selWin x.y then (o.desc 0).pieces false 0 else []) ++ (if selWin x.z then (o.desc 1).pieces false 0 else [])
  | .mmas x => (o.desc 0).pieces true 0 ++ (if selWin x.z then (o.desc 1).pieces false 0 else [])
  | .mloop x =>
    let h := (mloopHimm x.pf).getD (false, 1)
    (List.range h.2).flatMap (fun st => (o.desc 0).pieces h.1 st ++ (if selWin x.z then (o.desc 1).pieces false st else []))
  | .mldt _ | .mstt _ => (o.desc 0).pieces false 0
  | _ => []

/-- Does an operation still have an access to make to the 16 bytes of the object at `(core, key)`? -/
def State.accTouches (s : State) (g : Grp) (core key : Nat) (o : Op) : Bool :=
  let near (a : Word) (n : Nat) : Bool := match s.winLoc g a with
    | some p => decide (p.1 = core) && decide (p.2 < key + 16) && decide (key < p.2 + n)
    | none => false
  match o.instr with
  | .ldl _ | .stl _ | .atoml _ | .casl _ => (lanesOf o.owed).any (fun l => near (lo32 (s.opAddr g o l)) 4)
  | .arrv _ => near (lo32 o.base) 16
  | .ldw _ => o.owed ≠ 0 && (near (lo32 o.n) 16 || (lanesOf o.owed).any (fun l => near (o.slotAt 1 l) 16))
  | _ => o.winPieces.any (fun a => near a 16)

/-- Has an access of the group to the object, issued before place `ord` of its order, still to be performed (07 R189; 12 R296)? One that waits in a replay
queue counts. -/
def State.objBusy (s : State) (g : Grp) (ord core key : Nat) : Bool :=
  g.ops.any (fun p => decide (p.2.ord < ord) && s.accTouches g core key p.2)
    || (g.deferred ++ g.preQueue ++ (match g.frame with | some f => f.replay | none => [])).any (fun e => decide (e.ord < ord)
      && (match decode e.words with
          | .ok (i, _) => s.accTouches g core key (opOfEntry g i e)
          | .error _ => false))

end Sys2Proof.Machine
end

