-- ==== Sys2Proof/Machine/EvMem.lean ====
section
/-! DEFINITION. The steps that complete memory and special-function operations, take traps, and time a fragment's issue (05 R135, R142, R143;
06 R159, R160; 07 R183 to R199; 11 R269 to R272; 12 R284). A step that is not due changes nothing. -/
namespace Sys2Proof.Machine

/-- Acts on an operation of a group if the group and the operation exist. -/
def State.withOp (s : State) (gid n : Nat) (k : Grp → Op → State) : State :=
  match Tab.find s.groups gid with
  | none => s
  | some g =>
    match Tab.find g.ops n with
    | none => s
    | some o => k g o

/-- The group is off its core with its windows: an access to them waits for its return (11 R278). -/
def Grp.winHeld (g : Grp) (o : Op) : Bool :=
  (match g.life with | .preempted _ => true | _ => false)
    && (o.locs ++ o.locs2).any (fun p => match p.2 with | .win _ _ => true | _ => false)

/-- May operation `n` of a group be performed in the lanes `m`: its fault point is passed, what a fusion orders before it is done, its results may land, and the
group's earlier accesses in program order owe none of its bytes (13 R309)? -/
def State.performable (s : State) (g : Grp) (n : Nat) (o : Op) (m : BitVec 32) : Bool :=
  o.passed && o.after.all (fun k => (Tab.find g.ops k).isNone) && g.canLand o.lines && !g.winHeld o && !s.sameBytes g n o m

/-- Lanes that an event of an operation performs: a scalar operation, a PREF and an arrival have one effect. -/
def Op.lanesOfEvent (o : Op) (m : BitVec 32) : BitVec 32 :=
  if o.kind = 2 then o.owed
  else match o.instr with
    | .pref _ => o.owed
    | _ => o.owed &&& m

/-- Acts on an operation that is performed now in some lanes, once its requests have gone out: the last of them only for the oldest on its path (01 R24). -/
def State.withDue (s : State) (gid n : Nat) (m : BitVec 32) (k : State → Grp → Op → BitVec 32 → State) : State :=
  s.withOp gid n (fun g o =>
    let now := o.lanesOfEvent m
    if s.performable g n o now && (decide (o.owed &&& ~~~now ≠ 0) || g.pathFirst n) && (decide (now ≠ 0) || decide (o.owed = 0)) then
      (match s.goOut gid g n o (fun l => decide (o.kind = 2) || now.getLsbD l) with
       | none => s
       | some t => t.withOp gid n (fun g o => k t g o now))
    else s)

/-! ### Traps -/

/-- TRAP_ENTRY (R142). A group that is off its core, or waits for the replies of a trap, takes it when it is back. -/
def execTrapEntry (gid : Nat) (s : State) : Out :=
  .next (
    let g := s.grp gid
    if g.raised.isEmpty || g.escalated || !g.life.onCore then s else s.takeTrap gid g.raised [])

/-- DEFERRED_TRAP_TAKEN (R143): no fragment can issue, or the replay queue holds eight. -/
def execDeferredTrapTaken (gid : Nat) (s : State) : Out :=
  .next (
    let g := s.grp gid
    if g.deferred.isEmpty || !g.raised.isEmpty || g.escalated || !g.life.onCore then s
    else if !s.canIssue g || decide (8 ≤ g.deferred.length + g.unpassed.length) then s.takeTrap gid [] []
    else s)

/-! ### Issue timing -/

/-- Changes the fragment in a slot of a group. -/
def State.modFrag (s : State) (gid slot : Nat) (f : Frag → Frag) : State :=
  s.modGrp gid (fun g => match g.frag slot with | some x => g.setFrag slot (some (f x)) | none => g)

/-- BACKOFF_EXPIRY (R135). -/
def execBackoffExpiry (gid slot : Nat) (s : State) : Out := .next (s.modFrag gid slot (fun f => { f with delayed := false }))

/-- FRAGMENT_STARVED (11 R269): only an eligible fragment starves. -/
def execFragmentStarved (gid slot : Nat) (s : State) : Out :=
  .next (match Tab.find s.groups gid with
    | none => s
    | some g => if (s.issuer gid slot g).isSome then s.modFrag gid slot (fun f => { f with starved := true }) else s)

/-- THROTTLE_OVERRIDE (11 R272): the fragment's next instruction is a global load that the throttle refuses. -/
def execThrottleOverride (gid slot : Nat) (s : State) : Out :=
  .next (match s.turnOf gid slot with
    | .run i t => if isGlobalLoad i && t.throttled (t.grp gid) then s.modFrag gid slot (fun f => { f with loadFree := true }) else s
    | _ => s)

/-- The levels of the throttle (11 R271). -/
def levelDown (n : Nat) : Nat := if 24 < n then 24 else if 16 < n then 16 else if 8 < n then 8 else 4
def levelUp (n : Nat) : Nat := if n < 8 then 8 else if n < 16 then 16 else if n < 24 then 24 else 32

/-- THROTTLE_WINDOW_END (11 R271, R273). -/
def execThrottleWindowEnd (core : Nat) (s : State) : Out :=
  .next (s.modCore core (fun k =>
    { k with vhits := 0
             level := if !k.ten then 32 else if k.thi < k.vhits then levelDown k.level else if k.vhits < k.tlo then levelUp k.level else k.level }))

/-! ### Translation -/

/-- Scope of the release that an operation carries: an arrival's is its object's (07 R201). -/
def State.relScope (s : State) (g : Grp) (o : Op) : Nat :=
  match o.instr with
  | .arrv _ => (match s.winLoc g (lo32 o.base) with | some p => objScope p.2 | none => 1)
  | i => accScope i

/-- The fault point of an arrival whose release is done (07 R201). -/
def State.arrvPoint (s : State) (gid n : Nat) (g : Grp) (o : Op) : State :=
  match s.winLoc g (lo32 o.base) with
  | some p => s.modOp gid n (fun k => { k with passed := true, locs := [(0, .win p.1 p.2)] })
  | none => s.opFaults gid n o [⟨(lanesOf o.m).headD 0, o.base, 0x10, true, none⟩]

/-- The fault point of an operation by its kind. -/
def State.pointOf (s : State) (gid n : Nat) (o : Op) : State :=
  match o.instr with
  | .tex _ | .tld _ => s.texFaultPoint gid n (s.grp gid) o
  | .arrv _ => s.arrvPoint gid n (s.grp gid) o
  | _ => s.faultPoint gid n (s.grp gid) o

/-- The fault point of an operation, after its release steps (07 R198): they wait for every earlier access of the group. -/
def State.opWalk (s : State) (gid n : Nat) (g : Grp) (o : Op) : State :=
  if o.passed || isSfu o.instr || isMatrix o.instr || !g.raised.isEmpty || g.escalated || s.sameAddrs g n o then s
  else if !o.rel then s.pointOf gid n o
  else if g.ops.any (fun p => decide (p.1 < n) && isAccess p.2.instr) then s
  else
    let t := s.opRelease gid n g o (s.relScope g o)
    match Tab.find (t.grp gid).ops n with
    | some k => if k.rel then t else t.pointOf gid n k
    | none => t

/-! ### Completions of memory operations -/

/-- The acquire step that ends an access (07 R198). -/
def State.opAcquire (s : State) (gid : Nat) (o : Op) : State := if acquires o.instr then s.acquire gid (accScope o.instr) else s

/-- What lanes of an operation give is written; with the last of them the operation completes. -/
def State.lanesDone (s : State) (gid n : Nat) (o : Op) (now : BitVec 32) (f : Grp → Grp) : State :=
  if o.owed &&& ~~~now = 0 then (s.modGrp gid (fun k => (f k).opDone n)).opAcquire gid o
  else (s.modGrp gid f).modOp gid n (fun k => { k with landed := k.landed ||| now })

/-- The locations of the lanes `now` of an operation; a scalar one has one. -/
def Op.locsOf (o : Op) (now : BitVec 32) : List (Nat × Loc) :=
  if o.kind = 2 then (if o.todo = 0 then [] else o.locs) else o.locs.filter (fun p => now.getLsbD p.1)

/-- Lines that the addresses of lanes lie in, once each. -/
def linesOfLanes (addr : Nat → Dword) (locs : List (Nat × Loc)) : List Nat :=
  locs.foldl (fun (acc : List Nat) p => let v := va48 (addr p.1) / 128 * 128
                                        if acc.contains v then acc else acc ++ [v]) []

/-- Counts the victim hits of a narrow load (11 R270): lines that miss L1 and match a tag, once each; a line that a lane landed before has touched is counted. -/
def State.countHits (s : State) (h : How) (o : Op) (addr : Nat → Dword) (locs : List (Nat × Loc)) : State :=
  if !h.narrow || !isGlobalLoad o.instr then s
  else
    let k := s.coreAt h.core
    let seen := linesOfLanes addr (o.locs.filter (fun p => o.landed.getLsbD p.1))
    let n := ((linesOfLanes addr locs).filter (fun v =>
      !seen.contains v && (s.l1Find h.core h.ctx v).isNone && k.victims.contains (h.ctx, v))).length
    if n = 0 then s else s.setCore h.core { k with vhits := k.vhits + n }

/-- LOAD_COMPLETION (R183, R186, R187, R190, R191, R211): the data of lanes lands, in any order of lanes (01 R23). -/
def execLoadCompletion (gid : Nat) (op : OpPart) (s : State) : Out :=
  .next (s.withDue gid op.n op.m (fun s g o now =>
    let h := s.howOf g o
    let addr := s.opAddr g o
    let s := s.countHits h o addr (o.locsOf now)
    match o.instr with
    | .ldW _ | .ldD _ | .ldQ _ | .ldN _ | .ldk _ =>
      let r := s.readLanes h addr (o.locsOf now) (accBytes o.instr)
      let vs := r.1.map (fun v => (v.1, v.2.map (fun w => (narrowValue o.instr w.1, w.2))))
      r.2.lanesDone gid op.n o now (fun k => k.landWords o.lines vs)
    | .sld x =>
      let r := s.readLanes h addr (o.locsOf now) 4
      let v := (r.1.map (fun p => p.2.getD 0 (0, false))).head?
      r.2.lanesDone gid op.n o now (fun k => match v with | some w => k.landScalar x.d.toNat w | none => k)
    | .pref x =>
      let t := o.locs.foldl (fun (u : State) p => match p.2 with
        | .mem pa path => if memPolicy x.pf = 2 then u.l2Touch pa else (u.readGlobal (h.on path) (va48 (addr p.1)) pa 1).2
        | _ => u) s
      t.lanesDone gid op.n o now id
    | _ => s))

/-- The 8-byte words that ranges of bytes cover whole, by number. -/
def wholeWords (ps : List (Nat × Nat)) : List Nat :=
  ((ps.flatMap (fun p => [p.1 / 8, (p.1 + p.2 - 1) / 8])).filter (fun w =>
    (List.range 8).all (fun j => ps.any (fun p => decide (p.1 ≤ 8 * w + j) && decide (8 * w + j < p.1 + p.2))))).eraseDups

/-- Words that the lanes of one store wrote whole, together, lose their poison (R211). -/
def State.cleanLanes (s : State) (h : How) (addr : Nat → Dword) (n : Nat) (locs : List (Nat × Loc)) : State :=
  let mems := locs.filterMap (fun p => match p.2 with | .mem pa _ => some (va48 (addr p.1), pa) | _ => none)
  let t := (wholeWords (mems.map (fun p => (p.2, n)))).foldl (fun (u : State) w =>
    match mems.find? (fun p => decide (p.2 / 8 = w)) with
    | some p => u.cleanWord h p.1 p.2
    | none => u) s
  let wins := locs.filterMap (fun p => match p.2 with | .win c k => some (c, k) | _ => none)
  (wins.map (fun p => p.1)).eraseDups.foldl (fun (u : State) c =>
    let ws := wholeWords ((wins.filter (fun p => decide (p.1 = c))).map (fun p => (p.2, n)))
    u.modCore c (fun k => { k with winPoison := k.winPoison.filter (fun w => !ws.contains w) })) t

/-- The stores of lanes in ascending order (R179, R186). -/
def State.storeLanes (s : State) (h : How) (addr : Nat → Dword) (o : Op) (slot : Nat) (locs : List (Nat × Loc)) : State :=
  let t := locs.foldl (fun (u : State) p =>
    u.writeLoc h (va48 (addr p.1)) p.2 (o.dataBytes slot (accBytes o.instr) (if o.kind = 2 then 0 else p.1))) s
  if o.kind = 2 then t else t.cleanLanes h addr (accBytes o.instr) locs

/-- STORE_PERFORMED (R183, R186, R187, R190, R196), in any order of lanes (13 R307). -/
def execStorePerformed (gid : Nat) (op : OpPart) (s : State) : Out :=
  .next (s.withDue gid op.n op.m (fun s g o now =>
    let h := s.howOf g o
    let addr := s.opAddr g o
    let done (t : State) : State := t.lanesDone gid op.n o now id
    match o.instr with
    | .stW _ | .stD _ | .stQ _ | .stN _ => done (s.storeLanes h addr o 1 (o.locsOf now))
    | .stk _ => done (s.storeLanes h addr o 0 (o.locsOf now))
    | .sst _ => done (s.storeLanes h addr o 3 (o.locsOf now))
    | .cwb _ | .cinv _ | .cinvP _ => done (s.maintLanes h addr o.instr (o.locsOf now))
    | _ => s))

/-- The lanes of `now` below the first owed lane that it leaves out: the lanes of an atomic apply in ascending order (R179, R193). -/
def Op.upward (o : Op) (now : BitVec 32) : BitVec 32 := if o.kind = 2 then now else maskOf ((lanesOf o.owed).takeWhile (fun l => now.getLsbD l))

/-- Acts on an atomic or another operation whose lanes apply in ascending order. -/
def State.withUpward (s : State) (gid n : Nat) (m : BitVec 32) (k : State → Grp → Op → BitVec 32 → State) : State :=
  s.withOp gid n (fun _ o => s.withDue gid n (o.upward (if o.kind = 2 then o.owed else m)) k)

/-- ATOMIC_PERFORMED (R193, R194, R211). -/
def execAtomicPerformed (gid : Nat) (op : OpPart) (s : State) : Out :=
  .next (s.withUpward gid op.n op.m (fun s g o now =>
    let r := s.atomLanes (s.howOf g o) (s.opAddr g o) o (o.locsOf now)
    match o.instr with
    | .atom _ => r.2.lanesDone gid op.n o now id
    | .atomr _ | .cas _ => r.2.lanesDone gid op.n o now (fun k => k.landWords o.lines r.1)
    | .satom x =>
      let v := (r.1.map (fun p => p.2.getD 0 (0, false))).head?
      r.2.lanesDone gid op.n o now (fun k => match v with | some w => k.landScalar x.d.toNat w | none => k)
    | _ => s))

/-- The arrival of an ARRV at its object (R201), and its completion. -/
def State.arrvPerform (s : State) (gid n : Nat) (o : Op) : State :=
  match o.instr, o.locs with
  | .arrv x, (_, .win c k) :: _ =>
    (s.objArrive c k (if x.u = 1#1 then o.slotAt 0 0 else 0) x.a.toNat).modGrp gid (fun g => g.opDone n)
  | _, _ => s.modGrp gid (fun g => g.opDone n)

/-- An arrival that is due: it follows every earlier access of the group (13 R311); on another core's object it starts on its way (12 R284). -/
def State.arrvStart (s : State) (gid n : Nat) (g : Grp) (o : Op) : State :=
  if g.ops.any (fun p => decide (p.1 < n) && isAccess p.2.instr) then s
  else
    match o.locs with
    | (_, .win c _) :: _ =>
      if c = g.core then s.arrvPerform gid n o
      else if s.barriers.contains (gid, n) then s
      else { s with barriers := s.barriers ++ [(gid, n)] }
    | _ => s.arrvPerform gid n o

/-- WINDOW_ACCESS_PERFORMED (R183, R188, R193, R194, R201): a load or store in any order of lanes, an atomic upward. -/
def execWindowAccessPerformed (gid : Nat) (op : OpPart) (s : State) : Out :=
  let atoms := s.withUpward gid op.n op.m (fun s g o now =>
    let r := s.atomLanes (s.howOf g o) (s.opAddr g o) o (o.locsOf now)
    r.2.lanesDone gid op.n o now (fun k => k.landWords o.lines r.1))
  .next (s.withOp gid op.n (fun _ o =>
    match o.instr with
    | .atoml _ | .casl _ => atoms
    | .ldl _ =>
      s.withDue gid op.n op.m (fun s g o now =>
        let r := s.readLanes (s.howOf g o) (s.opAddr g o) (o.locsOf now) 4
        r.2.lanesDone gid op.n o now (fun k => k.landWords o.lines r.1))
    | .stl _ => s.withDue gid op.n op.m (fun s g o now => (s.storeLanes (s.howOf g o) (s.opAddr g o) o 1 (o.locsOf now)).lanesDone gid op.n o now id)
    | .arrv _ => s.withDue gid op.n op.m (fun s g o _ => s.arrvStart gid op.n g o)
    | _ => s))

/-- REMOTE_BARRIER_STEP (12 R284): the step reaches the object's home core. -/
def execRemoteBarrierStep (i : Nat) (s : State) : Out :=
  .next (match s.barriers[i]? with
    | none => s
    | some (gid, n) =>
      let t := { s with barriers := s.barriers.filter (fun b => decide (b ≠ (gid, n))) }
      t.withOp gid n (fun _ o => t.arrvPerform gid n o))

/-- One lane of an LDW lands (R189): 16 bytes with their poison (R211), then 16 to got. -/
def State.ldwLand (s : State) (gid n lane : Nat) (g : Grp) (o : Op) (c k c2 k2 : Nat) : State :=
  let h := s.howOf g o
  let addr := s.opAddr g o
  let ls := o.locs.filter (fun p => decide (p.1 = lane))
  let r := (s.countHits h o addr ls).readWords h (va48 (addr lane)) ((ls.map (fun p => p.2)).headD .void) 16
  let t := r.2.winWrite c2 k2 (r.1.flatMap (fun w => leBytes 4 w.1.toNat))
  let bad (i : Nat) : Bool := (r.1.getD (2 * i) (0, false)).2
  let t1 := if bad 0 then t.poisonWin c2 k2 else t
  let t2 := if bad 1 then t1.poisonWin c2 (k2 + 8) else t1
  (t2.objLand c k 16).lanesDone gid n o (BitVec.twoPow 32 lane) id

/-- LDW_LANE_LANDING (R189): a lane lands after the group's earlier accesses to the object; the last lane lowers ld. -/
def execLdwLaneLanding (gid n lane : Nat) (s : State) : Out :=
  .next (s.withOp gid n (fun g o =>
    match o.instr, o.obj with
    | .ldw _, some (c, k) =>
      if s.objBusy g o.ord c k then s
      else
        s.withDue gid n (BitVec.twoPow 32 lane) (fun s g o now =>
          match o.locs2.find? (fun p => decide (p.1 = lane)) with
          | some (_, .win c2 k2) => if now = 0 then s.lanesDone gid n o now id else s.ldwLand gid n lane g o c k c2 k2
          | _ => s.lanesDone gid n o now id)
    | .ldw _, none => s.withDue gid n 0 (fun s _ o now => s.lanesDone gid n o now id)
    | _, _ => s))

/-- SAMPLER_COMPLETION (R207): the results of lanes are written. -/
def execSamplerCompletion (gid : Nat) (op : OpPart) (s : State) : Out :=
  .next (s.withOp gid op.n (fun _ o =>
    if o.path ≠ some .smp then s
    else
      s.withDue gid op.n op.m (fun s g o now =>
        let r := s.texResults (g.how o.pc) o (texDesc o.texBlock) (lanesOf now)
        r.2.lanesDone gid op.n o now (fun k => k.landWords o.lines r.1))))

/-- SFU_COMPLETION (04 R104), in any order of lanes (01 R23). -/
def execSfuCompletion (gid : Nat) (op : OpPart) (s : State) : Out :=
  .next (s.withOp gid op.n (fun g o =>
    let now := o.owed &&& op.m
    if !isSfu o.instr || !g.canLand o.lines || !g.raised.isEmpty || (decide (now = 0) && decide (o.owed ≠ 0)) then s
    else s.lanesDone gid op.n o now (fun k => k.writeLine (o.lines.headD 0) now (fun l => sfuValue o.instr (o.slotAt 0 l)))))

/-! ### The register file and L1 -/

/-- Bank of a line of a group (06 R158). -/
def Grp.bank (g : Grp) (ln : Nat) : Nat := (ln % 16) ^^^ (g.slot % 16)

/-- Does the core's percolation run hold a line pinned (09 R241)? -/
def State.pinnedByRun (s : State) (k : Core) (gid line : Nat) : Bool :=
  match k.perc with
  | some p => decide (p.g = gid) && (match Tab.find (s.grp gid).ops p.op with | some o => o.lines.contains line | none => false)
  | none => false

/-- Is a line of group `gid` evictable (06 R159; 09 R241)? -/
def State.evictable (s : State) (k : Core) (gid line : Nat) : Bool :=
  (match Tab.find s.groups gid with
   | none => true
   | some g => g.overs || !g.life.onCore) && !s.pinnedByRun k gid line

/-- The line comes into its bank (06 R159, R160): a full bank evicts its least recently used evictable line, and has no room when it holds none. A line is clean as it
comes in; the bytes of a line stand once in this model, so that a dirty line's write-back changes none of them. -/
def State.fillLine (s : State) (core gid line : Nat) : State :=
  match Tab.find s.groups gid with
  | none => s
  | some g =>
    if g.nlines ≤ line then s
    else
      s.modCore core (fun k =>
        if k.file.any (fun e => decide (e.1 = gid) && decide (e.2.1 = line)) then k
        else
          let inBank := k.file.filter (fun e => decide ((s.grp e.1).bank e.2.1 = g.bank line))
          if inBank.length < 384 then { k with file := (gid, line, false) :: k.file }
          else
            match (inBank.filter (fun e => s.evictable k e.1 e.2.1)).getLast? with
            | some v => { k with file := (gid, line, false) :: k.file.filter (fun e => decide (e ≠ v)) }
            | none => k)

/-- The same for each of a list of lines. -/
def State.fillLines (s : State) (core gid : Nat) (ls : List Nat) : State := ls.foldl (fun t l => t.fillLine core gid l) s

/-- LINE_MISS_FILL (06 R159, R160). No instruction sees where a line is. -/
def execLineMissFill (gid line : Nat) (s : State) : Out := .next (s.fillLine (s.grp gid).core gid line)

/-- How early a line of a set is evicted (07 R180): `.strm` first, `.keep` only after the lines of codes 0 and 1. -/
def L1Line.rank (l : L1Line) : Nat := if l.pol = 1 then 0 else if l.pol = 3 then 2 else 1

/-- Does a line leave before the others of its set (07 R180; the sets: log 70)? A held line cannot be evicted (07 R199). -/
def Core.evictFirst (k : Core) (l : L1Line) : Bool :=
  k.l1.all (fun o => o.held || decide (Config.l1Set o.va ≠ Config.l1Set l.va) || decide (l.rank ≤ o.rank))

/-- L1_EVICTION_WRITEBACK (07 R180, R199; 11 R270): line `i` leaves L1 after its write-back; one whose write-back is denied stays, held. The event of
number 384, past the cores, evicts copy `i` of a pooled or remote line from L2 (17 R351; log 70). -/
def execL1EvictionWriteback (core i : Nat) (s : State) : Out :=
  .next (if core = 384 then (match s.l2[i]? with | some l => s.l2Clean l.pa true | none => s)
   else match (s.coreAt core).l1[i]? with
    | none => s
    | some l =>
      if l.held || !(s.coreAt core).evictFirst l then s
      else
        match s.writeBackLine core true l with
        | .error e => s.holdLine core l e
        | .ok t => (t.l1Drop core l.ctx l.va).modCore core (fun k => { k with victims := ((l.ctx, l.va) :: k.victims).take 2048 }))

end Sys2Proof.Machine
end

