-- ==== Sys2Proof/Machine/SyncIns.lean ====
section
/-! DEFINITION. Fences, waits, barrier arrivals, budget exchange and TLINC (07 R184, R197, R201, R203; 06 R168, R169; 12 R287, R288;
18 R381). -/
namespace Sys2Proof.Machine

/-- The release steps of an instruction's issue at a scope (R197, R199), then `k`: a denied write-back raises its cause on the whole
instruction. -/
def State.withRelease (s : State) (g : Grp) (sc : Nat) (k : State → State) : State :=
  if !s.wide g sc then k s
  else
    match s.releaseL1 g.core g.ctx g.sup with
    | (t, none) => k t
    | (t, some (e, l)) =>
      let va : Dword := (BitVec.ofNat 48 l.va).signExtend 64
      let m := match g.frag s.iss.slot with | some f => f.mask | none => 0
      let rec0 := { t.xRcd g e .write va s.iss.pc m s.iss.opcode with w30 := l.lastPc }
      (t.raiseGroup s.iss.g [rec0]).raiseIssue e.cause 0 m s.iss.pc va false s.iss.opcode true

/-- FENCE (R197): its stall for earlier accesses is one of `State.stalls`. -/
def execFence (x : Fen) (s : State) : Out :=
  issue (.fence x) s (fun _ _ => 0) (fun s g _ =>
    let acq (t : State) : State :=
      let u := if x.k.getLsbD 0 then t.acquire s.iss.g x.s.toNat else t
      u.finish (u.grp s.iss.g)
    if x.k.getLsbD 1 then s.withRelease g x.s.toNat acq else acq s)

/-- A wait instruction whose condition is `w`: it waits, or goes on after an acquire at scope `sc`, none when it acquires nothing. -/
def State.waitOr (s : State) (g : Grp) (w : Wait) (sc : Option Nat) : State :=
  if s.waitMet g w then
    let t := match sc with | some n => s.acquire s.iss.g n | none => s
    t.finish (t.grp s.iss.g)
  else s.waitHere w

/-- WAITP (R184). -/
def execWaitp (x : Wp) (s : State) : Out :=
  issue (.waitp x) s (fun _ _ => 0) (fun s g _ => s.waitOr g (instrWait g (.waitp x)) none)

/-- Acts on the barrier object at a window address (R201): MISALIGN or NOTMAPPED on the whole fragment, else `k` on its place. -/
def State.withObject (s : State) (g : Grp) (a : Word) (k : State → Nat → Nat → State) : State :=
  match s.winLoc g a with
  | none => s.trapAddr .read ⟨0, a.setWidth 64, 0x10, true, none⟩
  | some p => if a.toNat % 16 ≠ 0 then s.trapAddr .read ⟨0, a.setWidth 64, 0x09, true, none⟩ else k s p.1 p.2

/-- ARRV (R201): a release at the object's scope, whose steps come before its fault point at wide scope (R198; 13 R311). -/
def execArrv (x : Arr) (s : State) : Out :=
  issue (.arrv x) s (fun g f => g.guarded f x.k) (fun s g f =>
    if g.upred x.k.toNat then
      s.withObject g (g.scalar x.n.toNat) (fun s c k =>
        let o := mkOp s g f (.arrv x) 2 f.mask ((g.scalar x.n.toNat).setWidth 64) [captureScalar (g.scalar x.t.toNat)]
        let wide := s.wide g (objScope k)
        s.finish (g.addOp { o with locs := [(0, .win c k)], passed := !wide, rel := wide }))
    else s.finish g)

/-- WAITB (R203): the acquire is at the object's scope. -/
def execWaitb (x : Wb) (s : State) : Out :=
  issue (.waitb x) s (fun g f => g.guarded f x.k) (fun s g _ =>
    if g.upred x.k.toNat then
      s.withObject g (g.scalar x.n.toNat) (fun s _ k => s.waitOr g (instrWait g (.waitb x)) (some (objScope k)))
    else s.finish g)

/-- WAITTL (12 R287). -/
def execWaittl (x : Wtl) (s : State) : Out :=
  issue (.waittl x) s (fun g f => g.guarded f x.k) (fun s g _ =>
    if g.upred x.k.toNat then s.waitOr g (instrWait g (.waittl x)) (some x.s.toNat) else s.finish g)

/-- WAITC (18 R381). -/
def execWaitc (x : Wc) (s : State) : Out :=
  issue (.waitc x) s (fun g f => g.guarded f x.k) (fun s g _ =>
    if g.upred x.k.toNat then
      let a := g.scalarPair x.n.toNat
      if a.toNat % 16 ≠ 0 then s.trapAddr .read ⟨0, a, 0x09, false, none⟩
      else
        match s.translate g.core g.ctx g.sup a .read with
        | .error e => s.trapAddr .read ⟨0, a, e.cause, false, some e⟩
        | .ok r => (s.xCommit g.core r).waitOr g (instrWait g (.waitc x)) (some 4)
    else s.finish g)

/-! ### TLINC (12 R288) -/

/-- The accesses of the group that are not complete: operations, and replay entries by their numbers. -/
def Grp.openAccesses (g : Grp) : List Nat :=
  (g.ops.filter (fun p => isAccess p.2.instr)).map (fun p => p.1) ++ g.deferred.map (fun e => e.seq)
    ++ (match g.frame with | some f => f.replay.map (fun e => e.seq) | none => [])

/-- TLINC's numbers, which complete at once when no access is open. -/
def Grp.tlincAdd (g : Grp) (i k : Nat) : Grp :=
  let first := (g.tlLast i).toNat + 1
  let h := g.tlAssign i k
  let ops := g.openAccesses
  if ops.isEmpty then h.tlCompleteRange i first k else { h with tlinc := h.tlinc ++ [(i, first, first + k - 1, ops)] }

/-- TLINC (12 R285, R288). -/
def execTlinc (x : Tli) (s : State) : Out :=
  issue (.tlinc x) s (fun g f => g.guarded f x.k) (fun s g _ =>
    let k := x.c.toNat + 1
    if !g.upred x.k.toNat then s.finish g
    else if 2 ^ 64 ≤ (g.tlLast x.i.toNat).toNat + k then s.trapHere 0x01 0
    else s.finish (g.tlincAdd x.i.toNat k))

/-! ### REGX (06 R168, R169) -/

/-- The pool of a group's team on its core. -/
def State.poolOf (s : State) (g : Grp) : Pool :=
  ((s.coreAt g.core).pools.find? (fun p => decide (p.launch = g.launch) && decide (p.team = g.team))).getD
    ⟨g.launch, g.team, List.replicate 16 0, []⟩

def State.setPool (s : State) (core : Nat) (p : Pool) : State :=
  s.modCore core (fun k => { k with pools := p :: k.pools.filter (fun q => !(decide (q.launch = p.launch) && decide (q.team = p.team))) })

/-- Lines `lo` to `hi - 1` of a group by bank (R158). -/
def linesByBank (slot lo hi : Nat) : List Nat :=
  (List.range 16).map (fun b => ((List.range (hi - lo)).filter (fun i => decide (((lo + i) % 16) ^^^ (slot % 16) = b))).length)

def addBanks (a b : List Nat) : List Nat := (a.zip b).map (fun p => p.1 + p.2)
def subBanks (a b : List Nat) : List Nat := (a.zip b).map (fun p => p.1 - p.2)
def coverBanks (a need : List Nat) : Bool := (a.zip need).all (fun p => decide (p.2 ≤ p.1))

/-- A group gives up its lines from `n` on: their contents are lost (R168), shared ones without a copy (R171). -/
def Grp.shrinkTo (g : Grp) (n : Nat) : Grp :=
  { g with nlines := n, rs := g.rs.filter (fun e => decide (e.1 < 32 * n)), poison := g.poison.filter (fun l => decide (l < n))
           written := g.written.filter (fun l => decide (l < n)), shared := g.shared.filter (fun e => decide (e.1 < n)) }

/-- A group takes lines up to `n`: they start zero-filled (R168), whatever landed past its old budget. -/
def Grp.growTo (g : Grp) (n : Nat) : Grp := { g.shrinkTo g.nlines with nlines := n }

/-- The new budget of REGX for a group (R168). -/
def regxBudget (x : Rgx) (g : Grp) : Nat := if g.role = 0 then 8 * x.p.toNat else 8 * x.c.toNat

/-- The resize once the phase is complete: a shrink at once, a grow as a stall until lines are free. The lines of an oversubscribed group are in no bank's count
(R165), so none of them goes to the pool. -/
def State.regxResize (s : State) (g0 : Grp) (new : Nat) : State :=
  let gid := s.iss.g
  let g := { g0 with resizeFirst := g0.resizeFirst && !g0.overs && decide (g0.nlines < new) }
  if new < g.nlines then
    if g.overs then s.finish (g.shrinkTo new)
    else
      let p := s.poolOf g
      let t := s.setPool g.core { p with free := addBanks p.free (linesByBank g.slot new g.nlines) }
      t.finish (g.shrinkTo new)
  else if new = g.nlines then s.finish g
  else if g.overs then s.finish (g.growTo new)
  else
    let p := s.poolOf g
    (s.setPool g.core { p with grows := if p.grows.contains gid then p.grows else p.grows ++ [gid] }).waitHere (.grow new)

/-- REGX (R168): its drain is a stall. -/
def execRegx (x : Rgx) (s : State) : Out :=
  issue (.regx x) s (fun g f => g.guarded f x.k) (fun s g f =>
    if !g.upred x.k.toNat then s.finish g
    else
      let gid := s.iss.g
      let new := regxBudget x g
      match f.wait with
      | .grow _ => s.finish g
      | .regx a q n =>
        if !s.waitMet g (.regx a q n) then s
        else
          let sc := match s.winLoc g a with | some p => objScope p.2 | none => 1
          let t := s.acquire gid sc
          t.regxResize (t.grp gid) n
      | _ =>
        let a := g.scalar x.n.toNat
        s.withObject g a (fun s c k =>
          s.withRelease g (objScope k) (fun s =>
            let q := s.objPhase c k
            let p := s.poolOf g
            let t := if new > g.nlines ∧ g.overs = false then s.setPool g.core { p with grows := p.grows ++ [gid] } else s
            (t.objArrive c k 0 1).waitHere (.regx a q new))))

/-- A group of the team on the core that still has to shrink at its completed phase (R169). -/
def State.shrinkDue (s : State) (g : Grp) : Bool :=
  s.groups.any (fun p => decide (p.2.launch = g.launch) && decide (p.2.team = g.team) && decide (p.2.core = g.core) && p.2.life.onCore
    && p.2.allFrags.any (fun q => match q.2.wait with
      | .regx a b n => s.waitMet p.2 (.regx a b n) && decide (n < p.2.nlines)
      | _ => false))

/-- A group whose REGX grows it once the phase that it waits for is complete: it takes no lines before the older grows have theirs (R169). -/
def State.growing (s : State) (gid : Nat) : Bool :=
  let g := s.grp gid
  g.allFrags.any (fun q => match q.2.wait with
    | .grow _ => true
    | .regx a b n => g.life.onCore && s.waitMet g (.regx a b n)
    | _ => false)

/-- REGX_GROW (R169): the oldest grow takes its lines once every bank has them; they start zero-filled. -/
def execRegxGrow (gid : Nat) (s : State) : Out :=
  .next (match Tab.find s.groups gid with
    | none => s
    | some g =>
      let want := g.allFrags.findSome? (fun q => match q.2.wait with | .grow n => if g.nlines < n then some n else none | _ => none)
      match want with
      | none => s
      | some n =>
        let p := s.poolOf g
        let need := linesByBank g.slot g.nlines n
        if (p.grows.filter s.growing).head? ≠ some gid ∨ s.shrinkDue g = true ∨ coverBanks p.free need = false then s
        else
          (s.setPool g.core { p with free := subBanks p.free need, grows := p.grows.filter (fun k => decide (k ≠ gid)) }).setGrp gid
            { g.growTo n with resizeFirst := false })

end Sys2Proof.Machine
end

