-- ==== Sys2Proof/Machine/Teams.lean ====
section
/-! DEFINITION. Placing teams on cores (05 R146; 06 R164, R165, R167; 07 R173, R174; 11 R280; 12 R282, R283), creating their groups
(01 R14 to R16, 19 R475) and pouring them from roasts (10 R249 to R260). -/
namespace Sys2Proof.Machine

/-! ### What a core has room for -/

/-- Local window bytes of each team (18 R373). -/
def LRec.winBytes (r : LRec) : Nat := 1024 * r.wkib

/-- L1 in KiB, and exported window bytes. -/
def LRec.l1Kib (r : LRec) : Nat := if r.l1 then 512 else 256
def LRec.expBytes (r : LRec) : Nat := 65536 * r.e64

/-- Cores of a team. -/
def LRec.cores (r : LRec) : Nat := 2 ^ r.span

/-- Groups of a team (01 R15). -/
def LRec.groups (r : LRec) : Nat := r.nP + r.nC

/-- Teams of the grid. -/
def LRec.teams (r : LRec) : Nat := r.gx * r.gy * r.gz

/-- Line budget of group `k` (06 R167). -/
def LRec.lines (r : LRec) (k : Nat) : Nat := if k < r.nP then r.lp else r.lc

/-- A place that a group still to be poured holds on a core from its team's admission on (10 R250): slot, frame index, lines, whether
its lines are pinned, whether its launch is pre-empted (its slot is then free). -/
structure HeldPlace where
  slot : Nat
  fidx : Nat
  lines : Nat
  overs : Bool
  saved : Bool
  deriving DecidableEq, Repr

/-- The places held on a core by groups still to be poured. -/
def State.heldPlaces (s : State) (c : Nat) : List HeldPlace :=
  s.launches.flatMap (fun l => l.2.teams.flatMap (fun t => t.2.toPour.filterMap (fun k =>
    match t.2.places[k]? with
    | some p => if p.1 = c then some ⟨p.2.1, p.2.2, l.2.r.lines k, l.2.r.overs, decide (l.2.st = .preempted)⟩ else none
    | none => none)))

/-- Groups on a core, resident, waiting or parked. -/
def State.coreGroups (s : State) (c : Nat) : List (Nat × Grp) :=
  s.groups.filter (fun p => decide (p.2.core = c) && (p.2.life.onCore || decide (p.2.life = .parked)))

/-- Pre-empted groups of a core. -/
def State.savedGroups (s : State) (c : Nat) : List (Nat × Grp) :=
  s.groups.filter (fun p => decide (p.2.core = c) && !(p.2.life.onCore || decide (p.2.life = .parked)))

/-- Does a copy of core `c`'s owner, left by a group that retired, still run in its cluster (12 R300)? -/
def State.copiesOpen (s : State) (c : Nat) : Bool :=
  let x := (s.coreAt c).owner
  (List.range 8).any (fun i =>
    let k := s.coreAt (coreCluster c * 8 + i)
    (k.dq.flatten ++ k.copies.map (fun p => p.2)).any (fun q => decide (q.ctx = x) &&
      (match Tab.find s.launches q.launch with | some l => decide (l.st ≠ .preempted) | none => true)))

/-- Is no group resident or parked on the core, or still to be poured there (07 R174), and no copy running into its windows? -/
def State.coreEmpty (s : State) (c : Nat) : Bool :=
  (s.coreGroups c).isEmpty && (s.heldPlaces c).all (fun h => h.saved) && !s.copiesOpen c

/-- Room on a core: slots and frame indices taken, lines pinned by bank, places counted against the 128 (01 R36, 06 R164). -/
structure Room where
  slots : List Nat
  frames : List Nat
  load : List Nat
  held : Nat
  /-- Frame indices of pre-empted groups that may be moved out, least recently pre-empted first (11 R280). -/
  movable : List (Nat × Nat)
  deriving DecidableEq, Repr

/-- The room of a core for a group of context `x`. Lines that a team's pool holds free after a REGX shrink stay the team's, and count like its pinned lines (log 65). -/
def State.roomOf (s : State) (c x : Nat) : Room :=
  let live := s.coreGroups c
  let on := live.filter (fun p => p.2.life.onCore)
  let parked := live.filter (fun p => decide (p.2.life = .parked))
  let hp := s.heldPlaces c
  let here := hp.filter (fun h => !h.saved)
  let sv := (s.savedGroups c).filter (fun p => !p.2.moved)
  let zero := List.replicate 16 0
  let sum (xs : List (List Nat)) : List Nat := xs.foldl addBanks zero
  { slots := on.map (fun p => p.2.slot) ++ here.map (fun h => h.slot)
    frames := live.map (fun p => p.2.fidx) ++ hp.map (fun h => h.fidx) ++ sv.map (fun p => p.2.fidx)
    load := sum ((on.filter (fun p => !p.2.overs)).map (fun p => linesByBank p.2.slot 0 p.2.nlines)
      ++ (parked.filter (fun p => !p.2.overs)).map (fun p => List.replicate 16 ((p.2.nlines + 15) / 16))
      ++ (here.filter (fun h => !h.overs)).map (fun h => linesByBank h.slot 0 h.lines)
      ++ ((s.coreAt c).pools.filter (fun p => match Tab.find s.launches p.launch with
            | some l => decide (l.st ≠ .preempted)
            | none => true)).map (fun p => p.free))
    held := live.length + here.length
    movable := (sortBy (fun p => p.2.waitAt) (sv.filter (fun p => decide (p.2.ctx ≠ x)))).map (fun p => (p.2.fidx, p.1)) }

/-- May a group with `lines` take slot `n` (R164, R165)? -/
def Room.slotFits (r : Room) (lines : Nat) (overs : Bool) (n : Nat) : Bool :=
  !r.slots.contains n && (overs || (addBanks r.load (linesByBank n 0 lines)).all (fun x => decide (x ≤ 384)))

/-- The lowest slot that fits. -/
def Room.slot (r : Room) (lines : Nat) (overs : Bool) : Option Nat :=
  if 128 ≤ r.held then none else (List.range 128).find? (r.slotFits lines overs)

/-- Takes a slot. -/
def Room.take (r : Room) (lines : Nat) (overs : Bool) (n : Nat) : Room :=
  { r with slots := n :: r.slots, held := r.held + 1
           load := if overs then r.load else addBanks r.load (linesByBank n 0 lines) }

/-- The lowest frame index that no group holds, or the index of the group to move out (05 R146, 11 R280). -/
def Room.frame (r : Room) : Option (Nat × Option Nat) :=
  match (List.range 128).find? (fun i => !r.frames.contains i) with
  | some i => some (i, none)
  | none => match r.movable with
    | (i, g) :: _ => some (i, some g)
    | [] => none

/-- A new group's place. -/
structure Spot where
  core : Nat
  slot : Nat
  fidx : Nat
  /-- The pre-empted group that gives up its index. -/
  out : Option Nat
  deriving DecidableEq, Repr

/-- Places one new group in a core's room. -/
def Room.place (r : Room) (core lines : Nat) (overs : Bool) : Option (Spot × Room) :=
  match r.slot lines overs, r.frame with
  | some n, some (i, o) =>
    let q := r.take lines overs n
    some (⟨core, n, i, o⟩, { q with frames := i :: q.frames, movable := match o with | some _ => q.movable.drop 1 | none => q.movable })
  | _, _ => none

/-- Places the groups of a team in order over the rooms of its cores (R164: each group the lowest free slot that fits). -/
def placeAll (r : LRec) (cores : List Nat) (rooms : Tab Room) (ks : List Nat) : Option (List Spot) :=
  match ks with
  | [] => some []
  | k :: rest =>
    let c := cores.getD (k % cores.length) 0
    match Tab.find rooms c with
    | none => none
    | some room =>
      match room.place c (r.lines k) r.overs with
      | none => none
      | some (sp, q) => (placeAll r cores (Tab.put rooms c q) rest).map (fun t => sp :: t)

/-- Does the core's split allow the launch's, or is it free to be set anew (R174)? -/
def State.splitFits (s : State) (c : Nat) (r : LRec) : Bool :=
  s.coreEmpty c || (let k := s.coreAt c; k.splitOn && decide (k.l1Kib = r.l1Kib) && decide (k.exp = r.expBytes))

/-- The lowest free range of `n` bytes in a local window of `size` bytes, in 1 KiB units (R174). -/
def freeBase (size n : Nat) (taken : List LocalRange) : Option Nat :=
  ((List.range (size / 1024)).map (fun i => 1024 * i)).find? (fun b =>
    decide (b + n ≤ size) && taken.all (fun t => decide (b + n ≤ t.base) || decide (t.base + t.size ≤ b)))

/-- The lowest free local window range of the launch's size on the core (R174). -/
def State.rangeFor (s : State) (c : Nat) (r : LRec) : Option Nat :=
  freeBase (1024 * (1536 - r.l1Kib) - r.expBytes) r.winBytes (if s.coreEmpty c then [] else (s.coreAt c).ranges)

/-- A location of a range of core `core` that has come back at another base. -/
def Loc.moved (l : Loc) (core old size base : Nat) : Loc :=
  match l with
  | .win c k => if c = core ∧ old ≤ k ∧ k < old + size then .win c (k - old + base) else l
  | _ => l

/-- The same for what an operation has checked (11 R278: it goes on completing). -/
def Op.moved (o : Op) (core old size base : Nat) : Op :=
  { o with
    locs := o.locs.map (fun p => (p.1, p.2.moved core old size base)), locs2 := o.locs2.map (fun p => (p.1, p.2.moved core old size base))
    obj := o.obj.map (fun p => match (Loc.win p.1 p.2).moved core old size base with | .win c k => (c, k) | _ => p) }

/-- Puts a saved range back at base `b` (R174, 11 R280). -/
def State.putRange (s : State) (core : Nat) (v : SavedRange) (b : Nat) : State :=
  let t := s.modCore core (fun k => { k with
    ranges := k.ranges ++ [{ v.r with base := b }]
    win := Sparse.setList k.win b (Sparse.getList v.win v.r.base v.r.size)
    winPoison := v.poison.map (fun w => w + b / 8 - v.r.base / 8)
                   ++ k.winPoison.filter (fun w => decide (8 * w < b) || decide (b + v.r.size ≤ 8 * w)) })
  if b = v.r.base then t
  else
    { t with groups := t.groups.map (fun p =>
        if p.2.core = core ∧ p.2.launch = v.r.launch ∧ p.2.team = v.r.team then
          (p.1, { p.2 with ops := p.2.ops.map (fun o => (o.1, o.2.moved core v.r.base v.r.size b)) })
        else p) }

/-- Where a team of a launch fits on a set of cores. -/
def State.fitSet (s : State) (x : Nat) (r : LRec) (cores : List Nat) : Option (List Spot) :=
  if cores.all (fun c => s.splitFits c r && (s.rangeFor c r).isSome) then
    placeAll r cores (cores.foldl (fun t c => Tab.put t c (s.roomOf c x)) []) (List.range r.groups)
  else none

/-- The aligned sets of cores of cluster `cl` (12 R282), lowest first. -/
def clusterSets (cl span : Nat) : List (List Nat) :=
  let n := 2 ^ span
  (List.range (8 / n)).map (fun i => (List.range n).map (fun j => 8 * cl + n * i + j))

/-- The lowest set of a cluster that a team of the launch fits, with the places (12 R283). -/
def State.fitCluster (s : State) (x : Nat) (r : LRec) (cl : Nat) : Option (List Nat × List Spot) :=
  (clusterSets cl r.span).findSome? (fun cs => (s.fitSet x r cs).map (fun sp => (cs, sp)))

/-- Could a team be placed on an empty set of cores (18 R374)? -/
def emptyFits (r : LRec) : Bool :=
  let cores := List.range r.cores
  let room : Room := ⟨[], [], List.replicate 16 0, 0, []⟩
  (placeAll r cores (cores.map (fun c => (c, room))) (List.range r.groups)).isSome

/-! ### Setting up a core for a team -/

/-- Sets a new split on an empty core and zeroes the exported window (R174); what a pre-empted context left there is saved
(11 R278). -/
def State.newSplit (s : State) (c x : Nat) (r : LRec) : State :=
  let k := s.coreAt c
  let left := k.splitOn && decide (0 < k.exp) && (s.savedGroups c).any (fun p => decide (p.2.ctx = k.owner))
  let sv : SavedExp := ⟨k.owner, k.l1Kib, k.exp, (k.win.filter (fun e => decide (expKey ≤ e.1))),
    k.winPoison.filter (fun w => decide (expKey ≤ 8 * w))⟩
  s.setCore c { k with
    splitOn := true, owner := x, l1Kib := r.l1Kib, exp := r.expBytes, ranges := []
    win := k.win.filter (fun e => decide (e.1 < expKey)), winPoison := k.winPoison.filter (fun w => decide (8 * w < expKey))
    savedExp := if left then sv :: k.savedExp.filter (fun e => decide (e.ctx ≠ k.owner)) else k.savedExp }

/-- Makes a core ready for a launch's team: a core that is empty takes its split, unless the context's own split stands. -/
def State.readySplit (s : State) (c x : Nat) (r : LRec) : State :=
  let k := s.coreAt c
  if s.coreEmpty c && !(k.splitOn && decide (k.owner = x) && decide (k.l1Kib = r.l1Kib) && decide (k.exp = r.expBytes)
      && (s.savedGroups c).any (fun p => decide (p.2.ctx = x))) then s.newSplit c x r
  else s

/-- Zeroes window bytes of a core. -/
def State.zeroWin (s : State) (c key n : Nat) : State :=
  s.modCore c (fun k => { k with win := Sparse.clear k.win key n
                                 winPoison := k.winPoison.filter (fun w => decide (8 * w < key) || decide (key + n ≤ 8 * w)) })

/-- Gives a team its local window range on core `c`, zeroed; the answer is its base. -/
def State.addRange (s : State) (c x lid team place : Nat) (r : LRec) : State :=
  let t := s.readySplit c x r
  match t.rangeFor c r with
  | none => t
  | some b =>
    let u := t.modCore c (fun k => { k with ranges := k.ranges ++ [⟨x, lid, team, b, r.winBytes, [], 0, place⟩] })
    u.zeroWin c b r.winBytes

/-- Bytes of a core's part of a save area (21 R421), and where the part of `core` in context `x`'s stands, child-physical. -/
def savePart : Nat := 9792 * 1024
def State.savePartAt (s : State) (x core : Nat) : Nat := (s.ctxAt x).save + savePart * core

/-- First and last byte of a group's save record (R421). -/
def State.saveRecordAt (s : State) (x core fidx : Nat) : List Nat :=
  let a := s.savePartAt x core + 1536 * 1024 + 0x10000 * fidx
  [a, a + 0xFFFF]

/-- Context `x`'s save area is written at these addresses, child-physical, each translated as a write; the first that faults is what firmware error-fences the context for
(21 R433). What is written there stays in State as data (log 68). -/
def State.saveArea (s : State) (x : Nat) (as : List Nat) : State :=
  match as with
  | [] => s
  | a :: rest =>
    if x = 0 then s
    else
      match s.physNest x a true with
      | .ok e => (s.traced e.tr).saveArea x rest
      | .error e => (s.traced e.tr).modCtx x (fun c => { c with
          errFence := match c.errFence with | some w => some w | none => some ⟨1, e.cause, e.stage, e.level, some e.missCtx, 2, a⟩ })

/-- Moves a pre-empted group's area out to its save record (11 R280): its dirty lines are written home first. -/
def State.moveOut (s : State) (o : Option Nat) : State :=
  match o with
  | none => s
  | some g =>
    let k := s.grp g
    ((s.modGrp g (fun k => { k with moved := true })).modCore k.core (fun k =>
      { k with file := k.file.map (fun e => if e.1 = g then (e.1, e.2.1, false) else e) })).saveArea k.ctx (s.saveRecordAt k.ctx k.core k.fidx)

/-! ### Groups -/

/-- Present lanes of group `k` (01 R14). -/
def presentLanes (lanes k : Nat) : BitVec 32 := maskWhere (fun l => decide (32 * k + l < lanes))

/-- A new group of a team at a place (01 R16). -/
def State.newGroup (s : State) (lid team k : Nat) (l : Launch) (core slot fidx age : Nat) : Grp :=
  let r := l.r
  let cx := s.ctxAt l.ctx
  let gm := presentLanes r.lanes k
  let words := (l.preload.take (16 * r.nsc)).map (fun p => p.1)
  { grpInit with
    ctx := l.ctx, launch := lid, team := team, core := core, slot := slot, fidx := fidx, age := age
    idx := k, role := if k < r.nP then 0 else 1, roleIdx := if k < r.nP then k else k - r.nP
    teamXyz := (team % r.gx, team / r.gx % r.gy, team / (r.gx * r.gy)), gridXyz := (r.gx, r.gy, r.gz)
    teamLanes := r.lanes, gmask := gm, sup := r.priv, params := r.params, parkns := cx.parkns, adopt := cx.adopt
    defer := decide (r.tm = 2) || (decide (r.tm = 0) && decide (r.span ≠ 0)), overs := r.overs
    nlines := r.lines k, nsc := 16 * r.nsc
    view := ⟨BitVec.ofNat 8 r.viewV, BitVec.ofNat 8 r.viewT, BitVec.ofNat 8 r.viewA⟩
    s := Sparse.setList ([] : Sparse 32) 0 words
    spoison := ((l.preload.take (16 * r.nsc)).zipIdx.filter (fun p => p.1.2)).map (fun p => p.2)
    f0 := some (fragAt r.entry gm)
    tframe := if cx.frames = 0 then 0 else BitVec.ofNat 64 (cx.frames + 2 ^ 14 * (core * 128 + fidx)), tvec := cx.tvec }

/-- The state of a poured group (10 R255, R256): a new group with the source's part; lines of the part are shared as `sh` says. -/
def pouredGroup (g : Grp) (p : RoastPart) (sh : Nat → Nat) : Grp :=
  let keep (n : Nat) : Bool := decide (n < g.nlines)
  { g with
    rs := p.rs.filter (fun e => decide (e.1 < 32 * g.nlines)), written := p.written.filter keep, poison := p.poison.filter keep
    shared := (p.written.filter keep).foldl (fun (t : Tab Nat) n => Tab.put t n (sh n)) []
    s := p.s, spoison := p.spoison, p := p.p, k := p.k, coef := p.coef, view := p.view, pstate := p.pstate
    f0 := some { fragAt p.pos.hdr g.gmask with pos := p.pos }, tlc := p.tln, tln := p.tln, froze := p.froze
    parkns := p.parkns, adopt := p.adopt, tvec := p.tvec, tcause := p.tcause, tmask := p.tmask, tprev := p.tprev, tfault := p.tfault }

/-- Adds a group to the machine and to its team. -/
def State.addGroup (s : State) (lid team k : Nat) (g : Grp) : State :=
  let n := s.nextGroup
  let t := { s with groups := Tab.put s.groups n g, nextGroup := n + 1 }
  let u := t.modCore g.core (fun c => { c with ageNext := c.ageNext + 1 })
  u.modLaunch lid (fun l => { l with teams := l.teams.map (fun e =>
    if e.1 = team then (team, { e.2 with groups := Tab.put e.2.groups k n, toPour := e.2.toPour.filter (fun i => decide (i ≠ k)) }) else e) })

/-- Creates group `k` of a team at its place; it starts with an acquire at .k (13 R318, R320). -/
def State.createGroup (s : State) (lid team k : Nat) : State :=
  match Tab.find s.launches lid with
  | none => s
  | some l =>
    match (Tab.find l.teams team).bind (fun t => t.places[k]?) with
    | none => s
    | some p =>
      let n := s.nextGroup
      (s.addGroup lid team k (s.newGroup lid team k l p.1 p.2.1 p.2.2 (s.coreAt p.1).ageNext)).acquire n 4

/-- Pours group `k` of a team from a part (10 R256), and its first acquire at scope `sc` (R262). -/
def State.pourGroup (s : State) (lid team k : Nat) (p : RoastPart) (sh : Nat → Nat) (sc : Nat) : State :=
  match Tab.find s.launches lid with
  | none => s
  | some l =>
    match (Tab.find l.teams team).bind (fun t => t.places[k]?) with
    | none => s
    | some q =>
      let n := s.nextGroup
      let t := s.addGroup lid team k (pouredGroup (s.newGroup lid team k l q.1 q.2.1 q.2.2 (s.coreAt q.1).ageNext) p sh)
      t.acquire n sc

/-- Puts the template window of a grid roast into a poured team's range on core `c`, block by block shared (R255, R259). -/
def State.pourWindow (s : State) (lid team c : Nat) (ro : Nat) (r : Roast) : State :=
  match (s.coreAt c).ranges.find? (fun e => decide (e.launch = lid) && decide (e.team = team)) with
  | none => s
  | some e =>
    let bs := Tab.findD r.win e.place []
    let t := s.modCore c (fun k => { k with
      win := Sparse.setList k.win e.base bs
      winPoison := (Tab.findD r.winPoison e.place []).map (fun w => w + e.base / 8) ++ k.winPoison
      ranges := k.ranges.map (fun x =>
        if x = e then { x with shared := List.range (bs.length / 256), roast := ro } else x) })
    t

/-- Pours what a sealed grid roast gives a team other than the prologue's (R250): every group, or with a team template group 0. -/
def State.pourGrid (s : State) (lid team : Nat) : State :=
  match Tab.find s.launches lid with
  | none => s
  | some l =>
    match l.roast, Tab.find l.teams team with
    | some ro, some t =>
      (match Tab.find s.roasts ro with
       | none => s
       | some r =>
         let u := t.cores.foldl (fun u c => u.pourWindow lid team c ro r) s
         let ks := if l.r.tT then [0] else List.range l.r.groups
         ks.foldl (fun u k => match Tab.find r.parts k with
           | some p => u.pourGroup lid team k p (fun _ => ro) 4
           | none => u) u)
    | _, _ => s

/-- Is the grid roast of the launch sealed? -/
def State.gridSealed (s : State) (l : Launch) : Bool :=
  match l.roast with
  | some ro => (match Tab.find s.roasts ro with | some r => r.sealed | none => false)
  | none => false

/-- Does a launch's stagger hold its next start on a die (11 R275)? Each die keeps its own count. -/
def State.staggered (s : State) (lid die : Nat) (l : Launch) : Bool :=
  decide (l.pace = 1) && (s.dieAt die).starts.any (fun p => decide (p.1 = lid))

/-- A team of a launch has started on a die: the stagger counts from here (11 R275). -/
def State.noteStart (s : State) (lid die : Nat) (l : Launch) : State :=
  if l.pace = 1 then s.modDie die (fun d => { d with starts := (lid, d.clock) :: d.starts.filter (fun p => decide (p.1 ≠ lid)) }) else s

/-- Creates or pours the groups of an admitted team that has none yet (R250, 19 R475), as soon as the roast that it needs is sealed and no stagger holds it. -/
def State.startTeam (s : State) (lid team : Nat) : State :=
  match Tab.find s.launches lid with
  | none => s
  | some l =>
    match Tab.find l.teams team with
    | none => s
    | some t =>
      let die := coreDie (t.cores.headD 0)
      let poured := l.r.tG && decide (team ≠ 0)
      if !t.toPour.contains 0 || s.staggered lid die l || (poured && !s.gridSealed l) then s
      else
        (if poured then s.pourGrid lid team
         else (if l.r.tT then [0] else List.range l.r.groups).foldl (fun u k => u.createGroup lid team k) s).noteStart lid die l

/-- Admits team `num` of a launch at a fit (R31): ranges, places, then its groups. -/
def State.admitTeam (s : State) (lid num : Nat) (fit : List Nat × List Spot) : State :=
  match Tab.find s.launches lid with
  | none => s
  | some l =>
    let t := fit.2.foldl (fun u sp => u.moveOut sp.out) s
    let u := (fit.1.zipIdx).foldl (fun u c => u.addRange c.1 l.ctx lid num c.2 l.r) t
    let tm : Team := {
      num := num, cores := fit.1, places := fit.2.map (fun sp => (sp.core, sp.slot, sp.fidx)), toPour := List.range l.r.groups
      groups := [], roast := none }
    (u.modLaunch lid (fun l => { l with teams := Tab.put l.teams num tm, skips := 0, first := false })).startTeam lid num

end Sys2Proof.Machine
end

