-- ==== Sys2Proof/Machine/Dray.lean ====
section
/-! DEFINITION. The dray (12 R289 to R300): the copy instructions, acceptance, translation page by page, and landing unit by unit. A copy is
a row of 16 B chunks in copy order; a unit is named by its first chunk. -/
namespace Sys2Proof.Machine

/-- Does a context run: it and every ancestor are ACTIVE (21 R413)? -/
def State.runs (s : State) (x : Nat) : Bool := (s.chain x).all (fun c => decide ((s.ctxAt c).st = CtxSt.active))

/-! ### The block of a copy (R290) -/

/-- Scalar `i` of a block. -/
def blk (b : List Word) (i : Nat) : Word := b.getD i 0

/-- Address pair of a block. -/
def blkAddr (b : List Word) : Dword := pair (blk b 1) (blk b 0)

/-- Which side is where: 0 G2W, 1 W2G, 2 W2W. -/
def copyDir (i : Instr) : Nat := match i with | .cpy x | .cpyt x | .cpyx x => x.d.toNat | _ => 0

/-- Chunks of a row or an element, and chunks in all. -/
def rowChunks (b : List Word) : Nat := (blk b 3).toNat / 16

def allChunks (i : Instr) (b : List Word) : Nat :=
  match i with
  | .cpy _ => (blk b 3).toNat / 16
  | _ => (blk b 4).toNat * ((blk b 3).toNat / 16)

/-- Address of chunk `q` on the side of `s[N]`: global, or for W2W the source window. `idx` gives a CPYX's indices. -/
def farAddr (i : Instr) (b : List Word) (idx : List Word) (q : Nat) : Dword :=
  let n := rowChunks b
  let off : Dword := BitVec.ofNat 64 (16 * (q % n))
  let a := match i with
    | .cpyt _ => blkAddr b + BitVec.ofNat 64 (q / n) * (blk b 5).signExtend 64 + off
    | .cpyx _ => blkAddr b + (idx.getD (q / n) 0).signExtend 64 * (blk b 6).setWidth 64 + off
    | _ => blkAddr b + BitVec.ofNat 64 (16 * q)
  if copyDir i = 2 then (lo32 a).setWidth 64 else a

/-- Window address of chunk `q` (R290: a tile's rows rotate as 08 R215 places them). -/
def nearAddr (i : Instr) (b : List Word) (q : Nat) : Nat :=
  let n := rowChunks b
  let w := (blk b 2).toNat
  let a := match i with
    | .cpyt _ => w + (q / n) * (blk b 6).toNat + 16 * ((q % n + (blk b 7).toNat / 2 ^ 28 * (q / n / 8)) % n)
    | _ => w + 16 * q
  a % 2 ^ 32

/-- Does chunk `q` begin a unit (R293)? Units hold at most 128 B within one row or element and cross no 128 B boundary. -/
def unitStarts (i : Instr) (b : List Word) (idx : List Word) (q : Nat) : Bool :=
  decide (q % rowChunks b = 0) || decide ((farAddr i b idx q).toNat % 128 = 0) || decide (nearAddr i b q % 128 = 0)
    || decide (nearAddr i b q ≠ nearAddr i b (q - 1) + 16)

/-- The chunks of the unit at `q`, at most `fuel` more. -/
def unitChunks (i : Instr) (b : List Word) (idx : List Word) (total q fuel : Nat) : List Nat :=
  match fuel with
  | 0 => [q]
  | f + 1 => if total ≤ q + 1 ∨ unitStarts i b idx (q + 1) = true then [q] else q :: unitChunks i b idx total (q + 1) f

def Copy.total (c : Copy) : Nat := allChunks c.instr c.block
def Copy.far (c : Copy) (q : Nat) : Dword := farAddr c.instr c.block c.idx q
def Copy.near (c : Copy) (q : Nat) : Nat := nearAddr c.instr c.block q
def Copy.unit (c : Copy) (q : Nat) : List Nat := unitChunks c.instr c.block c.idx c.total q 7

/-! ### The checks at issue (R291) -/

/-- Is a value of the block outside its range (R290)? -/
def copyIllegal (i : Instr) (b : List Word) : Bool :=
  let m16 (n : Nat) : Bool := decide ((blk b n).toNat % 16 = 0)
  let row := (blk b 3).toNat
  match i with
  | .cpy _ => !(m16 3 && decide (row ≤ 0x01000000))
  | .cpyt _ =>
    !(m16 3 && decide (16 ≤ row) && decide (row ≤ 4096) && decide (1 ≤ (blk b 4).toNat) && decide ((blk b 4).toNat ≤ 4096)
      && m16 5 && m16 6 && (decide (copyDir i = 1) || decide (row ≤ (blk b 6).toNat)) && decide ((blk b 7).extractLsb' 0 28 = 0#28)
      && decide ((blk b 7).getLsbD 31 = false))
  | _ =>
    !((List.range 9).any (fun k => decide (row = 2 ^ (k + 4))) && decide (1 ≤ (blk b 4).toNat) && decide ((blk b 4).toNat ≤ 65536)
      && m16 6 && decide (blk b 7 = 0))

/-- Does the copy end on the barrier object, and at which window address. -/
def copyObj (i : Instr) (g : Grp) : Option Word :=
  match i with | .cpy x | .cpyt x | .cpyx x => if x.o = 1#1 then some (g.scalar x.b.toNat) else none | _ => none

/-- The window ranges that a copy reads or writes (first byte, bytes, does it write). -/
def copyRanges (i : Instr) (b : List Word) (obj : Option Word) : List (Nat × Nat × Bool) :=
  let row := (blk b 3).toNat
  let d := copyDir i
  let near : List (Nat × Nat × Bool) := match i with
    | .cpyt _ => (List.range (blk b 4).toNat).map (fun r => (((blk b 2).toNat + r * (blk b 6).toNat) % 2 ^ 32, row, decide (d ≠ 1)))
    | _ => [((blk b 2).toNat, 16 * allChunks i b, decide (d ≠ 1))]
  let far : List (Nat × Nat × Bool) :=
    if d ≠ 2 then []
    else
      match i with
      | .cpyt _ => (List.range (blk b 4).toNat).map (fun r => ((farAddr i b [] (r * rowChunks b)).toNat, row, false))
      | _ => [((blk b 0).toNat, 16 * allChunks i b, false)]
  let list : List (Nat × Nat × Bool) := match i with | .cpyx _ => [((blk b 5).toNat, 4 * (blk b 4).toNat, false)] | _ => []
  near ++ far ++ list ++ (match obj with | some a => [(a.toNat, 16, true)] | none => [])

/-- The first byte of a range of `n` window bytes from `a` on that reaches nothing: window parts begin and end at multiples of 1 KiB. -/
def State.windowGap (s : State) (g : Grp) (a n : Nat) : Option Nat :=
  let pts := (if n = 0 then [] else [a]) ++ ((List.range ((a % 1024 + n + 1023) / 1024)).map (fun k => a / 1024 * 1024 + 1024 * (k + 1))).filter
    (fun p => decide (p < a + n))
  pts.find? (fun p => (s.winLoc g (BitVec.ofNat 32 p)).isNone)

/-- The first global byte address that is not canonical, for CPY and CPYT. -/
def copyNonCanonical (i : Instr) (b : List Word) : Option Dword :=
  let at1 (a : Dword) (n : Nat) : Option Dword :=
    if n = 0 then none
    else if !canonical a then some a
    else if !canonical (a + BitVec.ofNat 64 (n - 1)) then some (BitVec.ofNat 64 (2 ^ 47))
    else none
  match i with
  | .cpy _ => at1 (blkAddr b) (16 * allChunks i b)
  | .cpyt _ => (List.range (blk b 4).toNat).findSome? (fun r => at1 (farAddr i b [] (r * rowChunks b)) (blk b 3).toNat)
  | _ => none

/-- What a check at issue finds. -/
inductive CopyBad where
  | illegal
  | addr (k : AccK) (f : LaneFault)
  deriving DecidableEq, Repr

/-- The checks of R291 on what the scalars hold, in the order of its table. -/
def State.copyCheck (s : State) (g : Grp) (i : Instr) (b : List Word) (obj : Option Word) (tl : Option Nat) : Option CopyBad :=
  let overs := match tl with | some t => decide (2 ^ 64 ≤ (g.tlLast t).toNat + 1) | none => false
  let farK : AccK := if copyDir i = 1 then .write else .read
  let nearK : AccK := if copyDir i = 1 then .read else .write
  let mis (k : AccK) (a : Dword) (win : Bool) (n : Nat) : Option CopyBad :=
    if a.toNat % n = 0 then none else some (.addr k ⟨0, a, 0x09, win, none⟩)
  let far : Dword := if copyDir i = 2 then (blk b 0).setWidth 64 else blkAddr b
  if copyIllegal i b || overs then some .illegal
  else
    match mis nearK ((blk b 2).setWidth 64) true 16, mis farK far (decide (copyDir i = 2)) 16,
        (match obj with | some a => mis .write (a.setWidth 64) true 16 | none => none),
        (match i with | .cpyx _ => mis .read ((blk b 5).setWidth 64) true 4 | _ => none) with
    | some e, _, _, _ => some e
    | _, some e, _, _ => some e
    | _, _, some e, _ => some e
    | _, _, _, some e => some e
    | none, none, none, none =>
      match (copyRanges i b obj).findSome? (fun r => (s.windowGap g r.1 r.2.1).map (fun a => (a, r.2.2))) with
      | some (a, w) => some (.addr (if w then .write else .read) ⟨0, BitVec.ofNat 64 a, 0x10, true, none⟩)
      | none =>
        match if copyDir i = 2 then none else copyNonCanonical i b with
        | some a => some (.addr farK ⟨0, a, 0x10, false, some ⟨0x10, 1, 0xFF, false, false, g.ctx, 0, XTrace.none⟩⟩)
        | none => none

/-- The issue of a copy instruction (R285, R289 to R293). -/
def execCopy (i : Instr) (x : Cp) (n : Nat) (s : State) : Out :=
  issue i s (fun g f => g.guarded f x.k) (fun s g f =>
    if !g.upred x.k.toNat then s.finish g
    else
      let b := (List.range n).map (fun j => g.scalar (x.n.toNat + j))
      let obj := copyObj i g
      let tl := if x.o = 1#1 then none else some x.i.toNat
      match s.copyCheck g i b obj tl with
      | some .illegal => s.trapHere 0x01 0
      | some (.addr k e) => s.trapAddr k e
      | none =>
        let go (s : State) : State :=
          let g := s.grp s.iss.g
          let h := match tl with | some t => g.tlAssign t 1 | none => g
          let flag := flagOf (flagClass i) f.pos.setA f.pos.setB
          let c : Copy := {
            g := s.iss.g, ctx := g.ctx, launch := g.launch, sup := g.sup, fidx := g.fidx, team := g.team, instr := i, pc := s.iss.pc
            block := b, flag := flag, tl := tl.map (fun t => (t, (h.tlLast t).toNat)), obj := obj, idx := [], pages := []
            upto := 0, landed := [], count := 0, faulted := false, after := g.opNext
            quarter := g.slot / 32, nested := g.inHandler, away := false }
          let t := s.modCore g.core (fun k => { k with dq := k.dq.modify (g.slot / 32) (fun q => q ++ [c]) })
          t.finish (h.flagUp flag)
        match x.r.toNat with
        | 0 => go s
        | r => s.withRelease g (if r = 3 then 4 else r) go)

/-- CPY (R289). -/
def execCpy (x : Cp) (s : State) : Out := execCopy (.cpy x) x 4 s

/-- CPYT (R289). -/
def execCpyt (x : Cp) (s : State) : Out := execCopy (.cpyt x) x 8 s

/-- CPYX (R289). -/
def execCpyx (x : Cp) (s : State) : Out := execCopy (.cpyx x) x 8 s

/-! ### The dray -/

/-- Is a copy stopped by a pre-emption of its launch or context (R300)? -/
def State.copyStopped (s : State) (c : Copy) : Bool :=
  !s.runs c.ctx || (match Tab.find s.launches c.launch with | some l => decide (l.st = .preempted) | none => false)

/-- Is it stopped, or not in a place again since? -/
def State.copyHeld (s : State) (c : Copy) : Bool := c.away || s.copyStopped c

/-- The first chunk of the first unit in copy order that has not landed. -/
def Copy.firstLeft (c : Copy) : Nat :=
  ((List.range c.total).find? (fun q => unitStarts c.instr c.block c.idx q && !c.landed.contains q)).getD c.total

/-- A copy that goes on after a stop or a fault translates anew what it has not landed (R299, R300; 17 R364). -/
def Copy.anew (c : Copy) : Copy := { c with pages := [], upto := if copyDir c.instr = 2 then c.total else c.firstLeft }

/-- The copies that a test names are stopped and leave their places (R300). -/
def Core.stopCopies (k : Core) (f : Copy → Bool) : Core :=
  { k with copies := k.copies.map (fun p => if f p.2 then (p.1, { p.2.anew with away := true }) else p) }

/-- Is a copy of a team queued or running on the core? -/
def Core.hasCopy (k : Core) (launch team : Nat) : Bool :=
  (k.dq.flatten ++ k.copies.map (fun p => p.2) ++ k.saved.flatMap (fun v => v.dq)).any
    (fun c => decide (c.launch = launch) && decide (c.team = team))

/-- Gives back what a team holds on a core once it has no group there, none to be poured there, and no copy that reads or writes
its local window (R174, R300; 06 R167). -/
def State.sweepTeam (s : State) (core launch team : Nat) : State :=
  let live := s.groups.any (fun p => decide (p.2.launch = launch) && decide (p.2.team = team) && decide (p.2.core = core))
  let pour := match (Tab.find s.launches launch).bind (fun l => Tab.find l.teams team) with
    | some t => t.toPour.any (fun k => match t.places[k]? with | some p => decide (p.1 = core) | none => false)
    | none => false
  if live || pour then s
  else
    let other (l t : Nat) : Bool := !(decide (l = launch) && decide (t = team))
    s.modCore core (fun k => { k with
      pools := k.pools.filter (fun p => other p.launch p.team)
      ranges := if k.hasCopy launch team then k.ranges else k.ranges.filter (fun r => other r.launch r.team)
      saved := k.saved.map (fun v => { v with
        ranges := if k.hasCopy launch team then v.ranges else v.ranges.filter (fun r => other r.r.launch r.r.team) }) })

/-- The copy is complete (R295): its number completes in order; a retired group's timeline is gone. -/
def State.copyDone (s : State) (core k : Nat) (c : Copy) : State :=
  let t := s.modCore core (fun q => { q with copies := Tab.drop q.copies k })
  let u := match c.tl with
    | some (i, n) => t.modGrp c.g (fun g => g.tlComplete i n)
    | none => t
  u.sweepTeam core c.launch c.team

/-- Where the next copy of a quarter stands. -/
inductive NextCopy where
  /-- One that was accepted before a pre-emption, by its number. -/
  | again (k : Nat) (c : Copy)
  /-- One saved for a launch that has gone since (R300, 01 R37). -/
  | saved (c : Copy)
  | queued (c : Copy)
  deriving DecidableEq, Repr

def NextCopy.copy (n : NextCopy) : Copy := match n with | .again _ c => c | .saved c => c | .queued c => c

/-- The next copy of a quarter: those that a pre-emption stopped first, then its queue, the oldest that is not stopped. -/
def State.nextCopy (s : State) (core q : Nat) : Option NextCopy :=
  let k := s.coreAt core
  let mine (c : Copy) : Bool := decide (c.quarter = q) && !s.copyStopped c
  match k.copies.find? (fun p => p.2.away && mine p.2) with
  | some p => some (.again p.1 p.2)
  | none =>
    match (k.saved.filter (fun v => (Tab.find s.launches v.launch).isNone)).findSome? (fun v => v.dq.find? mine) with
    | some c => some (.saved c)
    | none => ((k.dq.getD q []).find? (fun c => !s.copyStopped c)).map .queued

/-- The window range of a copy whose launch is gone comes back, where a pre-emption has saved it; none while it does not fit. -/
def State.copyRange (s : State) (core : Nat) (c : Copy) : Option State :=
  let k := s.coreAt core
  let is (v : SavedRange) : Bool := decide (v.r.launch = c.launch) && decide (v.r.team = c.team)
  if (Tab.find s.launches c.launch).isSome then some s
  else
    match (k.saved.flatMap (fun v => v.ranges)).find? is with
    | none => some s
    | some v =>
      (freeBase (1024 * (1536 - k.l1Kib) - k.exp) v.r.size k.ranges).map (fun b =>
        (s.putRange core v b).modCore core (fun k => { k with saved := k.saved.map (fun e => { e with ranges := e.ranges.filter (fun v => !is v) }) }))

/-- A copy takes a place: one that had one before goes on under its number, another falls out of its queue, and its flag falls (R293). -/
def State.acceptCopy (s : State) (core q : Nat) (n : NextCopy) : State :=
  let k := s.coreAt core
  let first (c : Copy) (t : State) : State :=
    let u := (t.modCore core (fun k => { k with
      copies := Tab.put k.copies k.copyNext { c with upto := if copyDir c.instr = 2 then c.total else 0 }, copyNext := k.copyNext + 1
      dlast := q })).modGrp c.g (fun g => g.flagDown c.flag)
    if c.total = 0 then u.copyDone core k.copyNext c else u
  match n with
  | .again i c => s.setCore core { k with copies := Tab.put k.copies i { c with away := false }, dlast := q }
  | .saved c => first c (s.setCore core { k with saved := k.saved.map (fun v => { v with dq := v.dq.erase c }) })
  | .queued c => first c (s.setCore core { k with dq := k.dq.modify q (fun (cs : List Copy) => cs.erase c) })

/-- COPY_ACCEPT (R293): round robin over the quarters, oldest first within one, while a place of the 16 is free. -/
def execCopyAccept (core quarter : Nat) (s : State) : Out :=
  .next (
    let k := s.coreAt core
    let order := (List.range 4).map (fun i => (k.dlast + 1 + i) % 4)
    match order.find? (fun q => (s.nextCopy core q).isSome) with
    | none => s
    | some q =>
      if q ≠ quarter ∨ 16 ≤ (k.copies.filter (fun p => !p.2.away)).length then s
      else
        match s.nextCopy core q with
        | none => s
        | some n =>
          match s.copyRange core n.copy with
          | none => s
          | some t => t.acceptCopy core q n)

/-- Window byte of a copy's side. -/
def State.copyLoc (s : State) (core : Nat) (c : Copy) (a : Nat) : Option (Nat × Nat) := s.winLocOf core c.ctx c.launch c.team a

/-- Chunks from `q` on whose page is that of chunk `q`, in its row. -/
def Copy.samePage (c : Copy) (q fuel : Nat) : Nat :=
  match fuel with
  | 0 => q + 1
  | f + 1 =>
    if c.total ≤ q + 1 ∨ (q + 1) % rowChunks c.block = 0 ∨ (c.far (q + 1)).toNat % 4096 = 0 then q + 1
    else c.samePage (q + 1) f

/-- The record of a copy's faulting page (R298, 17 R370). -/
def State.copyRcd (s : State) (core k : Nat) (c : Copy) (f : XFault) (a : Dword) : Rcd :=
  { rcdInit with
    flags := (if f.walk then fWalk else 0) ||| (if f.bad then fBadEntry else 0) ||| (if c.nested then fNested else 0), cause := f.cause, stage := f.stage, level := f.level
    kind := 1, acc := if copyDir c.instr = 1 then 2 else 1, ctx := c.ctx, missCtx := f.missCtx, addr := a
    missPa := BitVec.ofNat 64 (if f.stage ≤ 1 then 0 else f.missPa), pc := c.pc, core := core, fidx := c.fidx
    opcode := match c.instr with | .cpy _ => 0xBA | .cpyt _ => 0xBB | _ => 0xBC
    w30 := match c.obj, c.tl with | some o, _ => o.setWidth 64 | none, some p => BitVec.ofNat 64 p.2 | none, none => 0
    w38 := BitVec.ofNat 32 (16 * c.upto)
    w3c := BitVec.ofNat 32 ((match c.tl with | some p => p.1 | none => 0) + (if c.obj.isSome then 4 else 0) + 8 * copyDir c.instr)
    subj := .copy core k, dest := s.faultDest f }

/-- Changes an accepted copy. -/
def State.putCopy (s : State) (core k : Nat) (c : Copy) : State := s.modCore core (fun q => { q with copies := Tab.put q.copies k c })

/-- The next page of a copy in copy order (R294, R298): translated, or the copy stops there once the earlier units have landed. -/
def State.copyWalk (s : State) (core k : Nat) : State :=
  match Tab.find (s.coreAt core).copies k with
  | none => s
  | some c =>
    if s.copyHeld c || c.faulted || decide (c.total ≤ c.upto) then s
    else
      let q := c.upto
      let el := q / rowChunks c.block
      let c1 := match c.instr with
        | .cpyx _ =>
          if el < c.idx.length then c
          else
            let w := match s.copyLoc core c (((blk c.block 5).toNat + 4 * el) % 2 ^ 32) with
              | some p => BitVec.ofNat 32 (leNat (s.winRead p.1 p.2 4))
              | none => 0
            { c with idx := c.idx ++ [w] }
        | _ => c
      let a := c1.far q
      let page := a.toNat / 4096
      let kind : AccK := if copyDir c.instr = 1 then .write else .read
      if c1.pages.any (fun p => decide (p.1 = page)) then s.putCopy core k { c1 with upto := c1.samePage q 256 }
      else
        match s.translate core c.ctx c.sup a kind with
        | .error e =>
          if c1.firstLeft < q then s
          else
            let t := (s.traced e.tr).putCopy core k { c1 with faulted := true }
            (t.raiseEvent c.ctx [t.copyRcd core k c1 e a]).modLaunch c.launch (fun l => { l with holds := l.holds + 1 })
        | .ok r =>
          let t := (s.xCommit core r).putCopy core k
            { c1 with pages := (page, r.pa / 4096 * 4096, r.void, r.path.map (fun a => a / 4096 * 4096)) :: c1.pages, upto := c1.samePage q 256 }
          if r.void then
            t.raiseEvent c.ctx [{ t.copyRcd core k c1 ⟨0, 0, 0, false, false, c.ctx, 0, XTrace.none⟩ a with
              kind := 7, cls := RecClass.world, cause := if kind.writes then 0x12 else 0x11, stage := (t.chain c.ctx).length + 1
              level := 0xFF, w30 := 0, w38 := 0, w3c := 0, subj := .other, dest := (t.ctxAt c.ctx).parent }]
          else t

/-- TRANSLATION_WALK (17 R360): the fault point of an operation, or the next page of a copy. -/
def execTranslationWalk (w : Walk) (s : State) : Out :=
  .next (match w with
    | .op gid n => s.withOp gid n (fun g o => s.opWalk gid n g o)
    | .copy core k => s.copyWalk core k)

/-- Is memory gone, or has its package no route left (24 R468)? -/
def State.unreached (s : State) (x pa : Nat) : Bool :=
  s.gone pa || (match reachOf s.pkg.id pa with | .remote pk => (s.portFor x pk pa).isNone | _ => false)

/-- A side of a chunk: memory, a frame of another world, or a window byte; none where the window is gone. -/
def State.copySide (s : State) (core : Nat) (c : Copy) (far : Bool) (q : Nat) : Option Loc :=
  if far && decide (copyDir c.instr ≠ 2) then
    let a := (c.far q).toNat
    (c.pages.find? (fun p => decide (p.1 = a / 4096))).map (fun p =>
      if p.2.2.1 then .void else if s.unreached c.ctx (p.2.1 + a % 4096) then .dead
      else .mem (p.2.1 + a % 4096) p.2.2.2)
  else (s.copyLoc core c (if far then (c.far q).toNat else c.near q)).map (fun p => .win p.1 p.2)

/-- The port that a unit's first byte goes over. -/
def State.copyPort (s : State) (core : Nat) (c : Copy) (q : Nat) : Option Nat :=
  match s.copySide core c true q with
  | some (.mem pa _) => (match reachOf s.pkg.id pa with | .remote pk => s.portFor c.ctx pk pa | _ => none)
  | _ => none

/-- What a unit's way out of the package does: a flit, or the answer of the completer of last resort, with its record (24 R463, R468). -/
def State.copyOut (s : State) (core : Nat) (c : Copy) (q : Nat) : State :=
  match s.copySide core c true q with
  | some .dead =>
    let a := (c.far q).toNat
    let pa := match c.pages.find? (fun p => decide (p.1 = a / 4096)) with | some p => p.2.1 + a % 4096 | none => 0
    let t := s.fenceLog (coreDie core) c.ctx pa (if copyDir c.instr = 1 then 1 else 0)
    (match reachOf s.pkg.id pa with
     | .remote pk => if s.gone pa then t else t.linkFault c.ctx 0xFF pk 1 1
     | _ => t)
  | some (.mem _ _) => (match s.copyPort core c q with | some i => s.setPort i (s.portAt i).send | none => s)
  | _ => s

/-- The 16 bytes of a chunk's source and the poison of its two words: memory at its home slice (R294, R297). -/
def State.readChunk (s : State) (l : Loc) : (List Byte × Bool × Bool) × State :=
  match l with
  | .void => ((List.replicate 16 0, false, false), s)
  | .dead => ((List.replicate 16 0, true, true), s)
  | .mem pa _ => let t := s.l2Touch pa
               ((t.homeRead pa 16, t.memPoisoned pa 8, t.memPoisoned (pa + 8) 8), t)
  | .win w k => ((s.winRead w k 16, s.winPoisoned w k 8, s.winPoisoned w (k + 8) 8), s)

/-- Writes a chunk (R294): for memory the issuing core's dirty bytes of the line go home first and its copy is dropped. -/
def State.writeChunk (s : State) (core : Nat) (c : Copy) (va : Dword) (l : Loc) (v : List Byte × Bool × Bool) : State :=
  match l with
  | .void => s
  | .dead => s
  | .mem pa path =>
    let h : How := ⟨core, c.ctx, c.sup, false, false, 0, c.pc, path⟩
    let t := (s.flushLine h (va48 va)).homeWrite pa v.1 false
    let u := if v.2.1 then t.poisonMem pa else t
    let w := if v.2.2 then u.poisonMem (pa + 8) else u
    w.trackPath (s.chain c.ctx) path
  | .win w k =>
    let t := s.winWrite w k v.1
    let u := if v.2.1 then t.poisonWin w k else t
    if v.2.2 then u.poisonWin w (k + 8) else u

/-- Lands one chunk; a side that is gone drops it (its team's window went with a pre-emption that never resumed). -/
def State.landChunk (s : State) (core : Nat) (c : Copy) (q : Nat) : State :=
  let toNear := decide (copyDir c.instr ≠ 1)
  match s.copySide core c toNear q, s.copySide core c (!toNear) q with
  | some src, some dst =>
    let r := s.readChunk src
    r.2.writeChunk core c (c.far q) dst r.1
  | _, _ => s

/-- May the units of a copy begin: those of a copy on an object follow the group's earlier accesses of it (R296). -/
def State.copyMay (s : State) (core : Nat) (c : Copy) : Bool :=
  match c.obj with
  | none => true
  | some a => match s.copyLoc core c a.toNat with
    | some p => !s.objBusy (s.grp c.g) c.after p.1 p.2
    | none => true

/-- COPY_UNIT_LANDING (R294 to R297): the unit at chunk `q` lands, then counts on the object; the last one completes the copy. The units
of a scatter land in copy order, so that the highest element's bytes stay. -/
def execCopyUnitLanding (core k q : Nat) (s : State) : Out :=
  .next (match Tab.find (s.coreAt core).copies k with
    | none => s
    | some c =>
      let u := c.unit q
      let scatter := match c.instr with | .cpyx x => decide (x.d = 1#2) | _ => false
      if s.copyHeld c || decide (c.upto < q + u.length) || !unitStarts c.instr c.block c.idx q || c.landed.contains q || !s.copyMay core c
          || (scatter && decide (q ≠ c.count))
          || (match s.copyPort core c q with | some i => !(s.portAt i).maySend | none => false) then s
      else
        let t := (u.foldl (fun (t : State) j => t.landChunk core c j) s).copyOut core c q
        let c1 := { c with landed := q :: c.landed, count := c.count + u.length }
        let v := match c.obj with
          | some a => (match t.copyLoc core c a.toNat with | some p => t.objLand p.1 p.2 (16 * u.length) | none => t)
          | none => t
        if c1.count = c.total then v.copyDone core k c else v.putCopy core k c1)

end Sys2Proof.Machine
end

