-- ==== Sys2Proof/Machine/RoastIns.lean ====
section
/-! DEFINITION. FREEZE.G and FREEZE.T (10 R251 to R262): capturing, sealing and pouring roasts, and the references of R261. -/
namespace Sys2Proof.Machine

/-! ### What a roast holds -/

/-- One group's part of a roast (R255), resuming at `after`. -/
def Grp.roastPart (g : Grp) (after : Pos) (froze : Bool × Bool) : RoastPart := {
  rs := g.rs, written := g.written, poison := g.poison, nlines := g.nlines, s := g.s, spoison := g.spoison, p := g.p, k := g.k
  coef := g.coef, view := g.view, pstate := g.pstate, pos := after, tln := g.tln, froze := froze
  parkns := g.parkns, adopt := g.adopt, tvec := g.tvec, tcause := g.tcause, tmask := g.tmask, tprev := g.tprev, tfault := g.tfault }

/-- The written lines become lines of roast `ro`; a line still shared with another roast keeps its home there (R258, R260). -/
def Grp.shareLines (g : Grp) (ro : Nat) : Grp :=
  { g with shared := g.written.foldl (fun t n => if (Tab.find t n).isSome then t else Tab.put t n ro) g.shared }

/-- Groups of a launch's prologue team that are created at its start (R250). -/
def LRec.prologue (r : LRec) : Nat := if r.tT then 1 else r.groups

/-- The window range of a team on a core, with the window bytes and poisoned words that hold it: the core's, or what a pre-emption has saved of it (11 R278). -/
def Core.rangeOf (k : Core) (lid team : Nat) : Option (LocalRange × Sparse 8 × List Nat) :=
  let mine (e : LocalRange) : Bool := decide (e.launch = lid) && decide (e.team = team)
  match k.ranges.find? mine with
  | some e => some (e, k.win, k.winPoison)
  | none => ((k.saved.flatMap (fun v => v.ranges)).find? (fun v => mine v.r)).map (fun v => (v.r, v.win, v.poison))

/-- The template window of the prologue team (R255): bytes and poisoned words by position in its set of cores. -/
def State.captureWindow (s : State) (lid : Nat) (wmark : Nat) (ro : Roast) : Roast :=
  s.cores.foldl (fun (r : Roast) c =>
    match c.2.rangeOf lid 0 with
    | none => r
    | some (e, win, poison) => { r with
        win := Tab.put r.win e.place (Sparse.getList win e.base (256 * wmark))
        winPoison := Tab.put r.winPoison e.place
          ((poison.filter (fun w => decide (e.base ≤ 8 * w) && decide (8 * w < e.base + 256 * wmark))).map (fun w => w - e.base / 8)) }) ro

/-! ### Pouring -/

/-- Pours the groups of a team that its own roast gives (R250, R256). -/
def State.pourTeam (s : State) (lid team : Nat) : State :=
  match (Tab.find s.launches lid).bind (fun l => Tab.find l.teams team) with
  | none => s
  | some t =>
    match t.roast with
    | none => s
    | some ro =>
      match (Tab.find s.roasts ro).bind (fun r => Tab.find r.parts 0) with
      | none => s
      | some p =>
        let src := match Tab.find t.groups 0 with | some g => (s.grp g).shared | none => []
        t.toPour.foldl (fun u k => u.pourGroup lid team k p (fun n => Tab.findD src n ro) 1) s

/-- Starts and pours what the launch's teams still lack, where its sealed roasts give it, while it runs (R250, R264; 11 R275). -/
def State.pourDue (s : State) (lid : Nat) : State :=
  match Tab.find s.launches lid with
  | none => s
  | some l =>
    if l.st ≠ .running then s
    else
      l.teams.foldl (fun u t =>
        (u.startTeam lid t.1).pourTeam lid t.1) s

/-! ### The instructions -/

/-- R252 for FREEZE at a level; `g` executes it. -/
def freezeIllegal (l : Launch) (g : Grp) (t : Bool) : Bool :=
  g.inHandler
    || (if t then !l.r.tT || decide (g.idx ≠ 0) || g.froze.2 else !l.r.tG || decide (g.team ≠ 0) || g.froze.1 || g.froze.2)

/-- R253. -/
def freezeBusy (l : Launch) (g : Grp) (f : Frag) : Bool :=
  g.f1.isSome || !g.split.isEmpty || decide (f.mask ≠ g.gmask) || !g.drained
    || (List.range 5).any (fun i => decide ((g.tlDone i).toNat < (g.tlLast i).toNat)) || g.inBody
    || (g.overs && l.r.tG && l.r.tT)

/-- The last group of the prologue team has passed: the grid roast is sealed and the stalls of the team end (R254). -/
def State.sealGrid (s : State) (lid ro : Nat) (l : Launch) : State :=
  match Tab.find s.roasts ro with
  | none => s
  | some r =>
    let t := { s with
      roasts := Tab.put s.roasts ro { s.captureWindow lid l.r.wmark r with sealed := true }
      groups := s.groups.map (fun (p : Nat × Grp) => if p.2.launch = lid ∧ p.2.team = 0 then (p.1, { p.2 with stalled := false }) else p) }
    t.pourDue lid

/-- FREEZE.G (R252 to R254): a group that passed it goes on after the seal with an acquire (R262). -/
def execFreezeG (x : Z) (s : State) : Out :=
  issue (.freezeG x) s (fun _ _ => 0) (fun s g f =>
    let gid := s.iss.g
    let goOn (t : State) : State :=
      let u := t.acquire gid 4
      u.finish (u.grp gid)
    if f.wait = .freeze then (if g.stalled then s else goOn s)
    else
      match Tab.find s.launches g.launch with
      | none => s.trapHere 0x01 0
      | some l =>
        if freezeIllegal l g false then s.trapHere 0x01 0
        else if freezeBusy l g f then s.trapHere 0x0C 0
        else
          match l.roast with
          | none => s.trapHere 0x01 0
          | some ro =>
            s.withRelease g 4 (fun s =>
              let g := s.grp gid
              let r := Tab.findD s.roasts ro ⟨g.launch, false, [], [], [], none⟩
              let parts := Tab.put r.parts g.idx (g.roastPart s.iss.after (true, g.froze.2))
              let t := { s with roasts := Tab.put s.roasts ro { r with parts := parts } }
              let u := t.setGrp gid { g.shareLines ro with froze := (true, g.froze.2), stalled := true }
              if parts.length < l.r.prologue then u.waitHere .freeze
              else goOn (u.sealGrid g.launch ro l)))

/-- FREEZE.T (R252 to R254). -/
def execFreezeT (x : Z) (s : State) : Out :=
  issue (.freezeT x) s (fun _ _ => 0) (fun s g f =>
    let gid := s.iss.g
    match Tab.find s.launches g.launch with
    | none => s.trapHere 0x01 0
    | some l =>
      if freezeIllegal l g true then s.trapHere 0x01 0
      else if freezeBusy l g f then s.trapHere 0x0C 0
      else
        s.withRelease g 1 (fun s =>
          let g := s.grp gid
          let ro := s.nextRoast
          let part := g.roastPart s.iss.after (g.froze.1, true)
          let t := { s with
            roasts := Tab.put s.roasts ro ⟨g.launch, true, [(0, part)], [], [], if l.r.tG then l.roast else none⟩
            nextRoast := ro + 1 }
          let u := (t.setGrp gid { g.shareLines ro with froze := (g.froze.1, true) }).modLaunch g.launch (fun l =>
            { l with teams := l.teams.map (fun e => if e.1 = g.team then (e.1, { e.2 with roast := some ro }) else e) })
          let v := u.pourDue g.launch
          v.finish (v.grp gid)))

/-! ### References (R261) -/

/-- Does a group hold a reference to the grid roast of its launch? -/
def gridRef (l : Launch) (g : Grp) : Bool := !(l.r.tT && decide (g.idx ≠ 0))

/-- How many references a roast has: a team roast its source and poured groups; a grid roast the groups of its launch cloned from
or captured in it, the team roasts made from it, and, unless the launch is cooperative, the teams not yet poured. -/
def State.roastRefs (s : State) (ro : Nat) : Nat :=
  match Tab.find s.roasts ro with
  | none => 0
  | some r =>
    match Tab.find s.launches r.launch with
    | none => 0
    | some l =>
      let gs := s.groups.filter (fun p => decide (p.2.launch = r.launch))
      if l.roast = some ro then
        (gs.filter (fun p => gridRef l p.2)).length + (s.roasts.filter (fun p => decide (p.2.base = some ro))).length
          + (if l.aborted || l.r.coop then 0 else (l.r.teams - l.next) + (l.teams.filter (fun t => t.2.toPour.contains 0)).length)
      else
        let ts := l.teams.filter (fun t => decide (t.2.roast = some ro))
        (gs.filter (fun p => ts.any (fun t => decide (t.1 = p.2.team)))).length

/-- Does a team that is admitted still wait to be poured from the sealed roast (11 R275)? -/
def State.pourWaits (s : State) (ro : Nat) (r : Roast) : Bool :=
  match Tab.find s.launches r.launch with
  | some l => decide (l.roast = some ro) && r.sealed && !l.aborted && l.teams.any (fun t => t.2.toPour.contains 0)
  | none => false

/-- Storage of a roast in a launch's reservation (R257): its parts and the template window; with both templates the one part of the grid roast lies in the share of
team 0's roast. -/
def Roast.bytes (r : Roast) (q : LRec) : Nat :=
  let parts := r.parts.foldl (fun a p => a + 128 * p.2.nlines) 0
  if r.base.isNone && q.tG then (if q.tT then 0 else parts) + 256 * q.wmark else parts

/-- Frees the roasts that have no reference left: their storage is free again (R261). -/
def State.freeRoastsOnce (s : State) : State :=
  let gone := s.roasts.filter (fun p => decide (s.roastRefs p.1 = 0) && !s.pourWaits p.1 p.2)
  if gone.isEmpty then s
  else
    { s with
      roasts := s.roasts.filter (fun p => gone.all (fun q => decide (q.1 ≠ p.1)))
      launches := s.launches.map (fun l =>
        (l.1, { l.2 with roastFree := (gone.filter (fun p => decide (p.2.launch = l.1))).foldl (fun a p => a + p.2.bytes l.2.r) l.2.roastFree })) }

/-- The same with the roasts that a team roast was made from. -/
def State.freeRoasts (s : State) : State := s.freeRoastsOnce.freeRoastsOnce

end Sys2Proof.Machine
end

