-- ==== Sys2Proof/Machine/Lifecycle.lean ====
section
/-! DEFINITION. How groups park, return, retire and end (01 R32 to R37; 05 R150; 10 R254; 14 R333, R334; 18 R390, R391), and how
launches complete (18 R380; 19 R398, R431). -/
namespace Sys2Proof.Machine

/-! ### What a launch leaves on a core -/

/-- The records of the held lines of a launch's context on a core (07 R199): the launch is named, its completion waits. -/
def State.launchWbRcds (s : State) (core lid : Nat) (l : Launch) (ls : List L1Line) : State :=
  match ls with
  | [] => s
  | ln :: rest =>
    match s.writeBackLine core l.r.priv ln with
    | .ok _ => s.launchWbRcds core lid l rest
    | .error e =>
      let r : Rcd := { rcdInit with
        flags := (if e.walk then fWalk else 0) ||| (if e.bad then fBadEntry else 0), cause := e.cause, stage := e.stage
        level := e.level, kind := 3, acc := 2, ctx := l.ctx, missCtx := e.missCtx
        addr := (BitVec.ofNat 48 ln.va).signExtend 64, missPa := BitVec.ofNat 64 (if e.stage ≤ 1 then 0 else e.missPa)
        core := 0xFFFF, w30 := BitVec.ofNat 64 l.id, subj := .launchWb lid core ln.va, dest := s.faultDest e }
      (((s.traced e.tr).raiseEvent l.ctx [r]).modLaunch lid (fun l => { l with holds := l.holds + 1 })).launchWbRcds core lid l rest

/-- When the last group of a launch leaves a core, its context's dirty L1 lines are written back (07 R199). -/
def State.launchLeaves (s : State) (core lid : Nat) : State :=
  match Tab.find s.launches lid with
  | none => s
  | some l =>
    if (s.coreGroups core).any (fun p => decide (p.2.launch = lid)) then s
    else
      let t := (s.releaseL1 core l.ctx l.r.priv).1
      t.launchWbRcds core lid l ((t.coreAt core).l1.filter (fun ln => decide (ln.ctx = l.ctx) && ln.held && decide (ln.dirty ≠ 0)))

/-! ### Leaving the machine -/

/-- A core lets go of a group: its file entries, and where it was ended its matrix work and percolation runs. A loop or run of a group that has retired goes on to its
end, for nothing (R37; 08 R227, 09 R246). -/
def Core.forget (k : Core) (gid : Nat) (ended : Bool) : Core :=
  let keep (p : Nat × Nat) : Bool := decide (p.1 ≠ gid) || !ended
  let keepL (l : Loop) : Bool := decide (l.g ≠ gid) || !ended
  let k1 := if ended then k.dropPerc gid else k
  { k1 with
    mq := k1.mq.map (fun q => q.filter keep), loops := k1.loops.filter keepL, lq := k1.lq.filter keepL
    unit := match k1.unit with | some u => if u.g = gid ∧ ended = true then none else some u | none => none
    file := k1.file.filter (fun e => decide (e.1 ≠ gid))
    pools := k1.pools.map (fun p => { p with grows := p.grows.filter (fun g => decide (g ≠ gid)) })
    saved := k1.saved.map (fun v => { v with
      mq := v.mq.filter keep, loops := v.loops.filter keepL, percs := v.percs.filter (fun p => decide (p.g ≠ gid) || !ended) }) }

/-- A team with no group and none to be poured has retired (R380); a spawned team's join counter rises (18 R384). -/
def State.teamDone (s : State) (lid team : Nat) : State :=
  match Tab.find s.launches lid with
  | none => s
  | some l =>
    match Tab.find l.teams team with
    | none => s
    | some t =>
      if t.groups.isEmpty && t.toPour.isEmpty then
        let u := s.modLaunch lid (fun l => { l with teams := Tab.drop l.teams team, done := l.done + 1 })
        match l.join with
        | some pa => if l.aborted then u else u.homeSetDword pa ((u.homeDword pa + 1) % 2 ^ 64)
        | none => u
      else s

/-- The calls of a group that is ended: their replies are discarded (18 R393). -/
def State.loseCalls (s : State) (gid : Nat) : State :=
  let lose (e : CallEntry) : CallEntry := if e.g = gid then { e with lost := true } else e
  { s with
    dies := s.dies.map (fun d => { d with calls := d.calls.map lose, serving := d.serving.map lose })
    ctxs := s.ctxs.map (fun c => (c.1, { c.2 with calls := c.2.calls.map (fun p => (p.1, lose p.2)) })) }

/-- A group is gone, as one that retired or one that was ended: its lines are freed (06 R166), its pending launches stay (R37), its team may have retired. -/
def State.dropGroup (s : State) (gid : Nat) (ended : Bool) : State :=
  match Tab.find s.groups gid with
  | none => s
  | some g =>
    let t := { s with groups := Tab.drop s.groups gid, barriers := s.barriers.filter (fun b => decide (b.1 ≠ gid)) }
    let u := (t.modCore g.core (fun k => k.forget gid ended)).modDie (coreDie g.core) (fun d => { d with orphans := d.orphans ++ g.pend })
    let v := u.modLaunch g.launch (fun l =>
      { l with teams := l.teams.map (fun e => if e.1 = g.team then (e.1, { e.2 with groups := Tab.drop e.2.groups g.idx }) else e) })
    (((v.sweepTeam g.core g.launch g.team).launchLeaves g.core g.launch).teamDone g.launch g.team).freeRoasts

/-- Ends a group (R150, 14 R333): a body's lock is descheduled as long since. -/
def State.endGroup (s : State) (gid : Nat) : State := ((s.capStop gid true).loseCalls gid).dropGroup gid true

/-- Ends a launch (R150, 10 R254): no further team or group, and every group it has is ended; it completes as ABORTED. -/
def State.endLaunch (s : State) (lid : Nat) : State :=
  match Tab.find s.launches lid with
  | none => s
  | some l =>
    let t := s.modLaunch lid (fun l => { l with
      aborted := true, st := .aborting, next := l.r.teams, teams := l.teams.map (fun e => (e.1, { e.2 with toPour := [] })) })
    let u := (t.groups.filter (fun p => decide (p.2.launch = lid))).foldl (fun (u : State) p => u.endGroup p.1) t
    let v := l.teams.foldl (fun (v : State) e => (e.2.cores.foldl (fun (w : State) c => w.sweepTeam c lid e.1) v).teamDone lid e.1) u
    { v with cores := v.cores.map (fun (c : Nat × Core) => (c.1, { c.2 with
        saved := c.2.saved.filter (fun x => decide (x.launch ≠ lid) || !x.dq.isEmpty)
        loops := c.2.loops.filter (fun l => decide (l.launch ≠ lid)), lq := c.2.lq.filter (fun l => decide (l.launch ≠ lid))
        perc := c.2.perc.filter (fun p => decide (p.launch ≠ lid)), percq := c.2.percq.filter (fun p => decide (p.launch ≠ lid)) })) }
      |>.freeRoasts

/-! ### Retirement -/

/-- The conditions of R37 (the held fragments of R143 are those of deferred entries). -/
def Grp.mayRetire (g : Grp) : Bool :=
  g.f0.isNone && g.f1.isNone && g.split.isEmpty && (List.range 12).all (fun i => decide (g.flagVal i = 0))
    && (List.range 4).all (fun i => decide (Sparse.get g.paths i = 0)) && g.deferred.isEmpty && g.raised.isEmpty && g.preQueue.isEmpty
    && g.frame.isNone && !g.escalated && g.life.onCore

/-- RETIRE (R37). A group of the prologue that has not passed FREEZE.G ends its launch (10 R254). -/
def execRetire (gid : Nat) (s : State) : Out :=
  .next (match Tab.find s.groups gid with
    | none => s
    | some g =>
      if !g.mayRetire then s
      else
        let t := s.dropGroup gid false
        match Tab.find s.launches g.launch with
        | some l => if l.r.tG && decide (g.team = 0) && !g.froze.1 then t.endLaunch g.launch else t
        | none => t)

/-! ### Parking -/

/-- Does a fragment of the group wait for a service reply (R390)? -/
def Grp.atService (g : Grp) : Bool := g.allFrags.any (fun p => match p.2.wait with | .service n => decide (n ≠ 0) | _ => false)

/-- The calls of a launch whose replies are out: group and tl6 number in one number. -/
def callKey (g n : Nat) : Nat := g * 2 ^ 64 + n

def State.openCalls (s : State) (lid : Nat) : List Nat :=
  let f (cs : List CallEntry) : List Nat := (cs.filter (fun c => decide (c.launch = lid))).map (fun c => callKey c.g c.n)
  s.dies.flatMap (fun d => f d.calls ++ f d.serving) ++ s.ctxs.flatMap (fun x => f (x.2.calls.map (fun p => p.2)))

/-- The signal that pre-empts a launch (19 R404, R407; 11 R277): its reservations lapse, its hold or stagger ends. -/
def State.signal (s : State) (lid : Nat) : State :=
  let t := s.modLaunch lid (fun l => if l.st = .running then { l with st := .preempted, held := false, sliceAt := none } else l)
  { t with dies := t.dies.map (fun d => { d with
      starts := d.starts.filter (fun p => decide (p.1 ≠ lid)), reserved := d.reserved.filter (fun p => decide (p.2 ≠ lid)) }) }

/-- The service-call threshold of R391, tested as a group parks at SVC.D. -/
def State.threshold (s : State) (lid : Nat) : State :=
  match Tab.find s.launches lid with
  | none => s
  | some l =>
    let gs := s.groups.filter (fun p => decide (p.2.launch = lid) && (p.2.life.onCore || decide (p.2.life = .parked)))
    let p := (gs.filter (fun p => decide (p.2.life = .parked) && p.2.atService)).length
    if l.thEn && decide (l.th * gs.length < 256 * p) && decide (l.st = .running) then
      (s.modLaunch lid (fun l => { l with calls := s.openCalls lid })).signal lid
    else s

/-- Has the group waited long enough to park (R33), or at SVC.D at once (R390)? -/
def State.parkDue (s : State) (g : Grp) : Bool :=
  decide (g.life = .waiting) && (g.escalated || (g.deferred.isEmpty && g.raised.isEmpty && !s.canIssue g && g.allFrags.all (fun p => s.wouldWait g p.2)))
    && (g.atService || (decide (g.parkns ≠ 0xFFFFFFFF#32) && decide (g.parkns.toNat ≤ s.clockOf g.core - g.waitAt)))

/-- PARK (R34). -/
def execPark (gid : Nat) (s : State) : Out :=
  .next (match Tab.find s.groups gid with
    | none => s
    | some g =>
      if !s.parkDue g then s
      else
        let t := (s.setGrp gid { g with life := Life.parked, parkcnt := g.parkcnt + 1 }).capStop gid false
        if g.atService then t.threshold g.launch else t)

/-- Is something met for which a parked group returns (R36, R150)? -/
def State.returnDue (s : State) (g : Grp) : Bool :=
  decide (g.life = .parked) && s.runs g.ctx
    && (match Tab.find s.launches g.launch with | some l => decide (l.st ≠ .preempted) | none => true)
    && (if g.escalated then decide (g.replies = 0)
        else !g.raised.isEmpty || s.canIssue g || (s.eligible g).isSome || Grp.mayRetire { g with life := Life.resident })

/-- The check of a body on its return (14 R334); a handler's group is checked at its TRET. -/
def State.bodyReturn (s : State) (gid : Nat) : State × Bool :=
  let g := s.grp gid
  if g.inHandler || g.escalated then (s, true) else s.capReturn gid

/-- A group that returns with the phase of its REGX complete resizes before any other instruction of it issues, and its grow stands behind the grows already stalled
(06 R169). -/
def State.regrow (s : State) (gid : Nat) : State :=
  let g := s.grp gid
  if g.allFrags.any (fun p => match p.2.wait with | .regx a b n => s.waitMet g (.regx a b n) | _ => false) then
    let p := s.poolOf g
    let t := s.setGrp gid { g with resizeFirst := true }
    if p.grows.contains gid then t.setPool g.core { p with grows := p.grows.filter (fun k => decide (k ≠ gid)) ++ [gid] } else t
  else s

/-- PARK_RETURN (R36): the lowest free slot. -/
def execParkReturn (gid : Nat) (s : State) : Out :=
  .next (match Tab.find s.groups gid with
    | none => s
    | some g =>
      if !s.returnDue g then s
      else
        match (List.range 128).find? (fun n => !(s.roomOf g.core g.ctx).slots.contains n) with
        | none => s
        | some n => (((s.setGrp gid { g with life := Life.resident, slot := n }).bodyReturn gid).1).regrow gid)

/-! ### Completion of a launch -/

/-- Is the launch's work over (R380)? -/
def State.launchOver (s : State) (lid : Nat) (l : Launch) : Bool :=
  decide (l.holds = 0)
    && (if l.refused then true else if l.aborted then !s.groups.any (fun p => decide (p.2.launch = lid)) else decide (l.r.teams ≤ l.done))

/-- Is an earlier submission of the same queue not complete (19 R431)? -/
def State.earlierOpen (s : State) (l : Launch) : Bool :=
  match l.queue with
  | none => false
  | some (q, i) => s.journal.any (fun j => decide (j.1 = l.ctx) && decide (j.2.1 = q) && decide (j.2.2.1 < i))

/-- A translation that the launch processor or firmware makes for a context (17 R360). -/
def State.walkVa (s : State) (die x : Nat) (sup : Bool) (va : Dword) (k : AccK) : Except XFault XOk :=
  if canonical va then s.walk die x sup (va48 va) k else .error ⟨0x10, 1, 0xFF, false, false, x, 0, XTrace.none⟩

/-- A service core has written at virtual address `va` of context `x` (17 R368). -/
def State.trackVa (s : State) (x va : Nat) : State :=
  match s.walkVa 0 x true (BitVec.ofNat 64 va) .write with
  | .error _ => s
  | .ok r => s.trackPath (s.chain x) r.path

/-- Steps 1 and 2 of R380 on a completion block, under a context: `last` is 0 for OK. -/
def State.completeBlock (s : State) (die x : Nat) (sup : Bool) (cblk : Dword) (inc last : Nat) : State :=
  if cblk = 0 ∨ cblk.toNat % 16 ≠ 0 then s
  else
    match s.walkVa die x sup cblk .atomic with
    | .error e => s.traced e.tr
    | .ok r =>
      if r.void then s.traced r.tr
      else
        let t := s.traced r.tr
        let u := if last = 0 then t
                 else (t.homeSetWord (r.pa + 8) ((t.homeWord (r.pa + 8) + 1) % 2 ^ 32)).homeWrite (r.pa + 12) (leBytes 1 last) true
        (u.homeSetDword r.pa ((u.homeDword r.pa + inc) % 2 ^ 64)).trackPath (s.chain x) r.path

/-- The descriptor of a virtual queue (19 R395), at its system physical address. -/
def State.queuePa (s : State) (die x q : Nat) : Option Nat :=
  match s.walkVa die x true (BitVec.ofNat 64 ((s.ctxAt x).qtab + 64 * q)) .write with
  | .ok r => if r.void then none else some r.pa
  | .error _ => none

/-- Adds 1 to a queue's deadline-miss counter (19 R402). -/
def State.countMiss (s : State) (die x q : Nat) : State :=
  match s.queuePa die x q with
  | some pa => s.homeSetDword (pa + 0x28) ((s.homeDword (pa + 0x28) + 1) % 2 ^ 64)
  | none => s

/-- The launcher's tl5 (R380 step 3): discarded when the launcher has retired. -/
def State.launcherDone (s : State) (l : Option (Nat × Nat)) : State :=
  match l with
  | some (g, n) => s.modGrp g (fun k => k.tlComplete 5 n)
  | none => s

/-- Changes the hardware slot that holds a queue. -/
def State.modSlotOf (s : State) (x q : Nat) (f : QSlot → QSlot) : State :=
  { s with dies := s.dies.map (fun d => { d with slots := d.slots.map (fun k =>
      if k.st ≠ .free ∧ k.ctx = x ∧ k.q = q then f k else k) }) }

/-- The steps of R380 for an accepted launch, which then is gone. -/
def State.finishLaunch (s : State) (lid : Nat) (l : Launch) (last : Nat) : State :=
  let t := (s.completeBlock l.die l.ctx l.r.priv l.r.cblk l.r.inc last).launcherDone l.launcher
  let u := match l.queue with
    | some (q, i) =>
      let late := match l.deadline with | some d => decide (l.r.cls = 2) && decide (d < (s.dieAt l.die).clock) | none => false
      let v := if late then t.countMiss l.die l.ctx q else t
      { v.modSlotOf l.ctx q (fun k => { k with completed := k.completed + 1, inFlight := k.inFlight - 1 }) with
        journal := v.journal.filter (fun j => !(decide (j.1 = l.ctx) && decide (j.2.1 = q) && decide (j.2.2.1 = i))) }
    | none => t
  let v := { u with launches := Tab.drop u.launches lid }.modDie l.die (fun d => { d with
    starts := d.starts.filter (fun p => decide (p.1 ≠ lid)), reserved := d.reserved.filter (fun p => decide (p.2 ≠ lid)) })
  { v with roasts := v.roasts.filter (fun r => decide (r.2.launch ≠ lid)) }

/-- LAUNCH_COMPLETION (R380, R431). -/
def execLaunchCompletion (lid : Nat) (s : State) : Out :=
  .next (match Tab.find s.launches lid with
    | none => s
    | some l => if s.launchOver lid l && !s.earlierOpen l then s.finishLaunch lid l (if l.refused then 1 else if l.aborted then 2 else 0) else s)

end Sys2Proof.Machine
end

