-- ==== Sys2Proof/Machine/Capsule.lean ====
section
/-! DEFINITION. The capsule instructions CAPB, CSTEP, CAPE and CRES and the steps of their own (14 R331 to R339). -/
namespace Sys2Proof.Machine

/-! ### CAPB (R331, R332) -/

/-- Is the record at `pa` valid (R327)? -/
def State.capValid (s : State) (pa : Nat) : Bool :=
  let w := s.lock pa
  decide (w.extractLsb' 40 8 = 0#8) && !w.getLsbD 32 && decide (2 ≤ (lwScope w).toNat) && decide ((lwScope w).toNat ≤ 5)
    && decide (s.homeWord (pa + 8) ≤ 31) && decide (s.homeDword (pa + 0x78) = 0) && decide (s.homeWord (pa + 0x70) % 4 = 0)
    && (List.range 32).all (fun i => decide (s.homeWord (pa + 0x80 + 4 * i) % 4 = 0))

/-- A fresh take (R332): the lock word, step 0, the owner and the checkpoint; the group is HOLD in the body of step 0. -/
def State.capTake (s : State) (gid pa : Nat) (rcd : Dword) (here : Pos) : State :=
  let g := s.grp gid
  let w := s.lock pa
  let gen := lwGen w + 1
  let t := ((((s.setLock pa (lockWord gen (lwScope w) false false false true g.me)).homeSetWord (pa + 8) 0).homeSetWord
    (pa + 0x74) g.me.toNat)).homeSetWords (pa + 0x20) g.capRegs
  let c := { g.cap with rcd := rcd, gen := gen, exit := s.capExit pa, capb := here, step := 0, count := 0, loads := 0, st := .hold
                        body := true, busy := false }
  t.setGrp gid (({ g with cap := c }).redirect (s.capEntry pa 0))

/-- An attempt of the CAPB being issued on the record at `pa` (R332): it takes or adopts the lock, after the test of the targets, or
waits. -/
def State.capTry (s : State) (g : Grp) (f : Frag) (rcd : Dword) (pa : Nat) : State :=
  let w := s.lock pa
  let gid := s.iss.g
  let adopt := lwActive w && lwDesched w && s.adoptDue g pa
  if lwActive w && !adopt then s.waitHere (.lock rcd)
  else
    let step := if adopt then s.homeWord (pa + 8) else 0
    match s.testAll true g [s.capEntry pa step, s.capExit pa] none with
    | ((_, some (e, a)), u) => u.trapFetch e s.iss.pc a s.iss.opcode
    | ((true, none), u) => u.trapHere 0x03 0
    | ((false, none), u) =>
      let v := if adopt then
          (u.modGrp gid (fun (k : Grp) => { k with cap := { k.cap with rcd := rcd, capb := f.pos } })).capAdopt gid pa .adopting true
        else u.capTake gid pa rcd f.pos
      v.acquire gid (lwScope w).toNat

/-- The core's own copies of a record go to its home, so that the lock's steps see them (13 R308). -/
def State.capFlush (s : State) (g : Grp) (rcd : Dword) : State :=
  let h := g.capHow 0 2
  (s.flushLine h (va48 rcd)).flushLine h (va48 rcd + 128)

/-- Does CAPB read a poisoned word of the record at `pa` (R339)? Its checks and a take read the lock word, the step counter, the code address, the offsets and the
owner id; a test for adoption reads the DESCHED time, and an adoption the checkpoint. -/
def State.capbPoison (s : State) (g : Grp) (pa : Nat) : Bool :=
  let w := s.lock pa
  s.memPoisoned pa 16 || s.memPoisoned (pa + 0x18) 8 || s.memPoisoned (pa + 0x70) 144
    || (lwActive w && lwDesched w && (s.memPoisoned (pa + 0x10) 8 || (s.adoptDue g pa && s.memPoisoned (pa + 0x20) 64)))

/-- CAPB. A record in a frame of another world reads as zeros (22 R442), which is no valid record. -/
def execCapb (x : Xn) (s : State) : Out :=
  issue (.capb x) s (fun g f => g.guarded f x.k) (fun s g f =>
    let a := g.scalarPair x.n.toNat
    if !g.upred x.k.toNat then s.finish g
    else if a.toNat % 256 ≠ 0 then s.trapAddr .atomic ⟨0, a, 0x09, false, none⟩
    else
      match s.translate g.core g.ctx g.sup a .atomic with
      | .error e => s.trapAddr .atomic ⟨0, a, e.cause, false, some e⟩
      | .ok r =>
        let t := (s.xCommit g.core r).capFlush g a
        if r.void then (t.worldRcds g .atomic s.iss.pc s.iss.opcode [⟨0, a, 0x10, false, none⟩]).trapHere 0x0D 0
        else if t.capbPoison g r.pa then t.trapHere 0x08 0
        else if g.cap.st ≠ .idle ∨ g.f1.isSome = true ∨ g.split.isEmpty = false ∨ t.capValid r.pa = false ∨ lwFail (t.lock r.pa) = true then
          t.trapHere 0x0D 0
        else t.capTry g f a r.pa)

/-- A DISPLACED owner is a waiter on its record (R334): once the lock has been descheduled for the adopt delay under its generation it
re-enters, and its CRES is dropped. -/
def State.ownerReenter (s : State) (gid : Nat) (g : Grp) : State :=
  match s.capPa g with
  | none => s
  | some pa =>
    let w := s.lock pa
    if lwActive w && lwDesched w && !lwFail w && s.adoptDue g pa && decide (lwGen w = g.cap.gen) && !g.inHandler && !g.escalated
        && (g.life.onCore || decide (g.life = .parked)) then
      let t := s.modGrp gid Grp.dropCres
      (t.capAdopt gid pa .hold true).acquire gid (lwScope w).toNat
    else s

/-- CAPB_ATTEMPT (R332, R334): a waiting CAPB is attempted again as a whole, or a DISPLACED owner re-enters. -/
def execCapbAttempt (gid : Nat) (s : State) : Out :=
  match Tab.find s.groups gid with
  | none => .next s
  | some g =>
    if g.cap.st = .displaced then .next (s.ownerReenter gid g)
    else
      match g.f0 with
      | none => .next s
      | some f =>
        match f.wait with
        | .lock a =>
          if !s.lockOpen g a then .next s
          else
            match (s.setGrp gid (g.setFrag 0 (some { f with wait := .none }))).turnOf gid 0 with
            | .nothing => .next s
            | .done u => .next { u with iss := issNone }
            | .run i u =>
              (match i with
               | .capb x => (match execCapb x u with | .next v => .next { v with iss := issNone } | o => o)
               | _ => .next s)
        | _ => .next s

/-! ### CSTEP (R335, R336) -/

/-- The lock's scope as the group reads it: .y where it does not reach the record. -/
def State.capScope (s : State) (g : Grp) : Nat := match s.capPa g with | some pa => (lwScope (s.lock pa)).toNat | none => 5

/-- CSTEP: the store value and s368 to s383 are captured at issue, and the release of its commit is done there (R336; 07 R197): the group's earlier accesses are
complete, and its dirty lines are written back. -/
def execCstep (x : Cst) (s : State) : Out :=
  issue (.cstep x) s (fun _ f => f.mask) (fun s g f =>
    let a := g.scalarPair (368 + x.a.toNat)
    let go (t : State) (locs : List (Nat × Loc)) : State :=
      t.withRelease g (t.capScope g) (fun t =>
        let o := { mkOp t g f (.cstep x) 2 f.mask a [[g.scalar (368 + x.v.toNat)], g.capRegs] with locs := locs }
        let h := g.addOp o
        t.finish { h with cap := { h.cap with busy := true } })
    if (match s.capPa g with | some pa => s.memPoisoned pa 16 | none => false) then s.trapHere 0x08 0
    else if x.s = 0#1 then go s []
    else if a.toNat % 4 ≠ 0 then s.trapAddr .write ⟨0, a, 0x09, false, none⟩
    else
      match s.translate g.core g.ctx g.sup a .write with
      | .error e => s.trapAddr .write ⟨0, a, e.cause, false, some e⟩
      | .ok r =>
        let t := s.xCommit g.core r
        if r.void then go (t.worldRcds g .write s.iss.pc s.iss.opcode [⟨0, a, 0x10, false, none⟩]) [(0, .void)]
        else go t [(0, .mem r.pa r.path)])

/-- A commit short of its fault point, re-injected after a fault, has its store's address translated anew (05 R148). -/
def State.stepAgain (s : State) (gid n : Nat) (o : Op) : Option State :=
  let g := s.grp gid
  let ok (t : State) (l : List (Nat × Loc)) : Option State :=
    some (t.modGrp gid (fun (k : Grp) => { k with ops := Tab.put k.ops n { o with passed := true, locs := l } }))
  match o.instr with
  | .cstep x =>
    if x.s = 0#1 then ok s []
    else
      match s.translate g.core g.ctx g.sup o.base .write with
      | .error _ => none
      | .ok r => ok (s.xCommit g.core r) [(0, if r.void then .void else .mem r.pa r.path)]
  | _ => none

/-- A commit faults (R339, R141): the trap is raised on its operation. -/
def State.stepFaults (s : State) (gid n : Nat) (o : Op) (cause : Nat) : State :=
  s.modGrp gid (fun (k : Grp) => { k with
    ops := Tab.put k.ops n { o with passed := false }
    raised := k.raised ++ [⟨cause, 0, o.slot, o.m, o.m, o.pc, o.pc, false, wordsOpcode o.words, some n, false⟩] })

/-- CSTEP_COMMIT (R336). -/
def execCstepCommit (gid n : Nat) (s : State) : Out :=
  .next (match Tab.find (s.grp gid).ops n with
    | none => s
    | some o =>
      match o.instr with
      | .cstep _ =>
        if !(s.grp gid).raised.isEmpty then s
        else
          let t := if o.passed then some s else s.stepAgain gid n o
          (match t with
           | none =>
             let g := s.grp gid
             (match s.translate g.core g.ctx g.sup o.base .write with
              | .error e =>
                let rs := (s.pageRcds g .write o.pc (wordsOpcode o.words) [⟨0, o.base, e.cause, false, some e⟩]).map
                  (fun r => { r with lanes := o.m })
                ((s.traced e.tr).raiseGroup gid rs).modGrp gid (fun (k : Grp) => { k with
                  raised := k.raised ++ [⟨e.cause, 0, o.slot, o.m, o.m, o.pc, o.base, false, wordsOpcode o.words, some n, true⟩] })
              | .ok _ => s)
           | some t =>
             let r := t.tryCommit gid n
             if r.2 then r.1.stepFaults gid n o 0x08 else r.1)
      | _ => s)

/-! ### CAPE (R337) -/

/-- The steps of CAPE on the record at `pa` that the group holds: results, completer, the lock is free; another owner has its results. -/
def State.capeRecord (s : State) (g : Grp) (pa : Nat) : State :=
  let w := s.lock pa
  let ws := g.capRegs.take 4
  let owner := s.capOwner pa
  let t := ((s.homeSetWords (pa + 0x60) ws).homeSetWord (pa + 0x0C) g.me.toNat).setLock pa
    (lockWord (lwGen w) (lwScope w) (lwFail w) true false false 0)
  if BitVec.ofNat 32 (s.homeWord (pa + 0x74)) = g.me then t
  else match owner with | some o => t.capOutcome o .delivered ws | none => t

/-- The group after CAPE: an owner goes to the exit, an adopter back to its own CAPB. -/
def Grp.capeEnd (g : Grp) : Grp :=
  if g.cap.st = .hold then ({ g with cap := { g.cap with st := .doneOwn, body := false } }).redirect g.cap.exit else g.capLeave

/-- CAPE. -/
def execCape (x : Z) (s : State) : Out :=
  issue (.cape x) s (fun _ f => f.mask) (fun s g _ =>
    let gid := s.iss.g
    match s.capPa g with
      | none => s.modGrp gid Grp.capLost
      | some pa =>
        let w := s.lock pa
        if s.memPoisoned pa 16 || s.memPoisoned (pa + 0x70) 8 then s.trapHere 0x08 0
        else if g.holds w && decide (s.homeWord (pa + 8) = g.cap.step) then
          s.withRelease g (lwScope w).toNat (fun t => (t.capeRecord g pa).modGrp gid Grp.capeEnd)
        else s.modGrp gid Grp.capLost)

/-! ### CRES (R338) -/

/-- CRES: in state DISPLACED its flag stays raised until the outcome arrives or it is dropped; else it completes at once. -/
def execCres (x : Z) (s : State) : Out :=
  issue (.cres x) s (fun _ _ => 0) (fun s g f =>
    match g.cap.st with
    | .displaced => s.finish (g.addOp { mkOp s g f (.cres x) 2 f.mask 0 [] with passed := true })
    | _ =>
      let t := (s.setGrp s.iss.g g.cresDone).acquire s.iss.g (s.capScope g)
      t.finish (t.grp s.iss.g))

end Sys2Proof.Machine
end

