-- ==== Sys2Proof/Machine/LaunchOps.lean ====
section
/-! DEFINITION. Launch records (18 R373, R374), LAUNCH (R375, R376) and the launch processor's acceptance (R377, R378; 10 R257). -/
namespace Sys2Proof.Machine

/-! ### Records -/

/-- Bits `lo` to `lo + n - 1` of a number. -/
def bitsOf (v lo n : Nat) : Nat := v / 2 ^ lo % 2 ^ n

/-- The fields of a launch record (R373). -/
def readRecord (bs : List Byte) : LRec :=
  let v := leNat bs
  let f (lo n : Nat) : Nat := bitsOf v lo n
  { dline := f 480 32, stag := f 460 20, ophint := f 456 4, prio := f 450 4, cls := f 448 2, npre := f 433 7, wkib := f 422 11
    e64 := f 417 5, l1 := decide (f 416 1 = 1), coop := decide (f 411 1 = 1), tm := f 409 2, priv := decide (f 408 1 = 1)
    viewA := f 400 8, viewT := f 392 8, viewV := f 384 8, overs := decide (f 375 1 = 1), nsc := f 370 5, lc := f 361 9
    lp := f 352 9, nC := f 344 8, nP := f 336 8, span := f 333 2, lanes := f 320 13, wmark := f 296 13
    tT := decide (f 289 1 = 1), tG := decide (f 288 1 = 1), inc := f 256 32, gz := f 240 16, gy := f 224 16, gx := f 192 32
    cblk := BitVec.ofNat 64 (f 128 64), params := BitVec.ofNat 64 (f 64 64), entry := BitVec.ofNat 64 (f 0 64)
    resOk := decide (f 454 2 = 0) && decide (f 440 8 = 0) && decide (f 412 4 = 0) && decide (f 376 8 = 0) && decide (f 335 1 = 0)
               && decide (f 309 11 = 0) && decide (f 290 6 = 0) }

/-- The conditions of R374 on the record alone. -/
def LRec.valid (r : LRec) : Bool :=
  r.resOk && decide (r.cls ≠ 3) && decide (r.tm ≠ 3) && decide (r.span ≠ 3)
    && canonical r.entry && decide (r.entry.toNat % 4 = 0) && decide (r.params.toNat % 8 = 0) && decide (r.cblk.toNat % 16 = 0)
    && decide (0 < r.gx) && decide (0 < r.gy) && decide (0 < r.gz) && decide (r.teams ≤ 2 ^ 32)
    && decide (1 ≤ r.lanes) && decide (r.lanes ≤ 6144) && decide (r.groups = (r.lanes + 31) / 32)
    && (decide (r.nP = 0) || (decide (1 ≤ r.lp) && decide (r.lp ≤ 256)))
    && (decide (r.nC = 0) || (decide (1 ≤ r.lc) && decide (r.lc ≤ 256)))
    && decide (1 ≤ r.nsc) && decide (r.nsc ≤ 24) && decide (r.npre ≤ 64) && decide (r.npre ≤ 16 * r.nsc)
    && (decide (r.dline = 0) || decide (r.cls = 2))
    && decide (r.e64 ≤ 16) && decide (1 ≤ r.wkib) && decide (r.wkib + r.l1Kib + 64 * r.e64 ≤ 1536)
    && (decide (r.span = 0) || decide (r.e64 ≠ 0))
    && (!r.tG || decide (r.wmark ≤ 4 * r.wkib)) && !(r.tG && r.tT && r.overs)

/-- Places further teams of the launch on a set of empty cores: how many of `n` fit at once (R374). -/
def teamsOnSet (r : LRec) (cores : List Nat) (rooms : Tab Room) (n : Nat) : Nat :=
  match n with
  | 0 => 0
  | n + 1 =>
    match placeAll r cores rooms (List.range r.groups) with
    | none => 0
    | some spots =>
      let put (t : Tab Room) (sp : Spot × Nat) : Tab Room :=
        match Tab.find t sp.1.core with
        | none => t
        | some q => let q1 := q.take (r.lines sp.2) r.overs sp.1.slot
                    Tab.put t sp.1.core { q1 with frames := sp.1.fidx :: q1.frames }
      1 + teamsOnSet r cores ((spots.zipIdx).foldl put rooms) n

/-- How many teams of the launch the context's whole grant holds at once, on empty cores. -/
def State.grantHolds (s : State) (x : Nat) (r : LRec) : Nat :=
  let cores := List.range r.cores
  let room : Room := ⟨[], [], List.replicate 16 0, 0, []⟩
  let per := min (teamsOnSet r cores (cores.map (fun c => (c, room))) 128) ((1536 - r.l1Kib - 64 * r.e64) / r.wkib)
  let cls := ((List.range 48).filter (fun i => (s.ctxAt x).clMask.getLsbD i)).length
  per * (8 / r.cores) * cls

/-- The conditions of R374 on where the launch's teams could go. -/
def State.grantOk (s : State) (x : Nat) (r : LRec) : Bool :=
  emptyFits r && decide ((s.ctxAt x).clMask ≠ 0) && (!r.coop || decide (r.teams ≤ s.grantHolds x r))

/-- The preload words with their poison (R378); none where one does not translate. -/
def State.preloadWords (s : State) (die x : Nat) (r : LRec) (i n : Nat) : Option (List (Word × Bool)) × State :=
  match n with
  | 0 => (some [], s)
  | n + 1 =>
    match s.walkVa die x r.priv (r.params + BitVec.ofNat 64 (4 * i)) .read with
    | .error e => (none, s.traced e.tr)
    | .ok w =>
      let t := (s.traced w.tr).l2Touch w.pa
      let v : Word × Bool := if w.void then (0, false) else (BitVec.ofNat 32 (t.homeWord w.pa), t.memPoisoned w.pa 4)
      let q := t.preloadWords die x r (i + 1) n
      (q.1.map (fun ws => v :: ws), q.2)

/-- Roast storage that a launch reserves (10 R257), in bytes: the lines of each group that can freeze, and the template window of the grid roast. -/
def LRec.roastBytes (r : LRec) : Nat :=
  let lines : Nat :=
    if r.tT then r.lines 0 * r.teams else if r.tG then (List.range r.groups).foldl (fun a k => a + r.lines k) 0 else 0
  128 * lines + (if r.tG then 256 * r.wmark else 0)

/-- What a launch holds of its reservation: what roasts that are freed held is free again, and all of it once the launch ends (R261). -/
def Launch.roastHeld (l : Launch) : Nat := if l.refused || l.aborted then 0 else l.r.roastBytes - l.roastFree

/-- Does a launch's roast storage fit in what its context's device pool has left (R257, 21 R421)? -/
def State.poolFits (s : State) (x : Nat) (r : LRec) : Bool :=
  let used := (s.launches.filter (fun l => decide (l.2.ctx = x))).foldl (fun a l => a + l.2.roastHeld) 0
  decide (r.roastBytes = 0) || decide (used + r.roastBytes ≤ (s.ctxAt x).poolCount * 2 ^ 21)

/-! ### Acceptance -/

/-- What an acceptance knows beside the record: die, context, whether PRIV may be set, the launcher, the queue and index, the time that
a relative deadline counts from, an absolute one, the slot's pacing and threshold. -/
structure Accepting where
  die : Nat
  ctx : Nat
  privOk : Bool
  launcher : Option (Nat × Nat)
  queue : Option (Nat × Nat)
  base : Nat
  absolute : Option (Option Nat)
  pace : Nat
  th : Nat
  thEn : Bool
  join : Option Nat
  deriving DecidableEq, Repr

/-- The two dies that a journal entry goes to (21 R429; log 34). -/
def journalDies (die : Nat) : List Nat := [die, (die + 1) % 4]

/-- Accepts a record whose class and priority hold already (R374, R377, R378): a refused one completes at once, but a queue's
completions keep ring order (19 R431). -/
def State.acceptRecord (s : State) (a : Accepting) (r : LRec) (deadlined : Bool) : State :=
  let lid := s.nextLaunch
  let ok := r.valid && (a.privOk || !r.priv) && s.grantOk a.ctx r && decide (a.absolute ≠ some none)
  let pre := if ok then s.preloadWords a.die a.ctx r 0 r.npre else (some [], s)
  let t := pre.2
  let clock := (t.dieAt a.die).clock
  let l0 : Launch := { launchInit with
    ctx := a.ctx, launcher := a.launcher, id := t.launchId + 1, die := a.die, r := r, queue := a.queue
    deadline := if r.cls = 2 ∧ deadlined then (match a.absolute with | some d => d | none => some (a.base + 1000 * r.dline)) else none
    preload := pre.1.getD [], pace := a.pace, th := a.th, thEn := a.thEn, join := a.join, codeMark := t.codeLog.length }
  let u := { t with nextLaunch := lid + 1, launchId := t.launchId + 1 }
  let v := match a.queue with
    | some (q, i) => { u with journal := u.journal ++ [(a.ctx, q, i, lid, journalDies a.die)] }
    | none => u
  if !ok || pre.1.isNone then
    let l := { l0 with refused := true, next := r.teams, done := r.teams }
    let w := { v with launches := Tab.put v.launches lid l }
    if w.earlierOpen l then w else w.finishLaunch lid l 1
  else
    let ro := v.nextRoast
    let hold := decide (a.pace = 2) && decide (r.ophint ≠ 0)
    let l := { l0 with roast := if r.tG then some ro else none, held := hold }
    let w := { v with
      launches := Tab.put v.launches lid l
      roasts := if r.tG then Tab.put v.roasts ro ⟨lid, false, [], [], [], none⟩ else v.roasts
      nextRoast := if r.tG then ro + 1 else ro }
    if hold then w.modDie a.die (fun d => { d with starts := (lid, clock) :: d.starts }) else w

/-- A child's class and priority are not above its launcher's (R377). -/
def PendingLaunch.lower (e : PendingLaunch) (r : LRec) : LRec := { r with cls := min r.cls e.cls, prio := min r.prio e.prio }

/-- Is there room for another launch on the die (R377)? -/
def State.procFree (s : State) (die : Nat) : Bool :=
  decide ((s.launches.filter (fun l => decide (l.2.die = die))).length < 1024)

/-- The pending entries of a die by group: the oldest of each. -/
def State.pendHeads (s : State) (die : Nat) : List (Nat × PendingLaunch) :=
  (s.groups.filter (fun p => decide (coreDie p.2.core = die))).filterMap (fun p => p.2.pend.head?.map (fun e => (p.1, e)))
    ++ (s.dieAt die).orphans.foldl (fun acc e => if acc.any (fun o => decide (o.1 = e.g)) then acc else acc ++ [(e.g, e)]) []

/-- Takes a pending entry out of its queue; its flag falls (R375). -/
def State.dropPending (s : State) (die : Nat) (e : PendingLaunch) : State :=
  let t := s.modGrp e.g (fun g => { g with pend := g.pend.erase e }.flagDown (if g.pend.contains e then e.flag else none))
  t.modDie die (fun d => { d with orphans := d.orphans.erase e, rr := e.g })

/-- Is a record's roast storage there (10 R257)? A record that is refused needs none (R374). -/
def State.storageReady (s : State) (x : Nat) (privOk : Bool) (r : LRec) : Bool :=
  !(r.valid && (privOk || !r.priv) && s.grantOk x r) || s.poolFits x r

/-- Can the launch processor accept an entry now: its context runs, and its roast storage can be reserved (10 R257)? -/
def State.pendReady (s : State) (e : PendingLaunch) : Bool :=
  let r0 := readRecord e.rcd
  s.runs e.ctx && (!r0.valid || s.storageReady e.ctx e.sup (e.lower r0))

/-- LAUNCH_ACCEPT (R377): the next group round robin whose entry can be accepted, one entry; a record whose class is lowered out of DEADLINE has no deadline. -/
def execLaunchAccept (die : Nat) (s : State) : Out :=
  .next (
    let hs := (s.pendHeads die).filter (fun p => s.pendReady p.2)
    let rr := (s.dieAt die).rr
    match leastBy (fun p => if rr < p.1 then p.1 else p.1 + 2 ^ 64) hs with
    | none => s
    | some (_, e) =>
      let r0 := readRecord e.rcd
      let bad := !r0.valid
      let r := e.lower r0
      if !s.procFree die then s
      else
        let r1 := if r0.cls = 2 ∧ r.cls ≠ 2 then { r with dline := 0 } else r
        (s.dropPending die e).acceptRecord
          ⟨die, e.ctx, e.sup && !bad, some (e.g, e.n), none, e.issued, none, e.pace, e.th, e.thEn, none⟩
          (if bad then { r0 with resOk := false } else r1) true)

/-! ### LAUNCH -/

/-- LAUNCH (R375, R376): the record is copied at issue, as the core's own accesses at scope .g see it. -/
def execLaunch (x : Xn) (s : State) : Out :=
  issue (.launch x) s (fun g f => g.guarded f x.k) (fun s g f =>
    if !g.upred x.k.toNat then s.finish g
    else if 4 ≤ g.pend.length then s.waitHere .pending
    else
      let a := g.scalarPair x.n.toNat
      if a.toNat % 64 ≠ 0 then s.trapAddr .read ⟨0, a, 0x09, false, none⟩
      else
        match s.translate g.core g.ctx g.sup a .read with
        | .error e => s.trapAddr .read ⟨0, a, e.cause, false, some e⟩
        | .ok r =>
          let t := s.xCommit g.core r
          let q := if r.void then (((List.replicate 64 0, false) : List Byte × Bool),
              t.worldRcds g .read s.iss.pc s.iss.opcode [⟨0, a, 0x10, false, none⟩])
            else t.readGlobal ((g.how s.iss.pc).on r.path) (va48 a) r.pa 64
          q.2.withRelease g 4 (fun s =>
            let g := s.grp s.iss.g
            let h := g.tlAssign 5 1
            let flag := flagOf (flagClass (.launch x)) f.pos.setA f.pos.setB
            let l := Tab.findD s.launches g.launch launchInit
            let e : PendingLaunch := ⟨s.iss.g, g.ctx, g.launch, g.sup, q.1.1, (h.tlLast 5).toNat, s.clockOf g.core, flag, l.r.cls, l.r.prio,
              l.pace, l.th, l.thEn⟩
            s.finish ({ h with pend := h.pend ++ [e] }.flagUp flag)))

end Sys2Proof.Machine
end

