-- ==== Sys2Proof/Machine/Percolate.lean ====
section
/-! DEFINITION. Percolation (09 R231 to R246): PSET, the issue of PERC, and the runs of a core's percolation sequencer. One step is one
iteration, or under POLY one step of an iteration, between whose block products the matrix unit serves others. -/
namespace Sys2Proof.Machine

/-- PSET (R235). -/
def execPset (x : Pst) (s : State) : Out :=
  issueF (.pset x) s (fun g f => g.guarded f x.k) (fun _ g _ =>
    if g.upred x.k.toNat then
      { g with coef := Sparse.setList g.coef x.i.toNat ((List.range (x.c.toNat + 1)).map (fun j => g.scalar (x.n.toNat + j))) }
    else g)

/-- sr.pstate at a PERC's issue (R239, R240): mode and order, nothing done. -/
def pstateStart (x : Prc) : Dword := (x.m.setWidth 64 <<< 53) ||| (x.o.setWidth 64 <<< 52)

/-- A run starts (R241): its lines that are missing from the file come in. -/
def State.percBegin (s : State) (core : Nat) (p : Perc) : State :=
  let t := s.modCore core (fun k => { k with perc := some p })
  match Tab.find (s.grp p.g).ops p.op with
  | some o => t.fillLines core p.g o.lines
  | none => t

/-- Puts a run to the sequencer (R241): it starts at once when the sequencer is free and its group's order lets it (R242). -/
def State.percPut (s : State) (core : Nat) (p : Perc) : State :=
  let k := s.coreAt core
  if k.perc.isNone && k.percq.isEmpty && (s.grp p.g).matrixFirst p.op then s.percBegin core p
  else s.setCore core { k with percq := k.percq ++ [p] }

/-- PERC (R231, R233). -/
def execPerc (x : Prc) (s : State) : Out :=
  issue (.perc x) s (fun g f => g.guarded f x.k) (fun s g f =>
    let cap := (g.scalar x.n.toNat).toNat
    if !g.upred x.k.toNat then s.finish g
    else if cap = 0 ∨ 65535 < cap then s.trapHere 0x01 0
    else
      let n := g.tlLast 4 + 1
      let l := percLines g x
      let o := { mkOp s g f (.perc x) 1 f.mask 0 [] with lines := l.1 ++ l.2, n := n }
      let h := { g.tlAssign 4 1 with pstate := pstateStart x }
      (s.finish (h.addOp o)).percPut g.core ⟨s.iss.g, g.opNext, Sparse.getList g.coef 0 16, cap, n, g.launch, percBlocks x 0⟩)

/-- PERC_START (R241): the oldest queued run that its group's order lets go. -/
def execPercStart (core : Nat) (s : State) : Out :=
  .next (
    let k := s.coreAt core
    if k.perc.isSome then s
    else
      match k.percq.find? (fun p => (s.grp p.g).matrixFirst p.op) with
      | none => s
      | some p => (s.setCore core { k with percq := k.percq.filter (fun q => decide (q ≠ p)) }).percBegin core p)

/-- PERC_ITERATION (R239): the end of the iteration, or POLY step, of the running percolation, once the unit has formed its products (R242). A run of a group that has
retired goes on to its end for nothing (R246). -/
def execPercIteration (core : Nat) (s : State) : Out :=
  .next (
    let k := s.coreAt core
    match k.perc with
    | none => s
    | some p =>
      if 0 < p.left ∨ k.unit.any (fun u => decide (u.quarter = 4)) = true then s
      else if (Tab.find s.groups p.g).isNone then s.setCore core { k with perc := none }
      else
        s.withOp p.g p.op (fun g o =>
          match o.instr with
          | .perc x => if g.matrixFirst p.op then s.percAdvance core p g o x else s
          | _ => s))

end Sys2Proof.Machine
end

