-- ==== Sys2Proof/Machine/Preempt.lean ====
section
/-! DEFINITION. Pre-emption inside the cores and the resumption of a launch (09 R246, 11 R277 to R281, 12 R300, 14 R333, R334,
19 R407). -/
namespace Sys2Proof.Machine

/-- Operations that a pre-emption captures: those short of their fault point, but not a percolation run (09 R246). -/
def Grp.toCapture (g : Grp) : List (Nat × Op) := g.unpassed.filter (fun p => match p.2.instr with | .perc _ => false | _ => true)

/-- Stops and saves a group (R278): its percolation run comes to its next boundary (09 R246), and a trap raised before that, or there, is taken first (R280). -/
def State.preemptGroup (s : State) (gid : Nat) : State :=
  let s0 := s.percStop gid
  let g0 := s0.grp gid
  let t := (if !g0.raised.isEmpty && g0.life.onCore && !g0.escalated then s0.takeTrap gid g0.raised [] else s0).capStop gid false
  let g := t.grp gid
  let es := g.toCapture.map (entryOf g.raised)
  let h := g.toCapture.foldl (fun (k : Grp) p => (({ k with ops := Tab.drop k.ops p.1 }).flagDown p.2.flag).pathDown p.2.path) g
  t.setGrp gid { h with life := Life.preempted (decide (g.life = .parked)), waitAt := t.clockOf g.core, preQueue := g.preQueue ++ es }

/-- What a core saves of a launch (R278, R279): the operation in the unit goes back to the head of its queue. -/
def State.saveCore (s : State) (core lid : Nat) : State :=
  let k := (s.coreAt core).stopCopies (fun c => decide (c.launch = lid))
  let mine (g : Nat) : Bool := decide ((s.grp g).launch = lid) && (Tab.find s.groups g).isSome
  let ours (l g : Nat) : Bool := decide (l = lid) || mine g
  let back := match k.unit with
    | some u => if mine u.g && !u.isLoop then k.mq.modify u.quarter (fun q => (u.g, u.op) :: q) else k.mq
    | none => k.mq
  let sv : SavedCore := {
    launch := lid
    mq := back.flatten.filter (fun p => mine p.1)
    loops := (k.loops ++ k.lq).filter (fun l => ours l.launch l.g)
    percs := (k.perc.toList ++ k.percq).filter (fun p => ours p.launch p.g)
    ranges := (k.ranges.filter (fun r => decide (r.launch = lid))).map (fun r =>
      ⟨r, k.win.filter (fun e => decide (r.base ≤ e.1) && decide (e.1 < r.base + r.size)),
       k.winPoison.filter (fun w => decide (r.base ≤ 8 * w) && decide (8 * w < r.base + r.size))⟩)
    dq := k.dq.flatten.filter (fun c => decide (c.launch = lid)) }
  s.setCore core { k with
    unit := match k.unit with
      | some u => if mine u.g || (k.loops.any (fun l => decide (l.launch = lid) && decide (l.g = u.g) && decide (l.op = u.op)))
          || (decide (u.quarter = 4) && k.perc.any (fun p => decide (p.launch = lid))) then none else some u
      | none => none
    mq := back.map (fun q => q.filter (fun p => !mine p.1))
    loops := k.loops.filter (fun l => !ours l.launch l.g), lq := k.lq.filter (fun l => !ours l.launch l.g)
    perc := k.perc.filter (fun p => !ours p.launch p.g)
    percq := k.percq.filter (fun p => !ours p.launch p.g)
    ranges := k.ranges.filter (fun r => decide (r.launch ≠ lid))
    dq := k.dq.map (fun q => q.filter (fun c => decide (c.launch ≠ lid)))
    saved := k.saved ++ [sv] }

/-- Has the core anything of the launch that a pre-emption stops? -/
def State.coreHas (s : State) (core lid : Nat) : Bool :=
  let k := s.coreAt core
  (s.coreGroups core).any (fun p => decide (p.2.launch = lid)) || k.ranges.any (fun r => decide (r.launch = lid))
    || (k.dq.flatten ++ (k.copies.map (fun p => p.2)).filter (fun c => !c.away)).any (fun c => decide (c.launch = lid)) || (k.loops ++ k.lq).any (fun l => decide (l.launch = lid))
    || (k.perc.toList ++ k.percq).any (fun p => decide (p.launch = lid))

/-- Where a pre-emption of a launch on a core writes its context's save area (R278, 21 R421): first and last bytes of its windows, of the records of the groups `gs`, and of
the engine state. -/
def State.savedAt (s : State) (core lid x : Nat) (gs : List (Nat × Grp)) : List Nat :=
  let part := s.savePartAt x core
  let ws := (s.coreAt core).ranges.filter (fun r => decide (r.launch = lid) && decide (r.size ≠ 0))
  ws.flatMap (fun r => [part + r.base, part + r.base + r.size - 1]) ++ gs.flatMap (fun g => s.saveRecordAt x core g.2.fidx)
    ++ [part + 9728 * 1024, part + 9728 * 1024 + 0xFFFF]

/-- CORE_PREEMPT (R278, R407): the signal of a launch's pre-emption reaches a core. -/
def execCorePreempt (core lid : Nat) (s : State) : Out :=
  .next (match Tab.find s.launches lid with
    | none => s
    | some l =>
      if l.st ≠ .preempted ∨ s.coreHas core lid = false then s
      else
        let gs := (s.coreGroups core).filter (fun p => decide (p.2.launch = lid))
        let t := gs.foldl (fun (u : State) p => u.preemptGroup p.1) s
        ((t.saveCore core lid).launchLeaves core lid).saveArea l.ctx (s.savedAt core lid l.ctx gs))

/-! ### Resumption -/

/-- A group or a place that comes back to a core. -/
structure Back where
  gid : Option Nat
  team : Nat
  k : Nat
  lines : Nat
  overs : Bool
  parked : Bool
  deriving DecidableEq, Repr

/-- Gives each of them the lowest free slot that fits, a parked group none (R280). -/
def backSlots (r : Room) (bs : List Back) : Option (List (Back × Nat)) :=
  match bs with
  | [] => some []
  | b :: rest =>
    if b.parked then
      let load := if b.overs then r.load else addBanks r.load (List.replicate 16 ((b.lines + 15) / 16))
      if r.held < 128 ∧ load.all (fun x => decide (x ≤ 384)) then
        (backSlots { r with load := load, held := r.held + 1 } rest).map (fun t => (b, 0) :: t)
      else none
    else
      match r.slot b.lines b.overs with
      | none => none
      | some n => (backSlots (r.take b.lines b.overs n) rest).map (fun t => (b, n) :: t)

/-- Cores that hold something of a pre-empted launch. -/
def State.coresOf (s : State) (lid : Nat) : List Nat :=
  let a := (s.groups.filter (fun p => decide (p.2.launch = lid))).map (fun p => p.2.core)
  let b := (s.cores.filter (fun c => c.2.saved.any (fun v => decide (v.launch = lid)))).map (fun c => c.1)
  let c := match Tab.find s.launches lid with | some l => l.teams.flatMap (fun (t : Nat × Team) => t.2.cores) | none => []
  (List.range 384).filter (fun i => a.contains i || b.contains i || c.contains i)

/-- Puts a saved range back at the lowest base that is free (R174, R280). -/
def State.backRange (s : State) (core : Nat) (r : LRec) (v : SavedRange) : Option State :=
  match s.rangeFor core r with
  | none => none
  | some b => some (s.putRange core v b)

/-- The split of a core for a launch that comes back, with what its context had in the exported window (R174, R278). -/
def State.backSplit (s : State) (core x : Nat) (r : LRec) : Option State :=
  let k := s.coreAt core
  let empty := s.coreEmpty core
  match k.savedExp.find? (fun e => decide (e.ctx = x)) with
  | some e =>
    if !empty then none
    else
      let t := s.newSplit core x r
      some (t.modCore core (fun q => { q with
        savedExp := q.savedExp.filter (fun o => decide (o.ctx ≠ x))
        win := q.win ++ e.win.filter (fun c => decide (c.1 < expKey + r.expBytes)), winPoison := q.winPoison ++ e.poison }))
  | none =>
    if empty && !(k.splitOn && decide (k.owner = x) && decide (k.l1Kib = r.l1Kib) && decide (k.exp = r.expBytes)) then
      some (s.newSplit core x r)
    else if s.splitFits core r then some s
    else none

/-- What comes back to a core: its groups in the order of their age, then the places still to be poured. -/
def State.backList (s : State) (core lid : Nat) (l : Launch) : List Back :=
  let gs := sortBy (fun (p : Nat × Grp) => p.2.age) (s.groups.filter (fun p => decide (p.2.launch = lid) && decide (p.2.core = core)))
  gs.map (fun p => ⟨some p.1, p.2.team, p.2.idx, p.2.nlines, p.2.overs, decide (p.2.life = .preempted true)⟩)
    ++ l.teams.flatMap (fun t => t.2.toPour.filterMap (fun k => match t.2.places[k]? with
        | some q => if q.1 = core then some ⟨none, t.1, k, l.r.lines k, l.r.overs, false⟩ else none
        | none => none))

/-- Is every frame index that a moved-out group needs free again (R280)? -/
def State.framesFree (s : State) (core lid : Nat) : Bool :=
  let others := (s.groups.filter (fun p => decide (p.2.core = core) && !(decide (p.2.launch = lid)) && !p.2.moved)).map (fun p => p.2.fidx)
  let held := (s.heldPlaces core).map (fun h => h.fidx)
  s.groups.all (fun p => !(decide (p.2.core = core) && decide (p.2.launch = lid) && p.2.moved)
    || !(others.contains p.2.fidx || held.contains p.2.fidx))

/-- Takes a slot for a group or a place. The pool of its team keeps the counts by bank that it had (log 65). -/
def State.backPut (s : State) (lid : Nat) (b : Back) (slot : Nat) : State :=
  match b.gid with
  | some g => s.modGrp g (fun (k : Grp) =>
      { k with life := if b.parked then Life.parked else Life.resident, slot := if b.parked then k.slot else slot, moved := false })
  | none => s.modLaunch lid (fun l => { l with teams := l.teams.map (fun t =>
      if t.1 = b.team then
        (t.1, { t.2 with places := t.2.places.modify b.k (fun (p : Nat × Nat × Nat) => (p.1, slot, p.2.2)) })
      else t) })

/-- Brings back what a core holds of a launch; none when it does not fit. -/
def State.backCore (s : State) (core lid : Nat) (l : Launch) : Option State :=
  if !s.framesFree core lid then none
  else
    match s.backSplit core l.ctx l.r with
    | none => none
    | some t =>
      let vs := (t.coreAt core).saved.filter (fun v => decide (v.launch = lid))
      match (vs.flatMap (fun v => v.ranges)).foldl (fun (o : Option State) v => o.bind (fun u => u.backRange core l.r v)) (some t) with
      | none => none
      | some u =>
        let room := u.roomOf core l.ctx
        let mine := ((u.coreAt core).pools.filter (fun p => decide (p.launch = lid))).map (fun p => p.free)
        match backSlots { room with load := mine.foldl addBanks room.load } (u.backList core lid l) with
        | none => none
        | some bs => some (bs.foldl (fun (w : State) b => w.backPut lid b.1 b.2) u)

/-- Puts saved loops back (R279): a loop runs where its quarter runs none and no PERC of its group is ahead (09 R242), else it waits, ahead of those that came later. -/
def State.backLoops (s : State) (core : Nat) (ls : List Loop) : State :=
  let r := ls.foldl (fun (a : List Loop × List Loop) l =>
    if a.1.all (fun e => decide (e.quarter ≠ l.quarter)) && (s.grp l.g).percBefore l.op then (a.1 ++ [l], a.2) else (a.1, a.2 ++ [l])) ((s.coreAt core).loops, [])
  s.modCore core (fun k => { k with loops := r.1, lq := r.2 ++ k.lq })

/-- Puts saved runs back (09 R246): the first goes on where the sequencer is free. -/
def State.backPercs (s : State) (core : Nat) (ps : List Perc) : State :=
  let t := s.modCore core (fun k => { k with percq := ps ++ k.percq })
  match ps with
  | [] => s
  | p :: _ =>
    if (s.coreAt core).perc.isNone && (s.grp p.g).matrixFirst p.op then
      (t.modCore core (fun k => { k with percq := k.percq.drop 1 })).percBegin core p
    else t

/-- Puts a core's saved queues, loops, runs and copies back, in front, by the quarter of each group's slot (R279, R300; 09 R246). -/
def State.backEngines (s : State) (core lid : Nat) : State :=
  let k := s.coreAt core
  let vs := k.saved.filter (fun v => decide (v.launch = lid))
  let q (g : Nat) : Nat := (s.grp g).slot / 32
  let qc (c : Copy) : Nat := if (Tab.find s.groups c.g).isSome then q c.g else c.quarter
  let mqs := vs.flatMap (fun v => v.mq)
  let dqs := (vs.flatMap (fun v => v.dq)).map (fun c => { c with quarter := qc c })
  let t := s.setCore core { k with
    saved := k.saved.filter (fun v => decide (v.launch ≠ lid))
    mq := k.mq.zipIdx.map (fun p => mqs.filter (fun e => decide (q e.1 = p.2)) ++ p.1)
    copies := k.copies.map (fun p => if p.2.launch = lid then (p.1, { p.2 with quarter := qc p.2 }) else p)
    dq := k.dq.zipIdx.map (fun p => dqs.filter (fun c => decide (c.quarter = p.2)) ++ p.1) }
  (t.backLoops core ((vs.flatMap (fun v => v.loops)).map (fun l => { l with quarter := q l.g }))).backPercs core (vs.flatMap (fun v => v.percs))

/-- Does each queue of the core's engines hold no more than it may: 8 copies and four direct instructions a quarter,
two loops a core, four runs (12 R293; 08 R217, R225; 09 R241)? -/
def Core.queuesFit (k : Core) : Bool :=
  k.dq.all (fun q => decide (q.length ≤ 8)) && (List.range 4).all (fun q => decide (k.directCount q ≤ 4)) && decide (k.lq.length ≤ 2)
    && decide (k.percq.length ≤ 4)

/-- A group is back: the check of its body, then its saved replay entries (R280), but for those of a body that is lost (14 R334). -/
def State.backGroup (s : State) (gid : Nat) : State :=
  let g := s.grp gid
  let r := if g.life = .parked then (s, true) else s.bodyReturn gid
  let t := r.1.modGrp gid (fun (k : Grp) => { k with preQueue := [] })
  let q := t.reinjectAll gid (if r.2 then g.preQueue else g.preQueue.filter (fun e => !e.body))
  q.1.replayTraps gid q.2

/-- Does a DEADLINE launch still want room on the cores of a launch of a lower class (19 R402, R406)? -/
def State.yieldsTo (s : State) (lid : Nat) (l : Launch) : Bool :=
  decide (l.r.cls ≠ 2) && s.launches.any (fun o => decide (o.2.r.cls = 2) && decide (o.2.st = .running) && decide (o.2.next < o.2.r.teams)
    && !o.2.refused && s.runs o.2.ctx && (s.coresOf lid).any (fun c => (s.ctxAt o.2.ctx).clMask.getLsbD (coreCluster c)))

/-- The machine with everything of a pre-empted launch back where it was; none while a core still stops it, its context does not run, its calls are out, or it does not
fit (R280, R391). -/
def State.comeBack (s : State) (lid : Nat) (l : Launch) : Option State :=
  let cores := s.coresOf lid
  let out := s.openCalls lid
  if l.st ≠ .preempted ∨ s.runs l.ctx = false ∨ cores.any (fun c => s.coreHas c lid) = true
      ∨ l.calls.any (fun c => out.contains c) = true ∨ s.yieldsTo lid l = true then none
  else cores.foldl (fun (o : Option State) c => o.bind (fun t => t.backCore c lid l)) (some s)

/-- PREEMPT_RESUME (R280, R407): once every core has stopped it and its context runs, all of a launch comes back where it was, or it
waits, also for room in the queues of the cores' engines (log 67); its slice and its pacing begin anew (R277). -/
def execPreemptResume (lid : Nat) (s : State) : Out :=
  .next (match Tab.find s.launches lid with
    | none => s
    | some l =>
        let cores := s.coresOf lid
        match s.comeBack lid l with
        | none => s
        | some t =>
          let clock := (t.dieAt l.die).clock
          let u := t.modLaunch lid (fun l => { l with
            st := .running, calls := [], first := true, sliceAt := if l.teams.isEmpty then none else some clock })
          let v := cores.foldl (fun (w : State) c => w.backEngines c lid) u
          if cores.any (fun c => !(v.coreAt c).queuesFit) then s
          else
          let hold := decide (l.pace = 2) && decide (l.r.ophint ≠ 0) && decide (l.next < l.r.teams)
          let v := if hold then (v.modLaunch lid (fun l => { l with held := true })).modDie l.die (fun d =>
            { d with starts := (lid, clock) :: d.starts }) else v
          let w := (v.groups.filter (fun p => decide (p.2.launch = lid))).foldl (fun (x : State) p => x.backGroup p.1) v
          w.pourDue lid)

end Sys2Proof.Machine
end

