-- ==== Sys2Proof/Machine/Backing.lean ====
section
/-! DEFINITION. The backing store (06 R162, R163): what each byte of a group's area holds, and the world of an area. A byte of a group's state stands once in this model,
in `Grp`; the area is a view of it (log 68). -/
namespace Sys2Proof.Machine

/-- Areas of a core, and bytes of an area (R162): 128 of 36 KiB. -/
def areaCount : Nat := 128
def areaSize : Nat := 0x9000

/-- Byte `i` of a doubleword. -/
def dwordByte (d : Dword) (i : Nat) : Byte := d.extractLsb' (8 * i) 8

/-- A byte of the group's area by its offset (R162): none where the layout within the table's row is not given, and in the home of a line that is still shared, which
stands in the roast. -/
def Grp.areaByte (g : Grp) (off : Nat) : Option Byte :=
  if off < 0x8000 then
    if (Tab.find g.shared (off / 128)).isSome then none
    else some ((g.word (off / 128) (off % 128 / 4)).extractLsb' (8 * (off % 4)) 8)
  else if off < 0x8600 then some ((g.scalar ((off - 0x8000) / 4)).extractLsb' (8 * (off % 4)) 8)
  else if off < 0x8800 then none
  else if off < 0x8C00 then
    let o := off - 0x8800
    let d := match Tab.find g.split (o / 16) with | some e => splitDwords e | none => (0, 0)
    some (dwordByte (if o % 16 < 8 then d.1 else d.2) (o % 8))
  else if off < 0x8E00 then
    let o := off - 0x8C00
    let d := match Tab.find g.split (o / 8) with | some ⟨_, .spilled f⟩ => resumeWord f | _ => 0
    some (dwordByte d (o % 8))
  else if off < areaSize then some 0
  else none

/-- The group whose area a core keeps at a frame index: none for an index that nobody holds. -/
def State.areaHolder (s : State) (core i : Nat) : Option Grp :=
  (s.groups.find? (fun p => decide (p.2.core = core) && decide (p.2.fidx = i) && !p.2.moved)).map (fun p => p.2)

/-- The world of an area (R163): that of its group's context for as long as the group lives, else the firmware's. -/
def State.areaWorld (s : State) (core i : Nat) : Nat :=
  match s.areaHolder core i with
  | some g => (s.ctxAt g.ctx).world
  | none => (s.ctxAt 0).world

end Sys2Proof.Machine
end

