-- ==== Sys2Proof/Machine/Sched.lean ====
section
/-! DEFINITION. Team dispatch (19 R402 to R406; 18 R377; 10 R250), pacing (11 R275 to R277), slices (R405), effective weights (21 R422)
and the throttle of channel requests (17 R354). -/
namespace Sys2Proof.Machine

/-! ### Weights (21 R422) -/

/-- Subtree weight of a context; no context is deeper than 4. -/
def State.subWeight (s : State) (fuel x : Nat) : Nat :=
  match fuel with
  | 0 => 0
  | f + 1 => if x = 0 then 2 ^ 32 else s.subWeight f (s.ctxAt x).parent * (s.ctxAt x).share / 2 ^ 32

def State.subtreeWeight (s : State) (x : Nat) : Nat := s.subWeight 5 x

/-- Direct children of a context, by id. -/
def State.childrenOf (s : State) (x : Nat) : List Nat :=
  (s.ctxs.filter (fun p => decide (p.1 ≠ 0) && decide (p.2.parent = x) && decide (p.2.st ≠ CtxSt.free))).map (fun p => p.1)

/-- Effective weight of a context. -/
def State.weight (s : State) (x : Nat) : Nat :=
  s.subtreeWeight x - (s.childrenOf x).foldl (fun a c => a + s.subtreeWeight c) 0

/-! ### Eligibility (R402) -/

/-- Has an earlier launch of the same queue still to start its first team? The launches of one queue start theirs in ring order (R401). -/
def State.queueBehind (s : State) (l : Launch) : Bool :=
  match l.queue with
  | none => false
  | some (q, _) => s.launches.any (fun o => decide (o.2.ctx = l.ctx) && decide (o.2.queue.map (fun k => k.1) = some q) && decide (o.2.id < l.id)
      && decide (o.2.next = 0) && !o.2.refused && !o.2.aborted)

/-- Is a launch with unstarted teams eligible, apart from the cluster and its die? -/
def State.eligLaunch (s : State) (l : Launch) : Bool :=
  decide (l.st = .running) && !l.refused && decide (l.next < l.r.teams) && s.runs l.ctx && !l.held && !(decide (l.next = 0) && s.queueBehind l)
    && (l.r.coop || !l.r.tG || decide (l.next = 0) || s.gridSealed l)

/-- Is it eligible on a die, whose stagger does not hold it (R402; 11 R275)? -/
def State.eligHere (s : State) (die lid : Nat) (l : Launch) : Bool := s.eligLaunch l && !s.staggered lid die l

/-- Does the context's grant hold a cluster of the package? -/
def State.granted (s : State) (x cl : Nat) : Bool := (s.ctxAt x).clMask.getLsbD cl

/-- Clusters of a context's grant, lowest first. -/
def State.grantClusters (s : State) (x : Nat) : List Nat := (List.range 48).filter (s.granted x)

/-- Contexts with an eligible launch on a die, by class (R403). -/
def State.eligOn (s : State) (die : Nat) : List (Nat × Nat) :=
  let ls := s.launches.filter (fun l => s.eligHere die l.1 l.2 && (List.range 12).any (fun i => s.granted l.2.ctx (12 * die + i)))
  ls.foldl (fun acc l => if acc.contains (l.2.ctx, l.2.r.cls) then acc else acc ++ [(l.2.ctx, l.2.r.cls)]) []

def Die.pass (d : Die) (x c : Nat) : Nat :=
  match d.passes.find? (fun p => decide (p.1 = x) && decide (p.2.1 = c)) with | some p => p.2.2 | none => 0

def Die.setPass (d : Die) (x c v : Nat) : Die :=
  { d with passes := (x, c, v) :: d.passes.filter (fun p => !(decide (p.1 = x) && decide (p.2.1 = c))) }

/-- The least of a list of numbers. -/
def leastOf (xs : List Nat) : Option Nat := leastBy (fun x => x) xs

/-- A context that gains an eligible launch takes at least the smallest pass of its class (R403). -/
def State.noteElig (s : State) (die : Nat) : State :=
  let now := s.eligOn die
  s.modDie die (fun d =>
    let kept := d.elig.filter (fun e => now.contains e)
    let d1 : Die := (now.filter (fun e => !d.elig.contains e)).foldl (fun (k : Die) e =>
      match leastOf ((kept.filter (fun o => decide (o.2 = e.2))).map (fun o => k.pass o.1 o.2)) with
      | some m => if e.2 = 2 then k else k.setPass e.1 e.2 (max (k.pass e.1 e.2) m)
      | none => k) d
    { d1 with elig := now })

/-- The same on every die. -/
def State.noteAll (s : State) : State := (List.range 4).foldl (fun (t : State) d => t.noteElig d) s

/-! ### Admission -/

/-- Where a launch's next team fits on a cluster (R164, R174, R283). -/
def State.nextFit (s : State) (l : Launch) (cl : Nat) : Option (List Nat × List Spot) := s.fitCluster l.ctx l.r cl

/-- Does its next team fit anywhere in its grant? -/
def State.fitsAnywhere (s : State) (l : Launch) : Bool := (s.grantClusters l.ctx).any (fun cl => (s.nextFit l cl).isSome)

/-- What the admission of one team leaves: the next team, its context's pass (R403), the start of a slice. -/
def State.admitted (s : State) (lid die : Nat) (l : Launch) : State :=
  let clock := (s.dieAt die).clock
  let t := s.modLaunch lid (fun k => { k with
    next := k.next + 1, skips := 0, held := false
    began := match k.began with | some b => some b | none => some clock
    sliceAt := match k.sliceAt with | some b => some b | none => some clock })
  let u : State := { t with dies := t.dies.map (fun (d : Die) => { d with reserved := d.reserved.filter (fun p => decide (p.2 ≠ lid)) }) }
  u.modDie die (fun d => if l.r.cls = 2 then d
    else d.setPass l.ctx l.r.cls (d.pass l.ctx l.r.cls + 2 ^ 40 / max 1 (s.weight l.ctx) * l.r.groups))

/-- Does a parked group, or a launch that was pre-empted, come back to a core of a cluster now? It goes ahead of any team admission there (01 R36, 11 R280; log 67). -/
def State.comesBackTo (s : State) (cl : Nat) : Bool :=
  s.groups.any (fun p => decide (coreCluster p.2.core = cl) && s.returnDue p.2)
    || s.launches.any (fun l => (s.coresOf l.1).any (fun c => decide (coreCluster c = cl)) && (s.comeBack l.1 l.2).isSome)

/-- Admits every team of a cooperative launch at once, each on the lowest cluster of the grant that fits it; none when one does not
fit. -/
def State.admitWhole (s : State) (lid : Nat) (cls : List Nat) (n : Nat) : Option State :=
  match n with
  | 0 => some s
  | n + 1 =>
    match Tab.find s.launches lid with
    | none => none
    | some l =>
      match cls.findSome? (fun cl => (s.nextFit l cl).map (fun f => (cl, f))) with
      | none => none
      | some (cl, f) => ((s.admitTeam lid l.next f).admitted lid (cl / 12) l).admitWhole lid cls n

/-- Tries to admit a launch's next team on a cluster, or all of a cooperative launch. -/
def State.tryAdmit (s : State) (lid cl : Nat) (l : Launch) : Option State :=
  if l.r.coop then s.admitWhole lid ((s.grantClusters l.ctx).filter (fun c => !s.comesBackTo c)) l.r.teams
  else (s.nextFit l cl).map (fun f => (s.admitTeam lid l.next f).admitted lid (cl / 12) l)

/-- Inserts by a test of order, after the members that are not later. -/
def insertIf {α : Type} (before : α → α → Bool) (x : α) (xs : List α) : List α :=
  match xs with
  | [] => [x]
  | y :: t => if before x y then x :: y :: t else y :: insertIf before x t

/-- The launches of a class in the order of R402. -/
def State.pickOrder (s : State) (die cls : Nat) (ls : List (Nat × Launch)) : List (Nat × Launch) :=
  let d := s.dieAt die
  let before (a b : Nat × Launch) : Bool :=
    if cls = 2 then
      let x := a.2.deadline.getD 0
      let y := b.2.deadline.getD 0
      decide (x < y) || (decide (x = y) && decide (a.2.id < b.2.id))
    else
      let x := d.pass a.2.ctx cls
      let y := d.pass b.2.ctx cls
      decide (x < y) || (decide (x = y) && (decide (a.2.ctx < b.2.ctx) || (decide (a.2.ctx = b.2.ctx) &&
        (decide (b.2.r.prio < a.2.r.prio) || (decide (a.2.r.prio = b.2.r.prio) && decide (a.2.id < b.2.id))))))
  ls.foldl (fun acc l => insertIf before l acc) []

/-- Tries launches in order: the first that fits is admitted; a launch skipped 64 times reserves the cluster, and that ends the choice
(R402, R404). The Bool says that the choice is over. -/
def State.pickFrom (s : State) (die cl : Nat) (ids : List Nat) : State × Bool :=
  match ids with
  | [] => (s, false)
  | i :: rest =>
    match Tab.find s.launches i with
    | none => s.pickFrom die cl rest
    | some l =>
      match s.tryAdmit i cl l with
      | some t => (t, true)
      | none =>
        let t := s.modLaunch i (fun k => { k with skips := k.skips + 1 })
        if 64 ≤ l.skips + 1 then
          (t.modDie die (fun d => { d with reserved := (cl, i) :: d.reserved.filter (fun p => decide (p.1 ≠ cl)) }), true)
        else t.pickFrom die cl rest

/-- The classes in order; on a reserved cluster a launch of the reserving class or a lower one is admitted only if it is the one that
reserved (R404). -/
def State.pickClasses (s : State) (die cl : Nat) (cs : List Nat) : State :=
  match cs with
  | [] => s
  | c :: rest =>
    let here := s.launches.filter (fun l => decide (l.2.r.cls = c) && s.eligHere die l.1 l.2 && s.granted l.2.ctx cl)
    let ls := match (s.dieAt die).reserved.find? (fun p => decide (p.1 = cl)) with
      | none => here
      | some (_, i) =>
        let k := match Tab.find s.launches i with | some l => l.r.cls | none => 0
        if k < c then here else here.filter (fun l => decide (l.1 = i))
    let r := s.pickFrom die cl ((s.pickOrder die c ls).map (fun l => l.1))
    if r.2 then r.1 else r.1.pickClasses die cl rest

/-- Does a launch hold cores, or places on them, in a context's grant? -/
def State.holdsIn (s : State) (lid x : Nat) : Bool :=
  s.groups.any (fun p => decide (p.2.launch = lid) && (p.2.life.onCore || decide (p.2.life = .parked)) && s.granted x (coreCluster p.2.core))

/-- The victim of R406 for a DEADLINE launch: the lowest class, then the context with the highest pass, then the launch started last. -/
def State.victimFor (s : State) (die : Nat) (l : Launch) : Option Nat :=
  let d := s.dieAt die
  let vs := s.launches.filter (fun v => decide (v.2.st = .running) && decide (v.2.r.cls ≠ 2) && s.holdsIn v.1 l.ctx)
  let worse (a b : Nat × Launch) : Bool :=
    let pa := d.pass a.2.ctx a.2.r.cls
    let pb := d.pass b.2.ctx b.2.r.cls
    decide (a.2.r.cls < b.2.r.cls) || (decide (a.2.r.cls = b.2.r.cls) && (decide (pb < pa) || (decide (pa = pb) &&
      (decide (b.2.began.getD 0 < a.2.began.getD 0) || (decide (a.2.began.getD 0 = b.2.began.getD 0) && decide (b.2.id < a.2.id))))))
  ((vs.foldl (fun acc v => insertIf worse v acc) []).head?).map (fun v => v.1)

/-- A DEADLINE launch whose next team fits nowhere pre-empts one victim, once the victim before has stopped (R406). -/
def State.deadlinePreempt (s : State) (die cl : Nat) : State :=
  let ds := s.pickOrder die 2 (s.launches.filter (fun l => decide (l.2.r.cls = 2) && s.eligHere die l.1 l.2 && s.granted l.2.ctx cl))
  match ds.find? (fun l => !s.fitsAnywhere l.2) with
  | none => s
  | some l =>
    let stopping := s.launches.any (fun v => decide (v.2.st = .preempted) && s.holdsIn v.1 l.2.ctx)
    if stopping then s
    else
      match s.victimFor die l.2 with
      | some v => s.signal v
      | none => s

/-- TEAM_ADMISSION (R402): the dispatcher of cluster `cl` of a die chooses, once what comes back to the cluster is back. -/
def execTeamAdmission (die cl : Nat) (s : State) : Out :=
  .next (
    if 4 ≤ die ∨ 12 ≤ cl ∨ s.comesBackTo (12 * die + cl) = true then s
    else
      let g := 12 * die + cl
      let t := (s.noteAll).pickClasses die g [2, 1, 0]
      (t.deadlinePreempt die g).noteAll)

/-! ### Pacing and slices -/

/-- The stagger of a launch in ns: 16·stag clk of 1.4 GHz (11 R275). -/
def LRec.staggerNs (r : LRec) : Nat := (16 * r.stag * 5 + 6) / 7

/-- STAGGER_EXPIRY (11 R275): the launches whose interval on the die has run out may start their next team; one that is admitted already starts now. -/
def execStaggerExpiry (die : Nat) (s : State) : Out :=
  .next (
    let d := s.dieAt die
    let stays (p : Nat × Nat) : Bool := match Tab.find s.launches p.1 with
      | some l => decide (l.pace = 2) || decide (d.clock < p.2 + l.r.staggerNs)
      | none => false
    let t := s.modDie die (fun d => { d with starts := d.starts.filter stays })
    ((d.starts.filter (fun p => !stays p)).foldl (fun (u : State) p => u.pourDue p.1) t).noteAll)

/-- The operating point that a held launch may have: the hinted one, within what firmware lets its class have (22 R452). -/
def Die.hintFor (d : Die) (l : Launch) : Nat :=
  min l.r.ophint (if l.r.cls = 0 then d.limits.1 else if l.r.cls = 1 then d.limits.2.1 else d.limits.2.2)

/-- OPERATING_POINT_HOLD_END (11 R276): 40 us have passed for held launches, or the highest point that a held launch of the die asks for has settled, which ends
every hold whose point is no higher. -/
def execOperatingPointHoldEnd (die : Nat) (s : State) : Out :=
  .next (
    let d := s.dieAt die
    let mine := s.launches.filter (fun l => decide (l.2.die = die) && l.2.held)
    let since (i : Nat) : Nat := match d.starts.find? (fun p => decide (p.1 = i)) with | some p => p.2 | none => 0
    let late := mine.filter (fun l => decide (since l.1 + 40000 ≤ d.clock))
    let point := if mine.isEmpty || !late.isEmpty then d.point else mine.foldl (fun m l => max m (d.hintFor l.2)) 1
    let out := if late.isEmpty then mine.filter (fun l => decide (l.2.r.ophint ≤ point)) else late
    let t := out.foldl (fun (t : State) l => t.modLaunch l.1 (fun k => { k with held := false })) s
    (t.modDie die (fun k => { k with point := point, starts := k.starts.filter (fun p => !out.any (fun l => decide (l.1 = p.1))) })).noteAll)

/-- Does a launch hold cores, or places on them, in the grant of another that is eligible on the die there (R405)? -/
def State.holdsFor (s : State) (lid : Nat) (o : Nat × Launch) : Bool :=
  s.groups.any (fun p => decide (p.2.launch = lid) && (p.2.life.onCore || decide (p.2.life = .parked)) && s.granted o.2.ctx (coreCluster p.2.core)
    && s.eligHere (coreDie p.2.core) o.1 o.2)

/-- SLICE_END (R405). -/
def execSliceEnd (lid : Nat) (s : State) : Out :=
  .next (match Tab.find s.launches lid with
    | none => s
    | some l =>
      let d := s.dieAt l.die
      let us := if l.r.cls = 1 then d.slices.1 else d.slices.2
      match l.sliceAt with
      | none => s
      | some t =>
        if l.r.cls = 2 ∨ l.st ≠ .running ∨ d.clock < t + 1000 * us then s
        else
          let wants (o : Nat × Launch) : Bool := decide (o.2.ctx ≠ l.ctx) && decide (l.r.cls ≤ o.2.r.cls) && s.holdsFor lid o && !s.fitsAnywhere o.2
          if s.launches.any wants then (s.signal lid).noteAll
          else s.modLaunch lid (fun k => { k with sliceAt := some d.clock }))

/-! ### Channel requests (17 R354) -/

/-- Level-1 contexts: the tenants. -/
def State.tenants (s : State) : List Nat :=
  (s.ctxs.filter (fun p => decide (p.2.depth = 1) && decide (p.2.st ≠ CtxSt.free))).map (fun p => p.1)

/-- A tenant's share s of s/256 on a die. -/
def State.shareOf (s : State) (die x : Nat) : Nat := Tab.findD (s.dieAt die).shares x (256 / max 1 s.tenants.length)

/-- A throttle step after a publication: `os` are the tenant's and the total occupancy, in 1/256 of an entry, of each channel that the
cluster used. -/
def nextThrottle (q share : Nat) (os : List (Nat × Nat)) : Nat :=
  if os.any (fun o => decide (64 * share < o.1) && decide (48 * 256 < o.2)) then min 7 (q + 1)
  else if os.all (fun o => decide (o.1 ≤ 64 * share) || decide (o.2 < 32 * 256)) then q - 1
  else q

/-- The quadruples of a flat list: cluster, tenant, tenant occupancy, total occupancy. -/
def quads (xs : List Nat) : List (Nat × Nat × Nat × Nat) :=
  match xs with
  | a :: b :: c :: d :: r => (a, b, c, d) :: quads r
  | _ => []

/-- BANDWIDTH_PUBLICATION (17 R354). -/
def execBandwidthPublication (die : Nat) (occ : List Nat) (s : State) : Out :=
  .next (
    let qs := quads occ
    let d := s.dieAt die
    let step (cl x : Nat) : Nat × Nat × Nat :=
      let q := match d.throttle.find? (fun p => decide (p.1 = cl) && decide (p.2.1 = x)) with | some p => p.2.2 | none => 0
      (cl, x, nextThrottle q (s.shareOf die x)
        ((qs.filter (fun o => decide (o.1 = cl) && decide (o.2.1 = x))).map (fun o => (o.2.2.1, o.2.2.2))))
    let all := (List.range 12).flatMap (fun i => s.tenants.map (step (12 * die + i)))
    s.modDie die (fun k => { k with throttle := all.filter (fun p => decide (p.2.2 ≠ 0)) }))

end Sys2Proof.Machine
end

