-- ==== Sys2Proof/Machine/Queues.lean ====
section
/-! DEFINITION. Virtual queues: descriptors, doorbells, hardware slots and the fetch of records (19 R395 to R401). -/
namespace Sys2Proof.Machine

/-! ### Descriptors (R395) -/

/-- QCTL of a descriptor at `pa`, and its fields. -/
def State.qctl (s : State) (pa : Nat) : Nat := s.homeWord (pa + 8)

def qLgsz (v : Nat) : Nat := bitsOf v 0 5
def qClass (v : Nat) : Nat := bitsOf v 8 2
def qPrio (v : Nat) : Nat := bitsOf v 10 4
def qDlmode (v : Nat) : Bool := decide (bitsOf v 14 1 = 1)
def qEn (v : Nat) : Bool := decide (bitsOf v 15 1 = 1)
def qSer (v : Nat) : Bool := decide (bitsOf v 16 1 = 1)

/-- Write index and read index. -/
def State.qWrite (s : State) (pa : Nat) : Nat := s.homeDword (pa + 0x10)
def State.qRead (s : State) (pa : Nat) : Nat := s.homeDword (pa + 0x18)

/-- Status that the check of R397 gives the descriptor itself: 0 OK, 1 OVERRUN, 2 BADDESC. -/
def State.qCheck (s : State) (pa : Nat) : Nat :=
  let c := s.qctl pa
  if bitsOf c 17 15 ≠ 0 ∨ bitsOf c 5 3 ≠ 0 ∨ qClass c = 3 ∨ qLgsz c < 4 ∨ 16 < qLgsz c ∨ s.homeWord (pa + 0x0C) ≠ 0
      ∨ s.homeWord (pa + 0x24) ≠ 0 ∨ leNat (s.homeRead (pa + 0x30) 16) ≠ 0 then 2
  else if 2 ^ qLgsz c < (s.qWrite pa + 2 ^ 64 - s.qRead pa) % 2 ^ 64 then 1
  else 0

/-- Writes a status and clears EN (R397). -/
def State.qStop (s : State) (x q pa st : Nat) : State :=
  let c := s.qctl pa
  ((s.homeSetWord (pa + 0x20) st).homeSetWord (pa + 8) (if qEn c then c - 2 ^ 15 else c)).trackVa x ((s.ctxAt x).qtab + 64 * q)

/-- Address of ring entry `i` (R396); the base is 4 KiB aligned. -/
def State.ringVa (s : State) (pa i : Nat) : Dword :=
  BitVec.ofNat 64 (s.homeDword pa / 4096 * 4096 + 64 * (i % 2 ^ qLgsz (s.qctl pa)))

/-- The record of a ring that does not translate (R397, 21 R426). -/
def State.queueRcd (s : State) (x q : Nat) (addr : Dword) (e : XFault) : State :=
  s.raiseEvent x [{ rcdInit with
    cause := e.cause, stage := e.stage, level := e.level, kind := 4, acc := 1, ctx := x, missCtx := e.missCtx, addr := addr
    w30 := BitVec.ofNat 64 q, w38 := 3, cls := RecClass.queue, dest := (s.ctxAt x).parent }]

/-- The check of R397 on a queue: whether it is good, the status and the record where it is not. The ring is looked up where an entry is pending. -/
def State.checkQueue (s : State) (die x q pa : Nat) : Bool × State :=
  match s.qCheck pa with
  | 0 =>
    if s.qRead pa = s.qWrite pa then (true, s)
    else
      let va := s.ringVa pa (s.qRead pa)
      match s.walkVa die x true va .read with
      | .error e => (false, ((s.traced e.tr).qStop x q pa 3).queueRcd x q va e)
      | .ok _ => (true, s)
  | n => (false, s.qStop x q pa n)

/-- Has the queue an entry that its slot knows of (R396)? -/
def State.slotPending (s : State) (k : QSlot) : Bool := decide (s.qRead k.desc ≠ k.write)

/-- A slot reads its queue's write index (R399), at a place in the log. -/
def QSlot.reads (k : QSlot) (write mark : Nat) : QSlot := { k with write := write, seen := k.seen ++ [(write, mark)] }

/-- The bytes of ring entry `i` at `pa` as they were when the slot first knew it pending, where software has rewritten it since. -/
def State.entryThen (s : State) (k : QSlot) (i pa : Nat) : Option (List Byte) :=
  match k.seen.find? (fun p => decide (i < p.1)) with
  | none => none
  | some (_, mark) =>
    let log := (s.codeLog.take (s.codeLog.length - mark)).filter (fun e => decide (pa ≤ e.1) && decide (e.1 < pa + 64))
    if log.isEmpty then none
    else some ((List.range 8).flatMap (fun j =>
      match (log.filter (fun e => decide (e.1 = pa + 8 * j))).getLast? with
      | some e => leBytes 8 e.2.toNat
      | none => s.homeRead (pa + 8 * j) 8))

/-- The record fetched from entry `i`: of an entry rewritten while it was pending, the old one or the new one, as a whole (R396). -/
def State.entryBytes (s : State) (k : QSlot) (i pa : Nat) : List Byte × State :=
  match s.entryThen k i pa with
  | none => (s.homeRead pa 64, s)
  | some old => (if Config.freeBool s.freeCtr then old else s.homeRead pa 64, s.useFree 1)

/-- Submissions of a queue that are accepted and not complete. -/
def State.queueOpen (s : State) (x q : Nat) : Nat :=
  (s.journal.filter (fun j => decide (j.1 = x) && decide (j.2.1 = q))).length

/-! ### Binding (R399) -/

def State.slotAt (s : State) (die n : Nat) : QSlot := (s.dieAt die).slots.getD n slotInit

def State.setSlot (s : State) (die n : Nat) (k : QSlot) : State := s.modDie die (fun d => { d with slots := d.slots.set n k })

/-- The slots of the package: die and number. -/
def slotList : List (Nat × Nat) := (List.range 4).flatMap (fun d => (List.range 24).map (fun n => (d, n)))

/-- The slot that holds a queue. -/
def State.slotOf (s : State) (x q : Nat) : Option (Nat × Nat) :=
  slotList.find? (fun p => let k := s.slotAt p.1 p.2; decide (k.st ≠ SlotSt.free) && decide (k.ctx = x) && decide (k.q = q))

/-- The die that receives a context's doorbell writes (log 30): the lowest of its grant. -/
def State.bellDie (s : State) (x : Nat) : Nat :=
  match s.grantClusters x with | c :: _ => c / 12 | [] => 0

/-- The slot that R399 chooses for a queue of class `cls`. -/
def State.chooseSlot (s : State) (die cls : Nat) : Option (Nat × Nat) :=
  let at' (p : Nat × Nat) : QSlot := s.slotAt p.1 p.2
  match slotList.find? (fun p => decide (p.1 = die) && decide ((at' p).st = SlotSt.free)) with
  | some p => some p
  | none =>
    let bound := slotList.filter (fun p => decide ((at' p).st = SlotSt.bound))
    match leastBy (fun p => (at' p).rung)
        (bound.filter (fun p => decide (s.qRead (at' p).desc = s.qWrite (at' p).desc) && decide ((at' p).inFlight = 0))) with
    | some p => some p
    | none =>
      if cls = 1 ∨ cls = 2 then
        leastBy (fun p => qPrio (s.qctl (at' p).desc) * 2 ^ 64 + (at' p).rung)
          (bound.filter (fun p => decide (qClass (s.qctl (at' p).desc) = 0)))
      else none

/-- Binds a queue to a slot: counters cleared (R401), the write index read. -/
def State.bindSlot (s : State) (p : Nat × Nat) (x q pa : Nat) : State :=
  let k := s.slotAt p.1 p.2
  s.setSlot p.1 p.2 { k with
    st := SlotSt.bound, ctx := x, q := q, desc := pa, fetched := 0, completed := 0, inFlight := s.queueOpen x q
    rung := (s.dieAt p.1).clock, write := s.qWrite pa, seen := [(s.qWrite pa, s.codeLog.length)] }

/-- The doorbell of a queue: check, then its slot reads the write index, or it is bound; where no slot qualifies it is kept. -/
def State.ring (s : State) (x q : Nat) : State :=
  let die := s.bellDie x
  let va := BitVec.ofNat 64 ((s.ctxAt x).qtab + 64 * q)
  match s.walkVa die x true va .write with
  | .error e => (s.traced e.tr).queueRcd x q va e
  | .ok r =>
    if r.void then s.traced r.tr
    else
      let c := (s.traced r.tr).checkQueue die x q r.pa
      let t := c.2
      if !c.1 then t
      else
        match t.slotOf x q with
        | some p =>
          let k := t.slotAt p.1 p.2
          t.setSlot p.1 p.2 { k.reads (t.qWrite k.desc) t.codeLog.length with rung := (t.dieAt p.1).clock }
        | none =>
          match t.chooseSlot die (qClass (t.qctl r.pa)) with
          | some p => t.bindSlot p x q r.pa
          | none => t.modDie die (fun d => { d with bells := if d.bells.contains (x, q) then d.bells else d.bells ++ [(x, q)] })

/-- Tries kept doorbells again, each once. -/
def State.ringAll (s : State) (bs : List (Nat × Nat)) : State :=
  match bs with
  | [] => s
  | b :: rest => (s.ring b.1 b.2).ringAll rest

/-- Unbinds the slots of a context (R401): what they fetched is accepted, so they are FREE at once; kept doorbells are tried again. -/
def State.unbindCtx (s : State) (x : Nat) : State :=
  let bells := s.dies.flatMap (fun d => d.bells.filter (fun b => decide (b.1 ≠ x)))
  let t := { s with dies := s.dies.map (fun (d : Die) => { d with
    bells := []
    slots := d.slots.map (fun (k : QSlot) => if k.st ≠ SlotSt.free ∧ k.ctx = x then { k with st := SlotSt.free, ctx := 0, q := 0, desc := 0 } else k) }) }
  State.ringAll t bells

/-! ### DOORBELL -/

/-- The context whose doorbell word stands at a system physical address, or whose function has the page (R396): the page of
function `vf` stands at 2^52 + 4096·vf (log 30). -/
def State.bellCtx (s : State) (addr : Nat) : Option Nat :=
  if 2 ^ 52 ≤ addr then
    if (addr - 2 ^ 52) % 4096 = 0 then some (Tab.findD s.pkg.vfs ((addr - 2 ^ 52) / 4096) 0) else none
  else
    (s.ctxs.find? (fun c => decide (c.2.doorbell ≠ 0) &&
      (match s.walkVa 0 c.1 true (BitVec.ofNat 64 c.2.doorbell) .read with
       | .ok r => !r.void && decide (r.pa = addr)
       | .error _ => false))).map (fun c => c.1)

/-- DOORBELL (R396): a write of `val` to a doorbell word. -/
def execDoorbell (addr val : Nat) (s : State) : Out :=
  .next (
    if addr < 2 ^ 52 ∧ s.homeWord addr ≠ val then s
    else
      match s.bellCtx addr with
      | none => s
      | some x =>
        let c := s.ctxAt x
        if val / 2 ^ 16 ≠ 0 ∨ c.qcount ≤ val ∨ ¬(c.st = .active ∨ c.st = .frozen) then s
        else s.ring x val)

/-! ### QUEUE_FETCH -/

/-- The absolute deadline of a DEADLINE launch (R398): under DLMODE 1 the u64 at its parameters, which may not be readable. -/
def State.fetchDeadline (s : State) (die x : Nat) (r : LRec) (dlmode : Bool) : Option (Option Nat) :=
  if r.cls ≠ 2 ∨ dlmode = false then none
  else
    match s.walkVa die x r.priv r.params .read with
    | .error _ => some none
    | .ok w => some (some (if w.void then 0 else s.homeDword w.pa))

/-- QUEUE_FETCH (R397, R398, R401): one record in ring order is journaled and handed to the launch processor, which accepts it. -/
def execQueueFetch (die n : Nat) (s : State) : Out :=
  .next (
    let k := s.slotAt die n
    let x := k.ctx
    if k.st ≠ .bound ∨ s.runs x = false ∨ s.slotPending k = false ∨ qEn (s.qctl k.desc) = false then s
    else
      let c := s.checkQueue die x k.q k.desc
      let t := c.2
      if !c.1 then t
      else
        let i := t.qRead k.desc
        let ctl := t.qctl k.desc
        match t.walkVa die x true (t.ringVa k.desc i) .read with
        | .error _ => t
        | .ok w =>
          let b := if w.void then (List.replicate 64 0, t.traced w.tr) else (t.traced w.tr).entryBytes k i w.pa
          let r := { readRecord b.1 with cls := qClass ctl, prio := qPrio ctl }
          if k.flim + 1 ≤ k.inFlight ∨ (qSer ctl = true ∧ t.queueOpen x k.q ≠ 0) ∨ t.procFree die = false
              ∨ (t.fetchDeadline die x r (qDlmode ctl) ≠ some none ∧ t.storageReady x (t.ctxAt x).qpriv r = false) then t
          else
            let u := ((b.2.l2Touch w.pa).homeSetDword (k.desc + 0x18) ((i + 1) % 2 ^ 64)).trackVa x ((t.ctxAt x).qtab + 64 * k.q)
            let v := u.setSlot die n { k with
              fetched := k.fetched + 1, inFlight := k.inFlight + 1, write := u.qWrite k.desc
              seen := k.seen.filter (fun p => decide (i + 1 < p.1)) ++ [(u.qWrite k.desc, u.codeLog.length)] }
            v.acceptRecord
              ⟨die, x, (v.ctxAt x).qpriv, none, some (k.q, i), (v.dieAt die).clock, v.fetchDeadline die x r (qDlmode ctl),
                k.pace, k.th, k.thEn, none⟩ r true)

end Sys2Proof.Machine
end

