-- ==== Sys2Proof/Machine/FwMem.lean ====
section
/-! DEFINITION. Firmware's accesses to a context's memory (18 R387, R392; 21 R415, R423, R425; 13 R320, R321): translated under the
context and performed at the home slices. -/
namespace Sys2Proof.Machine

/-- An address of a context, as firmware translates it; an address of context 0 is a system physical address (log 31). -/
def State.addrOf (s : State) (x : Nat) (sup : Bool) (va : Nat) (k : AccK) : Except XFault XOk :=
  if x = 0 then
    match reachOf s.pkg.id va with
    | .nothing => .error ⟨0x10, 1, 0xFF, false, false, 0, va, XTrace.none⟩
    | _ => .ok ⟨va, false, none, [], XTrace.none⟩
  else s.walkVa 0 x sup (BitVec.ofNat 64 va) k

/-- Pieces of `n` bytes at `va` that lie within 64 B. -/
def pieces64 (fuel va n : Nat) : List (Nat × Nat) :=
  match fuel with
  | 0 => []
  | f + 1 =>
    if n = 0 then []
    else
      let k := min n (64 - va % 64)
      (va, k) :: pieces64 f (va + k) (n - k)

/-- The fault of the first piece that does not translate with the access. -/
def State.piecesFault (s : State) (x : Nat) (sup : Bool) (k : AccK) (ps : List (Nat × Nat)) : Option (Nat × XFault) :=
  match ps with
  | [] => none
  | p :: rest =>
    match s.addrOf x sup p.1 k with
    | .error e => some (p.1, e)
    | .ok _ => s.piecesFault x sup k rest

/-- The fault of an access to `n` bytes at `va`, with the address that faulted. -/
def State.fwFault (s : State) (x : Nat) (sup : Bool) (va n : Nat) (k : AccK) : Option (Nat × XFault) :=
  s.piecesFault x sup k (pieces64 (n / 64 + 2) va n)

/-- The bytes of translated pieces; a frame of another world gives zeros (22 R442). -/
def State.readPieces (s : State) (x : Nat) (sup : Bool) (ps : List (Nat × Nat)) : List Byte :=
  ps.flatMap (fun p =>
    match s.addrOf x sup p.1 .read with
    | .error _ => List.replicate p.2 0
    | .ok r => if r.void then List.replicate p.2 0 else s.readHome true r.pa p.2)

/-- Reads `n` bytes at `va`; none where a page faults. -/
def State.fwRead (s : State) (x : Nat) (sup : Bool) (va n : Nat) : Option (List Byte) :=
  let ps := pieces64 (n / 64 + 2) va n
  match s.piecesFault x sup .read ps with
  | some _ => none
  | none => some (s.readPieces x sup ps)

/-- Writes the pieces of `bs`; a write to a frame of another world is dropped. -/
def State.writePieces (s : State) (x : Nat) (sup : Bool) (ps : List (Nat × Nat)) (bs : List Byte) : State :=
  match ps with
  | [] => s
  | p :: rest =>
    match s.addrOf x sup p.1 .write with
    | .error _ => s.writePieces x sup rest (bs.drop p.2)
    | .ok r =>
      let t := if r.void then s else ((s.traced r.tr).homeWrite r.pa (bs.take p.2) true).trackPath (s.chain x) r.path
      t.writePieces x sup rest (bs.drop p.2)

/-- Writes `bs` at `va`; none, with nothing written, where a page faults. -/
def State.fwWrite (s : State) (x : Nat) (sup : Bool) (va : Nat) (bs : List Byte) : Option State :=
  let ps := pieces64 (bs.length / 64 + 2) va bs.length
  match s.piecesFault x sup .write ps with
  | some _ => none
  | none => some (s.writePieces x sup ps bs)

/-! ### Message-signalled interrupts (22 R447) -/

/-- The physical function's number beside the virtual functions 0 to 383 (log 35). -/
def physFn : Nat := 384

/-- A function's command page. -/
def State.fnPage (s : State) (f : Nat) : CmdPage := Tab.findD s.pkg.pages f ⟨List.replicate 128 0, 0, []⟩

def State.setPage (s : State) (f : Nat) (p : CmdPage) : State := { s with pkg := { s.pkg with pages := Tab.put s.pkg.pages f p } }

/-- Vector `v` of a function is raised: its pending bit is set. -/
def State.msi (s : State) (f v : Nat) : State :=
  let p := s.fnPage f
  s.setPage f { p with msix := p.msix ||| BitVec.twoPow 64 v }

/-- The functions that context `x` has: the physical function is context 0's (21 R436). -/
def State.functionsOf (s : State) (x : Nat) : List Nat :=
  if x = 0 then [physFn] else (s.pkg.vfs.filter (fun p => decide (p.2 = x))).map (fun p => p.1)

/-- Vector 1 of the functions whose context's notify block was posted to. -/
def State.notified (s : State) (x : Nat) : State := (s.functionsOf x).foldl (fun (t : State) f => t.msi f 1) s

/-! ### A handler queue's rings (21 R423) -/

/-- Slots of a ring. -/
def Ctx.ringSize (c : Ctx) : Nat := 2 ^ c.lgsz

/-- The notify block's count. -/
def State.ringCount (s : State) (x : Nat) : Option Nat := (s.fwRead x true (s.ctxAt x).notify 8).map leNat

/-- Writes an entry into the slot that the count names, of slots of `size` bytes from `base`, then adds 1 to the count; `busy` says which
slots are in use. The answer is none where an address faults, and the slot taken. -/
def State.ringPut (s : State) (x base size : Nat) (busy : Nat → Bool) (bs : List Byte) : Option (Option (Nat × State)) :=
  let c := s.ctxAt x
  match s.ringCount x with
  | none => none
  | some n =>
    let slot := n % c.ringSize
    if busy slot then some none
    else
      match s.fwWrite x true (base + size * slot) bs with
      | none => none
      | some t => (t.fwWrite x true c.notify (leBytes 8 ((n + 1) % 2 ^ 64))).map (fun u => some (slot, u))

/-- Is a class taken by a context's handler queue? -/
def RecClass.bit (c : RecClass) : Nat :=
  match c with | .mem => 0 | .trap => 1 | .queue => 2 | .child => 3 | .link => 4 | .world => 5

end Sys2Proof.Machine
end

