-- ==== Sys2Proof/Machine/Service.lean ====
section
/-! DEFINITION. Service calls (18 R387 to R394). -/
namespace Sys2Proof.Machine

/-! ### SVC.D, SVC.C (R387) -/

/-- The request entry of an SVC that is being issued: arguments are the four registers of each active lane. -/
def State.callEntry (s : State) (g : Grp) (f : Frag) (x : SvcD) : CallEntry :=
  let d := s.dieAt (coreDie g.core)
  let mask (o : Option Frag) : BitVec 32 := match o with | some k => k.mask | none => 0
  { seq := (d.seq + 1) % 2 ^ 32, imm := ((s.iss.words.getLast?).getD 0).extractLsb' 0 24, ctx := g.ctx, launch := g.launch
    g := s.iss.g, core := g.core, fidx := g.fidx, slot := s.iss.slot, m := f.mask, masks := pair (mask g.f1) (mask g.f0)
    nsplit := g.split.length, pc := s.iss.pc, n := (g.tlLast 6).toNat, issued := s.clockOf g.core
    slots := (List.range 32).map (fun l => (List.range 4).map (fun i => if f.mask.getLsbD l then g.vreg (x.n.toNat + i) l else 0))
    lines := (List.range 4).map (fun i => g.vline (x.n.toNat + i)), sup := g.sup, lost := false }

/-- Puts the request of an SVC into its die's ring, with its tl6 number. -/
def State.requestCall (s : State) (x : SvcD) : State :=
  let g := s.grp s.iss.g
  match g.frag s.iss.slot with
  | none => s
  | some f =>
    let h := g.tlAssign 6 1
    let e := s.callEntry h f x
    (s.setGrp s.iss.g h).modDie (coreDie g.core) (fun d => { d with seq := e.seq, calls := d.calls ++ [e] })

/-- The fragment being issued waits for the reply to call `n`, at the word after the SVC (R390, 20 R410); at the end of a clause it arrives once the wait is over. -/
def State.awaitReply (s : State) (n : Nat) : State :=
  s.modGrp s.iss.g (fun (g : Grp) => match g.frag s.iss.slot with
    | some f => g.setFrag s.iss.slot (some { f with
        pos := s.iss.after, wait := .service (BitVec.ofNat 64 n), arriving := s.iss.last, starved := false, loadFree := false })
    | none => g)

/-- SVC.D (R387, R390): it waits for its reply. -/
def execSvcD (x : SvcD) (s : State) : Out :=
  issue (.svcD x) s (fun _ f => f.mask) (fun s g _ =>
    if s.ringFull g.core g.ctx then s.waitHere .ring
    else s.withRelease g 5 (fun s =>
      let t := s.requestCall x
      t.awaitReply ((t.grp s.iss.g).tlLast 6).toNat))

/-- SVC.C (R387, R392): the fragment goes on. -/
def execSvcC (x : SvcD) (s : State) : Out :=
  issue (.svcC x) s (fun _ f => f.mask) (fun s g _ =>
    if s.ringFull g.core g.ctx then s.waitHere .ring
    else s.withRelease g 5 (fun s =>
      let t := s.requestCall x
      t.finish (t.grp s.iss.g)))

/-! ### Taking a request (R387) -/

/-- Is a die's service complex resetting (22 R454)? -/
def State.svcDown (s : State) (die : Nat) : Bool := decide ((s.dieAt die).clock < (s.dieAt die).svcBack)

/-- Call number of an entry, and whether it is of the control class. -/
def CallEntry.number (e : CallEntry) : Nat := (e.imm.extractLsb' 0 16).toNat
def CallEntry.control (e : CallEntry) : Bool := e.imm.getLsbD 23

/-- The bytes of a request entry (R388). -/
def CallEntry.bytes (e : CallEntry) : List Byte :=
  leBytes 4 e.seq ++ leBytes 4 e.imm.toNat ++ leBytes 2 e.ctx ++ leBytes 2 e.core ++ leBytes 1 e.fidx ++ leBytes 1 e.slot
    ++ leBytes 2 0 ++ leBytes 4 e.m.toNat ++ leBytes 8 e.masks.toNat ++ leBytes 4 e.nsplit ++ leBytes 8 e.pc.toNat
    ++ leBytes 8 e.n ++ leBytes 8 e.issued ++ leBytes 8 0
    ++ (e.slots.flatMap (fun ws => ws.flatMap (fun (w : Word) => leBytes 4 w.toNat)))

/-- The context whose handler serves the entry: none when a service core serves it itself. -/
def State.callHandler (s : State) (e : CallEntry) : Option Nat :=
  let p := (s.ctxAt e.ctx).parent
  if e.number < 0x8000 ∨ (s.ctxAt p).mask.getLsbD 6 = false then none else some p

/-- Takes an entry out of a die's ring, to serve it or to copy it into the call ring of its handler; it stays while that ring is full. A
call ring that faults disables the handler queue, as a record ring does (21 R425). -/
def State.takeCall (s : State) (die : Nat) (e : CallEntry) : Option State :=
  let out (t : State) : State := t.modDie die (fun d => { d with calls := d.calls.erase e })
  let serve (t : State) : State := (out t).modDie die (fun d => { d with serving := d.serving ++ [e] })
  match s.callHandler e with
  | none => some (serve s)
  | some p =>
    let c := s.ctxAt p
    if c.ringSize ≤ c.calls.length then none
    else
      match s.ringPut p c.callRing 576 (fun n => (Tab.find c.calls n).isSome) e.bytes with
      | none => some (serve (s.modCtx p (fun k => { k with mask := 0 })))
      | some none => none
      | some (some (n, t)) => some (((out t).modCtx p (fun k => { k with calls := Tab.put k.calls n e })).notified p)

/-! ### Replies (R389 to R393) -/

/-- Where a taken call stands: a die's service cores, or a handler's call ring and slot. -/
inductive CallAt where
  | die (d : Nat)
  | ring (x slot : Nat)
  deriving DecidableEq, Repr

/-- The taken call of group `g` with tl6 number `n`. -/
def State.callOf (s : State) (g n : Nat) : Option (CallAt × CallEntry) :=
  let mine (e : CallEntry) : Bool := decide (e.g = g) && decide (e.n = n)
  match (List.range 4).findSome? (fun d => ((s.dieAt d).serving.find? mine).map (fun e => (CallAt.die d, e))) with
  | some r => some r
  | none => s.ctxs.findSome? (fun c => (c.2.calls.find? (fun p => mine p.2)).map (fun p => (CallAt.ring c.1 p.1, p.2)))

/-- The bytes of a handler's reply entry, if its sequence number and tl6 number are the call's (R390). -/
def State.replyEntry (s : State) (x slot : Nat) (e : CallEntry) : Option (List Byte) :=
  match s.fwRead x true ((s.ctxAt x).callRing + 576 * slot) 576 with
  | none => none
  | some bs =>
    if leNat (bs.take 4) = e.seq ∧ leNat ((bs.drop 0x28).take 8) = e.n then some bs else none

/-- The result words by lane of a firmware service (R389). -/
def State.serviceWords (s : State) (die : Nat) (e : CallEntry) : List (List Word) :=
  if e.number = 0 then e.slots
  else if e.number = 1 then
    let t := BitVec.ofNat 64 (s.dieAt die).clock
    List.replicate 32 [lo32 t, hi32 t, 0, 0]
  else List.replicate 32 (List.replicate 4 0xFFFFFFFF#32)

/-- The result words by lane of a reply entry (R390). -/
def replyWords (bs : List Byte) : List (List Word) :=
  (List.range 32).map (fun l => (List.range 4).map (fun i => BitVec.ofNat 32 (leNat ((bs.drop (0x40 + 16 * l + 4 * i)).take 4))))

/-- A fragment that waits for call `n` waits no more. -/
def Frag.replied (f : Frag) (n : Nat) : Frag :=
  match f.wait with
  | .service m => if m.toNat = n then { f with wait := .service 0 } else f
  | _ => f

/-- The same in a split-table entry. -/
def SplitEntry.replied (n : Nat) (e : SplitEntry) : SplitEntry :=
  match e.kind with
  | .spilled f => { e with kind := .spilled (f.replied n) }
  | _ => e

/-- The wait for call `n` ends wherever the fragment stands: in a slot, the split table, or a trap frame (R390, R393). -/
def Grp.replied (g : Grp) (n : Nat) : Grp :=
  let fr (o : Option Frag) : Option Frag := o.map (fun f => f.replied n)
  let sp (t : Tab SplitEntry) : Tab SplitEntry := t.map (fun p => (p.1, p.2.replied n))
  { g with f0 := fr g.f0, f1 := fr g.f1, split := sp g.split
           frame := g.frame.map (fun k => { k with f0 := fr k.f0, f1 := fr k.f1, split := sp k.split }) }

/-- The results go to the lanes of M, through the lines resolved at issue (R390). -/
def Grp.applyReply (g : Grp) (e : CallEntry) (ws : List (List Word)) : Grp :=
  let put (k : Grp) (p : Nat × Nat) : Grp :=
    if p.1 < k.nlines then k.writeLine p.1 e.m (fun l => (ws.getD l []).getD p.2 0) else k
  (((e.lines.zipIdx).foldl put g).replied e.n).tlComplete 6 e.n

/-- A call is answered: it is gone, and its launch no longer waits for it (R391). -/
def State.callDone (s : State) (w : CallAt) (e : CallEntry) : State :=
  let t := match w with
    | .die d => s.modDie d (fun k => { k with serving := k.serving.erase e })
    | .ring x n => s.modCtx x (fun c => { c with calls := Tab.drop c.calls n })
  t.modLaunch e.launch (fun l => { l with calls := l.calls.filter (fun c => decide (c ≠ callKey e.g e.n)) })

/-- SERVICE_CALL_REPLY (R389, R390): the reply to a data-class call; a reply to a group that is gone is discarded (R393). A result is held while a matrix operation uses
its lines (08 R219, R226). -/
def execServiceCallReply (g n : Nat) (s : State) : Out :=
  .next (match s.callOf g n with
    | none => s
    | some (w, e) =>
      if e.control || !(s.grp g).canLand e.lines then s
      else
        let ws := match w with
          | .die d => some (s.serviceWords d e)
          | .ring x slot => (s.replyEntry x slot e).map replyWords
        match ws with
        | none => s
        | some ws => (s.callDone w e).modGrp g (fun k => k.applyReply e ws))

/-- Writes a reply block through the caller's translation (R392); nothing where it does not translate. -/
def State.replyBlock (s : State) (e : CallEntry) (status : Nat) (results : List Byte) : State :=
  let l := (lanesOf e.m).headD 0
  let ws := e.slots.getD l []
  let a := pair (ws.getD 1 0) (ws.getD 0 0)
  let res := (results ++ List.replicate 24 (0 : Byte)).take 24
  if a.toNat % 32 ≠ 0 then s
  else (s.fwWrite e.ctx e.sup a.toNat (leBytes 4 (2 ^ 31 + status % 2 ^ 16) ++ leBytes 4 0 ++ res)).getD s

/-- CONTROL_REPLY (R392): the reply to a control-class call; 0xFFFF where there is no service or handler (R389). The block of a group that has retired is written all
the same (01 R37); a reply to a group that has been ended is discarded (R393). -/
def execControlReply (g n status : Nat) (results : List Byte) (s : State) : Out :=
  .next (match s.callOf g n with
    | none => s
    | some (w, e) =>
      if !e.control then s
      else
        let st := match w with
          | .die _ => some (if e.number ≤ 1 then status else 0xFFFF)
          | .ring x slot => (s.replyEntry x slot e).map (fun _ => status)
        match st with
        | none => s
        | some st =>
          let t := s.callDone w e
          if e.lost then t else (t.replyBlock e st results).modGrp g (fun k => k.tlComplete 6 n))

end Sys2Proof.Machine
end

