-- ==== Sys2Proof/Machine/Records.lean ====
section
/-! DEFINITION. Fault records on their way to handler queues, and the replies to them (17 R370; 21 R423, R425 to R427; 05 R150; 07 R199;
12 R299). -/
namespace Sys2Proof.Machine

/-- The 64 bytes of a record (17 R370). -/
def Rcd.bytes (r : Rcd) : List Byte :=
  leBytes 4 r.tag.toNat ++ leBytes 1 r.idx ++ leBytes 1 r.cnt ++ leBytes 2 r.flags.toNat ++ leBytes 1 r.cause ++ leBytes 1 r.stage
    ++ leBytes 1 r.level ++ leBytes 1 (16 * r.kind + r.acc) ++ leBytes 2 r.ctx ++ leBytes 2 r.missCtx ++ leBytes 8 r.addr.toNat
    ++ leBytes 8 r.missPa.toNat ++ leBytes 8 r.pc.toNat ++ leBytes 4 r.lanes.toNat ++ leBytes 2 r.core ++ leBytes 1 r.fidx
    ++ leBytes 1 r.opcode ++ leBytes 8 r.w30.toNat ++ leBytes 4 r.w38.toNat ++ leBytes 4 r.w3c.toNat

/-! ### What a reply does -/

/-- One reply for a group is in (R150). -/
def State.groupReply (s : State) (g : Nat) : State := s.modGrp g (fun k => { k with replies := k.replies - 1 })

/-- One record that holds a launch's completion is answered (18 R380). -/
def State.unhold (s : State) (l : Nat) : State := s.modLaunch l (fun k => { k with holds := k.holds - 1 })

/-- The launch of a copy. -/
def State.copyLaunch (s : State) (core k : Nat) : Option Nat := (Tab.find (s.coreAt core).copies k).map (fun c => c.launch)

/-- RETRY (R150; 12 R299; 07 R199): the group resumes once every reply is in, a copy goes on, a launch's held line is written back again. -/
def State.retry (s : State) (r : Rcd) : State :=
  match r.subj with
  | .group g => s.groupReply g
  | .copy core k =>
    (match Tab.find (s.coreAt core).copies k with
     | none => s
     | some c =>
       (s.modCore core (fun q => { q with copies := Tab.put q.copies k { c.anew with faulted := false } })).unhold c.launch)
  | .launchWb lid core va =>
    (match Tab.find s.launches lid with
     | none => s
     | some l =>
       let t := s.unhold lid
       match t.l1Find core l.ctx va with
       | none => t
       | some ln =>
         match t.writeBackLine core l.r.priv ln with
         | .ok u => u.l1Put core { ln with dirty := 0, held := false }
         | .error _ => t.launchWbRcds core lid l [ln])
  | .other => s

/-- The dirty bytes of a line whose write-back was denied are discarded, and the discard is logged with the record (07 R199). -/
def State.discardLine (s : State) (core x va : Nat) (r : Rcd) : State :=
  let t := s.l1Drop core x va
  { t with pkg := { t.pkg with logged := t.pkg.logged ++ [r] } }

/-- The line that a record of a release's write-back (kind 2) names. -/
def State.dropDenied (s : State) (r : Rcd) : State := if r.kind = 2 then s.discardLine r.core r.ctx (va48 r.addr) r else s

/-- END (R150; 12 R299; 07 R199): the group's launch is ended, as is a copy's; a launch's held line is dropped. -/
def State.endRecord (s : State) (r : Rcd) : State :=
  match r.subj with
  | .group g =>
    (match Tab.find s.groups g with
     | none => s
     | some k => ((s.groupReply g).dropDenied r).endLaunch k.launch)
  | .copy core k =>
    (match s.copyLaunch core k with
     | none => s
     | some l => ((s.modCore core (fun q => { q with copies := Tab.drop q.copies k })).unhold l).endLaunch l)
  | .launchWb lid core va =>
    (match Tab.find s.launches lid with
     | none => s
     | some l => (s.discardLine core l.ctx va r).unhold lid)
  | .other => s

/-- What firmware does with a record that no ring takes (R425): END where a reply is waited for, else it is logged. -/
def State.noRing (s : State) (r : Rcd) : State :=
  match r.subj with
  | .other => { s with pkg := { s.pkg with logged := s.pkg.logged ++ [r] } }
  | _ => s.endRecord r

/-! ### Posting (R423, R425) -/

/-- Posts a record to the first handler queue from context `c` upward whose mask takes its class; one whose ring is full keeps the
record waiting in firmware. No context is deeper than 4. -/
def State.postTo (s : State) (fuel c : Nat) (r : Rcd) : State :=
  match fuel with
  | 0 => s.noRing r
  | f + 1 =>
    let cx := s.ctxAt c
    let up (t : State) : State :=
      if c = 0 then t.noRing r else t.postTo f cx.parent { r with flags := r.flags ||| fUnhandled }
    if cx.mask.getLsbD r.cls.bit = false then up s
    else if cx.ringSize ≤ cx.posted.length ∨ cx.backlog.isEmpty = false then s.modCtx c (fun k => { k with backlog := k.backlog ++ [r] })
    else
      match s.ringPut c cx.ring 64 (fun n => (Tab.find cx.posted n).isSome) r.bytes with
      | none => up (s.modCtx c (fun k => { k with mask := 0 }))
      | some none => s.modCtx c (fun k => { k with backlog := k.backlog ++ [r] })
      | some (some (n, t)) => (t.modCtx c (fun k => { k with posted := Tab.put k.posted n r })).notified c

/-- After a reply has freed a slot, the records that wait are posted in order. -/
def State.postBacklog (s : State) (c : Nat) : State :=
  let cx := s.ctxAt c
  let t := s.modCtx c (fun k => { k with backlog := [] })
  cx.backlog.foldl (fun (u : State) r => u.postTo 6 c r) t

/-- Takes record `i` out of those raised. -/
def State.dropRecord (s : State) (i : Nat) : State := { s with records := s.records.eraseIdx i }

/-- The context whose queue takes a record's class, from `c` upward (R425). -/
def State.queueOf (s : State) (fuel c : Nat) (r : Rcd) : Option Nat :=
  match fuel with
  | 0 => none
  | f + 1 =>
    if (s.ctxAt c).mask.getLsbD r.cls.bit then some c
    else if c = 0 then none
    else s.queueOf f (s.ctxAt c).parent r

/-- Does an earlier record of the same event for the same queue stand before record `i` (17 R372)? -/
def State.recordBehind (s : State) (i : Nat) (r : Rcd) : Bool :=
  (s.records.take i).any (fun o => decide (o.ctx = r.ctx) && decide (o.tag = r.tag) && decide (s.queueOf 6 o.dest o = s.queueOf 6 r.dest r))

/-- Posts record `i`, unless a record of its event must come first. -/
def State.postRecord (s : State) (i : Nat) : State :=
  match s.records[i]? with
  | none => s
  | some r => if s.recordBehind i r then s else (s.dropRecord i).postTo 6 r.dest r

/-! ### Replies (R427) -/

/-- The record in a slot with the code of its reply word, where the tag matches. -/
def State.replyAt (s : State) (c slot : Nat) : Option (Rcd × Nat) :=
  match Tab.find (s.ctxAt c).posted slot with
  | none => none
  | some r =>
    match s.fwRead c true ((s.ctxAt c).replies + 8 * slot) 8 with
    | none => none
    | some bs => if leNat (bs.drop 4) = r.tag.toNat then some (r, leNat (bs.take 1)) else none

/-- A reply is taken: the word is written to 0, the slot is free, `act` is done, and waiting records come in. -/
def State.takeReply (s : State) (c slot : Nat) (act : State → State) : State :=
  let t := (s.fwWrite c true ((s.ctxAt c).replies + 8 * slot) (leBytes 8 0)).getD s
  (act (t.modCtx c (fun k => { k with posted := Tab.drop k.posted slot }))).postBacklog c

/-- RETRY (R427, R150). -/
def execRetryReply (c slot : Nat) (s : State) : Out :=
  .next (match s.replyAt c slot with
    | some (r, 1) => s.takeReply c slot (fun t => t.retry r)
    | _ => s)

/-- END (R427, R150). -/
def execEndReply (c slot : Nat) (s : State) : Out :=
  .next (match s.replyAt c slot with
    | some (r, 2) => s.takeReply c slot (fun t => t.endRecord r)
    | _ => s)

/-- PASS (R427): to the parent, marked UNHANDLED; on the physical function's ring as for a class that no ring takes. -/
def execPassReply (c slot : Nat) (s : State) : Out :=
  .next (match s.replyAt c slot with
    | some (r, 3) => s.takeReply c slot (fun t =>
        if 4 ≤ r.kind then t
        else if c = 0 then t.noRing r
        else { t with records := t.records ++ [{ r with flags := r.flags ||| fUnhandled, dest := (t.ctxAt c).parent }] })
    | _ => s)

end Sys2Proof.Machine
end

