-- ==== Sys2Proof/Machine/Fence.lean ====
section
/-! DEFINITION. Stopping and resetting contexts: FREEZE's engines (21 R428), fence-then-reset (R432), error fences (R433), partition
resets (R435), the wipes (22 R445) and frames that leave their world (22 R441). -/
namespace Sys2Proof.Machine

/-! ### Subtrees -/

/-- Is `c` the context `x` or a descendant of it (R413)? -/
def State.under (s : State) (x c : Nat) : Bool := (s.chain c).contains x

/-- The contexts of a subtree, by id. -/
def State.subtree (s : State) (x : Nat) : List Nat := (s.ctxs.filter (fun p => s.under x p.1)).map (fun p => p.1)

/-- The launches of a set of contexts, by number. -/
def State.launchesOf (s : State) (xs : List Nat) : List Nat :=
  (s.launches.filter (fun l => xs.contains l.2.ctx)).map (fun l => l.1)

/-- Pre-empts every launch of a set of contexts (R428), and stops the copies that launches which are over have left (12 R300). -/
def State.signalAll (s : State) (xs : List Nat) : State :=
  let t := (s.launchesOf xs).foldl (fun (t : State) l => t.signal l) s
  { t with cores := t.cores.map (fun c =>
      (c.1, c.2.stopCopies (fun q => xs.contains q.ctx && (Tab.find t.launches q.launch).isNone))) }

/-- Has every engine stopped for a set of contexts (19 R408)? -/
def State.quiet (s : State) (xs : List Nat) : Bool :=
  s.groups.all (fun g => !xs.contains g.2.ctx || (match g.2.life with | .preempted _ => true | _ => false))
    && s.launches.all (fun l => !xs.contains l.2.ctx || decide (l.2.st ≠ .running) || l.2.refused)

/-- Have the fabric requests of a set of contexts their answers (24 R470)? -/
def State.drainedPorts (s : State) (xs : List Nat) : Bool :=
  s.sentAll.all (fun r => !xs.contains r.ctx)

/-- Every core, by number, that the state lists. -/
def State.coreList (s : State) : List Nat := s.cores.map (fun c => c.1)

/-- Writes back the L1 lines of a set of contexts on every core (11 R278). -/
def State.flushCtxs (s : State) (xs : List Nat) : State :=
  s.coreList.foldl (fun (t : State) c => xs.foldl (fun (u : State) x => (u.releaseL1 c x true).1) t) s

/-! ### Composed entries -/

/-- Drops the composed entries that a test names, of every core and die (17 R362). -/
def State.dropEntries (s : State) (f : TEntry → Bool) : State :=
  { s with
    cores := s.cores.map (fun c => (c.1, { c.2 with tlb := c.2.tlb.filter (fun e => !f e) }))
    dies := s.dies.map (fun d => { d with flat := d.flat.filter (fun e => !f e) }) }

/-- Adds 1 to a context's generation; on a wrap every entry whose chain holds the context goes first (17 R365). -/
def State.bumpCtx (s : State) (x : Nat) : State :=
  let t := if (s.ctxAt x).gen = 255#8 then s.dropEntries (fun e => e.chain.any (fun c => decide (c.1 = x))) else s
  t.modCtx x (fun c => { c with gen := c.gen + 1 })

/-! ### Frames -/

/-- System physical 2 MiB frames that a context's own stage map, owned by its parent, maps with V = 1 and W = 1 (R432). -/
def State.mapFrames (s : State) (x : Nat) : List Nat :=
  let cx := s.ctxAt x
  (List.range cx.mapCount).filterMap (fun i =>
    let e := BitVec.ofNat 64 (s.homeDword (cx.mapBase + 8 * i))
    if e.getLsbD 0 && e.getLsbD 1 then
      (match s.nestPa cx.parent ((e.extractLsb' 21 31).toNat * 2 ^ 21) false with
       | .ok a => some a
       | .error _ => none)
    else none)

/-- Does a line's address lie in one of the ranges? -/
def inRanges (rs : List (Nat × Nat)) (pa : Nat) : Bool := rs.any (fun r => decide (r.1 ≤ pa) && decide (pa < r.1 + r.2))

/-- Zeroes system physical ranges at their homes; their 64 KiB frames are of world 0 (22 R441). -/
def State.zeroRanges (s : State) (rs : List (Nat × Nat)) : State :=
  match rs with
  | [] => s
  | r :: rest =>
    State.zeroRanges { s with
      mem := Sparse.clear s.mem r.1 r.2
      memPoison := s.memPoison.filter (fun w => !(decide (r.1 ≤ 8 * w) && decide (8 * w < r.1 + r.2)))
      l2 := s.l2.filter (fun l => !(decide (r.1 ≤ l.pa) && decide (l.pa < r.1 + r.2)))
      worlds := Sparse.clear s.worlds (r.1 / 2 ^ 16) ((r.2 + 2 ^ 16 - 1) / 2 ^ 16) } rest

/-- The L1 lines of the ranges: dirty lines that `mine` does not name are written back first; the lines it names are discarded. -/
def State.settleLines (s : State) (rs : List (Nat × Nat)) (mine : L1Line → Bool) : State :=
  s.coreList.foldl (fun (t : State) c =>
    let t1 := ((t.coreAt c).l1.filter (fun l => inRanges rs l.pa && !mine l && decide (l.dirty ≠ 0))).foldl
      (fun (u : State) l => (u.putDirty l).l1Put c { l with dirty := 0 }) t
    t1.modCore c (fun k => { k with l1 := k.l1.filter (fun l => !mine l) })) s

/-! ### Fence-then-reset (R432) -/

/-- Step 1: the contexts are FENCED, their launches pre-empted; flattening entries and function bindings are dropped, commands of theirs
abandoned. -/
def State.isolate (s : State) (xs : List Nat) : State :=
  let t := xs.foldl (fun (u : State) x => u.modCtx x (fun c => { c with st := CtxSt.fenced, errFence := none })) (s.signalAll xs)
  let u := t.dropEntries (fun e => e.chain.any (fun c => xs.contains c.1))
  { u with
    pkg := { u.pkg with vfs := u.pkg.vfs.filter (fun p => !xs.contains p.2) }
    cmds := u.cmds.filter (fun c => !xs.contains c.2.issuer) }

/-- Step 2: the outstanding requests of the contexts are answered. -/
def State.answerFabric (s : State) (xs : List Nat) : State := s.answerAll (s.sentAll.filter (fun r => xs.contains r.ctx))

/-- Zeroes the windows of a set of contexts, and what is saved of them. -/
def State.zeroWindows (s : State) (xs : List Nat) : State :=
  s.coreList.foldl (fun (t : State) c =>
    let k := t.coreAt c
    let t1 := (k.ranges.filter (fun r => xs.contains r.ctx)).foldl (fun (u : State) r => u.zeroWin c r.base r.size) t
    let t2 := if k.splitOn && xs.contains k.owner then t1.zeroWin c expKey (2 ^ 21) else t1
    t2.modCore c (fun k => { k with savedExp := k.savedExp.filter (fun e => !xs.contains e.ctx) })) s

/-- Step 3: the wipe of the frames that context `x` maps as writable, and of the windows of its subtree `xs` (more ranges: `more`). -/
def State.wipeCtx (s : State) (x : Nat) (xs : List Nat) (more : List (Nat × Nat)) : State :=
  let rs := (s.mapFrames x).map (fun a => (a, 2 ^ 21)) ++ more
  ((s.settleLines rs (fun l => xs.contains l.ctx)).zeroRanges rs).zeroWindows xs

/-- A core lets go of the contexts `xs`, their launches `ls` and groups `gs`. -/
def Core.dropCtxs (k : Core) (xs ls gs : List Nat) : Core :=
  let k1 := gs.foldl (fun (q : Core) g => q.forget g true) k
  { k1 with
    splitOn := k1.splitOn && !xs.contains k1.owner
    ranges := k1.ranges.filter (fun r => !xs.contains r.ctx)
    pools := k1.pools.filter (fun p => !ls.contains p.launch)
    copies := k1.copies.filter (fun c => !xs.contains c.2.ctx)
    dq := k1.dq.map (fun q => q.filter (fun c => !xs.contains c.ctx))
    saved := k1.saved.filter (fun v => !ls.contains v.launch)
    savedExp := k1.savedExp.filter (fun e => !xs.contains e.ctx)
    l1 := k1.l1.filter (fun l => !xs.contains l.ctx)
    victims := k1.victims.filter (fun v => !xs.contains v.1) }

/-- A launch of a queue that a reset cuts short (R431): nothing of its first run is left. -/
def Launch.cutShort (l : Launch) : Launch :=
  { l with next := 0, done := 0, teams := [], st := .preempted, aborted := false, began := none, holds := 0, cut := true, skips := 0
           calls := [], roast := none, roastFree := 0, first := true, held := false, sliceAt := none }

/-- What dies keep of the contexts. -/
def Die.dropCtxs (d : Die) (xs ls : List Nat) : Die :=
  { d with
    calls := d.calls.filter (fun e => !xs.contains e.ctx), serving := d.serving.filter (fun e => !xs.contains e.ctx)
    orphans := d.orphans.filter (fun e => !xs.contains e.ctx), reserved := d.reserved.filter (fun p => !ls.contains p.2)
    starts := d.starts.filter (fun p => !ls.contains p.1) }

/-- Step 4: launches, groups and records of the contexts are removed; replies to records that are posted do nothing more; with `free` the
ids become FREE, else the contexts are FROZEN with their grants and their queues' launches stand cut short. -/
def State.reinit (s : State) (xs : List Nat) (free : Bool) : State :=
  let ls := s.launchesOf xs
  let gs := (s.groups.filter (fun g => xs.contains g.2.ctx)).map (fun g => g.1)
  let keep (l : Nat × Launch) : Option (Nat × Launch) :=
    if !xs.contains l.2.ctx then some l
    else if free || l.2.queue.isNone then none
    else if l.2.refused then some l
    else some (l.1, l.2.cutShort)
  let quiet (r : Rcd) : Rcd := if xs.contains r.ctx then { r with subj := Subj.other } else r
  let t := { s with
    cores := s.cores.map (fun c => (c.1, c.2.dropCtxs xs ls gs))
    groups := s.groups.filter (fun g => !xs.contains g.2.ctx)
    launches := s.launches.filterMap keep
    roasts := s.roasts.filter (fun r => !ls.contains r.2.launch)
    dies := s.dies.map (fun d => d.dropCtxs xs ls)
    records := s.records.filter (fun r => !xs.contains r.ctx)
    barriers := s.barriers.filter (fun b => !gs.contains b.1)
    journal := if free then s.journal.filter (fun j => !xs.contains j.1) else s.journal
    ctxs := s.ctxs.map (fun c => (c.1, { c.2 with
      posted := c.2.posted.map (fun p => (p.1, quiet p.2)), backlog := c.2.backlog.filter (fun r => !xs.contains r.ctx) })) }
  if free then
    let u := xs.foldl (fun (v : State) x => (v.unbindCtx x).modCtx x (fun c => { ctxInit with gen := c.gen, tag := c.tag })) t
    xs.foldl (fun (v : State) x => v.bumpCtx x) u
  else
    xs.foldl (fun (v : State) x => v.modCtx x (fun c => { c with
      st := CtxSt.frozen, errFence := none, posted := [], backlog := [], calls := [] })) t

/-- The one completion of each submission to the queues of contexts whose ids become free (R431; 23 R457), in their order: ABORTED, or REFUSED where it was. -/
def State.completeQueued (s : State) (xs : List Nat) : State :=
  (s.launches.filter (fun l => xs.contains l.2.ctx && l.2.queue.isSome)).foldl (fun (t : State) l =>
    t.completeBlock l.2.die l.2.ctx l.2.r.priv l.2.r.cblk l.2.r.inc (if l.2.refused then 1 else 2)) s

/-- Steps 2 to 4 of fence-then-reset of context `x`, once its engines have stopped (14 R333: bodies are descheduled as long since). -/
def State.fenceReset (s : State) (x : Nat) (free : Bool) (more : List (Nat × Nat)) : State :=
  let xs := s.subtree x
  let t := (s.groups.filter (fun g => xs.contains g.2.ctx)).foldl (fun (u : State) g => u.capStop g.1 true) s
  let u := (t.answerFabric xs).flushCtxs xs
  ((if free then u.completeQueued xs else u).wipeCtx x xs more).reinit xs free

/-! ### Partition resets (R435) -/

/-- An uncorrectable error in state of a context that no group owns, and a partition reset (R426). -/
def fenceError : FenceWhy := ⟨0, 0x08, 0, 0xFF, none, 15, 0⟩
def fencePartition : FenceWhy := ⟨2, 0, 0, 0xFF, none, 15, 0⟩

/-- The CHILD record about context `x` (21 R426), with its generation after the fence. -/
def State.childRcd (s : State) (x : Nat) (w : FenceWhy) (parent : Nat) : State :=
  s.raiseEvent x [{ rcdInit with
    cause := w.cause, stage := w.stage, level := w.level, kind := 5, acc := w.acc, ctx := x, missCtx := w.missCtx.getD x, addr := BitVec.ofNat 64 w.addr
    w30 := BitVec.ofNat 64 w.reason, w38 := (s.ctxAt x).gen.setWidth 32, cls := RecClass.child, dest := parent }]

/-- Zeroes the windows of the cores of a cluster mask (22 R445). -/
def State.zeroClusters (s : State) (m : BitVec 64) : State :=
  s.coreList.foldl (fun (t : State) c =>
    if m.getLsbD (coreCluster c) then (t.zeroWin c 0 (2 ^ 22)) else t) s

/-- The partition that a context is bound to. -/
def State.partOf (s : State) (x : Nat) : Option (Nat × Partition) :=
  match (s.ctxAt x).part with
  | some p => (Tab.find s.pkg.partitions p).map (fun q => (p, q))
  | none => none

/-- Fence-then-reset of `x`, which is a partition reset when `x` is bound (R435): the interleave set and the windows are wiped too, and a
CHILD record with reason 2 is posted. -/
def State.resetCtx (s : State) (x : Nat) (free : Bool) : State :=
  let parent := (s.ctxAt x).parent
  match s.partOf x with
  | none => s.fenceReset x free []
  | some (p, q) =>
    let home := s.pkg.id * 2 ^ 46
    let t := (s.fenceReset x free [(home + q.base, q.size)]).zeroClusters q.clMask
    let u := if free then { t with pkg := { t.pkg with partitions := Tab.put t.pkg.partitions p { q with ctx := none } } } else t
    u.childRcd x fencePartition parent

/-- The first step of an error fence: the context is isolated, with the reason noted. -/
def State.errIsolate (s : State) (x : Nat) (w : FenceWhy) : State :=
  (s.isolate (s.subtree x)).modCtx x (fun k => { k with errFence := some w })

/-- ERROR_FENCE (R433): the context is isolated, for a fault of its save area where one stands noted, else for an error in its state; once its engines have stopped it is
reset, and its parent gets a CHILD record. A partition reset posts its own (R435). -/
def execErrorFence (x : Nat) (s : State) : Out :=
  .next (
    let c := s.ctxAt x
    if x = 0 then s
    else if c.st = .active ∨ c.st = .frozen then s.errIsolate x (c.errFence.getD fenceError)
    else
      match c.errFence with
      | none => s
      | some w =>
        if c.st ≠ .fenced ∨ s.quiet (s.subtree x) = false then s
        else if w.reason = 2 then s.resetCtx x false
        else (s.resetCtx x false).childRcd x w c.parent)

/-! ### Frames of a confidential world (22 R441) -/

/-- The 64 KiB frames that a context's whole chain maps with V = 1 and W = 1. -/
def State.worldFrames (s : State) (x : Nat) : List Nat :=
  let cx := s.ctxAt x
  (List.range cx.mapCount).flatMap (fun i =>
    match s.nestMaps (s.chain x) 2 (i * 2 ^ 21) 0xFF false false XTrace.none with
    | .ok r => if r.w then (List.range 32).map (fun k => r.pa / 2 ^ 16 + k) else []
    | .error _ => [])

/-- Every dirty L1 line of the frames is written back, every copy and every entry that maps them goes. -/
def State.clearFrames (s : State) (rs : List (Nat × Nat)) : State :=
  let t := s.settleLines rs (fun _ => false)
  (t.coreList.foldl (fun (u : State) c => u.modCore c (fun k => { k with l1 := k.l1.filter (fun l => !inRanges rs l.pa) })) t).dropEntries
    (fun e => rs.any (fun r => decide (e.pa < r.1 + r.2) && decide (r.1 < e.pa + e.size)))

/-- Frames that no context of their world maps as writable any more leave it: zeroed, world 0. -/
def State.leaveWorlds (s : State) : State :=
  let held := s.ctxs.flatMap (fun c => if 2 ≤ c.2.world ∧ c.2.st ≠ CtxSt.free then (s.worldFrames c.1).map (fun f => (f, c.2.world)) else [])
  let out := (s.worlds.filter (fun e => decide (2 ≤ e.2.toNat) && !held.contains (e.1, e.2.toNat))).map (fun e => (e.1 * 2 ^ 16, 2 ^ 16))
  if out.isEmpty then s else (s.clearFrames out).zeroRanges out

end Sys2Proof.Machine
end

