-- ==== Sys2Proof/Machine/Commands.lean ====
section
/-! DEFINITION. Device commands (21 R415 to R436; 17 R364, R365, R369; 22 R441): DCMD, their acceptance, and each command's execution. -/
namespace Sys2Proof.Machine

/-! ### DCMD and the command page -/

/-- Puts a command into firmware's hands. -/
def State.addCmd (s : State) (c : Cmd) : State :=
  { s with cmds := Tab.put s.cmds s.nextCmd c, nextCmd := s.nextCmd + 1 }

/-- DCMD (R415): the block is copied at issue, as the core's own accesses at scope .g see it. -/
def execDcmd (x : Xn) (s : State) : Out :=
  issue (.dcmd x) s (fun g f => g.guarded f x.k) (fun s g f =>
    let a := g.scalarPair x.n.toNat
    if !g.upred x.k.toNat then s.finish g
    else if a.toNat % 128 ≠ 0 then s.trapAddr .read ⟨0, a, 0x09, false, none⟩
    else
      match s.translate g.core g.ctx g.sup a .read with
      | .error e => s.trapAddr .read ⟨0, a, e.cause, false, some e⟩
      | .ok r =>
        let t := s.xCommit g.core r
        let q := if r.void then (((List.replicate 128 0, false) : List Byte × Bool),
            t.worldRcds g .read s.iss.pc s.iss.opcode [⟨0, a, 0x10, false, none⟩])
          else t.readGlobal ((g.how s.iss.pc).on r.path) (va48 a) r.pa 128
        q.2.withRelease g 5 (fun s =>
          let g := s.grp s.iss.g
          let h := g.tlAssign 7 1
          let flag := flagOf (flagClass (.dcmd x)) f.pos.setA f.pos.setB
          let c : Cmd := {
            block := q.1.1, issuer := g.ctx, src := some (s.iss.g, (h.tlLast 7).toNat, a, flag), vf := none, accepted := none, dies := []
            die := coreDie g.core, since := s.clockOf g.core, begun := false, waits := [], copyWaits := [], mark := s.codeLog.length }
          (s.finish (h.flagUp flag)).addCmd c))

/-- Field of a command block: `n` bytes at `o` (R418). -/
def Cmd.f (c : Cmd) (o n : Nat) : Nat := leNat ((c.block.drop o).take n)

def Cmd.code (c : Cmd) : Nat := c.f 0x00 2
def Cmd.flags (c : Cmd) : Nat := c.f 0x02 2
def Cmd.target (c : Cmd) : Nat := c.f 0x04 2

/-- Bytes with `w` put in at `o`. -/
def patch (bs : List Byte) (o : Nat) (w : List Byte) : List Byte := bs.take o ++ w ++ bs.drop (o + w.length)

/-- HOST_COMMAND_GO (R416): the block of a function's command page goes to firmware, with the authority of the function's context; while
the ROM has halted every page answers INVALID (22 R437). -/
def execHostCommandGo (fn : Nat) (s : State) : Out :=
  .next (
    if physFn < fn then s
    else
      let p := s.fnPage fn
      match s.pkg.boot with
      | .off => s
      | .failed => s.setPage fn { p with block := patch p.block 8 (leBytes 4 1) }
      | .ready =>
        let x := if fn = physFn then 0 else Tab.findD s.pkg.vfs fn 0
        s.addCmd {
          block := p.block, issuer := x, src := none, vf := some fn, accepted := none, dies := [], die := 0, since := (s.dieAt 0).clock
          begun := false, waits := [], copyWaits := [], mark := s.codeLog.length })

/-! ### Completion -/

/-- Writes results and completes the command (R415, R416): into the block under the issuer, then tl7; or into the page, then vector 0. -/
def State.cmdDone (s : State) (i : Nat) (c : Cmd) (status : Nat) (results : List (Nat × List Byte)) : State :=
  let ws : List (Nat × List Byte) := (0x08, leBytes 4 status) :: (if status = 0 then results else [])
  let t := { s with cmds := Tab.drop s.cmds i }
  match c.src, c.vf with
  | some (g, n, a, _), _ =>
    let u := match t.fwFault c.issuer true a.toNat 128 .write with
      | some _ => t
      | none => ws.foldl (fun (v : State) (w : Nat × List Byte) => (v.fwWrite c.issuer true (a.toNat + w.1) w.2).getD v) t
    u.modGrp g (fun k => k.tlComplete 7 n)
  | none, some fn =>
    let p := t.fnPage fn
    (t.setPage fn { p with block := ws.foldl (fun (b : List Byte) (w : Nat × List Byte) => patch b w.1 w.2) p.block }).msi fn 0
  | none, none => t

/-- Can command `i` be accepted now (R417, R428): not before an earlier one of its group, while its issuer runs, once it is handed over? -/
def State.cmdWaits (s : State) (i : Nat) (c : Cmd) : Bool :=
  let group := match c.src with | some (g, _) => some g | none => none
  let earlier := s.cmds.any (fun o => decide (o.1 < i) && o.2.accepted.isNone &&
    (match o.2.src, group with | some (g, _), some k => decide (g = k) | _, _ => false))
  let stopped := group.isSome && decide (c.issuer ≠ 0) && !s.runs c.issuer
  c.accepted.isNone && !earlier && !stopped && !s.svcDown c.die

/-- Accepts a command (R429, R417): commands of one group in their tl7 order. Its flag falls (R415). A code that names no command is INVALID. -/
def State.acceptCmd (s : State) (i : Nat) : State :=
  match Tab.find s.cmds i with
  | none => s
  | some c =>
    if !s.cmdWaits i c then s
    else
      let n := s.cmds.foldl (fun a o => match o.2.accepted with | some k => max a (k + 1) | none => a) 0
      let d := { c with accepted := some n, dies := journalDies c.die }
      let t := match c.src with
        | some (g, _, _, flag) => s.modGrp g (fun k => k.flagDown flag)
        | none => s
      let u := { t with cmds := Tab.put t.cmds i d }
      if c.code = 0 ∨ 0x11 < c.code then u.cmdDone i d 1 [] else u

/-! ### The frame of every command -/

/-- May the command execute now (R417, R428, R432): it is accepted, none accepted before it aims at its target, or for REVOKE at its
target's subtree; its issuer runs? -/
def State.cmdReady (s : State) (c : Cmd) : Bool :=
  match c.accepted with
  | none => false
  | some n =>
    let before (f : Nat → Bool) : Bool := s.cmds.any (fun o => f o.2.target && (match o.2.accepted with | some k => decide (k < n) | none => false))
    !before (fun t => decide (t = c.target)) && !(decide (c.code = 0x0C) && before (fun t => s.under c.target t))
      && (decide (c.issuer = 0) || c.begun || (if c.src.isSome then s.runs c.issuer
            else decide ((s.ctxAt c.issuer).st = .active) || decide ((s.ctxAt c.issuer).st = .frozen)))

/-- Has the block only the flags `fm` and the payload bytes `ds` (R418)? -/
def Cmd.clean (c : Cmd) (fm : Nat) (ds : List (Nat × Nat)) : Bool :=
  decide (c.flags &&& fm = c.flags) && decide (c.f 0x06 2 = 0) && decide (c.f 0x0C 4 = 0)
    && (List.range 112).all (fun i => ds.any (fun d => decide (d.1 ≤ 0x10 + i) && decide (0x10 + i < d.1 + d.2)) || decide (c.f (0x10 + i) 1 = 0))

/-- May a context be a target (R414)? -/
def State.live (s : State) (t : Nat) : Bool := decide ((s.ctxAt t).st = .active) || decide ((s.ctxAt t).st = .frozen)

/-- Is `t` a direct child of `x`? -/
def State.isChild (s : State) (x t : Nat) : Bool := decide (t ≠ 0) && decide ((s.ctxAt t).parent = x) && s.live t

def State.isSelfOrChild (s : State) (x t : Nat) : Bool := (decide (t = x) && s.live t) || s.isChild x t

/-- Executes command `i` if it is one that `pick` names and may execute. -/
def onCmd (i : Nat) (pick : Cmd → Bool) (s : State) (body : Cmd → State) : Out :=
  .next (match Tab.find s.cmds i with
    | none => s
    | some c => if pick c && s.cmdReady c then body c else s)

/-- The checks that come first, in the order of R419's values (log 36): INVALID, NOTCHILD, STATE; a command that has begun has passed them. -/
def State.checked (s : State) (i : Nat) (c : Cmd) (valid target state : Bool) (k : State) : State :=
  if c.begun then k
  else if !valid then s.cmdDone i c 1 []
  else if !target then s.cmdDone i c 2 []
  else if !state then s.cmdDone i c 3 []
  else k

/-- The command begins to wait. -/
def State.beginCmd (s : State) (i : Nat) (c : Cmd) : State := { s with cmds := Tab.put s.cmds i { c with begun := true } }

/-! ### CREATE, DESTROY, REVOKE -/

/-- Is a world allowed for a child of `x` (22 R441)? -/
def State.worldOk (s : State) (x w : Nat) : Bool :=
  decide (w = 0) || decide (w = (s.ctxAt x).world)
    || (decide (2 ≤ w) && decide (w ≤ 4095) && decide ((s.ctxAt x).world = 0)
        && s.ctxs.all (fun c => decide (c.2.st = CtxSt.free) || decide (c.2.world ≠ w)))

/-- The lowest FREE id. -/
def State.freeId (s : State) : Option Nat := ((List.range 4095).map (fun i => i + 1)).find? (fun i => decide ((s.ctxAt i).st = .free))

/-- CREATE (R420). -/
def execCreate (i : Nat) (s : State) : Out :=
  onCmd i (fun c => decide (c.code = 0x01)) s (fun c =>
    let base := c.f 0x10 8
    let world := c.f 0x18 2
    let p := s.ctxAt c.issuer
    let ok := c.clean 0 [(0x10, 8), (0x18, 2), (0x1C, 4)] && decide (base % 4096 = 0) && s.worldOk c.issuer world
    s.checked i c ok (decide (c.target = 0)) true (
      match s.freeId with
      | none => s.cmdDone i c 6 []
      | some n =>
        if 4 ≤ p.depth then s.cmdDone i c 6 []
        else
          let t := (s.bumpCtx n).modCtx n (fun k => { ctxInit with
            st := CtxSt.frozen, parent := c.issuer, depth := p.depth + 1, gen := k.gen, tag := k.tag, world := world, save := base, mark := c.mark })
          t.cmdDone i c 0 [(0x1C, leBytes 4 (n + 2 ^ 16 * (t.ctxAt n).gen.toNat))]))

/-- DESTROY (R420, R432). -/
def execDestroy (i : Nat) (s : State) : Out :=
  onCmd i (fun c => decide (c.code = 0x02)) s (fun c =>
    let t := c.target
    s.checked i c (c.clean 0 []) (s.isChild c.issuer t) (decide ((s.ctxAt t).st = .frozen) && (s.childrenOf t).isEmpty) (
      if !c.begun then (s.isolate (s.subtree t)).beginCmd i c
      else if s.quiet (s.subtree t) then (s.resetCtx t true).cmdDone i c 0 [] else s))

/-- REVOKE (R432). -/
def execRevoke (i : Nat) (s : State) : Out :=
  onCmd i (fun c => decide (c.code = 0x0C)) s (fun c =>
    let t := c.target
    s.checked i c (c.clean 0 []) (s.isChild c.issuer t) true (
      if !c.begun then (s.isolate (s.subtree t)).beginCmd i c
      else if s.quiet (s.subtree t) then (s.resetCtx t true).cmdDone i c 0 [] else s))

/-! ### GRANT_CORE, THAW: save areas (R421) -/

/-- Are the parts of the cores of a cluster mask mapped and writable through the target's stage maps (R421)? -/
def State.saveOk (s : State) (x : Nat) (m : BitVec 64) : Bool :=
  let frames (core : Nat) : List Nat :=
    let lo := s.savePartAt x core
    (List.range (((lo + savePart - 1) / 2 ^ 21) - lo / 2 ^ 21 + 1)).map (fun j => (lo / 2 ^ 21 + j) * 2 ^ 21)
  (List.range 384).all (fun core => !m.getLsbD (coreCluster core) || (frames core).all (fun a =>
    match s.nest x a 0xFF false true XTrace.none with | .ok _ => true | .error _ => false))

/-- GRANT_CORE (R421, R422). -/
def execGrantCore (i : Nat) (s : State) : Out :=
  onCmd i (fun c => decide (c.code = 0x03)) s (fun c =>
    let t := c.target
    let m := BitVec.ofNat 64 (c.f 0x10 8)
    let q := c.f 0x18 8
    let k := s.ctxAt t
    let xs := s.subtree t
    let gone := k.clMask &&& ~~~m
    let holds := s.groups.any (fun g => xs.contains g.2.ctx && gone.getLsbD (coreCluster g.2.core))
    let sum := ((s.childrenOf c.issuer).filter (fun o => decide (o ≠ t))).foldl (fun a o => a + (s.ctxAt o).share) q
    s.checked i c (c.clean 0 [(0x10, 16)] && decide (m.extractLsb' 48 16 = 0#16) && decide (q ≤ 2 ^ 32)) (s.isChild c.issuer t) (!holds) (
      if m &&& ~~~(s.ctxAt c.issuer).clMask ≠ 0 ∨ 2 ^ 32 < sum then s.cmdDone i c 4 []
      else if k.st = .active ∧ s.saveOk t (m &&& ~~~k.clMask) = false then s.cmdDone i c 5 []
      else ((s.modCtx t (fun k => { k with clMask := m, share := q })).noteAll).cmdDone i c 0 []))

/-- At the THAW that ends a reset, a launch that it cut short runs again from its start under RESTART, or completes as ABORTED (R431). -/
def State.settleCut (s : State) (x : Nat) : State :=
  let restart := (s.ctxAt x).restart
  (s.launchesOf [x]).foldl (fun (t : State) l =>
    match Tab.find t.launches l with
    | none => t
    | some k =>
      if !k.cut then t
      else if restart then
        let ro := t.nextRoast
        let u := if k.r.tG then { t with roasts := Tab.put t.roasts ro ⟨l, false, [], [], [], none⟩, nextRoast := ro + 1 } else t
        u.modLaunch l (fun k => { k with cut := false, st := LaunchSt.running, roast := if k.r.tG then some ro else none })
      else t.modLaunch l (fun k => { k with cut := false, st := LaunchSt.aborting, aborted := true, next := k.r.teams })) s

/-- THAW (R428, R421). -/
def execThaw (i : Nat) (s : State) : Out :=
  onCmd i (fun c => decide (c.code = 0x09)) s (fun c =>
    let t := c.target
    s.checked i c (c.clean 0 []) (s.isChild c.issuer t) (decide ((s.ctxAt t).st = .frozen)) (
      if !s.saveOk t (s.ctxAt t).clMask then s.cmdDone i c 5 []
      else (((s.settleCut t).modCtx t (fun k => { k with st := CtxSt.active })).noteAll).cmdDone i c 0 []))

/-- Has a command that a group of these contexts issued begun and not been committed? It is committed before a FREEZE of them completes (R428). -/
def State.cmdOpen (s : State) (xs : List Nat) : Bool := s.cmds.any (fun c => c.2.begun && c.2.src.isSome && xs.contains c.2.issuer)

/-- FREEZE (R428): it completes once every engine has stopped, after which the L1 lines of the subtree are written back. -/
def execFreeze (i : Nat) (s : State) : Out :=
  onCmd i (fun c => decide (c.code = 0x08)) s (fun c =>
    let t := c.target
    let xs := s.subtree t
    s.checked i c (c.clean 0 []) (s.isChild c.issuer t) (decide ((s.ctxAt t).st = .active)) (
      if !c.begun then ((s.signalAll xs).modCtx t (fun k => { k with st := CtxSt.frozen })).beginCmd i c
      else if s.quiet xs && s.drainedPorts xs && !s.cmdOpen xs then (s.flushCtxs xs).cmdDone i c 0 [] else s))

/-! ### GRANT_MEM (R421; 17 R359, R365; 22 R441) -/

/-- Where `n` bytes of an issuer's physical memory lie, if they are contiguous in system physical memory: none on a fault. -/
def State.contiguous (s : State) (x a n : Nat) : Option (Nat × Bool) :=
  match s.nestPa x a false with
  | .error _ => none
  | .ok pa =>
    let steps := (List.range ((a % 2 ^ 21 + n + 2 ^ 21 - 1) / 2 ^ 21)).drop 1
    let at' (j : Nat) : Option Nat := match s.nestPa x (a / 2 ^ 21 * 2 ^ 21 + j * 2 ^ 21) false with | .ok p => some p | .error _ => none
    if steps.any (fun j => (at' j).isNone) then none
    else some (pa, steps.all (fun j => decide (at' j = some (pa / 2 ^ 21 * 2 ^ 21 + j * 2 ^ 21))))

/-- The frames of local DRAM that join a confidential world with a context's new map; none where one is private to another world. -/
def State.joining (s : State) (x : Nat) : Option (List Nat) :=
  let w := (s.ctxAt x).world
  if w < 2 then some []
  else
    let fs := (s.worldFrames x).filter (fun f => decide (reachOf s.pkg.id (f * 2 ^ 16) = Reach.dram))
    if fs.any (fun f => decide (s.frameWorld (f * 2 ^ 16) ≠ 0) && decide (s.frameWorld (f * 2 ^ 16) ≠ w)) then none
    else some (fs.filter (fun f => decide (s.frameWorld (f * 2 ^ 16) = 0)))

/-- The joining frames are of the context's world (R441). -/
def State.joinWorld (s : State) (x : Nat) (fs : List Nat) : State :=
  if fs.isEmpty then s
  else
    let w := BitVec.ofNat 16 (s.ctxAt x).world
    fs.foldl (fun (t : State) f => { t with worlds := Sparse.set t.worlds f w }) (s.clearFrames (fs.map (fun f => (f * 2 ^ 16, 2 ^ 16))))

/-- What GRANT_MEM sets, under its flags. -/
def State.grantMemory (s : State) (c : Cmd) (pa : Nat) : State :=
  let has (b : Nat) : Bool := c.flags.testBit b
  let t := s.modCtx c.target (fun k => { k with
    root := if has 0 then c.f 0x20 8 else k.root
    mapBase := if has 1 then pa else k.mapBase, mapCount := if has 1 then c.f 0x18 4 else k.mapCount
    dirtyMap := if has 2 then (if c.f 0x28 8 = 0 then none else some (c.f 0x28 8)) else k.dirtyMap
    pool := if has 3 then c.f 0x30 8 else k.pool, poolCount := if has 3 then c.f 0x38 4 else k.poolCount })
  if has 0 || has 1 || has 3 then (t.bumpCtx c.target).modCtx c.target (fun (k : Ctx) => { k with mark := c.mark }) else t

/-- GRANT_MEM. -/
def execGrantMem (i : Nat) (s : State) : Out :=
  onCmd i (fun c => decide (c.code = 0x04)) s (fun c =>
    let has (b : Nat) : Bool := c.flags.testBit b
    let ok := c.clean 0xF [(0x10, 12), (0x20, 28)]
      && (!has 1 || decide (c.f 0x10 8 % 8 = 0)) && (!has 0 || (decide (c.f 0x20 8 % 4096 = 0) && decide (c.f 0x20 8 < 2 ^ 52)))
      && (!has 2 || decide (c.f 0x28 8 % 8 = 0)) && (!has 3 || decide (c.f 0x30 8 % 2 ^ 21 = 0))
    s.checked i c ok (s.isChild c.issuer c.target) true (
      match (if has 1 && decide (c.f 0x18 4 ≠ 0) then s.contiguous c.issuer (c.f 0x10 8) (8 * c.f 0x18 4) else some (0, true)) with
      | none => s.cmdDone i c 5 []
      | some (_, false) => s.cmdDone i c 4 []
      | some (pa, true) =>
        let t := s.grantMemory c pa
        if !has 1 then t.cmdDone i c 0 []
        else
          match t.joining c.target with
          | none => s.cmdDone i c 4 []
          | some fs => ((t.leaveWorlds).joinWorld c.target fs).cmdDone i c 0 []))

/-! ### GRANT_QUEUES, GRANT_LINK, SET_HANDLER -/

/-- GRANT_QUEUES (R421). A table that is not 64-byte aligned is INVALID (log 37). -/
def execGrantQueues (i : Nat) (s : State) : Out :=
  onCmd i (fun c => decide (c.code = 0x05)) s (fun c =>
    let n := c.f 0x18 4
    let ok := c.clean 3 [(0x10, 12), (0x20, 8)] && decide (c.f 0x10 8 % 64 = 0) && decide (1 ≤ n) && decide (n ≤ 65536)
      && decide (c.f 0x20 8 % 4 = 0)
    s.checked i c ok (s.isChild c.issuer c.target) true (
      let total := s.ctxs.foldl (fun a k => if k.1 = c.target then a else a + k.2.qcount) n
      if 65536 < total then s.cmdDone i c 4 []
      else (s.modCtx c.target (fun k => { k with
        qtab := c.f 0x10 8, qcount := n, doorbell := c.f 0x20 8, restart := c.flags.testBit 0, qpriv := c.flags.testBit 1 })).cmdDone i c 0 []))

/-- GRANT_LINK (R420): the grant lies within the issuer's own; context 0 holds every port and package (log 38). -/
def execGrantLink (i : Nat) (s : State) : Out :=
  onCmd i (fun c => decide (c.code = 0x06)) s (fun c =>
    let ps := BitVec.ofNat 16 (c.f 0x10 2)
    let pk := BitVec.ofNat 64 (c.f 0x28 8)
    s.checked i c (c.clean 0 [(0x10, 2), (0x18, 24)]) (s.isChild c.issuer c.target) true (
      let p := s.ctxAt c.issuer
      if c.issuer ≠ 0 ∧ (ps &&& ~~~p.ports ≠ 0 ∨ pk &&& ~~~p.packages ≠ 0) then s.cmdDone i c 4 []
      else (s.modCtx c.target (fun k => { k with
        ports := ps, packages := pk, portShares := (List.range 16).map (fun j => c.f (0x18 + j) 1) })).cmdDone i c 0 []))

/-- SET_HANDLER (R423). -/
def execSetHandler (i : Nat) (s : State) : Out :=
  onCmd i (fun c => decide (c.code = 0x07)) s (fun c =>
    let q := c.flags.testBit 0
    let p := c.flags.testBit 1
    let okQ := decide (c.f 0x10 8 % 64 = 0) && decide (4 ≤ c.f 0x18 1) && decide (c.f 0x18 1 ≤ 16) && decide (c.f 0x1A 2 < 128)
      && decide (c.f 0x20 8 % 8 = 0) && decide (c.f 0x28 8 ≠ 0) && decide (c.f 0x28 8 % 16 = 0) && decide (c.f 0x30 8 % 4 = 0)
      && decide (c.f 0x58 8 % 64 = 0)
    let okP := decide (c.f 0x38 8 % 2 ^ 14 = 0) && decide (c.f 0x40 8 % 2 ^ 16 = 0)
    let ok := c.clean 3 [(0x10, 9), (0x1A, 2), (0x20, 64)] && (!q || okQ) && (!p || okP)
    s.checked i c ok (s.isSelfOrChild c.issuer c.target) true (
      let t := if q then s.modCtx c.target (fun k => { k with
          ring := c.f 0x10 8, lgsz := c.f 0x18 1, mask := BitVec.ofNat 7 (c.f 0x1A 2), replies := c.f 0x20 8, notify := c.f 0x28 8
          replyBell := c.f 0x30 8, callRing := c.f 0x58 8 }) else s
      let u := if p then t.modCtx c.target (fun k => { k with
          frames := c.f 0x38 8, stackBase := c.f 0x40 8, tvec := BitVec.ofNat 64 (c.f 0x48 8), parkns := BitVec.ofNat 32 (c.f 0x50 4)
          adopt := BitVec.ofNat 32 (c.f 0x54 4) }) else t
      u.cmdDone i c 0 []))

/-! ### DIRTYSCAN, QUERY -/

/-- Reads and clears the bitmap words of a DIRTYSCAN (17 R369): none on a fault. A word in a frame of another world reads as zero (22 R442). -/
def State.harvest (s : State) (x b w n : Nat) : Option (List Nat × State) :=
  match n with
  | 0 => some ([], s)
  | n + 1 =>
    match s.physNest x (b + 8 * w) true with
    | .error _ => none
    | .ok e =>
      let t := s.traced e.tr
      let v := if e.void then 0 else s.homeDword e.pa
      ((if e.void then t else t.homeSetDword e.pa 0).harvest x b (w + 1) n).map (fun r => (v :: r.1, r.2))

/-- Set bits of a word. -/
def popCount (v : Nat) : Nat := ((List.range 64).filter (fun i => v.testBit i)).length

/-- DIRTYSCAN (17 R369). Without tracking it gives STATE (log 37). -/
def execDirtyscan (i : Nat) (s : State) : Out :=
  onCmd i (fun c => decide (c.code = 0x0D)) s (fun c =>
    let n := c.f 0x18 4
    let ok := c.clean 0 [(0x10, 12), (0x20, 16)] && decide (1 ≤ n) && decide (n ≤ 4096) && decide (c.f 0x20 8 % 8 = 0)
    s.checked i c ok (s.isChild c.issuer c.target) (s.ctxAt c.target).dirtyMap.isSome (
      match (s.ctxAt c.target).dirtyMap with
      | none => s.cmdDone i c 3 []
      | some b =>
        match s.harvest c.issuer b (c.f 0x10 8) n with
        | none => s.cmdDone i c 5 []
        | some (ws, t) =>
          match t.fwWrite c.issuer true (c.f 0x20 8) (ws.flatMap (fun w => leBytes 8 w)) with
          | none => s.cmdDone i c 5 []
          | some u => u.cmdDone i c 0 [(0x28, leBytes 8 (ws.foldl (fun a w => a + popCount w) 0))]))

/-- Code of a state (R424). -/
def CtxSt.code (x : CtxSt) : Nat := match x with | .free => 0 | .frozen => 1 | .active => 2 | .fenced => 3

/-- Size of the image that CHECKPOINT of a context would write now (R430): the spec gives no layout, so it is free (log 39). -/
def State.imageSize (s : State) (x : Nat) : Nat :=
  let xs := s.subtree x
  Config.imageSize [xs.length, (s.groups.filter (fun g => xs.contains g.2.ctx)).length, (s.launchesOf xs).length,
    (s.roasts.filter (fun r => (s.launchesOf xs).contains r.2.launch)).length]

/-- The 64 bytes of QUERY (R424). -/
def State.queryBytes (s : State) (t : Nat) : List Byte :=
  let k := s.ctxAt t
  leBytes 1 k.st.code ++ leBytes 1 k.depth ++ leBytes 2 k.parent ++ leBytes 1 k.gen.toNat ++ leBytes 1 (k.part.getD 0xFF)
    ++ leBytes 2 (s.childrenOf t).length ++ leBytes 8 (s.subtreeWeight t) ++ leBytes 8 (s.weight t) ++ leBytes 8 k.clMask.toNat
    ++ leBytes 4 (s.launchesOf [t]).length ++ leBytes 4 k.fenceCount ++ leBytes 8 (s.imageSize t) ++ leBytes 16 0

/-- QUERY (R424); its target may be FENCED (R420). -/
def execQuery (i : Nat) (s : State) : Out :=
  onCmd i (fun c => decide (c.code = 0x0E)) s (fun c =>
    let t := c.target
    let may := decide ((s.ctxAt t).st ≠ .free) && (decide (t = c.issuer) || (decide (t ≠ 0) && decide ((s.ctxAt t).parent = c.issuer)))
    s.checked i c (c.clean 0 [(0x10, 8)] && decide (c.f 0x10 8 % 64 = 0)) may true (
      match s.fwWrite c.issuer true (c.f 0x10 8) (s.queryBytes t) with
      | none => s.cmdDone i c 5 []
      | some u => u.cmdDone i c 0 []))

/-! ### BIND_VF, BIND_PARTITION -/

/-- Is a function the issuer's to move (R436): it holds it, or it is bound within its subtree? -/
def State.holdsVf (s : State) (x f : Nat) : Bool :=
  let o := Tab.findD s.pkg.vfs f 0
  decide (o = x) || decide (x = 0) || s.under x o

/-- Binds a function to a context; context 0's functions are not listed. -/
def State.setVf (s : State) (f x : Nat) : State :=
  { s with pkg := { s.pkg with vfs := if x = 0 then Tab.drop s.pkg.vfs f else Tab.put s.pkg.vfs f x } }

/-- BIND_VF and its UNBIND (R436): the function goes to `dest`. -/
def State.moveVf (s : State) (i : Nat) (c : Cmd) (dest : Nat) : State :=
  let f := c.f 0x10 2
  s.checked i c (c.clean 1 [(0x10, 2)] && decide (f ≤ 383))
    (s.live c.target && (decide (c.target = c.issuer) || decide (c.issuer = 0) || s.under c.issuer c.target)) true (
      if s.holdsVf c.issuer f then (s.setVf f dest).cmdDone i c 0 [] else s.cmdDone i c 4 [])

/-- BIND_VF. -/
def execBindVf (i : Nat) (s : State) : Out :=
  onCmd i (fun c => decide (c.code = 0x0F) && !c.flags.testBit 0) s (fun c => s.moveVf i c c.target)

/-- BIND_VF with UNBIND. -/
def execBindVfUnbind (i : Nat) (s : State) : Out :=
  onCmd i (fun c => decide (c.code = 0x0F) && c.flags.testBit 0) s (fun c => s.moveVf i c c.issuer)

/-- Does a context's map lead only into a partition's interleave set (R434; pooled and remote memory are shared, 17 R353)? -/
def State.mapWithin (s : State) (x : Nat) (q : Partition) : Bool :=
  let cx := s.ctxAt x
  (List.range cx.mapCount).all (fun i =>
    let e := BitVec.ofNat 64 (s.homeDword (cx.mapBase + 8 * i))
    !e.getLsbD 0 ||
      (match s.nestPa cx.parent ((e.extractLsb' 21 31).toNat * 2 ^ 21) false with
       | .error _ => true
       | .ok a =>
         match reachOf s.pkg.id a with
         | .dram => decide (q.base ≤ a % 2 ^ 44) && decide (a % 2 ^ 44 + 2 ^ 21 ≤ q.base + q.size)
         | .nothing => false
         | _ => true))

/-- Conditions of BIND_PARTITION on block and target. -/
def State.partChecked (s : State) (i : Nat) (c : Cmd) (state : Bool) (k : State) : State :=
  s.checked i c (c.clean 3 [(0x10, 1)] && decide (c.f 0x10 1 ≤ 15) && decide (c.flags ≠ 3))
    (decide (c.issuer = 0) && s.live c.target && decide ((s.ctxAt c.target).depth = 1)) state k

/-- A context that may be bound or unbound: FROZEN, with no launch. -/
def State.idleCtx (s : State) (t : Nat) : Bool := decide ((s.ctxAt t).st = .frozen) && (s.launchesOf (s.subtree t)).isEmpty

/-- BIND_PARTITION (R434). -/
def execBindPartition (i : Nat) (s : State) : Out :=
  onCmd i (fun c => decide (c.code = 0x10) && !(decide (c.flags = 1) || decide (c.flags = 2))) s (fun c =>
    let t := c.target
    let p := c.f 0x10 1
    s.partChecked i c (s.idleCtx t) (
      match Tab.find s.pkg.partitions p with
      | none => s.cmdDone i c 4 []
      | some q =>
        if q.ctx.isSome || (s.ctxAt t).part.isSome then s.cmdDone i c 3 []
        else if (s.ctxAt t).clMask &&& ~~~q.clMask ≠ 0 ∨ s.mapWithin t q = false then s.cmdDone i c 4 []
        else ({ s with pkg := { s.pkg with partitions := Tab.put s.pkg.partitions p { q with ctx := some t } } }.modCtx t
          (fun k => { k with part := some p })).cmdDone i c 0 []))

/-- Unbinds a partition's context. -/
def State.unbindPart (s : State) (t p : Nat) : State :=
  let u := match Tab.find s.pkg.partitions p with
    | some q => { s with pkg := { s.pkg with partitions := Tab.put s.pkg.partitions p { q with ctx := none } } }
    | none => s
  u.modCtx t (fun k => { k with part := none })

/-- BIND_PARTITION with UNBIND (R435): a partition reset, then the partition is free. -/
def execBindPartitionUnbind (i : Nat) (s : State) : Out :=
  onCmd i (fun c => decide (c.code = 0x10) && decide (c.flags = 1)) s (fun c =>
    let t := c.target
    let p := c.f 0x10 1
    s.partChecked i c (s.idleCtx t && decide ((s.ctxAt t).part = some p)) (
      if !c.begun then (s.isolate (s.subtree t)).beginCmd i c
      else if s.quiet (s.subtree t) then ((s.resetCtx t false).unbindPart t p).cmdDone i c 0 [] else s))

/-- BIND_PARTITION with RESET (R435): the bound context's subtree is reset and stays bound. -/
def execBindPartitionReset (i : Nat) (s : State) : Out :=
  onCmd i (fun c => decide (c.code = 0x10) && decide (c.flags = 2)) s (fun c =>
    let t := c.target
    s.partChecked i c (decide ((s.ctxAt t).part = some (c.f 0x10 1))) (
      if !c.begun then (s.isolate (s.subtree t)).beginCmd i c
      else if s.quiet (s.subtree t) then (s.resetCtx t false).cmdDone i c 0 [] else s))

/-! ### GENBUMP (17 R363 to R365) -/

/-- How often GENBUMP of `n` regions from region `r0` on bumps the entry of residue `r` modulo 1,024. -/
def bumpTimes (r0 n r : Nat) : Nat := n / 1024 + (if (r + 1024 - r0 % 1024) % 1024 < n % 1024 then 1 else 0)

/-- Before an entry wraps, every L1 line and flattening entry that carries its index goes, dirty bytes written back (R364); lines whose
write-back is denied stay, held (07 R199). -/
def State.wrapIndex (s : State) (ix : Nat) : State :=
  let t := s.coreList.foldl (fun (t : State) c =>
    ((t.coreAt c).l1.filter (fun l => decide (regionIndex l.ctx l.va = ix))).foldl (fun (u : State) l =>
      match u.writeBackLine c true l with
      | .ok v => v.l1Drop c l.ctx l.va
      | .error e => u.holdLine c l e) t) s
  t.dropEntries (fun e => e.rgen.isSome && decide (regionIndex e.ctx e.va = ix))

/-- Bumps the region generations of `n` regions of context `x` from `va` on, on every die (R364). -/
def State.bumpRegions (s : State) (x va n : Nat) : State :=
  (List.range 1024).foldl (fun (t : State) r =>
    let k := bumpTimes (va / 2 ^ 21) n r
    if k = 0 then t
    else
      let ix := r ^^^ (x % 1024)
      let g := (Sparse.get (t.dieAt 0).regionGen ix).toNat
      let u := if 64 ≤ g + k then t.wrapIndex ix else t
      { u with dies := u.dies.map (fun (d : Die) => { d with regionGen := Sparse.set d.regionGen ix (BitVec.ofNat 6 ((g + k) % 64)) }) }) s

/-- Operations and copies that have translated addresses and are not complete. -/
def State.openAccesses (s : State) : List (Nat × Nat) × List (Nat × Nat) :=
  (s.groups.flatMap (fun g => (g.2.ops.filter (fun o => o.2.passed && !(o.2.locs.isEmpty && o.2.locs2.isEmpty))).map (fun o => (g.1, o.1))),
   s.cores.flatMap (fun c => (c.2.copies.filter (fun q => !q.2.pages.isEmpty)).map (fun q => (c.1, q.1))))

/-- Is everything done that a GENBUMP waits for? A copy that is held, or whose record is out, is waited for no longer (log 40). -/
def State.accessesDone (s : State) (c : Cmd) : Bool :=
  let ops := s.openAccesses.1
  c.waits.all (fun w => !ops.contains w) && c.copyWaits.all (fun w =>
    match Tab.find (s.coreAt w.1).copies w.2 with
    | none => true
    | some q => q.faulted || s.copyHeld q)

/-- What a GENBUMP's completion says of later lookups (R367): those of the regions, with `all` those of every map and table of the context, find no value older
than the command. -/
def State.bumped (s : State) (c : Cmd) (va n : Nat) (all : Bool) : State :=
  let t := if n = 0 then s else { s with bumps := ⟨c.target, va / 2 ^ 21, n, c.mark⟩ :: s.bumps }
  if all then t.modCtx c.target (fun (k : Ctx) => { k with mark := max k.mark c.mark }) else t

/-- GENBUMP, with its CTX flag or without: bump, then completion once the accesses that used what is stale are performed. -/
def State.genbump (s : State) (i : Nat) (c : Cmd) : State :=
  let va := c.f 0x10 8
  let n := c.f 0x18 4
  let ctx := c.flags.testBit 0
  s.checked i c (c.clean 1 [(0x10, 12)] && decide (va % 2 ^ 21 = 0) && decide (n ≤ 2 ^ 20) && (ctx || decide (n ≠ 0)))
    (s.isSelfOrChild c.issuer c.target) true (
      if !c.begun then
        let w := s.openAccesses
        let t := (if ctx then s.bumpCtx c.target else s).bumpRegions c.target va n
        t.beginCmd i { c with waits := w.1, copyWaits := w.2 }
      else if s.accessesDone c then (s.bumped c va n ctx).cmdDone i c 0 [] else s)

/-- GENBUMP without CTX. -/
def execGenbump (i : Nat) (s : State) : Out :=
  onCmd i (fun c => decide (c.code = 0x11) && !c.flags.testBit 0) s (fun c => s.genbump i c)

/-- GENBUMP with CTX. -/
def execGenbumpCtx (i : Nat) (s : State) : Out :=
  onCmd i (fun c => decide (c.code = 0x11) && c.flags.testBit 0) s (fun c => s.genbump i c)

/-! ### The journal (R431) -/

/-- JOURNAL_RECOPY (R431): entry `i` — a command, or beyond those the submission of that place — gets a second copy on a healthy die. -/
def execJournalRecopy (i die : Nat) (s : State) : Out :=
  .next (
    let more (ds : List Nat) : List Nat := if ds.length < 2 ∧ ds.contains die = false then ds ++ [die] else ds
    if 4 ≤ die ∨ s.svcDown die = true then s
    else
      match Tab.find s.cmds i with
      | some c => if c.accepted.isSome then { s with cmds := Tab.put s.cmds i { c with dies := more c.dies } } else s
      | none =>
        if i < s.nextCmd then s
        else { s with journal := s.journal.modify (i - s.nextCmd) (fun j => (j.1, j.2.1, j.2.2.1, j.2.2.2.1, more j.2.2.2.2)) })

end Sys2Proof.Machine
end

