-- ==== Sys2Proof/Machine/Images.lean ====
section
/-! DEFINITION. CHECKPOINT and RESTORE (21 R430, R431; 10 R264; 11 R280; 22 R443). The spec gives an image no layout: its size and bytes
are free, and what image number n stands for is kept beside them (log 39). -/
namespace Sys2Proof.Machine

/-! ### CHECKPOINT -/

/-- The entries of a table by core that are not empty. -/
def perCore {α : Type} (s : State) (f : Core → List α) : Tab (List α) :=
  s.cores.filterMap (fun c => if (f c.2).isEmpty then none else some (c.1, f c.2))

/-- What the image of a context's subtree holds (R430). -/
def State.takeImage (s : State) (x : Nat) : Image :=
  let xs := s.subtree x
  let ls := s.launchesOf xs
  let mineL (l : Nat) : Bool := ls.contains l
  let mineX (c : Nat) : Bool := xs.contains c
  { size := s.imageSize x, target := x, clMask := (s.ctxAt x).clMask
    ctxs := s.ctxs.filter (fun c => mineX c.1)
    launches := s.launches.filter (fun l => mineX l.2.ctx)
    groups := s.groups.filter (fun g => mineX g.2.ctx)
    roasts := s.roasts.filter (fun r => mineL r.2.launch)
    saved := perCore s (fun c => c.saved.filter (fun v => mineL v.launch))
    savedExp := perCore s (fun c => c.savedExp.filter (fun e => mineX e.ctx))
    copies := perCore s (fun c => c.copies.filter (fun q => mineX q.2.ctx))
    pools := perCore s (fun c => c.pools.filter (fun p => mineL p.launch))
    calls := s.dies.zipIdx.map (fun d => (d.2, (d.1.calls.filter (fun e => mineX e.ctx), d.1.serving.filter (fun e => mineX e.ctx))))
    orphans := s.dies.zipIdx.map (fun d => (d.2, d.1.orphans.filter (fun e => mineX e.ctx))) }

/-- Accesses of a subtree that go on after a pre-emption (11 R278): they end before the image is written. -/
def State.settled (s : State) (xs : List Nat) : Bool :=
  s.groups.all (fun g => !xs.contains g.2.ctx
      || (g.2.ops.all (fun o => !o.2.passed || (o.2.locs.isEmpty && o.2.locs2.isEmpty)) && s.barriers.all (fun b => decide (b.1 ≠ g.1))))

/-- The bytes of image number `n` of `k` bytes. -/
def imageBytes (n k : Nat) : List Byte := (List.range k).map (Config.imageByte n)

/-- Is a confidential target in reach of the issuer (22 R443)? -/
def State.worldMay (s : State) (c : Cmd) : Bool :=
  let w := (s.ctxAt c.target).world
  decide (w < 2) || decide ((s.ctxAt c.issuer).world = w)

/-- CHECKPOINT (R430). -/
def execCheckpoint (i : Nat) (s : State) : Out :=
  onCmd i (fun c => decide (c.code = 0x0A)) s (fun c =>
    let t := c.target
    let a := c.f 0x10 8
    let ok := c.clean 1 [(0x10, 16), (0x20, 8)] && decide (a % 4096 = 0)
    s.checked i c ok (s.isChild c.issuer t) (decide ((s.ctxAt t).st = .frozen) && s.worldMay c) (
      if !s.settled (s.subtree t) then s.beginCmd i c
      else
        let m := s.takeImage t
        if c.f 0x18 8 < m.size then s.cmdDone i c 4 []
        else
          let n := s.pkg.nextImage
          match s.fwWrite c.issuer true a (imageBytes n m.size) with
          | none => s.cmdDone i c 5 []
          | some u =>
            let v := { u with pkg := { u.pkg with images := Tab.put u.pkg.images n m, nextImage := n + 1 } }
            (if c.flags.testBit 0 then v.modCtx t (fun k => { k with recov := some n }) else v).cmdDone i c 0 [(0x20, leBytes 8 m.size)]))

/-! ### What an image's numbers become -/

/-- Where an image goes: what is added to its launch, group and roast numbers; its target and the context that takes its place; the
clusters of its grant and of the new one, in order. -/
structure Moved where
  l : Nat
  g : Nat
  r : Nat
  old : Nat
  new : Nat
  clOld : List Nat
  clNew : List Nat
  deriving DecidableEq, Repr

/-- Clusters of a mask, lowest first. -/
def clustersOf (m : BitVec 64) : List Nat := (List.range 48).filter (fun i => m.getLsbD i)

def Moved.ctx (m : Moved) (x : Nat) : Nat := if x = m.old then m.new else x

/-- The k-th cluster of the old grant becomes the k-th of the new one. -/
def Moved.cluster (m : Moved) (c : Nat) : Nat :=
  match m.clOld.findIdx? (fun k => decide (k = c)) with
  | some k => m.clNew.getD k c
  | none => c

def Moved.core (m : Moved) (c : Nat) : Nat := m.cluster (coreCluster c) * 8 + c % 8

/-- A die becomes the die of its first cluster. -/
def Moved.die (m : Moved) (d : Nat) : Nat :=
  match m.clOld.find? (fun c => decide (c / 12 = d)) with
  | some c => m.cluster c / 12
  | none => d

def Moved.pending (m : Moved) (e : PendingLaunch) : PendingLaunch := { e with g := e.g + m.g, ctx := m.ctx e.ctx, launch := e.launch + m.l }

def Moved.call (m : Moved) (e : CallEntry) : CallEntry :=
  { e with g := e.g + m.g, ctx := m.ctx e.ctx, launch := e.launch + m.l, core := m.core e.core }

/-- A restored group holds no frame index until it resumes (11 R280). -/
def Moved.grp (m : Moved) (g : Grp) : Grp :=
  { g with ctx := m.ctx g.ctx, launch := g.launch + m.l, core := m.core g.core, moved := true
           shared := g.shared.map (fun p => (p.1, p.2 + m.r)), pend := g.pend.map m.pending }

def Moved.team (m : Moved) (t : Team) : Team :=
  { t with cores := t.cores.map m.core, places := t.places.map (fun p => (m.core p.1, p.2.1, p.2.2))
           groups := t.groups.map (fun p => (p.1, p.2 + m.g)), roast := t.roast.map (fun r => r + m.r) }

def Moved.launch (m : Moved) (n : Nat) (l : Launch) : Launch :=
  { l with ctx := m.ctx l.ctx, launcher := l.launcher.map (fun p => (p.1 + m.g, p.2)), die := m.die l.die
           teams := l.teams.map (fun t => (t.1, m.team t.2)), calls := l.calls.map (fun k => k + m.g * 2 ^ 64)
           roast := l.roast.map (fun r => r + m.r), codeMark := n, cut := false }

def Moved.roast (m : Moved) (r : Roast) : Roast := { r with launch := r.launch + m.l, base := r.base.map (fun b => b + m.r) }

def Moved.range (m : Moved) (r : SavedRange) : SavedRange :=
  { r with r := { r.r with ctx := m.ctx r.r.ctx, launch := r.r.launch + m.l, roast := r.r.roast + m.r } }

/-- A copy's pages are translated anew; what has landed stays (12 R300). -/
def Moved.copy (m : Moved) (c : Copy) : Copy :=
  { c.anew with g := c.g + m.g, ctx := m.ctx c.ctx, launch := c.launch + m.l }

def Moved.saved (m : Moved) (v : SavedCore) : SavedCore :=
  { launch := v.launch + m.l, mq := v.mq.map (fun p => (p.1 + m.g, p.2)), loops := v.loops.map (fun l => { l with g := l.g + m.g, launch := l.launch + m.l })
    percs := v.percs.map (fun p => { p with g := p.g + m.g, launch := p.launch + m.l }), ranges := v.ranges.map m.range, dq := v.dq.map m.copy }

def Moved.pool (m : Moved) (p : Pool) : Pool := { p with launch := p.launch + m.l, grows := p.grows.map (fun g => g + m.g) }

/-- What a record is about, and its copy's new number. -/
def Moved.rcd (m : Moved) (copyBase : Nat → Nat) (r : Rcd) : Rcd :=
  { r with ctx := m.ctx r.ctx
           subj := match r.subj with
             | .group g => Subj.group (g + m.g)
             | .copy c k => Subj.copy (m.core c) (k + copyBase (m.core c))
             | .launchWb l c va => Subj.launchWb (l + m.l) (m.core c) va
             | .other => Subj.other }

/-! ### RESTORE -/

/-- Do the grants of the target and of its descendants cover the image (R430)? Each context of the image exists, with at least its
clusters, queues, pool, ports and packages, and every core that is used is granted where it goes. -/
def State.covers (s : State) (m : Moved) (im : Image) : Bool :=
  let granted (x c : Nat) : Bool := (s.ctxAt (m.ctx x)).clMask.getLsbD (coreCluster (m.core c))
  im.ctxs.all (fun p =>
      let k := s.ctxAt (m.ctx p.1)
      (s.subtree m.new).contains (m.ctx p.1) && s.live (m.ctx p.1)
        && (decide (p.1 = m.old) || decide (k.parent = m.ctx p.2.parent))
        && decide ((clustersOf p.2.clMask).length ≤ (clustersOf k.clMask).length)
        && decide (p.2.qcount ≤ k.qcount) && decide (p.2.poolCount ≤ k.poolCount)
        && decide (p.2.ports &&& ~~~k.ports = 0) && decide (p.2.packages &&& ~~~k.packages = 0))
    && im.groups.all (fun g => granted g.2.ctx g.2.core)
    && im.launches.all (fun l => l.2.teams.all (fun (t : Nat × Team) => t.2.cores.all (granted l.2.ctx)))

/-- Handler and queue settings of an image's context go to the context that takes its place; its records and calls are out again. -/
def Ctx.settle (k old : Ctx) (m : Moved) (copyBase : Nat → Nat) : Ctx :=
  { k with
    qtab := old.qtab, doorbell := old.doorbell, restart := old.restart, qpriv := old.qpriv
    ring := old.ring, lgsz := old.lgsz, mask := old.mask, replies := old.replies, notify := old.notify, replyBell := old.replyBell
    callRing := old.callRing, frames := old.frames, stackBase := old.stackBase, tvec := old.tvec, parkns := old.parkns, adopt := old.adopt
    posted := old.posted.map (fun p => (p.1, m.rcd copyBase p.2)), backlog := old.backlog.map (m.rcd copyBase)
    calls := old.calls.map (fun p => (p.1, m.call p.2)) }

/-- What an image kept of a core goes to the core that takes its place. -/
def Image.toCore (im : Image) (m : Moved) (old : Nat) (k : Core) : Core :=
  let cs := Tab.findD im.copies old []
  { k with
    saved := k.saved ++ (Tab.findD im.saved old []).map m.saved
    savedExp := k.savedExp ++ (Tab.findD im.savedExp old []).map (fun e => { e with ctx := m.ctx e.ctx })
    pools := k.pools ++ (Tab.findD im.pools old []).map m.pool
    copies := k.copies ++ cs.map (fun c => (c.1 + k.copyNext, m.copy c.2))
    copyNext := k.copyNext + cs.foldl (fun n c => max n (c.1 + 1)) 0 }

/-- The image's launches that are installed: of a submission that stands cut short, only those of the recovery image (R431). -/
def State.resumes (s : State) (m : Moved) (recov : Bool) (l : Launch) : Bool :=
  recov || (match l.queue with
    | some (q, _) => !s.launches.any (fun o => o.2.cut && decide (o.2.ctx = m.ctx l.ctx) && decide (o.2.queue.map (fun p => p.1) = some q)
        && decide (o.2.queue = l.queue))
    | none => true)

/-- A launch of a queue takes over its submission: the launch that was cut short is gone and the journal names the new one (R431). -/
def State.takeOver (s : State) (lid : Nat) : State :=
  match Tab.find s.launches lid with
  | none => s
  | some l =>
    match l.queue with
    | none => s
    | some (q, i) =>
      let same (j : Nat × Nat × Nat × Nat × List Nat) : Bool := decide (j.1 = l.ctx) && decide (j.2.1 = q) && decide (j.2.2.1 = i)
      { s with
        launches := s.launches.filter (fun o => !(o.2.cut && decide (o.2.ctx = l.ctx) && decide (o.2.queue = l.queue)))
        journal :=
          if s.journal.any same then s.journal.map (fun j => if same j then (j.1, j.2.1, j.2.2.1, lid, j.2.2.2.2) else j)
          else s.journal ++ [(l.ctx, q, i, lid, journalDies l.die)] }

/-- Installs an image. -/
def State.install (s : State) (im : Image) (m : Moved) (recov : Bool) : State :=
  let base (c : Nat) : Nat := (s.coreAt c).copyNext
  let keep := (im.launches.filter (fun l => s.resumes m recov l.2)).map (fun l => l.1)
  let kept (l : Nat) : Bool := keep.contains l
  let ls := (im.launches.filter (fun l => kept l.1)).map (fun l => (l.1 + m.l, m.launch s.codeLog.length l.2))
  let gs := (im.groups.filter (fun g => kept g.2.launch)).map (fun g => (g.1 + m.g, m.grp g.2))
  let used (c : Nat) : Bool := (Tab.find im.saved c).isSome || (Tab.find im.savedExp c).isSome || (Tab.find im.copies c).isSome
    || (Tab.find im.pools c).isSome
  let t := { s with
    launches := s.launches ++ ls, nextLaunch := 2 * s.nextLaunch
    groups := s.groups ++ gs, nextGroup := 2 * s.nextGroup
    roasts := s.roasts ++ (im.roasts.filter (fun r => kept r.2.launch)).map (fun r => (r.1 + m.r, m.roast r.2)), nextRoast := 2 * s.nextRoast
    dies := s.dies.zipIdx.map (fun (d : Die × Nat) => { d.1 with
      calls := d.1.calls ++ (im.calls.filter (fun e => decide (m.die e.1 = d.2))).flatMap (fun e => e.2.1.map m.call)
      serving := d.1.serving ++ (im.calls.filter (fun e => decide (m.die e.1 = d.2))).flatMap (fun e => e.2.2.map m.call)
      orphans := d.1.orphans ++ (im.orphans.filter (fun e => decide (m.die e.1 = d.2))).flatMap (fun e => e.2.map m.pending) }) }
  let u := ((List.range 384).filter used).foldl (fun (v : State) c => v.modCore (m.core c) (im.toCore m c)) t
  let v := im.ctxs.foldl (fun (w : State) (p : Nat × Ctx) => w.modCtx (m.ctx p.1) (fun k => k.settle p.2 m base)) u
  ls.foldl (fun (w : State) (p : Nat × Launch) => w.takeOver p.1) v

/-- The image that stands at an address: number and contents. -/
def State.imageAt (s : State) (x a : Nat) : Option (Nat × Image) :=
  s.pkg.images.find? (fun p => decide (s.fwRead x true a p.2.size = some (imageBytes p.1 p.2.size)))

/-- RESTORE (R430, R431): where the target holds launches other than those cut short, STATE. -/
def execRestore (i : Nat) (s : State) : Out :=
  onCmd i (fun c => decide (c.code = 0x0B)) s (fun c =>
    let t := c.target
    let xs := s.subtree t
    let none' := s.launches.all (fun l => !xs.contains l.2.ctx || l.2.cut)
    s.checked i c (c.clean 0 [(0x10, 8)]) (s.isChild c.issuer t) (decide ((s.ctxAt t).st = .frozen) && none' && s.worldMay c) (
      match s.imageAt c.issuer (c.f 0x10 8) with
      | none => s.cmdDone i c (if (s.fwFault c.issuer true (c.f 0x10 8) 1 .read).isSome then 5 else 1) []
      | some (n, im) =>
        let m : Moved := ⟨s.nextLaunch, s.nextGroup, s.nextRoast, im.target, t, clustersOf im.clMask, clustersOf (s.ctxAt t).clMask⟩
        if !s.covers m im then s.cmdDone i c 4 []
        else (s.install im m (decide ((s.ctxAt t).recov = some n))).cmdDone i c 0 []))

end Sys2Proof.Machine
end

