-- ==== Sys2Proof/Machine/Fabric.lean ====
section
/-! DEFINITION. Fabric ports, remote requests, exports and CXL ports (24 R458 to R473; 21 R432; 22 R439, R461). -/
namespace Sys2Proof.Machine

/-! ### The error log (22 R453) -/

/-- Appends an entry to a die's error log, which raises vector 2 of the physical function (22 R447). -/
def State.errorLog (s : State) (die : Nat) (p : ErrAt) : State :=
  (s.modDie die (fun d => { d with errors := d.errors ++ [(p, d.clock)] })).msi physFn 2

/-! ### Answers and records of a port (R463) -/

/-- Contexts that have a port in their mask, or one of these requests. -/
def State.linkCtxs (s : State) (port : Nat) (rs : List Sent) : List Nat :=
  (s.ctxs.filter (fun c => decide (c.2.st ≠ CtxSt.free) && decide (c.1 ≠ 0) && (c.2.ports.getLsbD port || rs.any (fun r => decide (r.ctx = c.1))))).map
    (fun c => c.1)

/-- Steps 2 and 3 of R463: the port's requests are answered, and each context that it concerns has a record. -/
def State.portAnswers (s : State) (i reason : Nat) : State :=
  let rs := s.sentAll.filter (fun r => decide (s.sentPort r = some i))
  let xs := s.linkCtxs i rs
  let t := s.answerAll rs
  xs.foldl (fun (u : State) x =>
    u.linkFault x i ((s.portAt i).peer.getD 0) (rs.filter (fun r => decide (r.ctx = x))).length reason) t

/-! ### Flits (R460, R461) -/

/-- How many numbers lie from `a` up to `b`, in 32 bits. -/
def seqDist (a b : Nat) : Nat := (b + 2 ^ 32 - a) % 2 ^ 32

/-- An accepted flit: the next number, the receive counter, and the agreed key (R461). -/
def Port.accept (p : Port) : Port :=
  let q := match p.rxNext with
    | some (n, k) => if n = p.rxSeq then { p with rxKey := k, rxCtr := 0, rxNext := none } else p
    | none => p
  { q with rxSeq := (q.rxSeq + 1) % 2 ^ 32, rxCtr := q.rxCtr + 1 }

/-- FLIT_RECEIVE (R460, R463): a flit that fails its CRC counts as out of sequence. An accepted flit acknowledges some of the flits that
wait; which, its header says, and it is free here (log 41). -/
def execFlitReceive (i seq : Nat) (tagOk : Bool) (s : State) : Out :=
  .next (
    let p := s.portAt i
    if 16 ≤ i then s
    else if p.st = .isolated then s.setPort i { p with nacked := some p.rxSeq }
    else if p.st ≠ .up then s
    else if seq ≠ p.rxSeq then
      (if 0 < seqDist seq p.rxSeq ∧ seqDist seq p.rxSeq ≤ 512 then s else s.setPort i { p with nacked := some p.rxSeq })
    else if tagOk then
      (s.setPort i { p.accept with sent := p.sent.drop (Config.freeNat s.freeCtr % (p.sent.length + 1)) }).useFree 1
    else (s.portAnswers i 0).setPort i { p with st := .isolated })

/-- A NACK that names `seq`: earlier flits are accepted, all of them where it names the number to come; the rest is sent again, unchanged; after 8 times the port
retrains. -/
def State.nackAt (s : State) (i seq : Nat) : State :=
  let p := s.portAt i
  match p.sent.findIdx? (fun f => decide (f.1 = seq)) with
  | none => if seq = p.txSeq then s.setPort i { p with sent := [] } else s
  | some k =>
    let rest := p.sent.drop k
    if rest.any (fun f => decide (8 ≤ f.2)) then s.setPort i { p with st := .retrain, sent := rest }
    else s.setPort i { p with sent := rest.map (fun f => (f.1, f.2 + 1)) }

/-- NACK (R460). -/
def execNack (i seq : Nat) (s : State) : Out :=
  .next (if i < 16 ∧ (s.portAt i).st = .up then s.nackAt i seq else s)

/-- ACK_TIMEOUT (R460): as a NACK that names the oldest flit that waits. -/
def execAckTimeout (i : Nat) (s : State) : Out :=
  .next (
    if i < 16 ∧ (s.portAt i).st = .up then
      (match (s.portAt i).sent with
       | f :: _ => s.nackAt i f.1
       | [] => s)
    else s)

/-! ### Port states (R462) -/

/-- PEER_DETECTED. -/
def execPeerDetected (i : Nat) (s : State) : Out :=
  .next (if i < 16 ∧ (s.portAt i).st = .down then s.setPort i { s.portAt i with st := .training } else s)

/-- LINK_TRAINED: from TRAINING with sequence numbers 0; from RETRAIN each waiting flit is sent again, unchanged. -/
def execLinkTrained (i : Nat) (s : State) : Out :=
  .next (
    let p := s.portAt i
    if 16 ≤ i then s
    else
      match p.st with
      | .training => s.setPort i { p with st := .keying, rxSeq := 0, txSeq := 0 }
      | .retrain => s.setPort i { p with st := .up, sent := p.sent.map (fun f => (f.1, 0)) }
      | _ => s)

/-- TRAINING_TIMEOUT. -/
def execTrainingTimeout (i : Nat) (s : State) : Out :=
  .next (if i < 16 ∧ (s.portAt i).st = .training then s.setPort i { s.portAt i with st := .down } else s)

/-- RETRAIN_TIMEOUT: keys, counters and retry buffers go; the requests are answered with reason NOROUTE. -/
def execRetrainTimeout (i : Nat) (s : State) : Out :=
  .next (
    if i < 16 ∧ (s.portAt i).st = .retrain then
      (s.portAnswers i 1).setPort i { s.portAt i with
        st := .training, rxKey := [], txKey := [], rxCtr := 0, txCtr := 0, rxNext := none, txNext := none, sent := [] }
    else s)

/-! ### Keys (R461; 22 R439) -/

/-- Have the records about a port been posted? -/
def State.portPosted (s : State) (i : Nat) : Bool := !s.records.any (fun r => decide (r.kind = 6) && decide (r.addr.toNat = i))

/-- A key exchange over a port, which KEYING waits for, as ISOLATED does once its records are posted: with the keys the port is UP; the third
failure in a row takes it DOWN. -/
def State.portKeys (s : State) (i : Nat) (key : List Byte) : State :=
  let p := s.portAt i
  if 16 ≤ i ∨ ¬(p.st = .keying ∨ (p.st = .isolated ∧ s.portPosted i = true)) then s
  else if key.length = 32 then
    s.setPort i { p with st := .up, rxKey := key, txKey := key, rxCtr := 0, txCtr := 0, rxNext := none, txNext := none, sent := [], fails := 0 }
  else if p.fails + 1 < 3 then s.setPort i { p with st := .keying, fails := p.fails + 1 }
  else (s.setPort i { p with st := .down, fails := 0 }).errorLog 0 (.port i)

/-- KEY_EXCHANGE (22 R439; R461): a session's, or a port's. A key that is not of 256 bits stands for an exchange that fails (log 42). -/
def execKeyExchange (port : Option Nat) (sess : Nat) (key : List Byte) (s : State) : Out :=
  .next (match s.pkg.boot, port with
    | .ready, some i => s.portKeys i key
    | .ready, none =>
      if key.length = 32 then { s with pkg := { s.pkg with sessions := Tab.put s.pkg.sessions sess key } } else s
    | _, _ => s)

/-- KEY_UPDATE (R461): the key of both directions from sequence number `seq` on; the port stays as it is. -/
def execKeyUpdate (i seq : Nat) (key : List Byte) (s : State) : Out :=
  .next (
    let p := s.portAt i
    if i < 16 ∧ key.length = 32 ∧ (p.st = .up ∨ p.st = .retrain) then
      s.setPort i { p with rxNext := some (seq % 2 ^ 32, key), txNext := some (seq % 2 ^ 32, key) }
    else s)

/-! ### Requests of other packages (R465, R467) -/

/-- Takes an answer to another package. -/
def State.setAnswer (s : State) (bs : List Byte) (poison : Bool) : State :=
  { s with pkg := { s.pkg with answer := bs, answerPoison := poison } }

/-- Is `pa` a byte of this package's DRAM that requests reach? -/
def State.owns (s : State) (pa : Nat) : Bool := decide (reachOf s.pkg.id pa = Reach.dram)

/-- The world check on `n` bytes at `pa`, by the world carried with the request (R465; 22 R442). -/
def State.remoteMay (s : State) (world pa : Nat) : Bool := worldAllows world (s.frameWorld pa) false

/-- Copies that packages other than `pk` hold of a line are invalidated before a write (R467). -/
def State.invalidate (s : State) (pk pa : Nat) : State :=
  { s with dir := s.dir.filter (fun d => decide (d.1 ≠ pa / 128 * 128) || decide (d.2 = pk)) }

/-- The line's copy in package `pk` is recorded. -/
def State.noteCopy (s : State) (pk pa : Nat) : State :=
  let e := (pa / 128 * 128, pk)
  { s with dir := if s.dir.contains e then s.dir else e :: s.dir }

/-- Does an access of `n` bytes lie within one line of owned DRAM? -/
def State.remoteOk (s : State) (pa n : Nat) : Bool := s.owns pa && decide (pa % 128 + n ≤ 128)

/-- Is a byte in a range that its exporter withdrew (R469)? -/
def State.isWithdrawn (s : State) (pa : Nat) : Bool := s.pkg.withdrawn.any (fun w => decide (w.1 ≤ pa) && decide (pa < w.1 + w.2))

/-- REMOTE_REQUEST (R465): performed at the home slice, answered as R442 has it; a withdrawn range answers poison (R469). -/
def execRemoteRequest (r : RemoteReq) (s : State) : Out :=
  .next (match r with
    | .read pk w pa n copy =>
      if !s.remoteOk pa n then s
      else if s.isWithdrawn pa then (s.setAnswer (List.replicate n 0) true).fenceLog 0 0 pa 0
      else if !s.remoteMay w pa then s.setAnswer (List.replicate n 0) false
      else
        let t := s.setAnswer (s.homeRead pa n) (s.memPoisoned pa n)
        if copy then t.noteCopy pk pa else t
    | .write pk w pa bs =>
      if !s.remoteOk pa bs.length then s
      else if s.isWithdrawn pa then (s.setAnswer [] false).fenceLog 0 0 pa 1
      else if !s.remoteMay w pa then s.setAnswer [] false
      else
        let t := s.invalidate pk pa
        { (t.memWrite pa bs).setAnswer [] false with dir := t.dir }
    | .atomic pk w pa op x =>
      if !s.remoteOk pa 4 then s
      else if s.isWithdrawn pa then (s.setAnswer (leBytes 4 0) true).fenceLog 0 0 pa 1
      else if !s.remoteMay w pa then s.setAnswer (leBytes 4 0) false
      else if s.memPoisoned pa 4 then s.setAnswer (s.homeRead pa 4) true
      else
        let v : Word := BitVec.ofNat 32 (s.homeWord pa)
        let t := s.invalidate pk pa
        { (t.memWrite pa (leBytes 4 (atomNew op v x).toNat)).setAnswer (leBytes 4 v.toNat) false with dir := t.dir })

/-- NO_ROUTE (R468): the i-th request whose package has no route left is answered, with a LINKFAULT record. -/
def execNoRoute (i : Nat) (s : State) : Out :=
  .next (
    let out := s.sentAll.filter (fun r => match reachOf s.pkg.id r.pa with
      | .remote pk => (s.portFor r.ctx pk r.pa).isNone
      | _ => false)
    match out[i]? with
    | none => s
    | some r => (s.answer r).linkFault r.ctx 0xFF (r.pa / 2 ^ 46 % 64) 1 1)

/-! ### Exports (R469) -/

/-- Does a context's stage map, through its chain, lead into a range? -/
def State.mapsInto (s : State) (x : Nat) (f : Nat → Bool) : Bool :=
  let cx := s.ctxAt x
  (List.range cx.mapCount).any (fun i =>
    match s.nestMaps (s.chain x) 2 (i * 2 ^ 21) 0xFF false false XTrace.none with
    | .ok r => f r.pa
    | .error _ => false)

/-- Contexts whose maps lead into a range. -/
def State.importers (s : State) (f : Nat → Bool) : List Nat :=
  (s.ctxs.filter (fun c => decide (c.2.st ≠ CtxSt.free) && s.mapsInto c.1 f)).map (fun c => c.1)

/-- Bumps a pooled and remote generation entry (17 R363); on a wrap the copies of its index go first. -/
def State.bumpPool (s : State) (ix : Nat) : State :=
  let g := Sparse.get s.poolGen ix
  let t := if g = 63#6 then { s with l2 := s.l2.filter (fun l => decide (l.pa / 2 ^ 21 % 1024 ≠ ix)) } else s
  { t with poolGen := Sparse.set t.poolGen ix (g + 1) }

/-- Adds 1 to the physical stamps of the lines of `n` bytes from `base` on: those of pooled and remote memory that are held become stale (17 R363). -/
def State.bumpPools (s : State) (base n : Nat) : State :=
  (List.range (min 1024 ((base % 2 ^ 21 + n + 2 ^ 21 - 1) / 2 ^ 21))).foldl (fun (v : State) i => v.bumpPool ((base / 2 ^ 21 + i) % 1024)) s

/-- EXPORT_WITHDRAW (R469): of a range of a peer, the copies here go stale and each importing context has a record; of a range of this
package, later requests are answered as the completer of last resort does. The copies of a pooled range that firmware withdraws go stale (17 R363). -/
def execExportWithdraw (base n : Nat) (s : State) : Out :=
  .next (
    let t := { s with pkg := { s.pkg with withdrawn := s.pkg.withdrawn ++ [(base, n)] } }
    match reachOf s.pkg.id base with
    | .remote pk =>
      let u := t.bumpPools base n
      let xs := s.importers (fun pa => decide (pa < base + n) && decide (base < pa + 2 ^ 21))
      xs.foldl (fun (v : State) x => v.linkFault x 0xFF pk 0 2) u
    | .dram => { t with dir := t.dir.filter (fun d => decide (d.1 < base) || decide (base + n ≤ d.1)) }
    | .pooled _ => s.bumpPools base n
    | _ => s)

/-! ### CXL ports (R471 to R473) -/

/-- The write by which a peer that has taken a pooled line changes it: whether there is one, and which bytes it leaves, is free (13 R322; log 73). -/
def State.peerWrite (s : State) (line : Nat) : State :=
  if Config.freeBool s.freeCtr then (s.useFree 129).memWrite line (Config.freeBytes (s.freeCtr + 1) 128) else s.useFree 1

/-- CXL_BACK_INVALIDATE (R472): dirty bytes go back, the copy goes; then the peer may write the line (13 R322). -/
def execCxlBackInvalidate (addr : Nat) (s : State) : Out :=
  .next (match reachOf s.pkg.id addr with
    | .pooled _ => (s.l2Clean (addr / 128 * 128) true).peerWrite (addr / 128 * 128)
    | _ => s)

/-- Is an address pooled memory behind a port? -/
def State.behind (s : State) (p pa : Nat) : Bool := decide (reachOf s.pkg.id pa = Reach.pooled p)

/-- A port's requests are answered, its L2 copies dropped — each dirty one with a fence-log entry —, and the contexts that reach it have
records (R473). -/
def State.cxlLost (s : State) (p : Nat) : State :=
  let rs := s.sentAll.filter (fun r => s.behind p r.pa)
  let t := s.answerAll rs
  let mine := t.l2.filter (fun l => s.behind p l.pa)
  let u := (mine.filter (fun l => decide (l.dirty ≠ 0))).foldl (fun (v : State) l => v.fenceLog 0 0 l.pa 1) t
  let w := { u with l2 := u.l2.filter (fun l => !s.behind p l.pa) }
  (s.importers (s.behind p)).foldl (fun (v : State) x =>
    v.linkFault x (16 + p) 0 (rs.filter (fun r => decide (r.ctx = x))).length 1) w

/-- CXL_PORT_DOWN (R473). -/
def execCxlPortDown (p : Nat) (s : State) : Out :=
  .next (
    if 4 ≤ p ∨ s.pkg.cxlUp.getD p true = false then s
    else (({ s with pkg := { s.pkg with cxlUp := s.pkg.cxlUp.set p false } }).cxlLost p))

end Sys2Proof.Machine
end

