-- ==== Sys2Proof/Machine/Trust.lean ====
section
/-! DEFINITION. Cold reset, life cycle, SPDM and IDE; time; power; soft errors (22 R437 to R439, R444 to R446, R448, R449, R452 to R454;
11 R273; 06 R172; 07 R211; 19 R400). -/
namespace Sys2Proof.Machine

/-! ### Cold reset (R437, R445) and the life cycle (R444) -/

def LifeCycle.code (l : LifeCycle) : Nat := match l with | .manufacture => 0 | .deployed => 1 | .returned => 2

/-- The machine after a cold reset: what fuses, the topology table and firmware's placement of channels give stays (17 R349, R350; 24
R458); everything else is as after State.reset. -/
def State.cold (s : State) (b : Boot) (l : LifeCycle) : State :=
  { State.reset with
    agenda := s.agenda, freeCtr := s.freeCtr
    pkg := { pkgInit with
      id := s.pkg.id, boot := b, lifeCycle := l, routes := s.pkg.routes, secretLocked := decide (b = .ready)
      ports := s.pkg.ports.map (fun p => { portInit with peer := p.peer })
      partitions := s.pkg.partitions.map (fun p => (p.1, { p.2 with ctx := none })), sharedBase := s.pkg.sharedBase } }

/-- COLD_RESET (R437): `ok` where a slot of the boot flash is accepted; else the ROM halts. -/
def execColdReset (ok : Bool) (s : State) : Out :=
  .next (s.cold (if ok then .ready else .failed) s.pkg.lifeCycle)

/-- MODULE_POWER_OFF (R452): nothing is left but fuses and flash. -/
def execModulePowerOff (s : State) : Out := .next (s.cold .off s.pkg.lifeCycle)

/-- The state after the present one; there is none after RETURNED. -/
def LifeCycle.next (l : LifeCycle) : Option LifeCycle :=
  match l with | .manufacture => some .deployed | .deployed => some .returned | .returned => none

/-- LIFE_CYCLE_CHANGE (R444): one state forward, while context 0 is the only one; keys, memories and state go, the module resets cold. -/
def execLifeCycleChange (code : Nat) (s : State) : Out :=
  .next (
    if s.pkg.boot ≠ .ready ∨ s.ctxs.any (fun c => decide (c.1 ≠ 0) && decide (c.2.st ≠ CtxSt.free)) then s
    else
      match s.pkg.lifeCycle.next with
      | some l => if l.code = code then s.cold .ready l else s
      | none => s)

/-! ### SPDM (R439): the answers, which are free (log 44) -/

/-- Firmware's answer, while it runs. -/
def State.spdmAnswer (s : State) (bs : List Byte) : State :=
  if s.pkg.boot = .ready then { s with pkg := { s.pkg with spdm := bs } } else s

/-- GET_CERTIFICATE (R439, R438). -/
def execGetCertificate (_sess : Nat) (s : State) : Out := .next (s.spdmAnswer (Config.certificates s.pkg.lifeCycle.code))

/-- CHALLENGE (R439). -/
def execChallenge (nonce : List Byte) (s : State) : Out := .next (s.spdmAnswer (Config.challenge s.pkg.lifeCycle.code nonce))

/-- GET_MEASUREMENTS (R439): an index other than 1 to 4 returns no block. -/
def execGetMeasurements (index : Nat) (s : State) : Out :=
  .next (s.spdmAnswer (if 1 ≤ index ∧ index ≤ 4 then Config.measurement s.pkg.lifeCycle.code index else []))

/-! ### IDE (R446): stream 0 is the link stream of PCIe, 1 to 8 its selective streams, 16 + p that of CXL port p (log 45) -/

def ideStream (n : Nat) : Bool := decide (n ≤ 8) || (decide (16 ≤ n) && decide (n < 20))

/-- IDE_KM (R446): over an SPDM session. -/
def execIdeKm (stream : Nat) (key : List Byte) (s : State) : Out :=
  .next (
    if s.pkg.boot = .ready ∧ ideStream stream = true ∧ key.length = 32 ∧ s.pkg.sessions ≠ [] then
      { s with pkg := { s.pkg with
          ide := Tab.put s.pkg.ide stream key, ideInsecure := s.pkg.ideInsecure.filter (fun n => decide (n ≠ stream)) } }
    else s)

/-- IDE_INTEGRITY_FAILURE (R446; 24 R473): the stream is insecure and its traffic dropped. -/
def execIdeIntegrityFailure (stream : Nat) (s : State) : Out :=
  .next (
    if ideStream stream = false ∨ (Tab.find s.pkg.ide stream).isNone = true ∨ s.pkg.ideInsecure.contains stream = true then s
    else
      let t := { s with pkg := { s.pkg with ideInsecure := stream :: s.pkg.ideInsecure } }
      if 16 ≤ stream then t.cxlLost (stream - 16) else t)

/-! ### Time (R448, R449) -/

/-- An offset of the device clocks is measured, in ns that they are behind: a step where it is forward and more than 1 ms, else slewed. -/
def State.measured (s : State) (offset : Int) : State :=
  { s with
    pkg := { s.pkg with ofs := min offset.natAbs 0xFFFFF }
    dies := s.dies.map (fun (d : Die) =>
      if 1000000 < offset then { d with clock := d.clock + offset.toNat, slew := 0 } else { d with slew := offset }) }

/-- PTP_MESSAGE (R448). -/
def execPtpMessage (offset : Int) (s : State) : Out :=
  .next (if 1 ≤ s.pkg.src ∧ s.pkg.src ≤ 3 then s.measured offset else s)

/-- PTM_RESPONSE (R448). -/
def execPtmResponse (offset : Int) (s : State) : Out := .next (if s.pkg.src = 4 then s.measured offset else s)

/-- CLOCK_LOCK_CHANGE (R448, R447): LOCK rises only with an offset under 100 ns. -/
def execClockLockChange (lock : Bool) (s : State) : Out :=
  .next (
    if s.pkg.lock = lock ∨ (lock = true ∧ 100 ≤ s.pkg.ofs) then s
    else ({ s with pkg := { s.pkg with lock := lock } }).msi physFn 3)

/-- TCTL_WRITE (R448): only SRC can be written; 5 to 7 are discarded. -/
def execTctlWrite (val : Word) (s : State) : Out :=
  .next (
    let src := (val.extractLsb' 28 3).toNat
    if src ≤ 4 then { s with pkg := { s.pkg with src := src } } else s)

/-! ### Control words of cores and slots -/

/-- ICTL_WRITE (11 R273): TLO at or above THI discards the write. -/
def execIctlWrite (core : Nat) (val : Word) (s : State) : Out :=
  .next (
    let thi := (val.extractLsb' 12 12).toNat
    let tlo := (val.extractLsb' 0 12).toNat
    if 384 ≤ core ∨ thi ≤ tlo then s
    else s.modCore core (fun k => { k with
      ten := val.getLsbD 31, thi := thi, tlo := tlo, level := if val.getLsbD 31 then k.level else 32 }))

/-- SCTL_WRITE (19 R400): PACE 3 discards the write. -/
def execSctlWrite (die slot : Nat) (val : Word) (s : State) : Out :=
  .next (
    let pace := (val.extractLsb' 0 2).toNat
    if 4 ≤ die ∨ 24 ≤ slot ∨ pace = 3 then s
    else s.setSlot die slot { s.slotAt die slot with flim := (val.extractLsb' 2 4).toNat, pace := pace })

/-! ### Power and cooling (R452) -/

/-- POWER_LIMIT (R452): BULK launches first, then INTERACTIVE, and DEADLINE launches last. -/
def execPowerLimit (die pt : Nat) (s : State) : Out :=
  .next (
    if 4 ≤ die ∨ pt = 0 ∨ 15 < pt then s
    else s.modDie die (fun d =>
      let l := d.limits
      if pt < l.1 then { d with limits := (pt, l.2) }
      else if pt < l.2.1 then { d with limits := (l.1, pt, l.2.2) }
      else if pt < l.2.2 then { d with limits := (l.1, l.2.1, pt), point := min d.point pt } else d))

/-- DRAM_OVERTEMP (R452): the layer's refresh rate doubles. -/
def execDramOvertemp (die layer : Nat) (s : State) : Out :=
  .next (if 4 ≤ die then s
    else s.modDie die (fun d => { d with refresh := if d.refresh.contains layer then d.refresh else d.refresh ++ [layer] }))

/-- THERMAL_THROTTLE (R452): every operating point of the die goes down. -/
def execThermalThrottle (die pt : Nat) (s : State) : Out :=
  .next (
    if 4 ≤ die ∨ pt = 0 ∨ 15 < pt then s
    else s.modDie die (fun d => { d with
      point := min d.point pt, limits := (min d.limits.1 pt, min d.limits.2.1 pt, min d.limits.2.2 pt) }))

/-! ### Soft errors (R453, R454) -/

/-- The channels that no partition owns, ascending (17 R353). -/
def State.sharedChannels (s : State) : List Nat :=
  (List.range 128).filter (fun c => s.pkg.partitions.all (fun p => !p.2.channels.contains c))

/-- The interleave set of a DRAM address: its base and its channels, ascending (17 R350, R353). -/
def State.setOf (s : State) (pa : Nat) : Nat × List Nat :=
  match s.pkg.partitions.find? (fun p => decide (p.2.base ≤ pa % 2 ^ 44) && decide (pa % 2 ^ 44 < p.2.base + p.2.size)) with
  | some p => (p.2.base, p.2.channels)
  | none => (s.pkg.sharedBase, s.sharedChannels)

/-- The index of a page's channel in a set of 2^k channels, `o` bytes from the set's base (17 R350). -/
def chanIndex (k o : Nat) : Nat := (o / 2 ^ 12 % 2 ^ k) ^^^ (o / 2 ^ (12 + k) % 2 ^ k)

/-- The channel of a DRAM address (17 R350). -/
def State.homeChannel (s : State) (pa : Nat) : Nat :=
  let q := s.setOf pa
  q.2.getD (chanIndex (Nat.log2 q.2.length) (pa % 2 ^ 44 - q.1)) 0

/-- The die of a DRAM address: 32 channels a die (17 R350). -/
def State.homeDie (s : State) (pa : Nat) : Nat := s.homeChannel pa / 32

/-- DRAM_CRC_RETRY (R453): after 8 retries the transfer's words are poisoned; a transfer is 64 bytes (log 46). -/
def execDramCrcRetry (addr fails : Nat) (s : State) : Out :=
  .next (
    if fails ≤ 8 ∨ s.owns addr = false then s
    else
      ((List.range 8).foldl (fun (t : State) i => t.poisonMem (addr / 64 * 64 + 8 * i)) s).errorLog (s.homeDie addr) (.dram addr))

/-- A poisoned roast line: the part, and every group that still shares the line (06 R172). -/
def State.poisonRoast (s : State) (ro k n : Nat) : State :=
  match Tab.find s.roasts ro with
  | none => s
  | some r =>
    match Tab.find r.parts k with
    | none => s
    | some p =>
      let q := { p with poison := if p.poison.contains n then p.poison else n :: p.poison }
      { s with
        roasts := Tab.put s.roasts ro { r with parts := Tab.put r.parts k q }
        groups := s.groups.map (fun (g : Nat × Grp) =>
          if Tab.find g.2.shared n = some ro ∧ (r.parts.length ≤ 1 ∨ g.2.idx = k) then (g.1, g.2.poisonLine n) else g) }

/-- Adds a word to the poisoned words of a range, where it still shares the block with a roast (10 R265). -/
def LocalRange.poisonShared (e : LocalRange) (ro place w : Nat) (ws : List Nat) : List Nat :=
  if e.roast = ro ∧ e.place = place ∧ e.shared.contains (w / 32) = true ∧ ws.contains (e.base / 8 + w) = false then (e.base / 8 + w) :: ws else ws

/-- A poisoned word of a template window in roast storage: the roast, and every window that still shares its block (10 R265). -/
def State.poisonTemplate (s : State) (ro place w : Nat) : State :=
  match Tab.find s.roasts ro with
  | none => s
  | some r =>
    let ws := Tab.findD r.winPoison place []
    if (Tab.findD r.win place []).length ≤ 8 * w then s
    else
      { s with
        roasts := Tab.put s.roasts ro { r with winPoison := Tab.put r.winPoison place (if ws.contains w then ws else w :: ws) }
        cores := s.cores.map (fun c => (c.1, { c.2 with
          winPoison := c.2.ranges.foldl (fun ws e => e.poisonShared ro place w ws) c.2.winPoison
          saved := c.2.saved.map (fun v => { v with ranges := v.ranges.map (fun q => { q with poison := q.r.poisonShared ro place w q.poison }) }) })) }

/-- An error in the interleave set's state behind a channel: the set's partition is reset, by way of its bound context (21 R435). -/
def State.setError (s : State) (n : Nat) : State :=
  match (s.pkg.partitions.find? (fun q => q.2.channels.contains n)).bind (fun q => q.2.ctx) with
  | some x => if s.live x then s.errIsolate x fencePartition else s
  | none => s

/-- UNCORRECTABLE_ERROR (R453; 06 R172; 07 R211; 21 R435): the word or line is poisoned, or a partition's reset begins; the die's error log has an entry. -/
def execUncorrectableError (p : ErrAt) (s : State) : Out :=
  .next (match p with
    | .dram a => if s.owns a then (s.poisonMem a).errorLog (s.homeDie a) p else s
    | .window c w => if c < 384 then (s.poisonWin c (8 * w)).errorLog (coreDie c) p else s
    | .line g n =>
      (match Tab.find s.groups g with
       | some k => if n < k.nlines then (s.modGrp g (fun q => q.poisonLine n)).errorLog (coreDie k.core) p else s
       | none => s)
    | .roast r k n => (s.poisonRoast r k n).errorLog 0 p
    | .roastWindow r k w => (s.poisonTemplate r k w).errorLog 0 p
    | .channel n => if n < 128 then (s.errorLog (n / 32) p).setError n else s
    | _ => s)

/-- CORRECTED_ERROR (R453): the structure's counter rises by 1. -/
def execCorrectedError (die which : Nat) (s : State) : Out :=
  .next (if 4 ≤ die then s
    else s.modDie die (fun d => { d with corrected := Tab.put d.corrected which (Tab.findD d.corrected which 0 + 1) }))

/-- SERVICE_CORE_CACHE_ERROR (R454): the context that owns the page is error-fenced, or the die's service complex is reset, for at most
20 ms. -/
def execServiceCoreCacheError (die : Nat) (ctx : Option Nat) (s : State) : Out :=
  .next (
    if 4 ≤ die then s
    else
      let t := s.errorLog die (.svcCache die)
      match ctx with
      | some x => if x = 0 ∨ s.live x = false then t
                  else t.errIsolate x fenceError
      | none =>
        (t.modDie die (fun d => { d with
          svcBack := d.clock + Config.freeNat s.freeCtr % 20000001, harts := List.replicate 16 hartInit })).useFree 1)

end Sys2Proof.Machine
end

