-- ==== Sys2Proof/Machine/HostPort.lean ====
section
/-! DEFINITION. The host port (13 R321; 17 R368; 21 R436; 22 R442, R447, R453), control registers (03 R6), and time-stamped ingress
(22 R450, R451). -/
namespace Sys2Proof.Machine

/-! ### A context's physical memory -/

/-- The system physical address of a context-physical one (R436): context 0's is system physical (R447). -/
def State.physAt (s : State) (x a : Nat) (write : Bool) : Except XFault NestOk :=
  if x = 0 then
    match reachOf s.pkg.id a with
    | .nothing => .error ⟨0x10, 1, 0xFF, false, false, 0, a, XTrace.none⟩
    | _ => .ok ⟨a, true, true, false, [], XTrace.none⟩
  else s.physNest x a write

/-- The fault of the first of these pieces. -/
def State.physFault (s : State) (x : Nat) (write : Bool) (ps : List (Nat × Nat)) : Option (Nat × XFault) :=
  match ps with
  | [] => none
  | p :: rest =>
    match s.physAt x p.1 write with
    | .error e => some (p.1, e)
    | .ok _ => s.physFault x write rest

/-- Pieces of an access of `n` bytes. -/
def physPieces (a n : Nat) : List (Nat × Nat) := pieces64 (n / 64 + 2) a n

/-- Reads pieces that translate, for an agent of world `w` (22 R442): bytes, whether one is poisoned, and whether a frame was another's. -/
def State.physRead (s : State) (x w : Nat) (ps : List (Nat × Nat)) : List Byte × Bool × Bool :=
  match ps with
  | [] => ([], false, false)
  | p :: rest =>
    let r := s.physRead x w rest
    match s.physAt x p.1 false with
    | .error _ => (List.replicate p.2 0 ++ r.1, r.2)
    | .ok k =>
      if worldAllows w (s.frameWorld k.pa) false then (s.homeRead k.pa p.2 ++ r.1, s.memPoisoned k.pa p.2 || r.2.1, r.2.2)
      else (List.replicate p.2 0 ++ r.1, r.2.1, true)

/-- Poisons the words of `n` bytes (22 R453). -/
def State.poisonRange (s : State) (pa n : Nat) : State :=
  (List.range ((pa % 8 + n + 7) / 8)).foldl (fun (t : State) i => t.poisonMem (pa / 8 * 8 + 8 * i)) s

/-- Writes pieces that translate: at the home slice, the page marked dirty (17 R359, R368); whether a frame was another world's. -/
def State.physWrite (s : State) (x w : Nat) (ps : List (Nat × Nat)) (bs : List Byte) (poisoned : Bool) : State × Bool :=
  match ps with
  | [] => (s, false)
  | p :: rest =>
    match s.physAt x p.1 true with
    | .error _ => s.physWrite x w rest (bs.drop p.2) poisoned
    | .ok k =>
      if worldAllows w (s.frameWorld k.pa) false then
        let t := (s.traced k.tr).homeWrite k.pa (bs.take p.2) true
        let u := if poisoned then t.poisonRange k.pa p.2 else t
        (u.trackPath (s.chain x) k.path).physWrite x w rest (bs.drop p.2) poisoned
      else ((s.physWrite x w rest (bs.drop p.2) poisoned).1, true)

/-! ### HOST_MEMORY_READ, HOST_MEMORY_WRITE (13 R321; R436, R447) -/

/-- The context of a function. -/
def State.fnCtx (s : State) (fn : Nat) : Nat := if fn = physFn then 0 else Tab.findD s.pkg.vfs fn 0

/-- Does BAR 2 of a function answer: the firmware runs, the link is secure, and the access lies within 512 GiB? -/
def State.bar2 (s : State) (fn a n : Nat) : Bool :=
  decide (s.pkg.boot = .ready) && decide (fn ≤ physFn) && decide (a + n ≤ 2 ^ 39) && !s.pkg.ideInsecure.contains 0

/-- The WORLD record of a host access (22 R442), which carries no trusted bit. -/
def State.hostWorld (s : State) (x a : Nat) (write : Bool) : State :=
  s.raiseEvent x [{ rcdInit with
    cause := if write then 0x12 else 0x11, stage := (s.chain x).length + 1, level := 0xFF, kind := 7, acc := if write then 2 else 1, ctx := x
    missCtx := x, addr := BitVec.ofNat 64 a, core := 0xFFFF, cls := RecClass.world, dest := (s.ctxAt x).parent }]

/-- TCTL as a word (R448). -/
def Pkg.tctl (p : Pkg) : Nat := (if p.lock then 2 ^ 31 else 0) + 2 ^ 28 * (p.src % 8) + min p.ofs 0xFFFFF

/-- The word at `o` of an ingress descriptor (R450). -/
def Ingress.word (g : Ingress) (o : Nat) : Nat :=
  match o with
  | 0x00 => g.base % 2 ^ 32
  | 0x04 => g.base / 2 ^ 32 % 2 ^ 32
  | 0x08 => (if g.en then 2 ^ 31 else 0) + 2 ^ 16 * g.port + 2 ^ 8 * g.lgsz + g.lwin
  | 0x0C => g.ctx
  | 0x10 => g.ring % 2 ^ 32
  | 0x14 => g.ring / 2 ^ 32 % 2 ^ 32
  | 0x18 => g.drops
  | _ => 0

/-- A word of a function's MSI-X table, 16 bytes a vector (R447): its place in the table; the pending bits stand 0x800 above the table (log 43). -/
def msixWord (fn o : Nat) : Option Nat :=
  let base := if fn = physFn then 0x10000 else 0x2000
  let n := if fn = physFn then 64 else 4
  if base ≤ o ∧ o < base + 16 * n then some ((o - base) / 4) else none

/-- The word at `o` of BAR 0 of a function (R447): its command page's block, its MSI-X table and pending bits, or, of the physical function, an ingress descriptor or a
word of the status page. The status page's order and codes are the model's (log 43). -/
def State.barWord (s : State) (fn o : Nat) : Nat :=
  let p := s.fnPage fn
  let pending := if fn = physFn then 0x10800 else 0x2800
  if (msixWord fn o).isSome then (Sparse.get p.vectors ((msixWord fn o).getD 0)).toNat
  else if o = pending then p.msix.toNat % 2 ^ 32
  else if o = pending + 4 ∧ fn = physFn then p.msix.toNat / 2 ^ 32
  else if o < 0x80 then leNat ((List.range 4).map (fun i => (s.fnPage fn).block.getD (o + i) 0))
  else if fn = physFn ∧ 0x2000 ≤ o ∧ o < 0x2400 then (s.pkg.ingress.getD ((o - 0x2000) / 64) ingressInit).word (o % 64)
  else if fn = physFn ∧ o = 0x3000 then (match s.pkg.boot with | .off => 0 | .failed => 1 | .ready => 2)
  else if fn = physFn ∧ o = 0x3004 then s.pkg.tctl
  else if fn = physFn ∧ o = 0x3008 then s.pkg.lifeCycle.code
  else if fn = physFn ∧ o = 0x300C then s.pkg.id
  else 0

/-- A read of a word of BAR 0: a drop count is cleared by it (R450). -/
def State.barRead (s : State) (fn o : Nat) : State :=
  let t := { s with pkg := { s.pkg with hostRead := leBytes 4 (s.barWord fn o), hostPoison := false } }
  if fn = physFn ∧ 0x2000 ≤ o ∧ o < 0x2400 ∧ o % 64 = 0x18 then
    { t with pkg := { t.pkg with ingress := t.pkg.ingress.modify ((o - 0x2000) / 64) (fun g => { g with drops := 0 }) } }
  else t

/-- HOST_MEMORY_READ, of BAR 2, or, at 2^53 + o, of the word at `o` of BAR 0 (log 43). What a read that does not translate returns, the spec does not
say: it is free (log 47). -/
def execHostMemoryRead (fn a n : Nat) (s : State) : Out :=
  .next (
    let x := s.fnCtx fn
    let ps := physPieces a n
    if 2 ^ 53 ≤ a then (if s.pkg.boot ≠ .off ∧ fn ≤ physFn ∧ n = 4 ∧ a % 4 = 0 then s.barRead fn (a - 2 ^ 53) else s)
    else if !s.bar2 fn a n then s
    else
      match s.physFault x false ps with
      | some _ => ({ s with pkg := { s.pkg with hostRead := Config.freeBytes s.freeCtr n, hostPoison := false } }).useFree n
      | none =>
        let r := s.physRead x 0 ps
        let t := { s with pkg := { s.pkg with hostRead := r.1, hostPoison := r.2.1 } }
        if r.2.2 then t.hostWorld x a false else t)

/-- HOST_MEMORY_WRITE: posted; one that does not translate writes nothing (log 47). -/
def execHostMemoryWrite (fn a : Nat) (bs : List Byte) (poisoned : Bool) (s : State) : Out :=
  .next (
    let x := s.fnCtx fn
    let ps := physPieces a bs.length
    if !s.bar2 fn a bs.length || (s.physFault x true ps).isSome then s
    else
      let r := s.physWrite x 0 ps bs poisoned
      if r.2 then r.1.hostWorld x a true else r.1)

/-! ### Control registers without behaviour of their own (R6): the addresses are the model's (log 43) -/

/-- A new value for the word at `o` of a little-endian field. -/
def putWord (old o v : Nat) : Nat := leNat (patch (leBytes 8 old) o (leBytes 4 v))

/-- A word of an ingress descriptor (R450); read-only and reserved words do not change. -/
def Ingress.put (g : Ingress) (o v : Nat) : Ingress :=
  match o with
  | 0x00 => { g with base := putWord g.base 0 v }
  | 0x04 => { g with base := putWord g.base 4 v }
  | 0x08 => { g with en := v.testBit 31 && decide (bitsOf v 16 5 ≤ 16), port := bitsOf v 16 5, lgsz := bitsOf v 8 5, lwin := bitsOf v 0 6 }
  | 0x0C => { g with ctx := bitsOf v 0 16 }
  | 0x10 => { g with ring := putWord g.ring 0 v }
  | 0x14 => { g with ring := putWord g.ring 4 v }
  | _ => g

/-- A word of BAR 0 of a function (R447): its command page's block, its MSI-X table, or, of the physical function, an ingress descriptor. -/
def State.barWrite (s : State) (fn o v : Nat) : State :=
  if o % 4 ≠ 0 then s
  else if (msixWord fn o).isSome then
    let p := s.fnPage fn
    s.setPage fn { p with vectors := Sparse.set p.vectors ((msixWord fn o).getD 0) (BitVec.ofNat 32 v) }
  else if o < 0x80 then
    let p := s.fnPage fn
    s.setPage fn { p with block := patch p.block o (leBytes 4 v) }
  else if fn = physFn ∧ 0x2000 ≤ o ∧ o < 0x2400 then
    { s with pkg := { s.pkg with ingress := s.pkg.ingress.modify ((o - 0x2000) / 64) (fun g => g.put (o % 64) v) } }
  else s

/-- A word of a die's control blocks: a slot's SVCTH (18 R391), the slice lengths (19 R405), the bandwidth shares (17 R354). -/
def State.dieWrite (s : State) (die o v : Nat) : State :=
  if o < 64 * 24 ∧ o % 64 = 4 then
    s.setSlot die (o / 64) { s.slotAt die (o / 64) with thEn := v.testBit 8, th := bitsOf v 0 8 }
  else if (o = 0x1000 ∨ o = 0x1004) ∧ 50 ≤ v ∧ v ≤ 65535 then
    s.modDie die (fun d => { d with slices := if o = 0x1000 then (v, d.slices.2) else (d.slices.1, v) })
  else if 0x2000 ≤ o ∧ o < 0x6000 ∧ o % 4 = 0 ∧ v ≤ 256 then
    s.modDie die (fun d => { d with shares := Tab.put d.shares ((o - 0x2000) / 4) v })
  else s

/-- Partition `p` set by firmware (17 R350, R353): base and size in units of 3 GiB, the base a multiple of the size. -/
def State.placePart (s : State) (p v : Nat) : State :=
  let q := Tab.findD s.pkg.partitions p ⟨0, 0, [], 0, none⟩
  let k := bitsOf v 8 3
  let u := 3 * 2 ^ 30
  if q.ctx.isSome then s
  else if v.testBit 31 = false then { s with pkg := { s.pkg with partitions := Tab.drop s.pkg.partitions p } }
  else if bitsOf v 0 8 % 2 ^ k ≠ 0 ∨ 128 < bitsOf v 0 8 + 2 ^ k then s
  else if s.pkg.partitions.any (fun e => decide (e.1 ≠ p) && decide (bitsOf v 0 8 * u < e.2.base + e.2.size)
        && decide (e.2.base < (bitsOf v 0 8 + 2 ^ k) * u)) then s
  else { s with pkg := { s.pkg with partitions := Tab.put s.pkg.partitions p { q with base := bitsOf v 0 8 * u, size := 2 ^ k * u } } }

/-- The clusters of a partition. -/
def State.partClusters (s : State) (p : Nat) (m : BitVec 64) : State :=
  match Tab.find s.pkg.partitions p with
  | some q => if q.ctx.isSome then s else { s with pkg := { s.pkg with partitions := Tab.put s.pkg.partitions p { q with clMask := m } } }
  | none => s

/-- The channels 32·i to 32·i + 31 of a partition, as a mask: a channel that another partition owns is left out (17 R350, R353). -/
def State.partChannels (s : State) (p i v : Nat) : State :=
  match Tab.find s.pkg.partitions p with
  | some q =>
    if q.ctx.isSome then s
    else
      let owned := fun (c : Nat) => s.pkg.partitions.any (fun e => decide (e.1 ≠ p) && e.2.channels.contains c)
      let mine := (List.range 128).filter (fun c => if c / 32 = i then v.testBit (c % 32) && !owned c else q.channels.contains c)
      { s with pkg := { s.pkg with partitions := Tab.put s.pkg.partitions p { q with channels := mine } } }
  | none => s

/-- A word of firmware's tables: the topology (17 R349; 24 R458, R466), which names package ids before any context exists, and the
partitions. -/
def State.tableWrite (s : State) (o v : Nat) : State :=
  let young := s.ctxs.all (fun c => decide (c.1 = 0) || decide (c.2.st = CtxSt.free)) && s.launches.isEmpty
  if o = 0 then (if young && decide (v < 64) then { s with pkg := { s.pkg with id := v } } else s)
  else if 0x100 ≤ o ∧ o < 0x140 ∧ o % 4 = 0 then
    let i := (o - 0x100) / 4
    s.setPort i { s.portAt i with peer := if v < 64 then some v else none }
  else if 0x200 ≤ o ∧ o < 0x300 ∧ o % 4 = 0 then
    { s with pkg := { s.pkg with routes := Tab.put s.pkg.routes ((o - 0x200) / 4) ((List.range 16).filter (fun i => v.testBit i)) } }
  else if 0x400 ≤ o ∧ o < 0x500 then
    let p := (o - 0x400) / 16
    let m := ((Tab.findD s.pkg.partitions p ⟨0, 0, [], 0, none⟩).clMask).toNat
    match o % 16 with
    | 0 => s.placePart p v
    | 8 => s.partClusters p (BitVec.ofNat 64 (putWord m 0 v))
    | 12 => s.partClusters p (BitVec.ofNat 64 (putWord m 4 v))
    | _ => s
  else if 0x600 ≤ o ∧ o < 0x700 ∧ o % 4 = 0 then s.partChannels ((o - 0x600) / 16) (o % 16 / 4) v
  else if o = 0x700 ∧ young = true ∧ v < 128 then { s with pkg := { s.pkg with sharedBase := v * (3 * 2 ^ 30) } }
  else s

/-- REGISTER_WRITE: a word at 2^53 + 2^20·fn + o of BAR 0 of function fn, at 2^54 + 2^20·die + o of a die's control blocks, or at 2^55 + o
of firmware's tables. -/
def execRegisterWrite (addr val : Nat) (s : State) : Out :=
  .next (
    if 2 ^ 32 ≤ val then s
    else if 2 ^ 55 ≤ addr then (if s.pkg.boot = .ready then s.tableWrite (addr - 2 ^ 55) val else s)
    else if 2 ^ 54 ≤ addr then
      (if s.pkg.boot = .ready ∧ addr - 2 ^ 54 < 4 * 2 ^ 20 then s.dieWrite ((addr - 2 ^ 54) / 2 ^ 20) (addr % 2 ^ 20) val else s)
    else if 2 ^ 53 ≤ addr ∧ addr - 2 ^ 53 < 385 * 2 ^ 20 ∧ s.pkg.boot ≠ .off then s.barWrite ((addr - 2 ^ 53) / 2 ^ 20) (addr % 2 ^ 20) val
    else s)

/-! ### Ingress (R450, R451) -/

def State.ingressAt (s : State) (w : Nat) : Ingress := s.pkg.ingress.getD w ingressInit

def State.setIngress (s : State) (w : Nat) (g : Ingress) : State := { s with pkg := { s.pkg with ingress := s.pkg.ingress.set w g } }

/-- INGRESS_DROP_READ (R450): the count is returned and cleared. -/
def execIngressDropRead (w : Nat) (s : State) : Out :=
  .next (
    if 16 ≤ w then s
    else
      let g := s.ingressAt w
      let t := { s with pkg := { s.pkg with dropRead := g.drops } }
      t.setIngress w { g with drops := 0 })

/-- The parts of a write, cut at 64 B boundaries. -/
def cutParts (off : Nat) (bs : List Byte) : List (List Byte) :=
  ((pieces64 (bs.length / 64 + 2) off bs.length).foldl
    (fun (r : List (List Byte) × List Byte) p => (r.1 ++ [r.2.take p.2], r.2.drop p.2)) (([], bs) : List (List Byte) × List Byte)).1

/-- The 80 bytes of an entry: payload, zeros, trailer (R451). -/
def ingressEntry (g : Ingress) (part : List Byte) (time : Nat) : List Byte :=
  part ++ List.replicate (64 - part.length) 0 ++ leBytes 8 time ++ leBytes 4 g.seq ++ leBytes 1 part.length ++ leBytes 1 g.port
    ++ leBytes 2 (min g.trailDrops 0xFFFF)

/-- A context-physical access of `n` bytes, or its fault: the read, and the write, by an agent of the context's own world. -/
def State.ringRead (s : State) (x a n : Nat) : Except (Nat × XFault) (List Byte) :=
  match s.physFault x false (physPieces a n) with
  | some e => .error e
  | none => .ok (s.physRead x (s.ctxAt x).world (physPieces a n)).1

def State.ringWrite (s : State) (x a : Nat) (bs : List Byte) : Except (Nat × XFault) State :=
  match s.physFault x true (physPieces a bs.length) with
  | some e => .error e
  | none => .ok (s.physWrite x (s.ctxAt x).world (physPieces a bs.length) bs false).1

/-- The steps of R451 for one part. -/
def State.ingressPart (s : State) (w : Nat) (part : List Byte) (time : Nat) : Except (Nat × XFault) State :=
  let g := s.ingressAt w
  match s.ringRead g.ctx g.ring 8, s.ringRead g.ctx (g.ring + 8) 8 with
  | .error e, _ => .error e
  | _, .error e => .error e
  | .ok wi, .ok ri =>
    let next := (g.seq + 1) % 2 ^ 32
    if (leNat wi + 2 ^ 64 - leNat ri) % 2 ^ 64 = 2 ^ g.lgsz then
      .ok (s.setIngress w { g with drops := (g.drops + 1) % 2 ^ 32, trailDrops := g.trailDrops + 1, seq := next })
    else
      match s.ringWrite g.ctx (g.ring + 128 + 128 * (leNat wi % 2 ^ g.lgsz)) (ingressEntry g part time) with
      | .error e => .error e
      | .ok t =>
        match t.ringWrite g.ctx g.ring (leBytes 8 ((leNat wi + 1) % 2 ^ 64)) with
        | .error e => .error e
        | .ok u => .ok (u.setIngress w { g with trailDrops := 0, seq := next })

/-- The parts of a write in order; a fault drops the write. -/
def State.ingressParts (s : State) (w : Nat) (ps : List (List Byte)) (time : Nat) : Except (Nat × XFault) State :=
  match ps with
  | [] => .ok s
  | p :: rest =>
    match s.ingressPart w p time with
    | .error e => .error e
    | .ok t => t.ingressParts w rest time

/-- INGRESS_WRITE (R451). The time is within 8 ns of the die's clock: which, is free (log 48). A dropped write counts its parts. -/
def execIngressWrite (w off : Nat) (bs : List Byte) (s : State) : Out :=
  .next (
    let g := s.ingressAt w
    if 16 ≤ w ∨ g.en = false ∨ bs.isEmpty = true ∨ 2 ^ g.lwin < off + bs.length ∨ s.pkg.boot ≠ .ready then s
    else
      let time := (s.dieAt 0).clock + Config.freeNat s.freeCtr % 17 - 8
      let ps := cutParts off bs
      match (s.useFree 1).ingressParts w ps time with
      | .ok t => t
      | .error (a, e) =>
        let n := ps.length
        let h := { g with drops := (g.drops + n) % 2 ^ 32, trailDrops := g.trailDrops + n, seq := (g.seq + n) % 2 ^ 32 }
        ((s.useFree 1).setIngress w h).raiseEvent g.ctx [{ rcdInit with
          cause := e.cause, stage := e.stage, level := e.level, kind := 4, acc := 2, ctx := g.ctx, missCtx := e.missCtx
          addr := BitVec.ofNat 64 a, w30 := BitVec.ofNat 64 (0x10000 + w), w38 := BitVec.ofNat 32 h.drops
          cls := RecClass.queue, dest := (s.ctxAt g.ctx).parent }])

end Sys2Proof.Machine
end

