-- ==== Sys2Proof/Machine/IntIns.lean ====
section
/-! DEFINITION. Integer lane instructions (04 R97 to R99), compares (R109, R110) and the scalar unit (R119, R120). -/
namespace Sys2Proof.Machine

/-- Leading zero bits (R97). -/
def clz32 (a : Word) : Nat := match (List.range 32).find? (fun i => a.getLsbD (31 - i)) with | some i => i | none => 32

/-- One bits (R97). -/
def popc32 (a : Word) : Nat := ((List.range 32).filter (fun i => a.getLsbD i)).length

/-- Position and length of a bit field (R98). -/
def fieldPos (b : Word) : Nat := (b.extractLsb' 0 8).toNat
def fieldLen (b : Word) : Nat := min (b.extractLsb' 8 8).toNat 32

/-- IBFX and UBFX (R98): bits past 31 read `fill`, and the sign of a signed field is its top bit. -/
def bfx (signed : Bool) (a b : Word) : Word :=
  let bit (i : Nat) : Bool := if i ≤ 31 then a.getLsbD i else signed && a.getLsbD 31
  let pos := fieldPos b
  let len := fieldLen b
  if len = 0 then 0
  else
    let top := bit (pos + len - 1)
    maskWhere (fun j => if j < len then bit (pos + j) else signed && top)

/-- IBFI (R98). -/
def bfi (a b d : Word) : Word :=
  let pos := fieldPos b
  let len := fieldLen b
  maskWhere (fun i => if pos ≤ i ∧ i < pos + len then a.getLsbD (i - pos) else d.getLsbD i)

/-- Byte `i` of a word. -/
def byteOf (a : Word) (i : Nat) : Byte := a.extractLsb' (8 * i) 8

/-- IDOT4 (R99). -/
def idot4 (a b d : Word) : Word :=
  d + BitVec.ofInt 32 (((List.range 4).map (fun i => (byteOf a i).toInt * (byteOf b i).toInt)).foldl (fun t x => t + x) 0)

/-- ISAD (R99). -/
def isad (a b d : Word) : Word :=
  d + BitVec.ofNat 32 (((List.range 4).map (fun i =>
    (byteOf a i).toNat - (byteOf b i).toNat + ((byteOf b i).toNat - (byteOf a i).toNat))).foldl (fun t x => t + x) 0)

/-- A signed value clamped to 32 bits (R99). -/
def satS32 (x : Int) : Word := BitVec.ofInt 32 (clampInt (-(2 ^ 31)) (2 ^ 31 - 1) x)

/-- IADD (R97). -/
def execIadd (x : V3) (s : State) : Out := issueLane3 (.iadd x) x false (fun a b _ => a + b) s

/-- ISUB (R97). -/
def execIsub (x : V3) (s : State) : Out := issueLane3 (.isub x) x false (fun a b _ => a - b) s

/-- IMUL (R97). -/
def execImul (x : V3) (s : State) : Out := issueLane3 (.imul x) x false (fun a b _ => a * b) s

/-- IMULH (R97). -/
def execImulh (x : V3) (s : State) : Out := issueLane3 (.imulh x) x false (fun a b _ => mulhs a b) s

/-- IMULHU (R97). -/
def execImulhu (x : V3) (s : State) : Out := issueLane3 (.imulhu x) x false (fun a b _ => BitVec.ofNat 32 (a.toNat * b.toNat / 2 ^ 32)) s

/-- IMAD (R97). -/
def execImad (x : V3) (s : State) : Out := issueLane3 (.imad x) x false (fun a b d => a * b + d) s

/-- IMIN (R97). -/
def execImin (x : V3) (s : State) : Out := issueLane3 (.imin x) x false (fun a b _ => smin32 a b) s

/-- IMAX (R97). -/
def execImax (x : V3) (s : State) : Out := issueLane3 (.imax x) x false (fun a b _ => smax32 a b) s

/-- UMIN (R97). -/
def execUmin (x : V3) (s : State) : Out := issueLane3 (.umin x) x false (fun a b _ => if a ≤ b then a else b) s

/-- UMAX (R97). -/
def execUmax (x : V3) (s : State) : Out := issueLane3 (.umax x) x false (fun a b _ => if a ≤ b then b else a) s

/-- IABS (R97). -/
def execIabs (x : V2) (s : State) : Out := issueLane2 (.iabs x) x (fun a => if a.getLsbD 31 then 0 - a else a) s

/-- INEG (R97). -/
def execIneg (x : V2) (s : State) : Out := issueLane2 (.ineg x) x (fun a => 0 - a) s

/-- IAND (R97). -/
def execIand (x : V3) (s : State) : Out := issueLane3 (.iand x) x false (fun a b _ => a &&& b) s

/-- IOR (R97). -/
def execIor (x : V3) (s : State) : Out := issueLane3 (.ior x) x false (fun a b _ => a ||| b) s

/-- IXOR (R97). -/
def execIxor (x : V3) (s : State) : Out := issueLane3 (.ixor x) x false (fun a b _ => a ^^^ b) s

/-- INOT (R97). -/
def execInot (x : V2) (s : State) : Out := issueLane2 (.inot x) x (fun a => ~~~a) s

/-- ISHL (R98). -/
def execIshl (x : V3) (s : State) : Out := issueLane3 (.ishl x) x false (fun a b _ => shl32 a b) s

/-- ISHR (R98). -/
def execIshr (x : V3) (s : State) : Out := issueLane3 (.ishr x) x false (fun a b _ => shr32 a b) s

/-- ISRA (R98). -/
def execIsra (x : V3) (s : State) : Out := issueLane3 (.isra x) x false (fun a b _ => sra32 a b) s

/-- IROT (R98). -/
def execIrot (x : V3) (s : State) : Out := issueLane3 (.irot x) x false (fun a b _ => a.rotateLeft (b.toNat % 32)) s

/-- ICLZ (R97). -/
def execIclz (x : V2) (s : State) : Out := issueLane2 (.iclz x) x (fun a => BitVec.ofNat 32 (clz32 a)) s

/-- IPOPC (R97). -/
def execIpopc (x : V2) (s : State) : Out := issueLane2 (.ipopc x) x (fun a => BitVec.ofNat 32 (popc32 a)) s

/-- IBREV (R97). -/
def execIbrev (x : V2) (s : State) : Out := issueLane2 (.ibrev x) x (fun a => maskWhere (fun i => a.getLsbD (31 - i))) s

/-- IBFX (R98). -/
def execIbfx (x : V3) (s : State) : Out := issueLane3 (.ibfx x) x false (fun a b _ => bfx true a b) s

/-- UBFX (R98). -/
def execUbfx (x : V3) (s : State) : Out := issueLane3 (.ubfx x) x false (fun a b _ => bfx false a b) s

/-- IBFI (R98). -/
def execIbfi (x : V3) (s : State) : Out := issueLane3 (.ibfi x) x false (fun a b d => bfi a b d) s

/-- IADDW (R99): pairs of registers. -/
def execIaddw (x : V3) (s : State) : Out :=
  issueF (.iaddw x) s (fun g f => g.lanes f x.g) (fun _ g f =>
    g.setVPair x.d.toNat (g.lanes f x.g) (fun l => g.opA64 x.pf x.a l + g.opB64 x.pf x.b l))

/-- IMADW (R99): a signed product added to the old pair. -/
def execImadw (x : V3) (s : State) : Out :=
  issueF (.imadw x) s (fun g f => g.lanes f x.g) (fun _ g f =>
    g.setVPair x.d.toNat (g.lanes f x.g) (fun l =>
      BitVec.ofInt 64 ((g.opA x.pf x.a l).toInt * (g.opB x.pf x.b false l).toInt)
        + pair (g.vreg (x.d.toNat + 1) l) (g.vreg x.d.toNat l)))

/-- IDOT4 (R99). -/
def execIdot4 (x : V3) (s : State) : Out := issueLane3 (.idot4 x) x false (fun a b d => idot4 a b d) s

/-- ISAD (R99). -/
def execIsad (x : V3) (s : State) : Out := issueLane3 (.isad x) x false (fun a b d => isad a b d) s

/-- IADDSAT (R99). -/
def execIaddsat (x : V3) (s : State) : Out := issueLane3 (.iaddsat x) x false (fun a b _ => satS32 (a.toInt + b.toInt)) s

/-- ISUBSAT (R99). -/
def execIsubsat (x : V3) (s : State) : Out := issueLane3 (.isubsat x) x false (fun a b _ => satS32 (a.toInt - b.toInt)) s

/-! ### Compares -/

/-- ICMP.EQ (R109). -/
def execIcmpEq (x : Cmp) (s : State) : Out := issueCmp (.icmpEq x) x false (fun a b => decide (a = b)) s

/-- ICMP.NE (R109). -/
def execIcmpNe (x : Cmp) (s : State) : Out := issueCmp (.icmpNe x) x false (fun a b => decide (a ≠ b)) s

/-- ICMP.LT (R109). -/
def execIcmpLt (x : Cmp) (s : State) : Out := issueCmp (.icmpLt x) x false (fun a b => decide (a.toInt < b.toInt)) s

/-- ICMP.LE (R109). -/
def execIcmpLe (x : Cmp) (s : State) : Out := issueCmp (.icmpLe x) x false (fun a b => decide (a.toInt ≤ b.toInt)) s

/-- ICMP.GT (R109). -/
def execIcmpGt (x : Cmp) (s : State) : Out := issueCmp (.icmpGt x) x false (fun a b => decide (b.toInt < a.toInt)) s

/-- ICMP.GE (R109). -/
def execIcmpGe (x : Cmp) (s : State) : Out := issueCmp (.icmpGe x) x false (fun a b => decide (b.toInt ≤ a.toInt)) s

/-- ICMP.LTU (R109). -/
def execIcmpLtu (x : Cmp) (s : State) : Out := issueCmp (.icmpLtu x) x false (fun a b => decide (a < b)) s

/-- ICMP.LEU (R109). -/
def execIcmpLeu (x : Cmp) (s : State) : Out := issueCmp (.icmpLeu x) x false (fun a b => decide (a ≤ b)) s

/-- ICMP.GTU (R109). -/
def execIcmpGtu (x : Cmp) (s : State) : Out := issueCmp (.icmpGtu x) x false (fun a b => decide (b < a)) s

/-- ICMP.GEU (R109). -/
def execIcmpGeu (x : Cmp) (s : State) : Out := issueCmp (.icmpGeu x) x false (fun a b => decide (b ≤ a)) s

/-- SCMP.EQ (R110). -/
def execScmpEq (x : Cmp) (s : State) : Out := issueScmp (.scmpEq x) x (fun a b => decide (a = b)) s

/-- SCMP.NE (R110). -/
def execScmpNe (x : Cmp) (s : State) : Out := issueScmp (.scmpNe x) x (fun a b => decide (a ≠ b)) s

/-- SCMP.LT (R110). -/
def execScmpLt (x : Cmp) (s : State) : Out := issueScmp (.scmpLt x) x (fun a b => decide (a.toInt < b.toInt)) s

/-- SCMP.LTU (R110). -/
def execScmpLtu (x : Cmp) (s : State) : Out := issueScmp (.scmpLtu x) x (fun a b => decide (a < b)) s

/-! ### The scalar unit -/

/-- SADD (R119). -/
def execSadd (x : S3) (s : State) : Out := issueS3 (.sadd x) x false (fun a b _ => a + b) s

/-- SSUB (R119). -/
def execSsub (x : S3) (s : State) : Out := issueS3 (.ssub x) x false (fun a b _ => a - b) s

/-- SMUL (R119). -/
def execSmul (x : S3) (s : State) : Out := issueS3 (.smul x) x false (fun a b _ => a * b) s

/-- SMULH (R119). -/
def execSmulh (x : S3) (s : State) : Out := issueS3 (.smulh x) x false (fun a b _ => mulhs a b) s

/-- SAND (R119). -/
def execSand (x : S3) (s : State) : Out := issueS3 (.sand x) x false (fun a b _ => a &&& b) s

/-- SOR (R119). -/
def execSor (x : S3) (s : State) : Out := issueS3 (.sor x) x false (fun a b _ => a ||| b) s

/-- SXOR (R119). -/
def execSxor (x : S3) (s : State) : Out := issueS3 (.sxor x) x false (fun a b _ => a ^^^ b) s

/-- SSHL (R119). -/
def execSshl (x : S3) (s : State) : Out := issueS3 (.sshl x) x false (fun a b _ => shl32 a b) s

/-- SSHR (R119). -/
def execSshr (x : S3) (s : State) : Out := issueS3 (.sshr x) x false (fun a b _ => shr32 a b) s

/-- SSRA (R119). -/
def execSsra (x : S3) (s : State) : Out := issueS3 (.ssra x) x false (fun a b _ => sra32 a b) s

/-- SMIN (R119). -/
def execSmin (x : S3) (s : State) : Out := issueS3 (.smin x) x false (fun a b _ => smin32 a b) s

/-- SMAX (R119). -/
def execSmax (x : S3) (s : State) : Out := issueS3 (.smax x) x false (fun a b _ => smax32 a b) s

/-- SFADD (R119). -/
def execSfadd (x : S3) (s : State) : Out := issueS3 (.sfadd x) x true (fun a b _ => f32Add (fpMod x.pf) a b) s

/-- SFMUL (R119). -/
def execSfmul (x : S3) (s : State) : Out := issueS3 (.sfmul x) x true (fun a b _ => f32Mul (fpMod x.pf) a b) s

/-- SFFMA (R119). -/
def execSffma (x : S3) (s : State) : Out := issueS3 (.sffma x) x true (fun a b d => f32Fma (fpMod x.pf) a b d) s

/-- SMOVW (R120). -/
def execSmovw (x : Smw) (s : State) : Out :=
  issueF (.smovw x) s (fun g f => g.guarded f x.k) (fun _ g _ =>
    if g.upred x.k.toNat then g.setScalar x.d.toNat (g.scalar x.a.toNat) else g)

end Sys2Proof.Machine
end

