-- ==== Sys2Proof/Machine/MemIns.lean ====
section
/-! DEFINITION. The issue of loads, stores, atomics and cache maintenance (07 R185 to R196): operands are captured and the operation is
outstanding from then on. -/
namespace Sys2Proof.Machine

/-- The issue of an M-format operation: the offsets a, the registers read through d, and the base (05 R147). -/
def issueMem (i : Instr) (gd : BitVec 3) (a : BitVec 7) (data : List Nat) (base : Grp → Dword) (s : State) : Out :=
  issue i s (fun g f => g.lanes f gd) (fun s g f =>
    let m := g.lanes f gd
    let slots := capture m (g.vreg a.toNat) :: data.map (fun v => capture m (g.vreg v))
    s.finish (g.addOp (mkOp s g f i 0 m (base g) slots)))

/-- A global base pair and a window base (R176). -/
def Grp.pairBase (b : BitVec 7) (g : Grp) : Dword := g.scalarPair b.toNat
def Grp.winBase (b : BitVec 7) (g : Grp) : Dword := (g.scalar b.toNat).setWidth 64

/-- The issue of a scalar access (R187, R193): its a pair, b, and s[d] where it is read, in lane 0 of the slots. -/
def issueScalarMem (i : Instr) (x : S3) (readsD : Bool) (s : State) : Out :=
  issue i s (fun g f => g.guarded f x.k) (fun s g f =>
    if g.upred x.k.toNat then
      let n := sclA x.pf x.a.toNat
      let slots := [captureScalar (g.scalar n), captureScalar (g.scalar (n + 1)), captureScalar (g.sclOpB x.pf x.b false)]
        ++ (if readsD then [captureScalar (g.scalar x.d.toNat)] else [])
      s.finish (g.addOp (mkOp s g f i 2 f.mask 0 slots))
    else s.finish g)

/-- LD.W (R185, R186). -/
def execLdW (x : V3) (s : State) : Out := issueMem (.ldW x) x.g x.a [] (Grp.pairBase x.b) s

/-- LD.D (R185, R186). -/
def execLdD (x : V3) (s : State) : Out := issueMem (.ldD x) x.g x.a [] (Grp.pairBase x.b) s

/-- LD.Q (R185, R186). -/
def execLdQ (x : V3) (s : State) : Out := issueMem (.ldQ x) x.g x.a [] (Grp.pairBase x.b) s

/-- LD.N (R185, R186). -/
def execLdN (x : V3) (s : State) : Out := issueMem (.ldN x) x.g x.a [] (Grp.pairBase x.b) s

/-- ST.W (R185, R186). -/
def execStW (x : V3) (s : State) : Out := issueMem (.stW x) x.g x.a [x.d.toNat] (Grp.pairBase x.b) s

/-- ST.D (R185, R186). -/
def execStD (x : V3) (s : State) : Out := issueMem (.stD x) x.g x.a (upFrom x.d.toNat 2) (Grp.pairBase x.b) s

/-- ST.Q (R185, R186). -/
def execStQ (x : V3) (s : State) : Out := issueMem (.stQ x) x.g x.a (upFrom x.d.toNat 4) (Grp.pairBase x.b) s

/-- ST.N (R185, R186). -/
def execStN (x : V3) (s : State) : Out := issueMem (.stN x) x.g x.a [x.d.toNat] (Grp.pairBase x.b) s

/-- LDL (R188). -/
def execLdl (x : V3) (s : State) : Out := issueMem (.ldl x) x.g x.a [] (Grp.winBase x.b) s

/-- STL (R188). -/
def execStl (x : V3) (s : State) : Out := issueMem (.stl x) x.g x.a [x.d.toNat] (Grp.winBase x.b) s

/-- LDW (R189): the window addresses v[d], and the barrier object's address s[b+2]. -/
def execLdw (x : V3) (s : State) : Out :=
  issue (.ldw x) s (fun g f => g.lanes f x.g) (fun s g f =>
    let m := g.lanes f x.g
    let op := mkOp s g f (.ldw x) 0 m (g.scalarPair x.b.toNat) [capture m (g.vreg x.a.toNat), capture m (g.vreg x.d.toNat)]
    s.finish (g.addOp { op with n := (g.scalar (x.b.toNat + 2)).setWidth 64 }))

/-- The issue of an access to the spill stack (R190): without a stack region it is ILLEGAL. -/
def issueStack (i : Instr) (x : Dst) (data : Grp → BitVec 32 → List (List Word)) (s : State) : Out :=
  issue i s (fun g f => g.lanes f x.g) (fun s g f =>
    let m := g.lanes f x.g
    if (s.ctxAt g.ctx).stackBase = 0 then s.trapHere 0x01 0
    else s.finish (g.addOp (mkOp s g f i 0 m 0 (data g m))))

/-- LDK (R190). -/
def execLdk (x : Dst) (s : State) : Out := issueStack (.ldk x) x (fun _ _ => []) s

/-- STK (R190). -/
def execStk (x : Dst) (s : State) : Out := issueStack (.stk x) x (fun g m => [capture m (g.vreg x.d.toNat)]) s

/-- SLD (R187). -/
def execSld (x : S3) (s : State) : Out := issueScalarMem (.sld x) x false s

/-- SST (R187). -/
def execSst (x : S3) (s : State) : Out := issueScalarMem (.sst x) x true s

/-- SATOM (R193). -/
def execSatom (x : S3) (s : State) : Out := issueScalarMem (.satom x) x true s

/-- PREF (R191). -/
def execPref (x : Src) (s : State) : Out := issueMem (.pref x) x.g x.a [] (Grp.pairBase x.b) s

/-- ATOM (R193). -/
def execAtom (x : V3) (s : State) : Out := issueMem (.atom x) x.g x.a [x.d.toNat] (Grp.pairBase x.b) s

/-- ATOMR (R193). -/
def execAtomr (x : V3) (s : State) : Out := issueMem (.atomr x) x.g x.a [x.d.toNat] (Grp.pairBase x.b) s

/-- ATOML (R193). -/
def execAtoml (x : V3) (s : State) : Out := issueMem (.atoml x) x.g x.a [x.d.toNat] (Grp.winBase x.b) s

/-- CAS (R194). -/
def execCas (x : V3) (s : State) : Out := issueMem (.cas x) x.g x.a (upFrom x.d.toNat 2) (Grp.pairBase x.b) s

/-- CASL (R194). -/
def execCasl (x : V3) (s : State) : Out := issueMem (.casl x) x.g x.a (upFrom x.d.toNat 2) (Grp.winBase x.b) s

/-- CWB (R196). -/
def execCwb (x : Src) (s : State) : Out := issueMem (.cwb x) x.g x.a [] (Grp.pairBase x.b) s

/-- CINV (R196). -/
def execCinv (x : Src) (s : State) : Out := issueMem (.cinv x) x.g x.a [] (Grp.pairBase x.b) s

/-- CINV.P (R196). -/
def execCinvP (x : Src) (s : State) : Out := issueMem (.cinvP x) x.g x.a [] (Grp.pairBase x.b) s

end Sys2Proof.Machine
end

