-- ==== Sys2Proof/Machine/MoveIns.lean ====
section
/-! DEFINITION. Moves, lane movement, predicates and special registers (01 R27 to R30, 02 R55, 04 R111 to R118, R121). -/
namespace Sys2Proof.Machine

/-- NOP (R55). -/
def execNop (x : Z) (s : State) : Out := issueF (.nop x) s (fun _ _ => 0) (fun _ g _ => g)

/-- MOV (R113). -/
def execMov (x : Mv) (s : State) : Out :=
  issueF (.mov x) s (fun g f => g.lanes f x.g) (fun _ g f => g.setV x.d.toNat (g.lanes f x.g) (fun l => g.opB x.pf x.b false l))

/-- SEL (R113): the g field selects, and every active lane is written. -/
def execSel (x : V3) (s : State) : Out :=
  issueF (.sel x) s (fun _ f => f.mask) (fun _ g f =>
    g.setV x.d.toNat f.mask (fun l => if (g.pred x.g.toNat).getLsbD l then g.opA x.pf x.a l else g.opB x.pf x.b false l))

/-- GETL (R114). -/
def execGetl (x : V3) (s : State) : Out :=
  issueF (.getl x) s (fun g f => g.lanes f x.g) (fun _ g f =>
    g.setV x.d.toNat (g.lanes f x.g) (fun l => g.opA x.pf x.a ((g.opB x.pf x.b false l).toNat % 32)))

/-- The active lane of SETL whose value lane `n` gets: the highest that names it. -/
def setlSource (g : Grp) (x : V3) (m : BitVec 32) (n : Nat) : Option Nat :=
  ((lanesOf m).filter (fun l => decide ((g.opB x.pf x.b false l).toNat % 32 = n))).getLast?

/-- SETL (R114): absent lanes are not written. On a line that a direct matrix instruction uses its result is held until that is complete (08 R219). -/
def execSetl (x : V3) (s : State) : Out :=
  issue (.setl x) s (fun g f => g.lanes f x.g) (fun s g f =>
    let m := g.lanes f x.g
    let w := maskWhere (fun n => g.gmask.getLsbD n && (setlSource g x m n).isSome)
    let v (n : Nat) : Word := match setlSource g x m n with | some l => g.opA x.pf x.a l | none => 0
    if g.canLand [g.vline x.d.toNat] then s.finish (g.setV x.d.toNat w v)
    else s.finish (g.addOp (mkOp s g f (.setl x) 0 w 0 [capture w v])))

/-- The source lane of SHFL (R116): mode, segment width, own lane and operand b. -/
def shflSource (mode w l : Nat) (b : Word) : Nat :=
  let base := l - l % w
  let o := l - base
  let j := b.toNat % 32
  match mode with
  | 0 => base + j % w
  | 1 => base + (o + 32 - j) % w
  | 2 => base + (o + j) % w
  | _ => base + (o ^^^ (j % w))

/-- SHFL (R116). -/
def execShfl (x : V3) (s : State) : Out :=
  issueF (.shfl x) s (fun g f => g.lanes f x.g) (fun _ g f =>
    let m := g.lanes f x.g
    g.setV x.d.toNat m (fun l =>
      let src := shflSource (laneMode x.pf) (laneSeg x.pf) l (g.opB x.pf x.b false l)
      g.opA x.pf x.a (if m.getLsbD src then src else l)))

/-- The lanes of `m` in the segment of lane `l` (R115). -/
def segLanes (m : BitVec 32) (w l : Nat) : List Nat := (lanesOf m).filter (fun i => decide (i / w = l / w))

/-- VOTE's value for a lane (R117). -/
def voteValue (mode : Nat) (a : Nat → Word) (ls : List Nat) (l : Nat) : Word :=
  match mode with
  | 0 => if ls.all (fun i => decide (a i ≠ 0)) then 1 else 0
  | 1 => if ls.any (fun i => decide (a i ≠ 0)) then 1 else 0
  | 2 => maskOf (ls.filter (fun i => decide (a i ≠ 0)))
  | _ => if ls.all (fun i => decide (a i = a l)) then 1 else 0

/-- VOTE (R117). -/
def execVote (x : V2) (s : State) : Out :=
  issueF (.vote x) s (fun g f => g.lanes f x.g) (fun _ g f =>
    let m := g.lanes f x.g
    g.setV x.d.toNat m (fun l => voteValue (laneMode x.pf) (g.opA x.pf x.a) (segLanes m (laneSeg x.pf) l) l))

/-- REDUX's operation (R118). -/
def reduxOp (mode : Nat) (a b : Word) : Word :=
  match mode with
  | 0 => a + b
  | 1 => smin32 a b
  | 2 => smax32 a b
  | 3 => if a ≤ b then a else b
  | 4 => if a ≤ b then b else a
  | 5 => a &&& b
  | 6 => a ||| b
  | _ => f32Add FpMod.none a b

/-- The tree of R118: the value of the 2^n lanes from `l` on; none when none of them is in `m`. -/
def reduxTree (mode n : Nat) (m : BitVec 32) (a : Nat → Word) (l : Nat) : Option Word :=
  match n with
  | 0 => if m.getLsbD l then some (a l) else none
  | k + 1 =>
    match reduxTree mode k m a l, reduxTree mode k m a (l + 2 ^ k) with
    | some p, some q => some (reduxOp mode p q)
    | some p, none => some p
    | none, q => q

/-- REDUX (R118). -/
def execRedux (x : V2) (s : State) : Out :=
  issueF (.redux x) s (fun g f => g.lanes f x.g) (fun _ g f =>
    let m := g.lanes f x.g
    let n := ((pfMod x.pf).extractLsb' 3 3).toNat
    g.setV x.d.toNat m (fun l => (reduxTree (laneMode x.pf) n m (g.opA x.pf x.a) (l - l % 2 ^ n)).getD 0))

/-! ### Special registers -/

/-- Half `n mod 2` of a 64-bit register. -/
def halfOf (x : Dword) (n : Nat) : Word := if n % 2 = 0 then lo32 x else hi32 x

/-- Special register `n` as the fragment `f` of slot `slot` reads it in lane `l` (R27). -/
def State.sr (s : State) (g : Grp) (f : Frag) (slot n l : Nat) : Word :=
  let u (k : Nat) : Word := BitVec.ofNat 32 k
  if n < 0x020 then
    match n with
    | 0x00 => u l
    | 0x01 => u g.idx
    | 0x02 => u g.teamXyz.1
    | 0x03 => u g.teamXyz.2.1
    | 0x04 => u g.teamXyz.2.2
    | 0x05 => u g.gridXyz.1
    | 0x06 => u g.gridXyz.2.1
    | 0x07 => u g.gridXyz.2.2
    | 0x08 => u g.role
    | 0x09 => u g.roleIdx
    | 0x0A => u g.teamLanes
    | 0x0B => u g.core
    | 0x0C => u g.slot
    | 0x0D => u slot
    | 0x0E => f.mask
    | 0x0F => g.gmask
    | 0x10 => if g.sup then 1 else 0
    | 0x11 => u g.ctx
    | 0x12 => g.cowcnt
    | 0x13 => g.parkns
    | 0x14 => g.parkcnt
    | 0x18 => lo32 g.params
    | 0x19 => hi32 g.params
    | 0x1A => lo32 (BitVec.ofNat 64 (s.clockOf g.core))
    | 0x1B => hi32 (BitVec.ofNat 64 (s.clockOf g.core))
    | _ => 0
  else if n < 0x040 then
    match n with
    | 0x20 => g.tcause
    | 0x21 => g.tmask
    | 0x22 => lo32 g.tprev
    | 0x23 => hi32 g.tprev
    | 0x24 => g.tfault
    | 0x26 => lo32 g.tframe
    | 0x27 => hi32 g.tframe
    | 0x30 => lo32 g.pstate
    | 0x31 => hi32 g.pstate
    | _ => 0
  else if n < 0x050 then halfOf (g.tlDone ((n - 0x40) / 2)) n
  else if n < 0x060 then halfOf (g.tlLast ((n - 0x50) / 2)) n
  else if n < 0x070 then Sparse.get g.coef (n - 0x60)
  else if n < 0x07C then u (g.flagVal (n - 0x70))
  else if n < 0x080 then u (g.pathVal (PathK.ofNum (n - 0x7C)))
  else if n = 0x100 then lo32 g.tvec
  else if n = 0x101 then hi32 g.tvec
  else 0

/-- The lowest lane of a mask. -/
def lowestLane (m : BitVec 32) : Nat := (lanesOf m).headD 0

/-- RDSR (R29). -/
def execRdsr (x : RdSr) (s : State) : Out :=
  issueF (.rdsr x) s (fun _ f => f.mask) (fun s g f =>
    let n := x.n.toNat
    let slot := s.iss.slot
    if x.e = 1#1 then
      let h := g.setScalar x.d.toNat (s.sr g f slot n (lowestLane f.mask))
      if x.w = 1#1 then h.setScalar (x.d.toNat + 1) (s.sr g f slot (n + 1) (lowestLane f.mask)) else h
    else g.setV x.d.toNat (g.lanes f x.g) (fun l => s.sr g f slot n l))

/-- A write of special register `n` by its own rule: RO registers discard it (R27, R30). -/
def Grp.writeSr (g : Grp) (n : Nat) (v : Word) : Grp :=
  match n with
  | 0x012 => { g with cowcnt := v }
  | 0x014 => { g with parkcnt := v }
  | 0x100 => { g with tvec := pair (hi32 g.tvec) v }
  | 0x101 => { g with tvec := pair v (lo32 g.tvec) }
  | _ => g

/-- WRSR (R30). -/
def execWrsr (x : WrSr) (s : State) : Out :=
  issueF (.wrsr x) s (fun _ f => f.mask) (fun _ g _ =>
    let h := g.writeSr x.n.toNat (g.scalar x.d.toNat)
    if x.w = 1#1 then h.writeSr (x.n.toNat + 1) (g.scalar (x.d.toNat + 1)) else h)

/-! ### Predicates -/

/-- PLOP (R111). -/
def execPlop (x : Plop) (s : State) : Out :=
  issueF (.plop x) s (fun g f => g.lanes f x.g) (fun _ g f =>
    let m := g.lanes f x.g
    let b (i : BitVec 3) (l : Nat) : Nat := if (g.pred i.toNat).getLsbD l then 1 else 0
    let v := maskWhere (fun l => x.l.getLsbD (4 * b x.a l + 2 * b x.b l + b x.c l))
    g.setPred x.p.toNat ((g.pred x.p.toNat &&& ~~~m) ||| (v &&& m)))

/-- P2V (R112). -/
def execP2v (x : Dst) (s : State) : Out :=
  issueF (.p2v x) s (fun g f => g.lanes f x.g) (fun _ g f =>
    g.setV x.d.toNat (g.lanes f x.g) (fun l =>
      maskOf ((List.range 8).filter (fun i => (g.pred i).getLsbD l))))

/-- V2P (R112). -/
def execV2p (x : Src) (s : State) : Out :=
  issueF (.v2p x) s (fun g f => g.lanes f x.g) (fun _ g f =>
    let m := g.lanes f x.g
    (List.range 7).foldl (fun (h : Grp) i =>
      let w := maskWhere (fun l => m.getLsbD l && (g.opB x.pf x.b false l).getLsbD i)
      let v := maskWhere (fun l => (g.opA x.pf x.a l).getLsbD i)
      h.setPred i ((g.pred i &&& ~~~w) ||| (v &&& w))) g)

/-- RDTIME (R121). -/
def execRdtime (x : Sd) (s : State) : Out :=
  issueF (.rdtime x) s (fun g f => g.guarded f x.k) (fun s g _ =>
    if g.upred x.k.toNat then g.setScalarPair x.d.toNat (BitVec.ofNat 64 (s.clockOf g.core)) else g)

end Sys2Proof.Machine
end

