-- ==== Sys2Proof/Machine/Rounds.lean ====
section
/-! DEFINITION. The order in which a die's service complex serves request entries, fault records and device commands (18 R394; log 72). -/
namespace Sys2Proof.Machine

/-- The die whose complex serves a record: that of the core it names, die 0 where it names none. -/
def Rcd.die (r : Rcd) : Nat := if r.core < 384 then coreDie r.core else 0

/-- The contexts with an item on the die that can be served now: a request entry, a record, a command. -/
def State.svcContexts (s : State) (die : Nat) : List Nat :=
  ((s.dieAt die).calls.filter (fun e => (s.takeCall die e).isSome)).map (fun e => e.ctx)
    ++ (s.records.zipIdx.filter (fun r => decide (r.1.die = die) && !s.recordBehind r.2 r.1)).map (fun r => r.1.ctx)
    ++ (s.cmds.filter (fun c => decide (c.2.die = die) && s.cmdWaits c.1 c.2)).map (fun c => c.2.issuer)

/-- The start tag of a context's next item. -/
def Die.svcTag (d : Die) (x : Nat) : Nat := max d.svcTime (Tab.findD d.svcTags x 0)

/-- Is an item of context `x` the next in the fair order: no context that waits has a smaller start tag, or an equal one and a lower id? -/
def State.svcNext (s : State) (die x : Nat) : Bool :=
  let d := s.dieAt die
  (s.svcContexts die).all (fun y => decide (d.svcTag x < d.svcTag y) || (decide (d.svcTag x = d.svcTag y) && decide (x ≤ y)))

/-- One service of context `x` is counted: its finish tag is a stride of 2^40 / W, W its effective weight, after its start tag. -/
def State.svcCount (s : State) (die x : Nat) : State :=
  let w := s.weight x
  s.modDie die (fun d => { d with svcTime := d.svcTag x, svcTags := Tab.put d.svcTags x (d.svcTag x + 2 ^ 40 / max 1 w) })

/-- SERVICE_REQUEST_TAKE (R387, R394): the oldest request entry that can be taken, of the context whose turn it is. -/
def execServiceRequestTake (die : Nat) (s : State) : Out :=
  .next (if s.svcDown die then s
    else
      match (s.dieAt die).calls.find? (fun e => s.svcNext die e.ctx && (s.takeCall die e).isSome) with
      | none => s
      | some e => match s.takeCall die e with | some t => t.svcCount die e.ctx | none => s)

/-- RECORD_POST (21 R425; 18 R394). -/
def execRecordPost (i : Nat) (s : State) : Out :=
  .next (match s.records[i]? with
    | none => s
    | some r => if s.svcDown r.die || s.recordBehind i r || !s.svcNext r.die r.ctx then s else (s.svcCount r.die r.ctx).postRecord i)

/-- COMMAND_JOURNAL (21 R429; 18 R394). -/
def execCommandJournal (i : Nat) (s : State) : Out :=
  .next (match Tab.find s.cmds i with
    | none => s
    | some c => if s.cmdWaits i c && s.svcNext c.die c.issuer then (s.svcCount c.die c.issuer).acceptCmd i else s)

/-- Length of a round in ns: 40 us for each 256 contexts with items. -/
def State.roundNs (s : State) (die : Nat) : Nat :=
  let xs := (s.svcContexts die).foldl (fun (acc : List Nat) x => if acc.contains x then acc else x :: acc) []
  40000 * max 1 ((xs.length + 255) / 256)

/-- Is an item that has waited since `t` still waiting 30 us into the round of the die? The rounds follow each other from device time 0. -/
def State.lateIn (s : State) (die t : Nat) : Bool :=
  let now := (s.dieAt die).clock
  let mark := now / s.roundNs die * s.roundNs die + 30000
  decide (mark ≤ now) && decide (t ≤ mark)

/-- SERVICE_ROUND_PRIORITY (R394): item `i` of a die — its request entries, then the records, then the commands handed over — is served ahead of the fair order. -/
def execServiceRoundPriority (die i : Nat) (s : State) : Out :=
  .next (
    if s.svcDown die then s
    else
    let calls := (s.dieAt die).calls
    if i < calls.length then
      (match calls[i]? with
       | some e => if s.lateIn die e.issued then (match s.takeCall die e with | some t => t.svcCount die e.ctx | none => s) else s
       | none => s)
    else
      let j := i - calls.length
      if j < s.records.length then
        (match s.records[j]? with
         | some r => if decide (r.die = die) && s.lateIn die r.since && !s.recordBehind j r then (s.svcCount die r.ctx).postRecord j else s
         | none => s)
      else
        match (s.cmds.filter (fun c => decide (c.2.die = die) && c.2.accepted.isNone))[j - s.records.length]? with
        | some c => if s.lateIn die c.2.since && s.cmdWaits c.1 c.2 then (s.svcCount die c.2.issuer).acceptCmd c.1 else s
        | none => s)

end Sys2Proof.Machine
end

