-- ==== Sys2Proof/Machine/ServiceRv.lean ====
section
/-! DEFINITION. The service cores' harts (18 R382 to R386): fetching a word and the custom-0 instructions. -/
namespace Sys2Proof.Machine

/-- Hart `n` of die `d`. -/
def State.hartAt (s : State) (d n : Nat) : Hart := (s.dieAt d).harts.getD n hartInit

def State.setHart (s : State) (d n : Nat) (h : Hart) : State := s.modDie d (fun k => { k with harts := k.harts.set n h })

/-- The custom-0 instruction at a hart's pc; none for any other word (log 9: harts address system physical memory). -/
def State.hartWord (s : State) (d n : Nat) : Option Instr :=
  decodeService (BitVec.ofNat 32 (s.homeWord (s.hartAt d n).pc.toNat))

end Sys2Proof.Machine
end

