-- ==== Sys2Proof/Machine/Spawn.lean ====
section
/-! DEFINITION. The service cores' instructions GSPAWN, GJOIN, VLT and VST.T (18 R383 to R386) and the RISC-V exceptions that they raise
(log 9). -/
namespace Sys2Proof.Machine

/-! ### Harts -/

/-- Register `n` of a hart; x0 reads 0. -/
def Hart.get (h : Hart) (n : Nat) : Dword := if n = 0 then 0 else Sparse.get h.x n

/-- Writes register `n`; a write to x0 is discarded. -/
def Hart.set (h : Hart) (n : Nat) (v : Dword) : Hart := if n = 0 then h else { h with x := Sparse.set h.x n v }

/-- The exception of cause `c`: taken in machine mode at mtvec (log 9). -/
def Hart.trap (h : Hart) (c : Nat) (tval : Dword) : Hart :=
  let mie := h.mstatus.getLsbD 3
  let st := (h.mstatus &&& ~~~(0x1888#64)) ||| (if mie then 0x80#64 else 0) ||| (BitVec.ofNat 64 h.mode <<< 11)
  { h with mepc := h.pc, mcause := BitVec.ofNat 64 c, mtval := tval, mstatus := st, mode := 3, pc := h.mtvec &&& ~~~(3#64) }

/-- The hart goes on at the next word. -/
def Hart.next (h : Hart) : Hart := { h with pc := h.pc + 4 }

/-- A service-core word by the hart that `s.iss` names: illegal in user mode (R383). -/
def hartStep (s : State) (body : State → Hart → State × Hart) : Out :=
  let d := s.iss.die
  let n := s.iss.hart
  match s.iss.words with
  | [w] =>
    let h := s.hartAt d n
    let r := if h.mode = 0 then (s, h.trap 2 (w.setWidth 64)) else body s h
    .next (r.1.setHart d n r.2)
  | _ => .fault .noIssuer

/-- Can a hart reach `n` bytes at a system physical address (17 R349)? -/
def State.hartReach (s : State) (a : Dword) : Bool :=
  decide (a.toNat < 2 ^ 52) && decide (reachOf s.pkg.id a.toNat ≠ Reach.nothing)

/-- Is the word at a hart's pc of the custom-0 opcode? One that names no instruction is illegal (R383). -/
def State.hartCustom (s : State) (d n : Nat) : Bool := decide (s.homeWord (s.hartAt d n).pc.toNat % 128 = 11)

def State.hartIllegal (s : State) (d n : Nat) : State :=
  let h := s.hartAt d n
  s.setHart d n (h.trap 2 (BitVec.ofNat 64 (s.homeWord h.pc.toNat)))

/-! ### GSPAWN (R384) -/

/-- The record that a spawn block's words stand for: one team, no template, no completion block. -/
def spawnRecord (bs : List Byte) : LRec :=
  let at' (o n : Nat) : List Byte := (bs.drop o).take n
  let zero (n : Nat) : List Byte := List.replicate n 0
  let rcd := at' 0 8 ++ at' 0x30 8 ++ zero 8 ++ leBytes 4 1 ++ leBytes 2 1 ++ leBytes 2 1 ++ zero 4 ++ zero 4 ++ at' 0x18 16 ++ zero 8
  { readRecord rcd with npre := 0 }

/-- Is a spawn block valid: R374 on its record, one core, its zero fields, the join counter's alignment, a context that exists and a target
on the die (R384)? -/
def State.spawnOk (s : State) (die : Nat) (bs : List Byte) : Bool :=
  let r := spawnRecord bs
  let f (o n : Nat) : Nat := leNat ((bs.drop o).take n)
  let x := f 0x08 2
  let st := (s.ctxAt x).st
  let t := f 0x0A 2
  r.valid && decide (r.span = 0) && decide (f 0x0C 4 = 0) && decide (f 0x28 8 = 0) && decide (f 0x38 8 = 0) && decide (f 0x10 8 % 8 = 0)
    && decide (0 < x) && decide (x < 4096) && (decide (st = .active) || decide (st = .frozen))
    && (decide (t = 0xFFFF) || (decide (t < 384) && decide (coreDie t = die))) && s.grantOk x r

/-- The core that takes the team: the target, or the lowest of the die that fits. -/
def State.spawnFit (s : State) (die : Nat) (x t : Nat) (r : LRec) : Option (Nat × List Spot) :=
  let cs := (if t = 0xFFFF then (List.range 96).map (fun i => 96 * die + i) else [t]).filter (fun c => s.granted x (coreCluster c))
  if s.runs x then cs.findSome? (fun c => (s.fitSet x r [c]).map (fun sp => (c, sp))) else none

/-- GSPAWN on a block: the status and the state. -/
def State.spawn (s : State) (die : Nat) (bs : List Byte) : Nat × State :=
  if !s.spawnOk die bs then (1, s)
  else
    let r := spawnRecord bs
    let f (o n : Nat) : Nat := leNat ((bs.drop o).take n)
    let x := f 0x08 2
    match s.spawnFit die x (f 0x0A 2) r with
    | none => (2, s)
    | some (c, sp) =>
      let lid := s.nextLaunch
      let words := (List.range 48).map (fun i => (BitVec.ofNat 32 (f (0x40 + 4 * i) 4), false))
      let l : Launch := { launchInit with
        ctx := x, id := s.launchId + 1, die := die, r := r, preload := words, next := 1, began := some (s.dieAt die).clock
        sliceAt := some (s.dieAt die).clock, join := if f 0x10 8 = 0 then none else some (f 0x10 8), codeMark := s.codeLog.length }
      let t := { s with nextLaunch := lid + 1, launchId := s.launchId + 1, launches := Tab.put s.launches lid l }
      (0, t.admitTeam lid 0 ([c], sp))

/-- GSPAWN: a misaligned or unreachable block is a load access fault (R383). -/
def execGspawn (x : Gsp) (s : State) : Out :=
  hartStep s (fun s h =>
    let a := h.get x.s.toNat
    if a.toNat % 256 ≠ 0 ∨ s.hartReach a = false then (s, h.trap 5 a)
    else
      let r := s.spawn s.iss.die (s.homeRead a.toNat 256)
      (r.2, (h.set x.d.toNat (BitVec.ofNat 64 r.1)).next))

/-! ### GJOIN (R385) -/

/-- GJOIN: the hart stays at the word until the counter has the value. -/
def execGjoin (x : Gjn) (s : State) : Out :=
  hartStep s (fun s h =>
    let a := h.get x.s.toNat
    if a.toNat % 8 ≠ 0 ∨ s.hartReach a = false then (s, h.trap 5 a)
    else
      let v := s.homeDword a.toNat
      if v < (h.get x.t.toNat).toNat then (s, h) else (s, (h.set x.d.toNat (BitVec.ofNat 64 v)).next))

/-! ### VLT, VST.T (R386) -/

/-- The window bytes that a locator names: core and key. The window SRAM holds the local window from byte 0 on, then the exported window
(log 33). -/
def State.locate (s : State) (die : Nat) (loc cid : Dword) : Option (Nat × Nat) :=
  let core := (loc.extractLsb' 32 9).toNat
  let o := (loc.extractLsb' 0 21).toNat
  let x := (cid.extractLsb' 0 12).toNat
  let k := s.coreAt core
  let local' := 1024 * (1536 - k.l1Kib) - k.exp
  if loc.extractLsb' 41 23 ≠ 0#23 ∨ loc.extractLsb' 21 11 ≠ 0#11 ∨ cid.extractLsb' 12 52 ≠ 0#52 ∨ o % 128 ≠ 0 ∨ 384 ≤ core
      ∨ coreDie core ≠ die ∨ k.splitOn = false then none
  else if k.ranges.any (fun r => decide (r.ctx = x) && decide (r.base ≤ o) && decide (o + 128 ≤ r.base + r.size)) then some (core, o)
  else if decide (k.owner = x) && decide (local' ≤ o) && decide (o + 128 ≤ local' + k.exp) then some (core, expKey + (o - local'))
  else none

/-- VLT: 128 B of a window to a vector register; vstart other than 0 is illegal (log 9). -/
def execVlt (x : Gjn) (s : State) : Out :=
  hartStep s (fun s h =>
    let w := match s.iss.words with | w :: _ => w.setWidth 64 | [] => 0
    if h.vstart ≠ 0 then (s, h.trap 2 w)
    else
      match s.locate s.iss.die (h.get x.s.toNat) (h.get x.t.toNat) with
      | none => (s, h.trap 5 (h.get x.s.toNat))
      | some (c, key) => (s, { h with v := Sparse.set h.v x.d.toNat (setLineBytes 0 0 (s.winRead c key 128)) }.next))

/-- VST.T: a vector register to 128 B of a window. -/
def execVstT (x : Vst) (s : State) : Out :=
  hartStep s (fun s h =>
    let w := match s.iss.words with | w :: _ => w.setWidth 64 | [] => 0
    if h.vstart ≠ 0 then (s, h.trap 2 w)
    else
      match s.locate s.iss.die (h.get x.s.toNat) (h.get x.t.toNat) with
      | none => (s, h.trap 7 (h.get x.s.toNat))
      | some (c, key) => (s.winWrite c key (lineBytes (Sparse.get h.v x.v.toNat) 0 128), h.next))

end Sys2Proof.Machine
end

