-- ==== Sys2Proof/Machine/Dispatch.lean ====
section
/-! DEFINITION. Dispatch: one arm per instruction, each one direct call of its meaning. -/
namespace Sys2Proof.Machine

def exec (i : Instr) (s : State) : Host.Outcome State Fault Refusal :=
  match i with
  | .nop x => Sys2Proof.Machine.execNop x s
  | .mov x => Sys2Proof.Machine.execMov x s
  | .sel x => Sys2Proof.Machine.execSel x s
  | .getl x => Sys2Proof.Machine.execGetl x s
  | .setl x => Sys2Proof.Machine.execSetl x s
  | .shfl x => Sys2Proof.Machine.execShfl x s
  | .vote x => Sys2Proof.Machine.execVote x s
  | .redux x => Sys2Proof.Machine.execRedux x s
  | .rdsr x => Sys2Proof.Machine.execRdsr x s
  | .wrsr x => Sys2Proof.Machine.execWrsr x s
  | .plop x => Sys2Proof.Machine.execPlop x s
  | .p2v x => Sys2Proof.Machine.execP2v x s
  | .v2p x => Sys2Proof.Machine.execV2p x s
  | .rdtime x => Sys2Proof.Machine.execRdtime x s
  | .cape x => Sys2Proof.Machine.execCape x s
  | .cres x => Sys2Proof.Machine.execCres x s
  | .iadd x => Sys2Proof.Machine.execIadd x s
  | .isub x => Sys2Proof.Machine.execIsub x s
  | .imul x => Sys2Proof.Machine.execImul x s
  | .imulh x => Sys2Proof.Machine.execImulh x s
  | .imulhu x => Sys2Proof.Machine.execImulhu x s
  | .imad x => Sys2Proof.Machine.execImad x s
  | .imin x => Sys2Proof.Machine.execImin x s
  | .imax x => Sys2Proof.Machine.execImax x s
  | .umin x => Sys2Proof.Machine.execUmin x s
  | .umax x => Sys2Proof.Machine.execUmax x s
  | .iabs x => Sys2Proof.Machine.execIabs x s
  | .ineg x => Sys2Proof.Machine.execIneg x s
  | .iand x => Sys2Proof.Machine.execIand x s
  | .ior x => Sys2Proof.Machine.execIor x s
  | .ixor x => Sys2Proof.Machine.execIxor x s
  | .inot x => Sys2Proof.Machine.execInot x s
  | .ishl x => Sys2Proof.Machine.execIshl x s
  | .ishr x => Sys2Proof.Machine.execIshr x s
  | .isra x => Sys2Proof.Machine.execIsra x s
  | .irot x => Sys2Proof.Machine.execIrot x s
  | .iclz x => Sys2Proof.Machine.execIclz x s
  | .ipopc x => Sys2Proof.Machine.execIpopc x s
  | .ibrev x => Sys2Proof.Machine.execIbrev x s
  | .ibfx x => Sys2Proof.Machine.execIbfx x s
  | .ubfx x => Sys2Proof.Machine.execUbfx x s
  | .ibfi x => Sys2Proof.Machine.execIbfi x s
  | .iaddw x => Sys2Proof.Machine.execIaddw x s
  | .imadw x => Sys2Proof.Machine.execImadw x s
  | .idot4 x => Sys2Proof.Machine.execIdot4 x s
  | .isad x => Sys2Proof.Machine.execIsad x s
  | .iaddsat x => Sys2Proof.Machine.execIaddsat x s
  | .isubsat x => Sys2Proof.Machine.execIsubsat x s
  | .fadd x => Sys2Proof.Machine.execFadd x s
  | .fsub x => Sys2Proof.Machine.execFsub x s
  | .fmul x => Sys2Proof.Machine.execFmul x s
  | .ffma x => Sys2Proof.Machine.execFfma x s
  | .fmin x => Sys2Proof.Machine.execFmin x s
  | .fmax x => Sys2Proof.Machine.execFmax x s
  | .fabs x => Sys2Proof.Machine.execFabs x s
  | .fneg x => Sys2Proof.Machine.execFneg x s
  | .frcp x => Sys2Proof.Machine.execFrcp x s
  | .frsq x => Sys2Proof.Machine.execFrsq x s
  | .fsqrt x => Sys2Proof.Machine.execFsqrt x s
  | .fex2 x => Sys2Proof.Machine.execFex2 x s
  | .flg2 x => Sys2Proof.Machine.execFlg2 x s
  | .fsin x => Sys2Proof.Machine.execFsin x s
  | .fcos x => Sys2Proof.Machine.execFcos x s
  | .ftanh x => Sys2Proof.Machine.execFtanh x s
  | .ffloor x => Sys2Proof.Machine.execFfloor x s
  | .fceil x => Sys2Proof.Machine.execFceil x s
  | .ftrunc x => Sys2Proof.Machine.execFtrunc x s
  | .frint x => Sys2Proof.Machine.execFrint x s
  | .fclass x => Sys2Proof.Machine.execFclass x s
  | .fscale x => Sys2Proof.Machine.execFscale x s
  | .hadd2 x => Sys2Proof.Machine.execHadd2 x s
  | .hmul2 x => Sys2Proof.Machine.execHmul2 x s
  | .hfma2 x => Sys2Proof.Machine.execHfma2 x s
  | .hmin2 x => Sys2Proof.Machine.execHmin2 x s
  | .hmax2 x => Sys2Proof.Machine.execHmax2 x s
  | .badd2 x => Sys2Proof.Machine.execBadd2 x s
  | .bmul2 x => Sys2Proof.Machine.execBmul2 x s
  | .bfma2 x => Sys2Proof.Machine.execBfma2 x s
  | .bmin2 x => Sys2Proof.Machine.execBmin2 x s
  | .bmax2 x => Sys2Proof.Machine.execBmax2 x s
  | .cvt x => Sys2Proof.Machine.execCvt x s
  | .cvtefF8a x => Sys2Proof.Machine.execCvtefF8a x s
  | .cvtefF8b x => Sys2Proof.Machine.execCvtefF8b x s
  | .cvtefF4 x => Sys2Proof.Machine.execCvtefF4 x s
  | .cvtefH16 x => Sys2Proof.Machine.execCvtefH16 x s
  | .cvtefB16 x => Sys2Proof.Machine.execCvtefB16 x s
  | .cvtefI8 x => Sys2Proof.Machine.execCvtefI8 x s
  | .pack x => Sys2Proof.Machine.execPack x s
  | .icmpEq x => Sys2Proof.Machine.execIcmpEq x s
  | .icmpNe x => Sys2Proof.Machine.execIcmpNe x s
  | .icmpLt x => Sys2Proof.Machine.execIcmpLt x s
  | .icmpLe x => Sys2Proof.Machine.execIcmpLe x s
  | .icmpGt x => Sys2Proof.Machine.execIcmpGt x s
  | .icmpGe x => Sys2Proof.Machine.execIcmpGe x s
  | .icmpLtu x => Sys2Proof.Machine.execIcmpLtu x s
  | .icmpLeu x => Sys2Proof.Machine.execIcmpLeu x s
  | .icmpGtu x => Sys2Proof.Machine.execIcmpGtu x s
  | .icmpGeu x => Sys2Proof.Machine.execIcmpGeu x s
  | .fcmpEq x => Sys2Proof.Machine.execFcmpEq x s
  | .fcmpNe x => Sys2Proof.Machine.execFcmpNe x s
  | .fcmpLt x => Sys2Proof.Machine.execFcmpLt x s
  | .fcmpLe x => Sys2Proof.Machine.execFcmpLe x s
  | .fcmpGt x => Sys2Proof.Machine.execFcmpGt x s
  | .fcmpGe x => Sys2Proof.Machine.execFcmpGe x s
  | .fcmpUn x => Sys2Proof.Machine.execFcmpUn x s
  | .fcmpOr x => Sys2Proof.Machine.execFcmpOr x s
  | .scmpEq x => Sys2Proof.Machine.execScmpEq x s
  | .scmpNe x => Sys2Proof.Machine.execScmpNe x s
  | .scmpLt x => Sys2Proof.Machine.execScmpLt x s
  | .scmpLtu x => Sys2Proof.Machine.execScmpLtu x s
  | .tex x => Sys2Proof.Machine.execTex x s
  | .tld x => Sys2Proof.Machine.execTld x s
  | .sadd x => Sys2Proof.Machine.execSadd x s
  | .ssub x => Sys2Proof.Machine.execSsub x s
  | .smul x => Sys2Proof.Machine.execSmul x s
  | .smulh x => Sys2Proof.Machine.execSmulh x s
  | .sand x => Sys2Proof.Machine.execSand x s
  | .sor x => Sys2Proof.Machine.execSor x s
  | .sxor x => Sys2Proof.Machine.execSxor x s
  | .sshl x => Sys2Proof.Machine.execSshl x s
  | .sshr x => Sys2Proof.Machine.execSshr x s
  | .ssra x => Sys2Proof.Machine.execSsra x s
  | .smin x => Sys2Proof.Machine.execSmin x s
  | .smax x => Sys2Proof.Machine.execSmax x s
  | .smovw x => Sys2Proof.Machine.execSmovw x s
  | .sfadd x => Sys2Proof.Machine.execSfadd x s
  | .sfmul x => Sys2Proof.Machine.execSfmul x s
  | .sffma x => Sys2Proof.Machine.execSffma x s
  | .bra x => Sys2Proof.Machine.execBra x s
  | .br x => Sys2Proof.Machine.execBr x s
  | .rcv x => Sys2Proof.Machine.execRcv x s
  | .call x => Sys2Proof.Machine.execCall x s
  | .ret x => Sys2Proof.Machine.execRet x s
  | .jmpi x => Sys2Proof.Machine.execJmpi x s
  | .exit x => Sys2Proof.Machine.execExit x s
  | .yield x => Sys2Proof.Machine.execYield x s
  | .bkoff x => Sys2Proof.Machine.execBkoff x s
  | .bkoffClr x => Sys2Proof.Machine.execBkoffClr x s
  | .trap x => Sys2Proof.Machine.execTrap x s
  | .svcD x => Sys2Proof.Machine.execSvcD x s
  | .svcC x => Sys2Proof.Machine.execSvcC x s
  | .bkpt x => Sys2Proof.Machine.execBkpt x s
  | .tret x => Sys2Proof.Machine.execTret x s
  | .dcmd x => Sys2Proof.Machine.execDcmd x s
  | .setview x => Sys2Proof.Machine.execSetview x s
  | .tlinc x => Sys2Proof.Machine.execTlinc x s
  | .ldW x => Sys2Proof.Machine.execLdW x s
  | .ldD x => Sys2Proof.Machine.execLdD x s
  | .ldQ x => Sys2Proof.Machine.execLdQ x s
  | .ldN x => Sys2Proof.Machine.execLdN x s
  | .stW x => Sys2Proof.Machine.execStW x s
  | .stD x => Sys2Proof.Machine.execStD x s
  | .stQ x => Sys2Proof.Machine.execStQ x s
  | .stN x => Sys2Proof.Machine.execStN x s
  | .ldl x => Sys2Proof.Machine.execLdl x s
  | .stl x => Sys2Proof.Machine.execStl x s
  | .ldw x => Sys2Proof.Machine.execLdw x s
  | .ldk x => Sys2Proof.Machine.execLdk x s
  | .stk x => Sys2Proof.Machine.execStk x s
  | .sld x => Sys2Proof.Machine.execSld x s
  | .sst x => Sys2Proof.Machine.execSst x s
  | .pref x => Sys2Proof.Machine.execPref x s
  | .atom x => Sys2Proof.Machine.execAtom x s
  | .atomr x => Sys2Proof.Machine.execAtomr x s
  | .atoml x => Sys2Proof.Machine.execAtoml x s
  | .cas x => Sys2Proof.Machine.execCas x s
  | .casl x => Sys2Proof.Machine.execCasl x s
  | .satom x => Sys2Proof.Machine.execSatom x s
  | .cwb x => Sys2Proof.Machine.execCwb x s
  | .cinv x => Sys2Proof.Machine.execCinv x s
  | .cinvP x => Sys2Proof.Machine.execCinvP x s
  | .fence x => Sys2Proof.Machine.execFence x s
  | .waitp x => Sys2Proof.Machine.execWaitp x s
  | .arrv x => Sys2Proof.Machine.execArrv x s
  | .waitb x => Sys2Proof.Machine.execWaitb x s
  | .waittl x => Sys2Proof.Machine.execWaittl x s
  | .waitc x => Sys2Proof.Machine.execWaitc x s
  | .freezeG x => Sys2Proof.Machine.execFreezeG x s
  | .freezeT x => Sys2Proof.Machine.execFreezeT x s
  | .regx x => Sys2Proof.Machine.execRegx x s
  | .mma x => Sys2Proof.Machine.execMma x s
  | .mmas x => Sys2Proof.Machine.execMmas x s
  | .mloop x => Sys2Proof.Machine.execMloop x s
  | .mzero x => Sys2Proof.Machine.execMzero x s
  | .mldt x => Sys2Proof.Machine.execMldt x s
  | .mstt x => Sys2Proof.Machine.execMstt x s
  | .scalc x => Sys2Proof.Machine.execScalc x s
  | .mtrn x => Sys2Proof.Machine.execMtrn x s
  | .perc x => Sys2Proof.Machine.execPerc x s
  | .pset x => Sys2Proof.Machine.execPset x s
  | .cpy x => Sys2Proof.Machine.execCpy x s
  | .cpyt x => Sys2Proof.Machine.execCpyt x s
  | .cpyx x => Sys2Proof.Machine.execCpyx x s
  | .launch x => Sys2Proof.Machine.execLaunch x s
  | .capb x => Sys2Proof.Machine.execCapb x s
  | .cstep x => Sys2Proof.Machine.execCstep x s
  | .gspawn x => Sys2Proof.Machine.execGspawn x s
  | .gjoin x => Sys2Proof.Machine.execGjoin x s
  | .vlt x => Sys2Proof.Machine.execVlt x s
  | .vstT x => Sys2Proof.Machine.execVstT x s
  | .teamAdmission die cl => Sys2Proof.Machine.execTeamAdmission die cl s
  | .park g => Sys2Proof.Machine.execPark g s
  | .parkReturn g => Sys2Proof.Machine.execParkReturn g s
  | .retire g => Sys2Proof.Machine.execRetire g s
  | .backoffExpiry g slot => Sys2Proof.Machine.execBackoffExpiry g slot s
  | .fragmentStarved g slot => Sys2Proof.Machine.execFragmentStarved g slot s
  | .trapEntry g => Sys2Proof.Machine.execTrapEntry g s
  | .deferredTrapTaken g => Sys2Proof.Machine.execDeferredTrapTaken g s
  | .loadCompletion g op => Sys2Proof.Machine.execLoadCompletion g op s
  | .storePerformed g op => Sys2Proof.Machine.execStorePerformed g op s
  | .atomicPerformed g op => Sys2Proof.Machine.execAtomicPerformed g op s
  | .windowAccessPerformed g op => Sys2Proof.Machine.execWindowAccessPerformed g op s
  | .ldwLaneLanding g op lane => Sys2Proof.Machine.execLdwLaneLanding g op lane s
  | .remoteBarrierStep n => Sys2Proof.Machine.execRemoteBarrierStep n s
  | .regxGrow g => Sys2Proof.Machine.execRegxGrow g s
  | .samplerCompletion g op => Sys2Proof.Machine.execSamplerCompletion g op s
  | .sfuCompletion g op => Sys2Proof.Machine.execSfuCompletion g op s
  | .lineMissFill g line => Sys2Proof.Machine.execLineMissFill g line s
  | .l1EvictionWriteback core n => Sys2Proof.Machine.execL1EvictionWriteback core n s
  | .translationWalk w => Sys2Proof.Machine.execTranslationWalk w s
  | .matrixUnitOperation core => Sys2Proof.Machine.execMatrixUnitOperation core s
  | .matrixOperationComplete core => Sys2Proof.Machine.execMatrixOperationComplete core s
  | .mloopStart core => Sys2Proof.Machine.execMloopStart core s
  | .percStart core => Sys2Proof.Machine.execPercStart core s
  | .percIteration core => Sys2Proof.Machine.execPercIteration core s
  | .copyAccept core quarter => Sys2Proof.Machine.execCopyAccept core quarter s
  | .copyUnitLanding core copy unit => Sys2Proof.Machine.execCopyUnitLanding core copy unit s
  | .capbAttempt g => Sys2Proof.Machine.execCapbAttempt g s
  | .cstepCommit g op => Sys2Proof.Machine.execCstepCommit g op s
  | .launchAccept die => Sys2Proof.Machine.execLaunchAccept die s
  | .launchCompletion launch => Sys2Proof.Machine.execLaunchCompletion launch s
  | .serviceRequestTake die => Sys2Proof.Machine.execServiceRequestTake die s
  | .serviceCallReply g n => Sys2Proof.Machine.execServiceCallReply g n s
  | .controlReply g n status results => Sys2Proof.Machine.execControlReply g n status results s
  | .serviceRoundPriority die n => Sys2Proof.Machine.execServiceRoundPriority die n s
  | .doorbell addr val => Sys2Proof.Machine.execDoorbell addr val s
  | .queueFetch die slot => Sys2Proof.Machine.execQueueFetch die slot s
  | .sliceEnd launch => Sys2Proof.Machine.execSliceEnd launch s
  | .corePreempt core launch => Sys2Proof.Machine.execCorePreempt core launch s
  | .preemptResume launch => Sys2Proof.Machine.execPreemptResume launch s
  | .staggerExpiry die => Sys2Proof.Machine.execStaggerExpiry die s
  | .operatingPointHoldEnd die => Sys2Proof.Machine.execOperatingPointHoldEnd die s
  | .throttleWindowEnd core => Sys2Proof.Machine.execThrottleWindowEnd core s
  | .throttleOverride g slot => Sys2Proof.Machine.execThrottleOverride g slot s
  | .bandwidthPublication die occ => Sys2Proof.Machine.execBandwidthPublication die occ s
  | .commandJournal n => Sys2Proof.Machine.execCommandJournal n s
  | .hostCommandGo vf => Sys2Proof.Machine.execHostCommandGo vf s
  | .create n => Sys2Proof.Machine.execCreate n s
  | .destroy n => Sys2Proof.Machine.execDestroy n s
  | .grantCore n => Sys2Proof.Machine.execGrantCore n s
  | .grantMem n => Sys2Proof.Machine.execGrantMem n s
  | .grantQueues n => Sys2Proof.Machine.execGrantQueues n s
  | .grantLink n => Sys2Proof.Machine.execGrantLink n s
  | .setHandler n => Sys2Proof.Machine.execSetHandler n s
  | .freeze n => Sys2Proof.Machine.execFreeze n s
  | .thaw n => Sys2Proof.Machine.execThaw n s
  | .checkpoint n => Sys2Proof.Machine.execCheckpoint n s
  | .restore n => Sys2Proof.Machine.execRestore n s
  | .revoke n => Sys2Proof.Machine.execRevoke n s
  | .dirtyscan n => Sys2Proof.Machine.execDirtyscan n s
  | .query n => Sys2Proof.Machine.execQuery n s
  | .bindVf n => Sys2Proof.Machine.execBindVf n s
  | .bindVfUnbind n => Sys2Proof.Machine.execBindVfUnbind n s
  | .bindPartition n => Sys2Proof.Machine.execBindPartition n s
  | .bindPartitionUnbind n => Sys2Proof.Machine.execBindPartitionUnbind n s
  | .bindPartitionReset n => Sys2Proof.Machine.execBindPartitionReset n s
  | .genbump n => Sys2Proof.Machine.execGenbump n s
  | .genbumpCtx n => Sys2Proof.Machine.execGenbumpCtx n s
  | .recordPost n => Sys2Proof.Machine.execRecordPost n s
  | .retryReply ctx slot => Sys2Proof.Machine.execRetryReply ctx slot s
  | .endReply ctx slot => Sys2Proof.Machine.execEndReply ctx slot s
  | .passReply ctx slot => Sys2Proof.Machine.execPassReply ctx slot s
  | .errorFence ctx => Sys2Proof.Machine.execErrorFence ctx s
  | .journalRecopy n die => Sys2Proof.Machine.execJournalRecopy n die s
  | .coldReset ok => Sys2Proof.Machine.execColdReset ok s
  | .getCertificate sess => Sys2Proof.Machine.execGetCertificate sess s
  | .challenge nonce => Sys2Proof.Machine.execChallenge nonce s
  | .getMeasurements index => Sys2Proof.Machine.execGetMeasurements index s
  | .keyExchange port sess key => Sys2Proof.Machine.execKeyExchange port sess key s
  | .ideKm stream key => Sys2Proof.Machine.execIdeKm stream key s
  | .keyUpdate port seq key => Sys2Proof.Machine.execKeyUpdate port seq key s
  | .lifeCycleChange code => Sys2Proof.Machine.execLifeCycleChange code s
  | .ideIntegrityFailure stream => Sys2Proof.Machine.execIdeIntegrityFailure stream s
  | .hostMemoryRead vf addr n => Sys2Proof.Machine.execHostMemoryRead vf addr n s
  | .hostMemoryWrite vf addr bytes poisoned => Sys2Proof.Machine.execHostMemoryWrite vf addr bytes poisoned s
  | .registerWrite addr val => Sys2Proof.Machine.execRegisterWrite addr val s
  | .tctlWrite val => Sys2Proof.Machine.execTctlWrite val s
  | .ictlWrite core val => Sys2Proof.Machine.execIctlWrite core val s
  | .sctlWrite die slot val => Sys2Proof.Machine.execSctlWrite die slot val s
  | .ingressDropRead w => Sys2Proof.Machine.execIngressDropRead w s
  | .ingressWrite w off bytes => Sys2Proof.Machine.execIngressWrite w off bytes s
  | .ptpMessage offset => Sys2Proof.Machine.execPtpMessage offset s
  | .ptmResponse offset => Sys2Proof.Machine.execPtmResponse offset s
  | .clockLockChange lock => Sys2Proof.Machine.execClockLockChange lock s
  | .powerLimit die pt => Sys2Proof.Machine.execPowerLimit die pt s
  | .dramOvertemp die layer => Sys2Proof.Machine.execDramOvertemp die layer s
  | .thermalThrottle die pt => Sys2Proof.Machine.execThermalThrottle die pt s
  | .dramCrcRetry addr fails => Sys2Proof.Machine.execDramCrcRetry addr fails s
  | .uncorrectableError place => Sys2Proof.Machine.execUncorrectableError place s
  | .serviceCoreCacheError die ctx => Sys2Proof.Machine.execServiceCoreCacheError die ctx s
  | .flitReceive port seq tagOk => Sys2Proof.Machine.execFlitReceive port seq tagOk s
  | .nack port seq => Sys2Proof.Machine.execNack port seq s
  | .ackTimeout port => Sys2Proof.Machine.execAckTimeout port s
  | .peerDetected port => Sys2Proof.Machine.execPeerDetected port s
  | .linkTrained port => Sys2Proof.Machine.execLinkTrained port s
  | .trainingTimeout port => Sys2Proof.Machine.execTrainingTimeout port s
  | .retrainTimeout port => Sys2Proof.Machine.execRetrainTimeout port s
  | .remoteRequest r => Sys2Proof.Machine.execRemoteRequest r s
  | .noRoute n => Sys2Proof.Machine.execNoRoute n s
  | .exportWithdraw base n => Sys2Proof.Machine.execExportWithdraw base n s
  | .cxlBackInvalidate addr => Sys2Proof.Machine.execCxlBackInvalidate addr s
  | .cxlPortDown port => Sys2Proof.Machine.execCxlPortDown port s
  | .correctedError die which => Sys2Proof.Machine.execCorrectedError die which s
  | .modulePowerOff => Sys2Proof.Machine.execModulePowerOff s

end Sys2Proof.Machine
end

