-- ==== Sys2Proof/Machine/Loading.lean ====
section
/-! DEFINITION. How an instruction is put where the machine fetches its next one (log 2): a group with one fragment inside a clause whose
first body word it is, or a service core's hart at the word. -/
namespace Sys2Proof.Machine

/-- Where the loaded clause stands, as a virtual and as a system physical address. -/
def loadAt : Nat := 0x10000

/-- The words of an instruction given as the opcode table's bits. -/
def loadWords (nbits w : Nat) : List Word := wordsOfBytes (bytesOfNat (max 4 ((nbits + 7) / 8)) (w % 2 ^ nbits))

/-- The loaded group: every line and scalar present, supervisor mode, F0 inside a clause with setA f0 and setB f1. -/
def loadGrp : Grp := { grpInit with
  ctx := 1, gmask := BitVec.allOnes 32, teamLanes := 32, nlines := 256, nsc := 384, sup := true
  f0 := some { fragAt (BitVec.ofNat 64 loadAt) (BitVec.allOnes 32) with pos := ⟨BitVec.ofNat 64 loadAt, 1, 0#4, 1#4, false⟩ } }

/-- The composed entry of the loaded page (17 R362). -/
def loadEntry : TEntry := {
  ctx := 1, va := loadAt, size := 2 ^ 16, chain := [(1, 0)], path := [loadAt], world := 2, rgen := none, pa := loadAt, r := true, w := true, x := true
  a := true, p := false, mapW := true, dset := true, lvl := 3 }

/-- The loaded launch: one team of one group (18 R373). -/
def loadLaunch : Launch := { launchInit with
  ctx := 1, next := 1
  r := { lrecInit with lanes := 32, nC := 1, lc := 256, nsc := 24, wkib := 1, gx := 1, gy := 1, gz := 1, priv := true } }

/-- The state with an instruction of a group in place. -/
def State.loadTerkor (s : State) (ws : List Word) : State :=
  let n := s.nextGroup
  let hdr := encodeHeader ⟨0, 0, 1, BitVec.ofNat 4 (ws.length - 1), false⟩
  let bytes := (hdr :: ws).flatMap (fun (x : Word) => leBytes 4 x.toNat)
  { s with
    agenda := [.issue n 0]
    mem := Sparse.setList s.mem loadAt bytes
    worlds := Sparse.set s.worlds (loadAt / 2 ^ 16) 2
    groups := Tab.put s.groups n { loadGrp with launch := s.nextLaunch }
    nextGroup := n + 1
    launches := Tab.put s.launches s.nextLaunch { loadLaunch with codeMark := s.codeLog.length }
    nextLaunch := s.nextLaunch + 1
    ctxs := Tab.put s.ctxs 1 { ctxInit with st := .active, depth := 1, world := 2, clMask := 0xFFFFFFFFFFFF, share := 2 ^ 31 }
    cores := Tab.put s.cores 0 { s.coreAt 0 with
      tlb := loadEntry :: (s.coreAt 0).tlb, splitOn := true, owner := 1, l1Kib := 256
      ranges := [⟨1, s.nextLaunch, 0, 0, 1024, [], 0, 0⟩] } }

/-- The state with a service-core word in place: hart 0 of die 0 stands at it. -/
def State.loadHart (s : State) (ws : List Word) : State :=
  let t := { s with agenda := [Turn.hart 0 0], mem := Sparse.setList s.mem loadAt (ws.flatMap (fun (x : Word) => leBytes 4 x.toNat)) }
  t.setHart 0 0 { t.hartAt 0 0 with pc := BitVec.ofNat 64 loadAt }

end Sys2Proof.Machine
end

