-- ==== Sys2Proof/Machine/Policy.lean ====
section
/-! DEFINITION. Which turn the machine takes when its agenda names none, and the passing of time (log 1). -/
namespace Sys2Proof.Machine

/-- The eligible fragment of least rank (11 R268). -/
def State.bestIssuer (s : State) : Option Turn :=
  (leastBy (fun r => r.1) s.issuers).map (fun r => Turn.issue r.2.1 r.2.2)

/-- Is it a lane instruction, which goes to a slice of its quarter (04 R96)? -/
def isLane (i : Instr) : Bool :=
  match i with
  | .mov _ | .sel _ | .getl _ | .setl _ | .shfl _ | .vote _ | .redux _ | .plop _ | .p2v _
  | .v2p _ | .iadd _ | .isub _ | .imul _ | .imulh _ | .imulhu _ | .imad _ | .imin _ | .imax _
  | .umin _ | .umax _ | .iabs _ | .ineg _ | .iand _ | .ior _ | .ixor _ | .inot _ | .ishl _
  | .ishr _ | .isra _ | .irot _ | .iclz _ | .ipopc _ | .ibrev _ | .ibfx _ | .ubfx _ | .ibfi _
  | .iaddw _ | .imadw _ | .idot4 _ | .isad _ | .iaddsat _ | .isubsat _ | .fadd _ | .fsub _ | .fmul _
  | .ffma _ | .fmin _ | .fmax _ | .fabs _ | .fneg _ | .frcp _ | .frsq _ | .fsqrt _ | .fex2 _
  | .flg2 _ | .fsin _ | .fcos _ | .ftanh _ | .ffloor _ | .fceil _ | .ftrunc _ | .frint _ | .fclass _
  | .fscale _ | .hadd2 _ | .hmul2 _ | .hfma2 _ | .hmin2 _ | .hmax2 _ | .badd2 _ | .bmul2 _ | .bfma2 _
  | .bmin2 _ | .bmax2 _ | .cvt _ | .cvtefF8a _ | .cvtefF8b _ | .cvtefF4 _ | .cvtefH16 _ | .cvtefB16 _ | .cvtefI8 _
  | .pack _ | .icmpEq _ | .icmpNe _ | .icmpLt _ | .icmpLe _ | .icmpGt _ | .icmpGe _ | .icmpLtu _ | .icmpLeu _
  | .icmpGtu _ | .icmpGeu _ | .fcmpEq _ | .fcmpNe _ | .fcmpLt _ | .fcmpLe _ | .fcmpGt _ | .fcmpGe _ | .fcmpUn _
  | .fcmpOr _ => true
  | _ => false

/-- Is the next word of the fragment in a slot a lane instruction? -/
def State.nextLane (s : State) (gid slot : Nat) : Bool := match s.turnOf gid slot with | .run i _ => isLane i | _ => false

/-- The pick of a quarter for one of its two issue positions (11 R266 to R268): the fragment of least rank among those that are eligible and whose unit is free. -/
def State.pick (s : State) (core q : Nat) (busy : List (Nat × Nat)) (lane : Bool) : Option (Nat × Nat) :=
  (leastBy (fun r => r.1) (s.issuers.filter (fun r =>
    decide ((s.grp r.2.1).core = core) && decide ((s.grp r.2.1).slot / 32 = q) && !busy.contains r.2 && (s.nextLane r.2.1 r.2.2 == lane)))).map (fun r => r.2)

/-- What a quarter issues in a clock (11 R266): of one group F0 first (04 R95). -/
def State.clockPicks (s : State) (core q : Nat) (busy : List (Nat × Nat)) : List (Nat × Nat) :=
  match s.pick core q busy true, s.pick core q busy false with
  | some a, some b => if a.1 = b.1 ∧ b.2 = 0 then [b, a] else [a, b]
  | some a, none => [a]
  | none, some b => [b]
  | none, none => []

/-- The steps that an operation of a group may be due for. -/
def opSteps (gid n : Nat) (o : Op) : List Instr :=
  [.translationWalk (.op gid n), .loadCompletion gid ⟨n, BitVec.allOnes 32⟩, .storePerformed gid ⟨n, BitVec.allOnes 32⟩, .atomicPerformed gid ⟨n, BitVec.allOnes 32⟩,
   .windowAccessPerformed gid ⟨n, BitVec.allOnes 32⟩, .samplerCompletion gid ⟨n, BitVec.allOnes 32⟩, .sfuCompletion gid ⟨n, BitVec.allOnes 32⟩, .cstepCommit gid n] ++ (lanesOf o.todo).map (fun l => .ldwLaneLanding gid n l)

/-- The steps that a group may be due for. -/
def groupSteps (gid : Nat) (g : Grp) : List Instr :=
  g.ops.flatMap (fun o => opSteps gid o.1 o.2)
    ++ [.retire gid, .regxGrow gid, .deferredTrapTaken gid, .capbAttempt gid, .backoffExpiry gid 0, .backoffExpiry gid 1, .park gid, .parkReturn gid]

/-- The steps that a core may be due for. -/
def coreSteps (c : Nat) (k : Core) : List Instr :=
  [.matrixOperationComplete c, .matrixUnitOperation c, .mloopStart c, .percIteration c, .percStart c]
    ++ (List.range 4).map (fun q => .copyAccept c q)
    ++ k.copies.flatMap (fun p => .translationWalk (.copy c p.1) :: (List.range p.2.total).map (fun q => .copyUnitLanding c p.1 q))

/-- The steps that a launch may be due for. -/
def State.launchSteps (s : State) (lid : Nat) : List Instr :=
  [.launchCompletion lid] ++ (s.cores.map (fun c => .corePreempt c.1 lid)) ++ [.preemptResume lid, .sliceEnd lid]

/-- The steps that a die may be due for. -/
def dieSteps (d : Nat) (k : Die) : List Instr :=
  [.launchAccept d, .serviceRequestTake d] ++ k.serving.map (fun e => .serviceCallReply e.g e.n) ++ (List.range 24).map (fun n => .queueFetch d n)
    ++ [.staggerExpiry d, .operatingPointHoldEnd d] ++ (List.range 12).map (fun c => .teamAdmission d c)

/-- Every step that may be due, but for those that come from outside or with time, and firmware's work on commands and records, which has no
fixed time (19 R475) but for the end of a round (18 R394). -/
def State.dueSteps (s : State) : List Instr :=
  s.groups.flatMap (fun g => groupSteps g.1 g.2)
    ++ (List.range s.barriers.length).map (fun i => .remoteBarrierStep i)
    ++ s.cores.flatMap (fun c => coreSteps c.1 c.2)
    ++ s.launches.flatMap (fun l => s.launchSteps l.1)
    ++ s.dies.zipIdx.flatMap (fun d => dieSteps d.2 d.1)
    ++ s.dies.zipIdx.flatMap (fun d =>
      (List.range (d.1.calls.length + s.records.length + s.cmds.length)).map (fun i => .serviceRoundPriority d.2 i))

/-- Does a step change anything? -/
def State.moves (s : State) (i : Instr) : Bool := match exec i s with | .next t => decide (t ≠ s) | _ => true

/-- The turn of an empty agenda: a trap that is raised is taken; else the fragment of least rank issues; else a step that is due happens;
else time passes. -/
def State.policy (s : State) : Turn :=
  match s.groups.find? (fun g => s.moves (.trapEntry g.1)) with
  | some g => .event (.trapEntry g.1)
  | none =>
    match s.bestIssuer with
    | some t => t
    | none =>
      match s.dueSteps.find? s.moves with
      | some i => .event i
      | none => .tick 100

/-- Does the next word of the fragment in a slot raise a cause at its issue (05 R141)? -/
def State.trapsNow (s : State) (gid slot : Nat) : Bool :=
  let taken (t : State) : Bool := decide ((t.grp gid).frame ≠ (s.grp gid).frame)
  match s.turnOf gid slot with
  | .nothing => false
  | .done u => taken u
  | .run i u => match exec i u with | .next v => taken v | _ => false

/-- The machine as F0 issues in the same clock as F1 (04 R95, 05 R151): where F1's word raises a cause there, F0's trap, if it raises one, knows of it, and a TRAP or
BKPT of F1 is behind it (05 R136). -/
def State.bothIssue (s : State) (gid : Nat) : State :=
  if !s.trapsNow gid 1 then s
  else
    let t := match s.turnOf gid 1 with
      | .run (.trap _) u => if s.trapsNow gid 0 then u.finish (u.grp gid) else s
      | .run (.bkpt _) u => if s.trapsNow gid 0 then u.finish (u.grp gid) else s
      | _ => s
    { t with iss := { issNone with both := true } }

/-- The clocks of all dies after `ns` (22 R448, R449): a pending offset is slewed by at most 500 ppm. -/
def State.pass (s : State) (ns : Nat) : State :=
  { s with dies := s.dies.map (fun d =>
      let most : Int := ((ns / 2000 : Nat) : Int)
      let adj : Int := if d.slew < -most then -most else if most < d.slew then most else d.slew
      { d with clock := (((d.clock + ns : Nat) : Int) + adj).toNat, slew := d.slew - adj }) }

end Sys2Proof.Machine
end

