-- ==== Sys2Proof/Machine/Riscv.lean ====
section
/-! DEFINITION. The base words of a service core's hart (18 R382; 13 R320): RV64I, M, A, Zicsr, the compressed words of these, moves to and from the f registers, and
the setting of vl and vtype. The spec names RV64GCV and describes none of them; they are PRESUMED from the RISC-V architecture (log 74). F, D and V arithmetic is not here. -/
namespace Sys2Proof.Machine

/-! ### Words of the base formats -/

def rvI (op f3 rd rs1 imm : Nat) : Nat := op + 2 ^ 7 * rd + 2 ^ 12 * f3 + 2 ^ 15 * rs1 + 2 ^ 20 * (imm % 2 ^ 12)

def rvR (op f3 rd rs1 rs2 f7 : Nat) : Nat := op + 2 ^ 7 * rd + 2 ^ 12 * f3 + 2 ^ 15 * rs1 + 2 ^ 20 * rs2 + 2 ^ 25 * f7

def rvS (op f3 rs1 rs2 imm : Nat) : Nat := rvR op f3 (imm % 32) rs1 rs2 (imm / 32 % 128)

/-- A branch of byte offset `o`, modulo 2^13. -/
def rvB (f3 rs1 rs2 o : Nat) : Nat :=
  rvR 0x63 f3 (bitsOf o 1 4 * 2 + bitsOf o 11 1) rs1 rs2 (bitsOf o 12 1 * 64 + bitsOf o 5 6)

/-- JAL of byte offset `o`, modulo 2^21. -/
def rvJ (rd o : Nat) : Nat :=
  0x6F + 2 ^ 7 * rd + 2 ^ 12 * bitsOf o 12 8 + 2 ^ 20 * bitsOf o 11 1 + 2 ^ 21 * bitsOf o 1 10 + 2 ^ 31 * bitsOf o 20 1

/-- `n` bits of `x` as a signed number, modulo 2^m. -/
def sextNat (n m x : Nat) : Nat := ((BitVec.ofNat n x).signExtend m).toNat

/-! ### Compressed words -/

/-- The base word that a compressed word of quadrant 0 stands for; none for a reserved one. -/
def rvc0 (c : Nat) : Option Nat :=
  let b := bitsOf c
  let rd := 8 + b 2 3
  let rs := 8 + b 7 3
  let w := 8 * b 10 3 + 4 * b 6 1 + 64 * b 5 1
  let d := 8 * b 10 3 + 64 * b 5 2
  match b 13 3 with
  | 0 => let i := 64 * b 7 4 + 16 * b 11 2 + 8 * b 5 1 + 4 * b 6 1
         if i = 0 then none else some (rvI 0x13 0 rd 2 i)
  | 1 => some (rvI 0x07 3 rd rs d)
  | 2 => some (rvI 0x03 2 rd rs w)
  | 3 => some (rvI 0x03 3 rd rs d)
  | 5 => some (rvS 0x27 3 rs rd d)
  | 6 => some (rvS 0x23 2 rs rd w)
  | 7 => some (rvS 0x23 3 rs rd d)
  | _ => none

/-- Quadrant 1. -/
def rvc1 (c : Nat) : Option Nat :=
  let b := bitsOf c
  let rd := b 7 5
  let r := 8 + b 7 3
  let t := 8 + b 2 3
  let sh := 32 * b 12 1 + b 2 5
  let i := sextNat 6 12 sh
  let br := sextNat 9 13 (256 * b 12 1 + 8 * b 10 2 + 64 * b 5 2 + 2 * b 3 2 + 32 * b 2 1)
  match b 13 3 with
  | 0 => some (rvI 0x13 0 rd rd i)
  | 1 => if rd = 0 then none else some (rvI 0x1B 0 rd rd i)
  | 2 => some (rvI 0x13 0 rd 0 i)
  | 3 =>
    if rd = 2 then
      let k := 512 * b 12 1 + 16 * b 6 1 + 64 * b 5 1 + 128 * b 3 2 + 32 * b 2 1
      if k = 0 then none else some (rvI 0x13 0 2 2 (sextNat 10 12 k))
    else if sh = 0 then none
    else some (0x37 + 2 ^ 7 * rd + 2 ^ 12 * sextNat 6 20 sh)
  | 4 =>
    (match b 10 2 with
     | 0 => some (rvI 0x13 5 r r sh)
     | 1 => some (rvI 0x13 5 r r (0x400 + sh))
     | 2 => some (rvI 0x13 7 r r i)
     | _ =>
       match 4 * b 12 1 + b 5 2 with
       | 0 => some (rvR 0x33 0 r r t 32)
       | 1 => some (rvR 0x33 4 r r t 0)
       | 2 => some (rvR 0x33 6 r r t 0)
       | 3 => some (rvR 0x33 7 r r t 0)
       | 4 => some (rvR 0x3B 0 r r t 32)
       | 5 => some (rvR 0x3B 0 r r t 0)
       | _ => none)
  | 5 => some (rvJ 0 (sextNat 12 21 (2048 * b 12 1 + 16 * b 11 1 + 256 * b 9 2 + 1024 * b 8 1 + 64 * b 7 1 + 128 * b 6 1 + 2 * b 3 3 + 32 * b 2 1)))
  | 6 => some (rvB 0 r 0 br)
  | _ => some (rvB 1 r 0 br)

/-- Quadrant 2. -/
def rvc2 (c : Nat) : Option Nat :=
  let b := bitsOf c
  let rd := b 7 5
  let t := b 2 5
  let d := 32 * b 12 1 + 8 * b 5 2 + 64 * b 2 3
  match b 13 3 with
  | 0 => some (rvI 0x13 1 rd rd (32 * b 12 1 + b 2 5))
  | 1 => some (rvI 0x07 3 rd 2 d)
  | 2 => if rd = 0 then none else some (rvI 0x03 2 rd 2 (32 * b 12 1 + 4 * b 4 3 + 64 * b 2 2))
  | 3 => if rd = 0 then none else some (rvI 0x03 3 rd 2 d)
  | 4 =>
    if b 12 1 = 0 then
      if t ≠ 0 then some (rvR 0x33 0 rd 0 t 0) else if rd = 0 then none else some (rvI 0x67 0 0 rd 0)
    else if t ≠ 0 then some (rvR 0x33 0 rd rd t 0)
    else if rd = 0 then some 0x00100073 else some (rvI 0x67 0 1 rd 0)
  | 5 => some (rvS 0x27 3 2 t (8 * b 10 3 + 64 * b 7 3))
  | 6 => some (rvS 0x23 2 2 t (4 * b 9 4 + 64 * b 7 2))
  | _ => some (rvS 0x23 3 2 t (8 * b 10 3 + 64 * b 7 3))

/-- The base word that a compressed word stands for. -/
def rvc (c : Nat) : Option Nat :=
  match c % 4 with
  | 0 => rvc0 c
  | 1 => rvc1 c
  | _ => rvc2 c

/-! ### Integer operations -/

/-- The operation `f3` of the register and immediate forms; `alt` is the SUB or SRA form, `n` the bits of a shift amount. -/
def rvAlu (f3 : Nat) (alt : Bool) (a b : Dword) (sh : Nat) : Dword :=
  match f3 with
  | 0 => if alt then a - b else a + b
  | 1 => a <<< sh
  | 2 => if a.slt b then 1 else 0
  | 3 => if a.ult b then 1 else 0
  | 4 => a ^^^ b
  | 5 => if alt then a.sshiftRight sh else a >>> sh
  | 6 => a ||| b
  | _ => a &&& b

/-- The same on words, sign-extended. -/
def rvAluW (f3 : Nat) (alt : Bool) (a b : Word) (sh : Nat) : Dword :=
  (match f3 with
   | 0 => if alt then a - b else a + b
   | 1 => a <<< sh
   | _ => if alt then a.sshiftRight sh else a >>> sh).signExtend 64

/-- M on `n` bits: MUL, MULH, MULHSU, MULHU, DIV, DIVU, REM, REMU. -/
def rvMul {n : Nat} (f3 : Nat) (a b : BitVec n) : BitVec n :=
  match f3 with
  | 0 => a * b
  | 1 => BitVec.ofInt n (a.toInt * b.toInt / 2 ^ n)
  | 2 => BitVec.ofInt n (a.toInt * (b.toNat : Int) / 2 ^ n)
  | 3 => BitVec.ofNat n (a.toNat * b.toNat / 2 ^ n)
  | 4 => if b = 0 then BitVec.allOnes n else BitVec.ofInt n (a.toInt.tdiv b.toInt)
  | 5 => if b = 0 then BitVec.allOnes n else BitVec.ofNat n (a.toNat / b.toNat)
  | 6 => if b = 0 then a else BitVec.ofInt n (a.toInt.tmod b.toInt)
  | _ => if b = 0 then a else BitVec.ofNat n (a.toNat % b.toNat)

/-- The value that an AMO of function `f5` leaves, from what stood there and the operand; none for no function. -/
def rvAmo {n : Nat} (f5 : Nat) (v x : BitVec n) : Option (BitVec n) :=
  match f5 with
  | 0x01 => some x
  | 0x00 => some (v + x)
  | 0x04 => some (v ^^^ x)
  | 0x0C => some (v &&& x)
  | 0x08 => some (v ||| x)
  | 0x10 => some (if x.slt v then x else v)
  | 0x14 => some (if v.slt x then x else v)
  | 0x18 => some (if x.ult v then x else v)
  | 0x1C => some (if v.ult x then x else v)
  | _ => none

/-- Does a branch of `f3` go; none for no branch. -/
def rvBranch (f3 : Nat) (a b : Dword) : Option Bool :=
  match f3 with
  | 0 => some (decide (a = b))
  | 1 => some (decide (a ≠ b))
  | 4 => some (a.slt b)
  | 5 => some (!a.slt b)
  | 6 => some (a.ult b)
  | 7 => some (!a.ult b)
  | _ => none

/-! ### Control and status registers -/

/-- Bits of mstatus that a write changes, and those that sstatus shows. -/
def mstatusMask : Dword := 0x7E7FAA#64
def sstatusMask : Dword := 0xC6722#64

/-- The bits [14:13] (f registers) or [10:9] (v registers) of mstatus: 0 while they are off. -/
def Hart.fs (h : Hart) : Nat := (h.mstatus.extractLsb' 13 2).toNat
def Hart.vs (h : Hart) : Nat := (h.mstatus.extractLsb' 9 2).toNat

/-- Marks the f or v registers as changed. -/
def Hart.fDirty (h : Hart) : Hart := { h with mstatus := h.mstatus ||| 0x6000#64 }
def Hart.vDirty (h : Hart) : Hart := { h with mstatus := h.mstatus ||| 0x600#64 }

/-- mstatus as it reads: SD, and 64 bits for S and U. -/
def Hart.status (h : Hart) : Dword :=
  h.mstatus ||| 0xA00000000#64 ||| (if h.fs = 3 ∨ h.vs = 3 then 0x8000000000000000#64 else 0)

/-- A register of the table `csr`. -/
def Hart.csrAt (h : Hart) (n : Nat) : Dword := Sparse.get h.csr n

/-- What register `n` reads; none where there is no such register. Delegation, physical memory protection and address translation read as not there; `id`: the
hart's number, `fr`: a counter's free value. -/
def Hart.csrRead (h : Hart) (n id : Nat) (fr : Dword) : Option Dword :=
  if n ≤ 0x003 then
    if h.fs = 0 then none
    else match n with
      | 1 => some (h.csrAt 3 &&& 0x1F#64)
      | 2 => some (h.csrAt 3 >>> 5)
      | 3 => some (h.csrAt 3)
      | _ => none
  else if (0x008 ≤ n ∧ n ≤ 0x00F) ∨ (0xC20 ≤ n ∧ n ≤ 0xC22) then
    if h.vs = 0 then none
    else match n with
      | 0x008 => some (BitVec.ofNat 64 h.vstart)
      | 0x009 => some (h.csrAt 0x00F &&& 1#64)
      | 0x00A => some (h.csrAt 0x00F >>> 1)
      | 0x00F => some (h.csrAt 0x00F)
      | 0xC20 => some (h.csrAt n)
      | 0xC21 => some (h.csrAt n)
      | 0xC22 => some 128#64
      | _ => none
  else if 0xC00 ≤ n ∧ n < 0xC20 ∧ ((h.mode < 3 ∧ (h.csrAt 0x306).getLsbD (n % 32) = false) ∨ (h.mode = 0 ∧ (h.csrAt 0x106).getLsbD (n % 32) = false)) then none
  else if (0xC00 ≤ n ∧ n < 0xC20) ∨ (0xB00 ≤ n ∧ n < 0xB20 ∧ n ≠ 0xB01) then some fr
  else if (0x323 ≤ n ∧ n < 0x340) ∨ (0x3A0 ≤ n ∧ n < 0x3F0) then some 0
  else match n with
    | 0x100 => some ((h.status &&& (sstatusMask ||| 0x8000000000000000#64)) ||| 0x200000000#64)
    | 0x104 | 0x144 | 0x10A | 0x180 | 0x302 | 0x303 | 0x30A | 0x320 | 0xF11 | 0xF12 | 0xF13 | 0xF15 => some 0
    | 0x105 | 0x106 | 0x140 | 0x141 | 0x142 | 0x143 | 0x304 | 0x306 | 0x340 | 0x344 => some (h.csrAt n)
    | 0x300 => some h.status
    | 0x301 => some 0x800000000034112D#64
    | 0x305 => some h.mtvec
    | 0x341 => some h.mepc
    | 0x342 => some h.mcause
    | 0x343 => some h.mtval
    | 0xF14 => some (BitVec.ofNat 64 id)
    | _ => none

/-- Bits that a write of one of the plain registers keeps. -/
def csrMask (n : Nat) : Dword :=
  match n with
  | 0x105 => ~~~(2#64)
  | 0x141 => ~~~(1#64)
  | 0x106 | 0x306 => 0xFFFFFFFF#64
  | 0x304 => 0xAAA#64
  | 0x344 => 0x222#64
  | _ => BitVec.allOnes 64

/-- mstatus after a write of `v`: a reserved MPP keeps the mode that stood there. -/
def Hart.setStatus (h : Hart) (v : Dword) : Hart :=
  let w := (h.mstatus &&& ~~~mstatusMask) ||| (v &&& mstatusMask)
  { h with mstatus := if w.extractLsb' 11 2 = 2#2 then (w &&& ~~~(0x1800#64)) ||| (h.mstatus &&& 0x1800#64) else w }

/-- Register `n` after a write of `v`. -/
def Hart.csrWrite (h : Hart) (n : Nat) (v : Dword) : Hart :=
  let put (k : Nat) (x : Dword) : Hart := { h with csr := Sparse.set h.csr k x }
  match n with
  | 0x001 => (put 3 ((h.csrAt 3 &&& 0xE0#64) ||| (v &&& 0x1F#64))).fDirty
  | 0x002 => (put 3 ((h.csrAt 3 &&& 0x1F#64) ||| ((v &&& 7#64) <<< 5))).fDirty
  | 0x003 => (put 3 (v &&& 0xFF#64)).fDirty
  | 0x008 => { h with vstart := v.toNat % 1024 }.vDirty
  | 0x009 => (put 0x00F ((h.csrAt 0x00F &&& 6#64) ||| (v &&& 1#64))).vDirty
  | 0x00A => (put 0x00F ((h.csrAt 0x00F &&& 1#64) ||| ((v &&& 3#64) <<< 1))).vDirty
  | 0x00F => (put 0x00F (v &&& 7#64)).vDirty
  | 0x100 => h.setStatus ((h.mstatus &&& ~~~sstatusMask) ||| (v &&& sstatusMask))
  | 0x300 => h.setStatus v
  | 0x305 => { h with mtvec := v &&& ~~~(2#64) }
  | 0x341 => { h with mepc := v &&& ~~~(1#64) }
  | 0x342 => { h with mcause := v }
  | 0x343 => { h with mtval := v }
  | 0x105 | 0x106 | 0x140 | 0x141 | 0x142 | 0x143 | 0x304 | 0x306 | 0x340 | 0x344 => put n (v &&& csrMask n)
  | _ => h

/-! ### One word -/

/-- What a word does: the state and the hart after it; none for a word that is not described here. -/
abbrev RvOut := Option (State × Hart)

/-- The hart goes on `len` bytes further, with `v` in register `rd`. -/
def Hart.put (h : Hart) (len rd : Nat) (v : Dword) : Hart := { h.set rd v with pc := h.pc + BitVec.ofNat 64 len }

/-- The illegal-instruction exception on word `w`. -/
def Hart.illegal (h : Hart) (w : Nat) : Hart := h.trap 2 (BitVec.ofNat 64 w)

/-- Does an access of `n` bytes at `a` fault: the cause, `base` for one that is misaligned and the next for one that reaches nothing. -/
def State.rvFault (s : State) (base n : Nat) (a : Dword) : Option Nat :=
  if a.toNat % n ≠ 0 then some base else if s.hartReach a then none else some (base + 1)

/-- A load of `n` bytes, performed at the home slice (R320). -/
def State.rvLoad (s : State) (h : Hart) (n : Nat) (a : Dword) (k : Nat → Hart) : State × Hart :=
  match s.rvFault 4 n a with
  | some c => (s, h.trap c a)
  | none => (s, k (leNat (s.homeRead a.toNat n)))

/-- A store of `n` bytes, performed at the home slice. -/
def State.rvStore (s : State) (h : Hart) (n : Nat) (a v : Dword) (len : Nat) : State × Hart :=
  match s.rvFault 6 n a with
  | some c => (s, h.trap c a)
  | none => (s.homeWrite a.toNat (leBytes n v.toNat) true, h.put len 0 0)

/-- Does the reservation of a load-reserved of the hart at `a` still hold: nothing has changed the 8-byte word since? -/
def State.reserved (s : State) (h : Hart) (a : Dword) : Bool :=
  match h.res with
  | some (b, mark, v) => decide (b = a) && decide (s.homeDword (a.toNat / 8 * 8) = v)
      && (s.codeLog.take (s.codeLog.length - mark)).all (fun e => decide (e.1 ≠ a.toNat / 8 * 8))
  | none => false

/-- LR, SC and the AMOs (R320: their .aq and .rl add nothing here, where a hart's accesses are performed in its order). -/
def State.rvAtomic (s : State) (h : Hart) (w len : Nat) : State × Hart :=
  let n := if bitsOf w 12 3 = 2 then 4 else 8
  let a := h.get (bitsOf w 15 5)
  let x := h.get (bitsOf w 20 5)
  let rd := bitsOf w 7 5
  let f5 := bitsOf w 27 5
  let old := leNat (s.homeRead a.toNat n)
  let value : Dword := if n = 4 then (BitVec.ofNat 32 old).signExtend 64 else BitVec.ofNat 64 old
  let new : Option Nat := if n = 4 then (rvAmo f5 (BitVec.ofNat 32 old) (x.setWidth 32)).map BitVec.toNat else (rvAmo f5 (BitVec.ofNat 64 old) x).map BitVec.toNat
  if bitsOf w 12 3 ≠ 2 ∧ bitsOf w 12 3 ≠ 3 then (s, h.illegal w)
  else if f5 = 2 then
    if bitsOf w 20 5 ≠ 0 then (s, h.illegal w)
    else s.rvLoad h n a (fun _ => { h with res := some (a, s.codeLog.length, s.homeDword (a.toNat / 8 * 8)) }.put len rd value)
  else if f5 = 3 then
    let g := { h with res := none }
    (match s.rvFault 6 n a with
     | some c => (s, g.trap c a)
     | none =>
       if !s.reserved h a then (s, g.put len rd 1)
       else if Config.freeBool s.freeCtr then (s.useFree 1, g.put len rd 1)
       else ((s.useFree 1).homeWrite a.toNat (leBytes n x.toNat) true, g.put len rd 0))
  else
    match new with
    | none => (s, h.illegal w)
    | some v =>
      match s.rvFault 6 n a with
      | some c => (s, h.trap c a)
      | none => (s.homeWrite a.toNat (leBytes n v) true, h.put len rd value)

/-- The CSR instructions. -/
def State.rvCsr (s : State) (h : Hart) (w len id : Nat) : State × Hart :=
  let n := bitsOf w 20 12
  let f3 := bitsOf w 12 3
  let r := bitsOf w 15 5
  let x : Dword := if 4 ≤ f3 then BitVec.ofNat 64 r else h.get r
  let writes := decide (f3 % 4 = 1) || decide (r ≠ 0)
  let fr := (Config.freeWord s.freeCtr ++ Config.freeWord (s.freeCtr + 1) : Dword)
  match h.csrRead n id fr with
  | none => (s, h.illegal w)
  | some v =>
    if h.mode < bitsOf n 8 2 ∨ (writes = true ∧ bitsOf n 10 2 = 3) then (s, h.illegal w)
    else
      let y := match f3 % 4 with | 1 => x | 2 => v ||| x | _ => v &&& ~~~x
      (s.useFree 2, (if writes then h.csrWrite n y else h).put len (bitsOf w 7 5) v)

/-- MRET. -/
def Hart.mret (h : Hart) : Hart :=
  let p := (h.mstatus.extractLsb' 11 2).toNat
  let st := (h.mstatus &&& ~~~(0x1888#64)) ||| (if h.mstatus.getLsbD 7 then 8#64 else 0) ||| 0x80#64
  { h with mstatus := if p = 3 then st else st &&& ~~~(0x20000#64), mode := p, pc := h.mepc }

/-- SRET. -/
def Hart.sret (h : Hart) : Hart :=
  let st := (h.mstatus &&& ~~~(0x20122#64)) ||| (if h.mstatus.getLsbD 5 then 2#64 else 0) ||| 0x20#64
  { h with mstatus := st, mode := if h.mstatus.getLsbD 8 then 1 else 0, pc := h.csrAt 0x141 }

/-- ECALL, EBREAK, the returns, WFI, which may end at once, and SFENCE.VMA. -/
def Hart.system (h : Hart) (w len : Nat) : Hart :=
  let s (k : Nat) : Bool := decide (h.mode = 0) || (decide (h.mode = 1) && h.mstatus.getLsbD k)
  if w = 0x00000073 then h.trap (if h.mode = 3 then 11 else 8 + h.mode) 0
  else if w = 0x00100073 then h.trap 3 h.pc
  else if w = 0x30200073 then (if h.mode < 3 then h.illegal w else h.mret)
  else if w = 0x10200073 then (if s 22 then h.illegal w else h.sret)
  else if w = 0x10500073 then (if s 21 then h.illegal w else h.put len 0 0)
  else if bitsOf w 25 7 = 9 ∧ bitsOf w 7 5 = 0 then (if s 20 then h.illegal w else h.put len 0 0)
  else h.illegal w

/-- Loads and stores of f registers; a single is held with ones above it. -/
def State.rvFloat (s : State) (h : Hart) (w len : Nat) (store : Bool) : RvOut :=
  let a := h.get (bitsOf w 15 5)
  match bitsOf w 12 3 with
  | 0 | 5 | 6 | 7 => if h.vs = 0 then some (s, h.illegal w) else none
  | f3 =>
    let n := if f3 = 2 then 4 else 8
    if h.fs = 0 ∨ (f3 ≠ 2 ∧ f3 ≠ 3) then some (s, h.illegal w)
    else if store then
      some (s.rvStore h n (a + (BitVec.ofNat 12 (32 * bitsOf w 25 7 + bitsOf w 7 5)).signExtend 64) (Sparse.get h.f (bitsOf w 20 5)) len)
    else
      some (s.rvLoad h n (a + (BitVec.ofNat 12 (bitsOf w 20 12)).signExtend 64) (fun v =>
        ({ h with f := Sparse.set h.f (bitsOf w 7 5) (BitVec.ofNat 64 (if n = 4 then 0xFFFFFFFF00000000 + v else v)) }.fDirty).put len 0 0))

/-- Moves between x and f registers; other operations on f registers are not described. -/
def Hart.fmove (h : Hart) (w len : Nat) : Option Hart :=
  let x := h.get (bitsOf w 15 5)
  let v := Sparse.get h.f (bitsOf w 15 5)
  let set (y : Dword) : Hart := ({ h with f := Sparse.set h.f (bitsOf w 7 5) y }.fDirty).put len 0 0
  if h.fs = 0 then some (h.illegal w)
  else if bitsOf w 12 3 ≠ 0 ∨ bitsOf w 20 5 ≠ 0 then none
  else match bitsOf w 25 7 with
    | 0x70 => some (h.put len (bitsOf w 7 5) ((v.setWidth 32).signExtend 64))
    | 0x71 => some (h.put len (bitsOf w 7 5) v)
    | 0x78 => some (set ((0xFFFFFFFF#32 ++ x.setWidth 32 : Dword)))
    | 0x79 => some (set x)
    | _ => none

/-- The most elements that a vtype allows with VLEN 1,024 and ELEN 64 (R382); none for one that is not supported. -/
def vlMax (t : Nat) : Option Nat :=
  let m := match t % 8 with | 0 => 8 | 1 => 16 | 2 => 32 | 3 => 64 | 5 => 1 | 6 => 2 | 7 => 4 | _ => 0
  let sew := 2 ^ (3 + bitsOf t 3 3)
  if m = 0 ∨ 256 ≤ t ∨ 64 < sew ∨ 8 * m < sew then none else some (1024 * m / 8 / sew)

/-- VSETVLI, VSETIVLI, VSETVL. -/
def Hart.vset (h : Hart) (w len : Nat) : Hart :=
  let rd := bitsOf w 7 5
  let r := bitsOf w 15 5
  let t := if bitsOf w 31 1 = 0 then bitsOf w 20 11 else if bitsOf w 30 2 = 3 then bitsOf w 20 10 else (h.get (bitsOf w 20 5)).toNat
  let put (vl ty : Dword) : Hart := ({ h with csr := Sparse.set (Sparse.set h.csr 0xC20 vl) 0xC21 ty, vstart := 0 }.vDirty).put len rd vl
  if h.vs = 0 ∨ (bitsOf w 30 2 = 2 ∧ bitsOf w 25 7 ≠ 0x40) then h.illegal w
  else match vlMax t with
    | none => put 0 0x8000000000000000#64
    | some m =>
      let avl := if bitsOf w 30 2 = 3 then r else if r ≠ 0 then (h.get r).toNat else if rd ≠ 0 then m else (h.csrAt 0xC20).toNat
      put (BitVec.ofNat 64 (min avl m)) (BitVec.ofNat 64 t)

/-- The base word `w`, of `len` bytes in memory, by hart number `id`. -/
def State.rvExec (s : State) (h : Hart) (w len id : Nat) : RvOut :=
  let rd := bitsOf w 7 5
  let f3 := bitsOf w 12 3
  let a := h.get (bitsOf w 15 5)
  let b := h.get (bitsOf w 20 5)
  let imm : Dword := (BitVec.ofNat 12 (bitsOf w 20 12)).signExtend 64
  let f7 := bitsOf w 25 7
  let bad : RvOut := some (s, h.illegal w)
  let ok (v : Dword) : RvOut := some (s, h.put len rd v)
  match w % 128 with
  | 0x37 => ok ((BitVec.ofNat 32 (w / 2 ^ 12 * 2 ^ 12)).signExtend 64)
  | 0x17 => ok (h.pc + (BitVec.ofNat 32 (w / 2 ^ 12 * 2 ^ 12)).signExtend 64)
  | 0x6F =>
    let o : Dword := (BitVec.ofNat 21 (2 ^ 20 * bitsOf w 31 1 + 2 ^ 12 * bitsOf w 12 8 + 2 ^ 11 * bitsOf w 20 1 + 2 * bitsOf w 21 10)).signExtend 64
    some (s, { h.put len rd (h.pc + BitVec.ofNat 64 len) with pc := h.pc + o })
  | 0x67 => if f3 ≠ 0 then bad else some (s, { h.put len rd (h.pc + BitVec.ofNat 64 len) with pc := (a + imm) &&& ~~~(1#64) })
  | 0x63 =>
    let o : Dword := (BitVec.ofNat 13 (2 ^ 12 * bitsOf w 31 1 + 2 ^ 11 * bitsOf w 7 1 + 2 ^ 5 * bitsOf w 25 6 + 2 * bitsOf w 8 4)).signExtend 64
    (match rvBranch f3 a b with
     | none => bad
     | some t => some (s, { h with pc := h.pc + (if t then o else BitVec.ofNat 64 len) }))
  | 0x03 =>
    let n := 2 ^ (f3 % 4)
    if f3 = 7 then bad
    else some (s.rvLoad h n (a + imm) (fun v => h.put len rd (BitVec.ofNat 64 (if f3 < 4 then sextNat (8 * n) 64 v else v))))
  | 0x23 =>
    if 4 ≤ f3 then bad
    else some (s.rvStore h (2 ^ f3) (a + (BitVec.ofNat 12 (32 * f7 + rd)).signExtend 64) b len)
  | 0x13 =>
    if (f3 = 1 ∧ f7 / 2 ≠ 0) ∨ (f3 = 5 ∧ f7 / 2 ≠ 0 ∧ f7 / 2 ≠ 16) then bad
    else ok (rvAlu f3 (decide (f3 = 5) && decide (f7 / 2 = 16)) a imm (bitsOf w 20 6))
  | 0x1B =>
    if f3 ≠ 0 ∧ f3 ≠ 1 ∧ f3 ≠ 5 ∨ (f3 = 1 ∧ f7 ≠ 0) ∨ (f3 = 5 ∧ f7 ≠ 0 ∧ f7 ≠ 32) then bad
    else ok (rvAluW f3 (decide (f3 = 5) && decide (f7 = 32)) (a.setWidth 32) (imm.setWidth 32) (bitsOf w 20 5))
  | 0x33 =>
    if f7 = 1 then ok (rvMul f3 a b)
    else if f7 ≠ 0 ∧ (f7 ≠ 32 ∨ (f3 ≠ 0 ∧ f3 ≠ 5)) then bad
    else ok (rvAlu f3 (decide (f7 = 32)) a b (b.toNat % 64))
  | 0x3B =>
    if f7 = 1 ∧ (f3 = 0 ∨ 4 ≤ f3) then ok ((rvMul f3 (a.setWidth 32) (b.setWidth 32)).signExtend 64)
    else if (f3 ≠ 0 ∧ f3 ≠ 1 ∧ f3 ≠ 5) ∨ (f7 ≠ 0 ∧ (f7 ≠ 32 ∨ f3 = 1)) then bad
    else ok (rvAluW f3 (decide (f7 = 32)) (a.setWidth 32) (b.setWidth 32) (b.toNat % 32))
  | 0x0F => if 1 < f3 then bad else some (s, h.put len 0 0)
  | 0x2F => some (s.rvAtomic h w len)
  | 0x73 => if f3 = 0 then some (s, h.system w len) else if f3 = 4 then bad else some (s.rvCsr h w len id)
  | 0x07 => s.rvFloat h w len false
  | 0x27 => s.rvFloat h w len true
  | 0x53 => (h.fmove w len).map (fun k => (s, k))
  | 0x43 | 0x47 | 0x4B | 0x4F => if h.fs = 0 then bad else none
  | 0x57 => if f3 = 7 then some (s, h.vset w len) else if h.vs = 0 then bad else none
  | _ => bad

/-- A hart's turn at a word outside custom-0; none for a word whose operation the spec leaves to the RISC-V architecture and the model does not have. -/
def State.hartBase (s : State) (d n : Nat) : Option State :=
  let h := s.hartAt d n
  let w := s.homeWord h.pc.toNat
  let out (r : State × Hart) : State := r.1.setHart d n r.2
  if !s.hartReach h.pc then some (out (s, h.trap 1 h.pc))
  else if w % 4 = 3 then (s.rvExec h w 4 (16 * d + n)).map out
  else match rvc (w % 2 ^ 16) with
    | none => some (out (s, h.illegal (w % 2 ^ 16)))
    | some v => (s.rvExec h v 2 (16 * d + n)).map out

end Sys2Proof.Machine
end

