-- ==== Sys2Proof/Machine/Step.lean ====
section
/-! DEFINITION. One step: the turn that the agenda, or the policy, names (log 1). -/
namespace Sys2Proof.Machine

/-- After instruction `i` of `before`'s fragment `f`: its count in a capsule body, its use of the file, the yield of its clause, and what follows every step. -/
def State.afterIssue (s : State) (i : Instr) (before : Grp) (f : Frag) : State :=
  { (((s.capCounted i before f).fileIssued i before f).clauseYield before f).settle with iss := issNone }

/-- The fragment in a slot of a group issues its next word. -/
def runIssue (g n : Nat) (s : State) : Host.Outcome State Fault Refusal :=
  match s.turnOf g n with
  | .nothing => .next { s with iss := issNone }
  | .done u => .next { u.settle with iss := issNone }
  | .run i u =>
    match exec i u with
    | .next v => .next (v.afterIssue i (s.grp g) (((s.grp g).frag n).getD (fragAt 0 0)))
    | o => o

/-- One clock of a quarter (11 R266). -/
def runClock (core q : Nat) (busy : List (Nat × Nat)) (s : State) : Host.Outcome State Fault Refusal :=
  match s.clockPicks core q busy with
  | [] => .next s.settle
  | [a] => runIssue a.1 a.2 s
  | a :: b :: _ =>
    match runIssue a.1 a.2 (if a.1 = b.1 then s.bothIssue a.1 else s) with
    | .next t => runIssue b.1 b.2 t
    | o => o

/-- One turn. -/
def runTurn (t : Turn) (s : State) : Host.Outcome State Fault Refusal :=
  match t with
  | .tick ns => .next (s.pass ns).settle
  | .event i =>
    if (instrWord i).isSome then .next s
    else
      match exec i s with
      | .next u => .next (u.fileLanded s).settle
      | o => o
  | .issue g n => runIssue g n s
  | .both g => runIssue g 0 (s.bothIssue g)
  | .clock c q busy => runClock c q busy s
  | .hart d n =>
    match s.hartWord d n with
    | none =>
      if s.hartCustom d n then .next (s.hartIllegal d n)
      else match s.hartBase d n with
        | some t => .next t.settle
        | none => .fault .baseWord
    | some i =>
      match exec i { s with iss := { issNone with pc := (s.hartAt d n).pc, words := encode i, die := d, hart := n } } with
      | .next u => .next { u.settle with iss := issNone }
      | o => o

/-- One step of the machine. -/
def step (s : State) : Host.Outcome State Fault Refusal :=
  match s.agenda with
  | t :: r => runTurn t { s with agenda := r }
  | [] => runTurn s.policy s

/-- `s` with an instruction of the opcode table where the machine fetches its next one (log 2). -/
def State.withFetchWord (s : State) (nbits w : Nat) : State :=
  match decodeTableWord nbits w with
  | some i => if instrIsService i then s.loadHart (loadWords nbits w) else s.loadTerkor (loadWords nbits w)
  | none => s.loadTerkor (loadWords nbits w)

end Sys2Proof.Machine
end

