-- ==== Sys2Proof/Safety.lean ====
section
/-! DEFINITION. The terms of the claims: canonical forms, what a step leaves alone, when an instruction has its own effect, and how its
fragment goes on. -/
namespace Sys2Proof.Machine

/-! ### Canonical forms -/

/-- System physical memory is in its canonical form. -/
abbrev Memory.wf (m : Sparse 8) : Bool := Sparse.wf m

/-- The state holds its memory in canonical form. -/
def State.memOk (s : State) : Prop := Memory.wf s.mem = true

/-! ### Frames -/

/-- `t` is `s` but for group `gid`. -/
def State.onlyGroup (s t : State) (gid : Nat) : Prop :=
  t = { s with groups := t.groups } ∧ ∀ k, k ≠ gid → Tab.find t.groups k = Tab.find s.groups k

/-- `h` is `g` but for where its fragments stand, and what their fusions order before later accesses (05 R129). -/
def Grp.onlyFrags (g h : Grp) : Prop :=
  h = { g with f0 := h.f0, f1 := h.f1, split := h.split, orderNext := h.orderNext, fused := h.fused }

/-- `h` is `g` but for the words of its register lines and what a write to a line does beside them (06 R159, R170, R172). -/
def Grp.onlyLines (g h : Grp) : Prop :=
  h = { g with rs := h.rs, shared := h.shared, cowcnt := h.cowcnt, written := h.written, poison := h.poison }

/-- `h` is `g` but for its scalars and their poison marks. -/
def Grp.onlyScalars (g h : Grp) : Prop := h = { g with s := h.s, spoison := h.spoison }

/-- `h` is `g` but for vector register `d`, which has `r` in the lanes of `m`. -/
def Grp.writesV (g h : Grp) (d : Nat) (m : BitVec 32) (r : Nat → Word) : Prop :=
  g.onlyLines h ∧ ∀ n l, l < 32 → h.word n l = if n = g.vline d ∧ m.getLsbD l = true then r l else g.word n l

/-- `h` is `g` but for the pair of vector registers `d` and `d + 1`, which have the halves of `r` in the lanes of `m` (00 R5). -/
def Grp.writesVPair (g h : Grp) (d : Nat) (m : BitVec 32) (r : Nat → Dword) : Prop :=
  g.onlyLines h ∧ ∀ n l, l < 32 → h.word n l =
    if n = g.vline d ∧ m.getLsbD l = true then (r l).setWidth 32
    else if n = g.vline (d + 1) ∧ m.getLsbD l = true then (r l >>> 32).setWidth 32
    else g.word n l

/-- `h` is `g` but for scalar `d`, which is `v`. -/
def Grp.writesS (g h : Grp) (d : Nat) (v : Word) : Prop :=
  g.onlyScalars h ∧ ∀ n, h.scalar n = if n = d then v else g.scalar n

/-! ### When an instruction has its own effect -/

/-- The instruction `i` that fragment `f` of group `g` issues has its own effect, with the active set `m`: no rule makes it ILLEGAL (02 R60), it ends its
clause if it must, it is not privileged beyond the group's mode (02 R61), a capsule body may hold it (14 R329), nothing stalls it (11 R267), and
no operand that it reads is poisoned (06 R172, 07 R211; 04 R93: a lane instruction reads with no lane active too). -/
def Issues (i : Instr) (m : BitVec 32) (s : State) (g : Grp) (f : Frag) : Prop :=
  Tab.find s.groups s.iss.g = some g ∧ g.frag s.iss.slot = some f ∧ issueIllegal i g f = none
    ∧ (instrEndsClause i = true → s.iss.last = true) ∧ privBlocked i g = false
    ∧ (g.inBody = true → g.inHandler = false → capBreaks i g = false)
    ∧ s.stalls i g f = false ∧ ((m = 0 ∧ readsAlways i = false) ∨ s.poisonCause i g = none)

/-- After an instruction of group `s.iss.g` that makes the group `h` its fragment goes on: within its clause to the next word, and at the end
of the clause to the next header (02 R43, R45). Nothing else of the machine changes. -/
def State.goesOn (s t : State) (h : Grp) : Prop :=
  s.onlyGroup t s.iss.g ∧ ∃ k, Tab.find t.groups s.iss.g = some k ∧ h.onlyFrags k
    ∧ (s.iss.last = false → ∀ f, h.frag s.iss.slot = some f →
        k.frag s.iss.slot = some { f with pos := s.iss.after, wait := .none, arriving := false, starved := false, loadFree := false })

/-- The instruction has its own effect and its fragment goes on: the group becomes what `effect` says. -/
def Completes (i : Instr) (s : State) (g : Grp) (effect : Grp → Grp → Prop) : Prop :=
  ∃ t h, exec i s = .next t ∧ s.goesOn t h ∧ effect g h

/-! ### Release and acquire steps, and waits -/

/-- Writing back the lines of context `x` that the core holds needs nothing but their bytes: every stamp is current (07 R199), and no context of its
chain tracks writes (17 R368). Lines stand at multiples of 128. -/
def State.plainL1 (s : State) (core x : Nat) : Prop :=
  (∀ l, l ∈ (s.coreAt core).l1 → l.ctx = x → s.l1Fresh core l = true ∧ l.va % 128 = 0) ∧ ∀ c, c ∈ s.chain x → (s.ctxAt c).dirtyMap = none

/-- Byte `j` of line `l` is dirty. -/
def L1Line.dirtyAt (l : L1Line) (j : Nat) : Prop := j < 128 ∧ l.dirty.getLsbD j = true

/-- `t` is `s` but that the dirty bytes of the lines of context `x` on the core have gone to their homes (07 R182); only those bytes of memory change. Lines
of other contexts and other cores stay. -/
def State.wroteBack (s t : State) (core x : Nat) : Prop :=
  t = { s with cores := t.cores, mem := t.mem, memPoison := t.memPoison, codeLog := t.codeLog, dir := t.dir, l2 := t.l2 }
    ∧ (∀ a, (∀ l, l ∈ (s.coreAt core).l1 → l.ctx = x → ∀ j, l.dirtyAt j → l.pa + j ≠ a) → Sparse.get t.mem a = Sparse.get s.mem a)
    ∧ (∀ l j, l ∈ (s.coreAt core).l1 → l.ctx = x → l.dirtyAt j → (∀ m, m < 128 → s.l2Held (l.pa + m) = false) →
        (∀ k m, k ∈ (s.coreAt core).l1 → k.ctx = x → k.dirtyAt m → k.pa + m = l.pa + j → lineByte k.data m = lineByte l.data j) →
        Sparse.get t.mem (l.pa + j) = lineByte l.data j)
    ∧ (∀ c, c ≠ core → t.coreAt c = s.coreAt c) ∧ t.coreAt core = { s.coreAt core with l1 := (t.coreAt core).l1 }
    ∧ ∀ l, l.ctx ≠ x → (l ∈ (t.coreAt core).l1 ↔ l ∈ (s.coreAt core).l1)

/-- `t` is `s` after the release step of a group at scope `sc` (07 R197): at a wide scope no line of its context on its core is dirty. -/
def State.released (s t : State) (g : Grp) (sc : Nat) : Prop :=
  if s.wide g sc then s.wroteBack t g.core g.ctx ∧ ∀ l, l ∈ (t.coreAt g.core).l1 → l.ctx = g.ctx → l.dirty = 0 else t = s

/-- `t` is `s` after the acquire step of a group at scope `sc` (07 R197): at a wide scope its core holds no line of its context. -/
def State.acquired (s t : State) (g : Grp) (sc : Nat) : Prop :=
  if s.wide g sc then s.wroteBack t g.core g.ctx ∧ ∀ l, l ∈ (t.coreAt g.core).l1 → l.ctx ≠ g.ctx else t = s

/-- The instruction does nothing but make its fragment wait for `w` (01 R33). -/
def Waits (i : Instr) (s : State) (g : Grp) (f : Frag) (w : Wait) : Prop :=
  exec i s = .next (s.setGrp s.iss.g (g.setFrag s.iss.slot (some { f with wait := w, starved := false, loadFree := false })))

/-- The machine becomes one that `change` tells from `s`, apart from the issuing group, which becomes what `effect` says while its fragment goes on. -/
def CompletesAfter (i : Instr) (s : State) (g : Grp) (change : State → Prop) (effect : Grp → Grp → Prop) : Prop :=
  ∃ t u h, exec i s = .next t ∧ change u ∧ u.iss = s.iss ∧ u.goesOn t h ∧ effect g h

/-! ### Outstanding operations -/

/-- `h` is `g` with operation `o` outstanding besides, under the next number: its flag and its path counter are one higher (01 R23, R24). -/
def Grp.opBegins (g h : Grp) (o : Op) : Prop :=
  h = { g with ops := h.ops, opNext := g.opNext + 1, flags := h.flags, paths := h.paths }
    ∧ Tab.find h.ops g.opNext = some o ∧ (∀ k, k ≠ g.opNext → Tab.find h.ops k = Tab.find g.ops k)
    ∧ (∀ n, Sparse.get h.flags n = if o.flag = some n then Sparse.get g.flags n + 1 else Sparse.get g.flags n)
    ∧ (∀ p : PathK, Sparse.get h.paths p.num = if o.path = some p then Sparse.get g.paths p.num + 1 else Sparse.get g.paths p.num)

/-- `h` is `g` without operation `n`, which was `o`: its flag and its path counter are one lower, and TLINC numbers that waited for it may be
complete (01 R23, R24; 12 R288). -/
def Grp.opEnds (g h : Grp) (n : Nat) (o : Op) : Prop :=
  h = { g with ops := h.ops, flags := h.flags, paths := h.paths, tlinc := h.tlinc, tlc := h.tlc, tldone := h.tldone }
    ∧ Tab.find h.ops n = none ∧ (∀ k, k ≠ n → Tab.find h.ops k = Tab.find g.ops k)
    ∧ (∀ i, Sparse.get h.flags i = if o.flag = some i then Sparse.get g.flags i - 1 else Sparse.get g.flags i)
    ∧ (∀ p : PathK, Sparse.get h.paths p.num = if o.path = some p then Sparse.get g.paths p.num - 1 else Sparse.get g.paths p.num)

/-- `h` is `g` but for words of its register lines: word `l` of line `n` is what `v n l` gives, where it gives one. -/
def Grp.landed (g h : Grp) (v : Nat → Nat → Option Word) : Prop :=
  g.onlyLines h ∧ ∀ n l, l < 32 → h.word n l = (v n l).getD (g.word n l)

/-- The operation of a group that a step of the device names. -/
def State.hasOp (s : State) (gid n : Nat) (g : Grp) (o : Op) : Prop := Tab.find s.groups gid = some g ∧ Tab.find g.ops n = some o

/-- An event that names the lanes `m` performs an operation in some lanes, and all its accesses stay in the package: its fault point is passed, the accesses that a
fusion orders before it are done, its windows are on their core, no matrix operation holds its destination (08 R219), and no earlier access of the program order owes
its bytes (13 R309); some lane is performed unless none is owed, and its last lanes only as the oldest on its path (01 R24). -/
def State.due (s : State) (gid n : Nat) (m : BitVec 32) (g : Grp) (o : Op) : Prop :=
  s.hasOp gid n g o ∧ s.performable g n o (o.lanesOfEvent m) = true ∧ (o.owed &&& ~~~(o.lanesOfEvent m) ≠ 0 ∨ g.pathFirst n = true)
    ∧ (o.lanesOfEvent m ≠ 0 ∨ o.owed = 0) ∧ s.sentOf gid g n o = []

/-- After a step that ends operation `n` (which was `o`) of group `gid`, `t` is `s` but for that group, which was changed to `k` before the
operation ended. -/
def State.endsOp (s t : State) (gid n : Nat) (o : Op) (k : Grp) : Prop :=
  s.onlyGroup t gid ∧ ∃ h, Tab.find t.groups gid = some h ∧ k.opEnds h n o

/-- After a step that performs the lanes `now` of operation `n` (which was `o`), which left the state `s` with the group changed to `k`: with the last owed lane
the operation ends, and its acquire step follows; before that the lanes are marked as landed, and the operation stays outstanding (01 R23). -/
def State.lanesEnd (s t : State) (gid n : Nat) (o : Op) (now : BitVec 32) (k : Grp) : Prop :=
  (o.owed &&& ~~~now = 0 → ∃ v, s.endsOp v gid n o k ∧ t = v.opAcquire gid o) ∧
  (o.owed &&& ~~~now ≠ 0 → s.onlyGroup t gid
    ∧ Tab.find t.groups gid = some { k with ops := Tab.put k.ops n { o with landed := o.landed ||| now } })

/-- The byte at `pa` (virtual address `va`, of the same line) as an access finds it (07 R180, R181; 13 R308): a narrow access in the core's L1 line where it
holds one, but for policy 2 and for a held line (07 R199); any other one in the line's dirty bytes, else at the home or, for scopes .k and .y, at the owner. -/
def State.seen (s : State) (h : How) (va pa : Nat) : Byte :=
  match s.l1Find h.core h.ctx va with
  | some l =>
    if (h.narrow && decide (h.pol ≠ 2) && !l.held) || l.dirty.getLsbD (pa % 128) then lineByte l.data (pa % 128) else (s.readHome h.owner pa 1).headD 0
  | none => (s.readHome h.owner pa 1).headD 0

/-- The words that a load of lanes `vs` lands (07 R183): register line `i` of the destination gets word `i` of each lane. -/
def landing (lines : List Nat) (vs : List (Nat × List (Word × Bool))) (n l : Nat) : Option Word :=
  match lines.zipIdx.find? (fun p => decide (p.1 = n)), vs.find? (fun v => decide (v.1 = l)) with
  | some (_, i), some (_, ws) => some (ws.getD i (0, false)).1
  | _, _ => none

/-! ### Control flow -/

/-- The words `ws`, fetched one after the other from body word `n` of the clause at `hdr` on, leave the state `u` (02 R40, R42). -/
def State.wordsAt (s : State) (g : Grp) (hdr : Dword) (n : Nat) (ws : List Word) (u : State) : Prop :=
  match ws with
  | [] => u = s
  | w :: r => ∃ t, s.fetchWord g (wordAddr hdr n) = .ok (w, t) ∧ t.wordsAt g hdr (n + 1) r u

/-- `u` is `s` but for its translation caches and for the count of free values: what a fetch may change (02 R40, R41; 17 R362). -/
def State.fetched (s u : State) : Prop :=
  u = { s with cores := u.cores, dies := u.dies, freeCtr := u.freeCtr }
    ∧ (∀ n, ∃ x, u.coreAt n = { s.coreAt n with tlb := x }) ∧ (∀ n, ∃ x, u.dieAt n = { s.dieAt n with flat := x })

/-- The word at `a` is a clause header, and its fetch leaves the state `u`: the target passes the test of 02 R46. -/
def State.leadsTo (s u : State) (g : Grp) (a : Dword) : Prop := ∃ w, s.fetchWord g a = .ok (w, u) ∧ wordClass w = .header

/-- A 64-bit address that is a multiple of 4 in canonical form (02 R46). -/
def farOk (a : Dword) : Prop := a.extractLsb' 0 2 = 0#2 ∧ canonical a = true

/-- What an instruction whose one target is `a` raises where the target fails its test, with nothing of its own changed (02 R46, R59): BADTARGET where
the word there is no header, and the fault of its fetch. -/
def TargetTraps (i : Instr) (s : State) (g : Grp) (a : Dword) : Prop :=
  (∀ w u, s.fetchWord g a = .ok (w, u) → wordClass w ≠ .header → exec i s = .next (u.trapHere 0x03 0)) ∧
  (∀ e, s.fetchWord g a = .error e → exec i s = .next ((s.useFree e.tr.drew).trapFetch e s.iss.pc a s.iss.opcode))

end Sys2Proof.Machine
end

