-- ==== Sys2Proof/Certificates/Slice0/LaneRules.lean ====
section
/-! DEFINITION. What the spec's tables say of each lane, compare and scalar instruction: which lanes are active, which register is
written, and its new value. The claims hold the machine's meanings against these rows. -/
namespace Sys2Proof.Machine

/-- An instruction that writes one vector register: the active lanes whose operands are read, the written lanes, the register, and the
new word of a lane. -/
structure LaneRule where
  act : Grp → Frag → BitVec 32
  mask : Grp → Frag → BitVec 32
  d : Nat
  r : State → Grp → Frag → Nat → Word

/-- An integer or packed operation of three operands on a lane (04 R93). -/
def ruleV3 (x : V3) (f32 : Bool) (fn : Word → Word → Word → Word) : LaneRule :=
  ⟨fun g f => f.mask &&& g.pred x.g.toNat, fun g f => f.mask &&& g.pred x.g.toNat, x.d.toNat,
   fun _ g _ l => fn (g.opA x.pf x.a l) (g.opB x.pf x.b f32 l) (g.vreg x.d.toNat l)⟩

/-- An operation of one operand on a lane (04 R93). -/
def ruleV2 (x : V2) (fn : Word → Word) : LaneRule :=
  ⟨fun g f => f.mask &&& g.pred x.g.toNat, fun g f => f.mask &&& g.pred x.g.toNat, x.d.toNat, fun _ g _ l => fn (g.opA x.pf x.a l)⟩

/-- Byte `i` of a word, as a natural number. -/
def byteNat (a : Word) (i : Nat) : Nat := a.toNat / 256 ^ i % 256

/-- Byte `i` of a word, as a signed number. -/
def byteInt (a : Word) (i : Nat) : Int := if byteNat a i < 128 then (byteNat a i : Int) else (byteNat a i : Int) - 256

/-- A number clamped to the signed 32-bit range (04 R99). -/
def clamp32 (x : Int) : Word := BitVec.ofInt 32 (max (-2147483648) (min 2147483647 x))

/-- Position and length of IBFX, UBFX and IBFI (04 R98): bits [7:0] and [15:8] of b, the length at most 32. -/
def bfPos (b : Word) : Nat := b.toNat % 256
def bfLen (b : Word) : Nat := min (b.toNat / 256 % 256) 32

/-- The integer instructions of 04 R97 to R99 that write one register, as arithmetic on numbers. -/
def intRule (i : Instr) : Option LaneRule :=
  match i with
  | .iadd x => some (ruleV3 x false (fun a b _ => BitVec.ofNat 32 (a.toNat + b.toNat)))
  | .isub x => some (ruleV3 x false (fun a b _ => BitVec.ofInt 32 (a.toInt - b.toInt)))
  | .imul x => some (ruleV3 x false (fun a b _ => BitVec.ofNat 32 (a.toNat * b.toNat)))
  | .imulh x => some (ruleV3 x false (fun a b _ => BitVec.ofInt 32 (a.toInt * b.toInt / 4294967296)))
  | .imulhu x => some (ruleV3 x false (fun a b _ => BitVec.ofNat 32 (a.toNat * b.toNat / 4294967296)))
  | .imad x => some (ruleV3 x false (fun a b d => BitVec.ofNat 32 (a.toNat * b.toNat + d.toNat)))
  | .imin x => some (ruleV3 x false (fun a b _ => BitVec.ofInt 32 (min a.toInt b.toInt)))
  | .imax x => some (ruleV3 x false (fun a b _ => BitVec.ofInt 32 (max a.toInt b.toInt)))
  | .umin x => some (ruleV3 x false (fun a b _ => BitVec.ofNat 32 (min a.toNat b.toNat)))
  | .umax x => some (ruleV3 x false (fun a b _ => BitVec.ofNat 32 (max a.toNat b.toNat)))
  | .iabs x => some (ruleV2 x (fun a => BitVec.ofNat 32 a.toInt.natAbs))
  | .ineg x => some (ruleV2 x (fun a => BitVec.ofInt 32 (-a.toInt)))
  | .iand x => some (ruleV3 x false (fun a b _ => a &&& b))
  | .ior x => some (ruleV3 x false (fun a b _ => a ||| b))
  | .ixor x => some (ruleV3 x false (fun a b _ => a ^^^ b))
  | .inot x => some (ruleV2 x (fun a => BitVec.ofNat 32 (4294967295 - a.toNat)))
  | .ishl x => some (ruleV3 x false (fun a b _ => if b.toNat < 32 then BitVec.ofNat 32 (a.toNat * 2 ^ b.toNat) else 0))
  | .ishr x => some (ruleV3 x false (fun a b _ => if b.toNat < 32 then BitVec.ofNat 32 (a.toNat / 2 ^ b.toNat) else 0))
  | .isra x => some (ruleV3 x false (fun a b _ => BitVec.ofInt 32 (a.toInt / 2 ^ min b.toNat 31)))
  | .irot x => some (ruleV3 x false (fun a b _ => BitVec.ofNat 32 (a.toNat * 2 ^ (b.toNat % 32) + a.toNat / 2 ^ (32 - b.toNat % 32))))
  | .iclz x => some (ruleV2 x (fun a => BitVec.ofNat 32 (if a = 0 then 32 else 31 - a.toNat.log2)))
  | .ipopc x => some (ruleV2 x (fun a => BitVec.ofNat 32 ((List.range 32).map (fun k => a.toNat / 2 ^ k % 2)).sum))
  | .ibrev x => some (ruleV2 x (fun a => a.reverse))
  | .ibfx x => some (ruleV3 x false (fun a b _ => BitVec.ofInt 32 (Int.bmod (a.toInt / 2 ^ bfPos b) (2 ^ bfLen b))))
  | .ubfx x => some (ruleV3 x false (fun a b _ => BitVec.ofNat 32 (a.toNat / 2 ^ bfPos b % 2 ^ bfLen b)))
  | .ibfi x => some (ruleV3 x false (fun a b d =>
      let m : Word := BitVec.ofNat 32 ((2 ^ bfLen b - 1) * 2 ^ bfPos b)
      (d &&& ~~~m) ||| (BitVec.ofNat 32 (a.toNat * 2 ^ bfPos b) &&& m)))
  | .idot4 x => some (ruleV3 x false (fun a b d => BitVec.ofInt 32 (d.toInt + byteInt a 0 * byteInt b 0 + byteInt a 1 * byteInt b 1
      + byteInt a 2 * byteInt b 2 + byteInt a 3 * byteInt b 3)))
  | .isad x => some (ruleV3 x false (fun a b d => BitVec.ofNat 32 (d.toNat
      + ((byteNat a 0 : Int) - byteNat b 0).natAbs + ((byteNat a 1 : Int) - byteNat b 1).natAbs
      + ((byteNat a 2 : Int) - byteNat b 2).natAbs + ((byteNat a 3 : Int) - byteNat b 3).natAbs)))
  | .iaddsat x => some (ruleV3 x false (fun a b _ => clamp32 (a.toInt + b.toInt)))
  | .isubsat x => some (ruleV3 x false (fun a b _ => clamp32 (a.toInt - b.toInt)))
  | _ => none

/-- A binary operation on values, rounded once into F32 (04 R100). -/
def f32Rule (x : V3) (fn : FpMod → Fv → Fv → Fv → Fv) : LaneRule :=
  ruleV3 x true (fun a b d =>
    let o := fpMod x.pf
    BitVec.ofNat 32 (Ff.f32.round o (fn o (Ff.f32.opnd o a.toNat) (Ff.f32.opnd o b.toNat) (Ff.f32.opnd o d.toNat))))

/-- An operation that passes one of its operands on, with its sign changed or not (04 R101, R102). -/
def f32Pass (x : V2) (fn : Rm → Fv → Fv) : LaneRule :=
  ruleV2 x (fun a =>
    let o := fpMod x.pf
    BitVec.ofNat 32 (Ff.f32.pass o (fn o.rm (Ff.f32.opnd o a.toNat))))

/-- A packed operation: each half by itself, as a pattern of its format (04 R105). -/
def halves (x : V3) (fn : FpMod → Nat → Nat → Nat → Nat) : LaneRule :=
  ruleV3 x false (fun a b d =>
    let o := fpMod x.pf
    BitVec.ofNat 16 (fn o (a.toNat / 65536) (b.toNat / 65536) (d.toNat / 65536))
      ++ BitVec.ofNat 16 (fn o (a.toNat % 65536) (b.toNat % 65536) (d.toNat % 65536)))

/-- One element of PACK (04 R108): byte `n` of D:A, or zero. -/
def packByte (a b d : Word) (i : Nat) : BitVec 8 :=
  let n := b.toNat / 16 ^ i % 16
  if n < 4 then BitVec.ofNat 8 (byteNat a n) else if n < 8 then BitVec.ofNat 8 (byteNat d (n - 4)) else 0

/-- The floating-point, conversion and packing instructions of 04 R100 to R108 that write one register. -/
def floatRule (i : Instr) : Option LaneRule :=
  match i with
  | .fadd x => some (f32Rule x (fun o a b _ => Fv.add o.rm a b))
  | .fsub x => some (f32Rule x (fun o a b _ => Fv.add o.rm a b.neg))
  | .fmul x => some (f32Rule x (fun _ a b _ => Fv.mul a b))
  | .ffma x => some (f32Rule x (fun o a b d => Fv.add o.rm (Fv.mul a b) d))
  | .fmin x => some (ruleV3 x true (fun a b _ => let o := fpMod x.pf
      BitVec.ofNat 32 (Ff.f32.pass o (Fv.minMax false (Ff.f32.opnd o a.toNat) (Ff.f32.opnd o b.toNat)))))
  | .fmax x => some (ruleV3 x true (fun a b _ => let o := fpMod x.pf
      BitVec.ofNat 32 (Ff.f32.pass o (Fv.minMax true (Ff.f32.opnd o a.toNat) (Ff.f32.opnd o b.toNat)))))
  | .fabs x => some (f32Pass x (fun _ a => a.abs))
  | .fneg x => some (f32Pass x (fun _ a => a.neg))
  | .ffloor x => some (f32Pass x (fun _ a => a.integral .rdn))
  | .fceil x => some (f32Pass x (fun _ a => a.integral .rup))
  | .ftrunc x => some (f32Pass x (fun _ a => a.integral .rtz))
  | .frint x => some (f32Pass x (fun m a => a.integral m))
  | .fclass x => some (ruleV2 x (fun a => BitVec.ofNat 32 (Ff.f32.classify (Ff.f32.opnd (fpMod x.pf) a.toNat))))
  | .fscale x => some (ruleV3 x false (fun a b _ => fScale (fpMod x.pf) a b))
  | .hadd2 x => some (halves x (fun o a b _ => Ff.h16.round o (Fv.add o.rm (Ff.h16.opnd o a) (Ff.h16.opnd o b))))
  | .hmul2 x => some (halves x (fun o a b _ => Ff.h16.round o (Fv.mul (Ff.h16.opnd o a) (Ff.h16.opnd o b))))
  | .hfma2 x => some (halves x (fun o a b d => Ff.h16.round o (Fv.add o.rm (Fv.mul (Ff.h16.opnd o a) (Ff.h16.opnd o b)) (Ff.h16.opnd o d))))
  | .hmin2 x => some (halves x (fun o a b _ => Ff.h16.pass o (Fv.minMax false (Ff.h16.opnd o a) (Ff.h16.opnd o b))))
  | .hmax2 x => some (halves x (fun o a b _ => Ff.h16.pass o (Fv.minMax true (Ff.h16.opnd o a) (Ff.h16.opnd o b))))
  | .badd2 x => some (halves x (fun o a b _ => Ff.b16.round o (Fv.add o.rm (Ff.b16.opnd o a) (Ff.b16.opnd o b))))
  | .bmul2 x => some (halves x (fun o a b _ => Ff.b16.round o (Fv.mul (Ff.b16.opnd o a) (Ff.b16.opnd o b))))
  | .bfma2 x => some (halves x (fun o a b d => Ff.b16.round o (Fv.add o.rm (Fv.mul (Ff.b16.opnd o a) (Ff.b16.opnd o b)) (Ff.b16.opnd o d))))
  | .bmin2 x => some (halves x (fun o a b _ => Ff.b16.pass o (Fv.minMax false (Ff.b16.opnd o a) (Ff.b16.opnd o b))))
  | .bmax2 x => some (halves x (fun o a b _ => Ff.b16.pass o (Fv.minMax true (Ff.b16.opnd o a) (Ff.b16.opnd o b))))
  | .pack x => some (ruleV3 x false (fun a b d => packByte a b d 3 ++ packByte a b d 2 ++ packByte a b d 1 ++ packByte a b d 0))
  | _ => none

/-- The lanes of `m` that lie in lane `l`'s segment of width `w` (04 R115). -/
def inSegment (m : BitVec 32) (w l k : Nat) : Bool := m.getLsbD k && decide (k / w = l / w)

/-- The moves and exchanges of 04 R112 to R117 and the per-lane form of RDSR (01 R29), which write one register. -/
def moveRule (i : Instr) : Option LaneRule :=
  match i with
  | .mov x => some ⟨fun g f => f.mask &&& g.pred x.g.toNat, fun g f => f.mask &&& g.pred x.g.toNat, x.d.toNat,
      fun _ g _ l => g.opB x.pf x.b false l⟩
  | .sel x => some ⟨fun _ f => f.mask, fun _ f => f.mask, x.d.toNat,
      fun _ g _ l => if (g.pred x.g.toNat).getLsbD l then g.opA x.pf x.a l else g.opB x.pf x.b false l⟩
  | .getl x => some ⟨fun g f => f.mask &&& g.pred x.g.toNat, fun g f => f.mask &&& g.pred x.g.toNat, x.d.toNat,
      fun _ g _ l => g.opA x.pf x.a ((g.opB x.pf x.b false l).toNat % 32)⟩
  | .setl x => some ⟨fun g f => f.mask &&& g.pred x.g.toNat,
      fun g f => maskWhere (fun n => g.gmask.getLsbD n && (setlSource g x (f.mask &&& g.pred x.g.toNat) n).isSome), x.d.toNat,
      fun _ g f n => match setlSource g x (f.mask &&& g.pred x.g.toNat) n with | some l => g.opA x.pf x.a l | none => 0⟩
  | .shfl x => some ⟨fun g f => f.mask &&& g.pred x.g.toNat, fun g f => f.mask &&& g.pred x.g.toNat, x.d.toNat,
      fun _ g f l =>
        let k := shflSource (laneMode x.pf) (laneSeg x.pf) l (g.opB x.pf x.b false l)
        if (f.mask &&& g.pred x.g.toNat).getLsbD k then g.opA x.pf x.a k else g.opA x.pf x.a l⟩
  | .vote x => some ⟨fun g f => f.mask &&& g.pred x.g.toNat, fun g f => f.mask &&& g.pred x.g.toNat, x.d.toNat,
      fun _ g f l =>
        let a := g.opA x.pf x.a
        let ls := (List.range 32).filter (inSegment (f.mask &&& g.pred x.g.toNat) (laneSeg x.pf) l)
        match laneMode x.pf with
        | 0 => if ∀ k ∈ ls, a k ≠ 0 then 1 else 0
        | 1 => if ∃ k ∈ ls, a k ≠ 0 then 1 else 0
        | 2 => maskWhere (fun k => inSegment (f.mask &&& g.pred x.g.toNat) (laneSeg x.pf) l k && decide (a k ≠ 0))
        | _ => if ∀ k ∈ ls, a k = a l then 1 else 0⟩
  | .p2v x => some ⟨fun g f => f.mask &&& g.pred x.g.toNat, fun g f => f.mask &&& g.pred x.g.toNat, x.d.toNat,
      fun _ g _ l => maskWhere (fun i => decide (i < 8) && (g.pred i).getLsbD l)⟩
  | _ => none

/-- An instruction that writes one scalar: its guard, the register and its new value (04 R119, R120). -/
structure ScalarRule where
  k : BitVec 3
  d : Nat
  r : Grp → Word

/-- A scalar operation of three operands (04 R119). -/
def ruleS3 (x : S3) (f32 : Bool) (fn : Word → Word → Word → Word) : ScalarRule :=
  ⟨x.k, x.d.toNat, fun g => fn (g.sclOpA x.pf x.a) (g.sclOpB x.pf x.b f32) (g.scalar x.d.toNat)⟩

/-- The scalar unit (04 R119, R120). -/
def scalarRule (i : Instr) : Option ScalarRule :=
  match i with
  | .sadd x => some (ruleS3 x false (fun a b _ => BitVec.ofNat 32 (a.toNat + b.toNat)))
  | .ssub x => some (ruleS3 x false (fun a b _ => BitVec.ofInt 32 (a.toInt - b.toInt)))
  | .smul x => some (ruleS3 x false (fun a b _ => BitVec.ofNat 32 (a.toNat * b.toNat)))
  | .smulh x => some (ruleS3 x false (fun a b _ => BitVec.ofInt 32 (a.toInt * b.toInt / 4294967296)))
  | .sand x => some (ruleS3 x false (fun a b _ => a &&& b))
  | .sor x => some (ruleS3 x false (fun a b _ => a ||| b))
  | .sxor x => some (ruleS3 x false (fun a b _ => a ^^^ b))
  | .sshl x => some (ruleS3 x false (fun a b _ => if b.toNat < 32 then BitVec.ofNat 32 (a.toNat * 2 ^ b.toNat) else 0))
  | .sshr x => some (ruleS3 x false (fun a b _ => if b.toNat < 32 then BitVec.ofNat 32 (a.toNat / 2 ^ b.toNat) else 0))
  | .ssra x => some (ruleS3 x false (fun a b _ => BitVec.ofInt 32 (a.toInt / 2 ^ min b.toNat 31)))
  | .smin x => some (ruleS3 x false (fun a b _ => BitVec.ofInt 32 (min a.toInt b.toInt)))
  | .smax x => some (ruleS3 x false (fun a b _ => BitVec.ofInt 32 (max a.toInt b.toInt)))
  | .sfadd x => some (ruleS3 x true (fun a b _ => let o := fpMod x.pf
      BitVec.ofNat 32 (Ff.f32.round o (Fv.add o.rm (Ff.f32.opnd o a.toNat) (Ff.f32.opnd o b.toNat)))))
  | .sfmul x => some (ruleS3 x true (fun a b _ => let o := fpMod x.pf
      BitVec.ofNat 32 (Ff.f32.round o (Fv.mul (Ff.f32.opnd o a.toNat) (Ff.f32.opnd o b.toNat)))))
  | .sffma x => some (ruleS3 x true (fun a b d => let o := fpMod x.pf
      BitVec.ofNat 32 (Ff.f32.round o (Fv.add o.rm (Fv.mul (Ff.f32.opnd o a.toNat) (Ff.f32.opnd o b.toNat)) (Ff.f32.opnd o d.toNat)))))
  | .smovw x => some ⟨x.k, x.d.toNat, fun g => g.scalar x.a.toNat⟩
  | _ => none

/-- The comparison of a lane compare (04 R109): its word and its result on operands A and B. -/
def compareRule (i : Instr) : Option (Cmp × Bool × (Word → Word → Bool)) :=
  let fl (x : Cmp) (c : Fv → Fv → Bool) : Option (Cmp × Bool × (Word → Word → Bool)) :=
    some (x, true, fun a b => c (Ff.f32.opnd (fpMod x.pf) a.toNat) (Ff.f32.opnd (fpMod x.pf) b.toNat))
  match i with
  | .icmpEq x => some (x, false, fun a b => decide (a.toNat = b.toNat))
  | .icmpNe x => some (x, false, fun a b => !decide (a.toNat = b.toNat))
  | .icmpLt x => some (x, false, fun a b => decide (a.toInt < b.toInt))
  | .icmpLe x => some (x, false, fun a b => !decide (b.toInt < a.toInt))
  | .icmpGt x => some (x, false, fun a b => decide (b.toInt < a.toInt))
  | .icmpGe x => some (x, false, fun a b => !decide (a.toInt < b.toInt))
  | .icmpLtu x => some (x, false, fun a b => decide (a.toNat < b.toNat))
  | .icmpLeu x => some (x, false, fun a b => !decide (b.toNat < a.toNat))
  | .icmpGtu x => some (x, false, fun a b => decide (b.toNat < a.toNat))
  | .icmpGeu x => some (x, false, fun a b => !decide (a.toNat < b.toNat))
  | .fcmpEq x => fl x (fun a b => !a.isNan && !b.isNan && decide (Fv.cmp a b = 0))
  | .fcmpNe x => fl x (fun a b => !(!a.isNan && !b.isNan && decide (Fv.cmp a b = 0)))
  | .fcmpLt x => fl x (fun a b => !a.isNan && !b.isNan && decide (Fv.cmp a b < 0))
  | .fcmpLe x => fl x (fun a b => !a.isNan && !b.isNan && decide (Fv.cmp a b ≤ 0))
  | .fcmpGt x => fl x (fun a b => !a.isNan && !b.isNan && decide (0 < Fv.cmp a b))
  | .fcmpGe x => fl x (fun a b => !a.isNan && !b.isNan && decide (0 ≤ Fv.cmp a b))
  | .fcmpUn x => fl x (fun a b => a.isNan || b.isNan)
  | .fcmpOr x => fl x (fun a b => !(a.isNan || b.isNan))
  | _ => none

/-- The comparison of a scalar compare (04 R110). -/
def scalarCompareRule (i : Instr) : Option (Cmp × (Word → Word → Bool)) :=
  match i with
  | .scmpEq x => some (x, fun a b => decide (a.toNat = b.toNat))
  | .scmpNe x => some (x, fun a b => !decide (a.toNat = b.toNat))
  | .scmpLt x => some (x, fun a b => decide (a.toInt < b.toInt))
  | .scmpLtu x => some (x, fun a b => decide (a.toNat < b.toNat))
  | _ => none

/-- The combining types of 02 R53 for one lane: the new bit of p1 (`first`) or p2, from whether the lane is active, the old bit and the
comparison. -/
def combined (ct : Nat) (first active old c : Bool) : Bool :=
  let v := if first then c else !c
  match ct, first with
  | 0, _ => if active then v else old
  | 1, _ => active && v
  | 2, _ => if active then old && v else old
  | 3, _ => if active then old || v else old
  | 4, true => if active then old && v else old
  | 4, false => if active then old || v else old
  | _, true => if active then old || v else old
  | _, false => if active then old && v else old

/-! ### REDUX, predicates and special registers -/

/-- The operation of a REDUX mode on two values, for the modes other than FADD (04 R118). -/
def reduxRule (mode : Nat) (a b : Word) : Word :=
  match mode with
  | 0 => BitVec.ofNat 32 (a.toNat + b.toNat)
  | 1 => BitVec.ofInt 32 (min a.toInt b.toInt)
  | 2 => BitVec.ofInt 32 (max a.toInt b.toInt)
  | 3 => BitVec.ofNat 32 (min a.toNat b.toNat)
  | 4 => BitVec.ofNat 32 (max a.toNat b.toNat)
  | 5 => a &&& b
  | _ => a ||| b

/-- The values of some lanes, combined from the lowest lane on. -/
def foldLanes (op : Word → Word → Word) (a : Nat → Word) (ls : List Nat) : Word :=
  match ls with
  | [] => 0
  | l :: r => r.foldl (fun w k => op w (a k)) (a l)

/-- The loop of 04 R118: the value of lane `l` after step `j`, a lane that is not active having none. -/
def pairTree (op : Word → Word → Word) (v : Nat → Option Word) (j l : Nat) : Option Word :=
  match j with
  | 0 => v l
  | k + 1 =>
    match pairTree op v k l, pairTree op v k (l + 2 ^ k) with
    | some x, some y => some (op x y)
    | some x, none => some x
    | none, some y => some y
    | none, none => none

/-- FADD of two F32 values under RNE without SAT and FTZ (04 R118). -/
def faddRne (a b : Word) : Word :=
  BitVec.ofNat 32 (Ff.f32.round ⟨.rne, false, false, false⟩ (Fv.add .rne (Ff.f32.value a.toNat) (Ff.f32.value b.toNat)))

/-- A write of special register `n`: the writable ones take the value and the others discard it (01 R27, R30). -/
def srWritten (g : Grp) (n : Nat) (v : Word) : Grp :=
  { g with
    cowcnt := if n = 0x012 then v else g.cowcnt
    parkcnt := if n = 0x014 then v else g.parkcnt
    tvec := if n = 0x100 then (g.tvec >>> 32).setWidth 32 ++ v else if n = 0x101 then v ++ g.tvec.setWidth 32 else g.tvec }

/-- Error feedback (04 R83): an element's width, its pattern and the residue, for CVTEF's formats. -/
def feedbackRule (i : Instr) : Option (V3 × EfFmt) :=
  match i with
  | .cvtefF8a x => some (x, .flt .f8a)
  | .cvtefF8b x => some (x, .flt .f8b)
  | .cvtefF4 x => some (x, .flt .f4)
  | .cvtefH16 x => some (x, .flt .h16)
  | .cvtefB16 x => some (x, .flt .b16)
  | .cvtefI8 x => some (x, .i8)
  | _ => none

end Sys2Proof.Machine
end

