-- ==== Sys2Proof/Certificates/Slice0/OpRules.lean ====
section
/-! DEFINITION. The operations that memory, sampler and special-function instructions leave outstanding, and the values of the special
functions: what the spec's tables say of each. The claims hold the machine's meanings against these rows. -/
namespace Sys2Proof.Machine

/-- An instruction that leaves an operation outstanding: its active lanes, its uniform guard (7: none), the operation's kind (05 R147), its base,
its captured operands, and the window address of the object that LDW names. -/
structure OpRule where
  act : Grp → Frag → BitVec 32
  k : Nat
  kind : Nat
  base : Grp → Dword
  slots : Grp → Frag → List (List Word)
  obj : Grp → Dword

/-- The 32 words of a captured register: zero in the lanes that are not active (05 R147). -/
def caught (m : BitVec 32) (w : Nat → Word) : List Word := (List.range 32).map (fun l => if m.getLsbD l then w l else 0)

/-- A captured scalar stands in lane 0 of its slot. -/
def caughtScalar (w : Word) : List Word := w :: List.replicate 31 0

/-- An M-format access (07 R176, R185): offsets from register a, the base as `base` gives it, and the data registers from d on. -/
def memRule (gd : BitVec 3) (a : BitVec 7) (data : List Nat) (base : Grp → Dword) : OpRule :=
  ⟨fun g f => f.mask &&& g.pred gd.toNat, 7, 0, base,
   fun g f => (a.toNat :: data).map (fun v => caught (f.mask &&& g.pred gd.toNat) (g.vreg v)), fun _ => 0⟩

/-- The base of a global access: the scalar pair b; of a window access: scalar b (02 R53). -/
def pairAt (b : BitVec 7) (g : Grp) : Dword := g.scalar (b.toNat + 1) ++ g.scalar b.toNat
def windowAt (b : BitVec 7) (g : Grp) : Dword := (g.scalar b.toNat).setWidth 64

/-- A scalar access (07 R187, R193): its address pair, its offset, and s[d] where it is read. -/
def scalarMemRule (x : S3) (readsD : Bool) : OpRule :=
  ⟨fun g f => if g.upred x.k.toNat then f.mask else 0, x.k.toNat, 2, fun _ => 0,
   fun g _ => [caughtScalar (g.scalar (sclA x.pf x.a.toNat)), caughtScalar (g.scalar (sclA x.pf x.a.toNat + 1)),
     caughtScalar (g.sclOpB x.pf x.b false)] ++ (if readsD then [caughtScalar (g.scalar x.d.toNat)] else []), fun _ => 0⟩

/-- A sampler access (07 R204): four coordinate registers, and the address of its block. -/
def texRule (x : Tx) : OpRule :=
  ⟨fun g f => if g.upred x.k.toNat then f.mask else 0, x.k.toNat, 0, fun g => g.scalar (x.n.toNat + 1) ++ g.scalar x.n.toNat,
   fun g f => [0, 1, 2, 3].map (fun i => caught f.mask (g.vreg (x.y.toNat + i))), fun _ => 0⟩

/-- The special functions and FSQRT (04 R100, R104): a unary operation on A; all but FSQRT round to nearest even (R77). -/
def sfuRule (i : Instr) : Option (V2 × (FpMod → Fv → Fv) × Bool) :=
  match i with
  | .frcp x => some (x, fun _ => sfValue .rcp, true)
  | .frsq x => some (x, fun _ => sfValue .rsq, true)
  | .fsqrt x => some (x, fun _ => Fv.sqrt, false)
  | .fex2 x => some (x, fun _ => sfValue .ex2, true)
  | .flg2 x => some (x, fun _ => sfValue .lg2, true)
  | .fsin x => some (x, fun _ => sfValue .sin, true)
  | .fcos x => some (x, fun _ => sfValue .cos, true)
  | .ftanh x => some (x, fun _ => sfValue .tanh, true)
  | _ => none

/-- The memory, sampler and special-function instructions that leave an operation outstanding at their issue. -/
def opRule (i : Instr) : Option OpRule :=
  match i with
  | .ldW x | .ldD x | .ldQ x | .ldN x => some (memRule x.g x.a [] (pairAt x.b))
  | .stW x | .stN x => some (memRule x.g x.a [x.d.toNat] (pairAt x.b))
  | .stD x => some (memRule x.g x.a [x.d.toNat, x.d.toNat + 1] (pairAt x.b))
  | .stQ x => some (memRule x.g x.a [x.d.toNat, x.d.toNat + 1, x.d.toNat + 2, x.d.toNat + 3] (pairAt x.b))
  | .ldl x => some (memRule x.g x.a [] (windowAt x.b))
  | .stl x => some (memRule x.g x.a [x.d.toNat] (windowAt x.b))
  | .ldw x => some { memRule x.g x.a [x.d.toNat] (pairAt x.b) with obj := fun g => (g.scalar (x.b.toNat + 2)).setWidth 64 }
  | .ldk x => some { memRule x.g 0 [] (fun _ => 0) with slots := fun _ _ => [] }
  | .stk x => some { memRule x.g 0 [] (fun _ => 0) with slots := fun g f => [caught (f.mask &&& g.pred x.g.toNat) (g.vreg x.d.toNat)] }
  | .sld x => some (scalarMemRule x false)
  | .sst x | .satom x => some (scalarMemRule x true)
  | .pref x | .cwb x | .cinv x | .cinvP x => some (memRule x.g x.a [] (pairAt x.b))
  | .atom x | .atomr x => some (memRule x.g x.a [x.d.toNat] (pairAt x.b))
  | .atoml x => some (memRule x.g x.a [x.d.toNat] (windowAt x.b))
  | .cas x => some (memRule x.g x.a [x.d.toNat, x.d.toNat + 1] (pairAt x.b))
  | .casl x => some (memRule x.g x.a [x.d.toNat, x.d.toNat + 1] (windowAt x.b))
  | .tex x | .tld x => some (texRule x)
  | .frcp x | .frsq x | .fsqrt x | .fex2 x | .flg2 x | .fsin x | .fcos x | .ftanh x =>
    some ⟨fun g f => f.mask &&& g.pred x.g.toNat, 7, 0, fun _ => 0,
      fun g f => [caught (f.mask &&& g.pred x.g.toNat) (g.opA x.pf x.a)], fun _ => 0⟩
  | _ => none

/-- A matrix instruction that goes straight to the unit (08 R217): its guard, the window operands that R215 tests, and what is captured at issue. -/
structure MatrixRule where
  k : BitVec 3
  us : Grp → List WinUse
  slots : Grp → List (List Word)

/-- The direct matrix instructions but MMAS (08 R220, R228, R229). -/
def matrixRule (i : Instr) : Option MatrixRule :=
  match i with
  | .mma x => some ⟨x.k, fun g => winUses g x.y false 1 .read ++ winUses g x.z false 1 .read, fun g => [captureDesc g x.y, captureDesc g x.z]⟩
  | .mzero x => some ⟨x.k, fun _ => [], fun _ => []⟩
  | .mldt x => some ⟨x.k, fun g => winUses g x.y false 1 .read, fun g => [captureDesc g x.y]⟩
  | .mstt x => some ⟨x.k, fun g => winUses g x.y false 1 .write, fun g => [captureDesc g x.y]⟩
  | .scalc x => some ⟨x.k, fun _ => [], fun g => [(List.range 32).map (g.vreg x.z.toNat)]⟩
  | .mtrn x => some ⟨x.k, fun _ => [], fun _ => []⟩
  | _ => none

/-- Window operands that pass the checks of 08 R215: legal descriptors, aligned, every piece mapped. -/
def windowsOk (s : State) (g : Grp) (us : List WinUse) : Prop :=
  ∀ u, u ∈ us → u.w.illegal u.comp = false ∧ u.w.base.toNat % 16 = 0 ∧ s.stepsUnmapped g u 0 u.steps = none

/-- The window address of a sparse operand's header: the base that its descriptor's first scalar holds (08 R215, R221). -/
def sparseBase (g : Grp) (sel : BitVec 7) : Word := g.scalar (2 * (sel.toNat - 0x40))

/-- A new matrix operation of a group (08 R217; 05 R147). -/
def matrixBegins (i : Instr) (g : Grp) (f : Frag) (slots : List (List Word)) (k h : Grp) : Prop :=
  ∃ o, k.opBegins h o ∧ o.instr = i ∧ o.kind = 2 ∧ o.m = f.mask ∧ o.slots = slots ∧ (o.reads, o.lines) = matrixOperands g i ∧ o.view = g.view
    ∧ o.flag = flagOf (flagClass i) f.pos.setA f.pos.setB

/-- `t` is `s` but for core `c`, which is `k`. -/
def coreBecomes (s t : State) (c : Nat) (k : Core) : Prop :=
  t = { s with cores := t.cores } ∧ t.coreAt c = k ∧ ∀ d, d ≠ c → t.coreAt d = s.coreAt d

/-- Fragments placed one after the other (01 R18), then all of them, with those at `ps`, enter their headers (05 R128). -/
def partsPlaced (g : Grp) (ps : List Place) (fs : List Frag) : Grp :=
  match fs with
  | [] => ps.foldl (fun h p => h.enterAt p) g
  | f :: r => partsPlaced (g.place f).2 (ps ++ [(g.place f).1]) r

/-- Command `i` is `c`, of the code, and may execute now (21 R417, R418). -/
def State.cmdIs (s : State) (i : Nat) (c : Cmd) (code : Nat) : Prop := Tab.find s.cmds i = some c ∧ c.code = code ∧ s.cmdReady c = true

/-- What FREEZE at level `t` tests (10 R252, R253): a fragment that stands alone in its group, none of whose accesses, numbers or bodies is open, of a launch
with that template level, at its place in the prologue, not frozen at that level before, outside a handler. -/
def Freezes (s : State) (g : Grp) (f : Frag) (l : Launch) (t : Bool) : Prop :=
  Tab.find s.launches g.launch = some l ∧ g.inHandler = false ∧ g.f1 = none ∧ g.split = [] ∧ f.mask = g.gmask ∧ g.drained = true ∧ g.inBody = false
    ∧ (∀ i, i < 5 → (g.tlLast i).toNat ≤ (g.tlDone i).toNat) ∧ g.froze.2 = false ∧ (g.overs = true → l.r.tG = true → l.r.tT = false)
    ∧ (if t then l.r.tT = true ∧ g.idx = 0 else l.r.tG = true ∧ g.team = 0 ∧ g.froze.1 = false)

/-- What CAPB tests of the group and of its record at `pa` (14 R327, R331): no capsule, one fragment, a valid record without FAIL, and no poison in a word that it
reads (14 R339). -/
def CapbFits (v : State) (g : Grp) (pa : Nat) : Prop :=
  v.capbPoison g pa = false ∧ g.cap.st = .idle ∧ g.f1 = none ∧ g.split = [] ∧ v.capValid pa = true ∧ lwFail (v.lock pa) = false ∧ pa % 256 = 0

end Sys2Proof.Machine
end

