-- ==== Sys2Proof/Certificates/Slice0/Obligations.lean ====
section
/-! DEFINITION. The claims about the model. -/
open Sys2Proof Sys2Proof.Machine

/-! ### Lane, compare and scalar instructions -/

/-- The integer instructions of 04 R97 to R99 that write one register: each completes, with its result in the lanes of M (04 R93), every other
word of the register space and the rest of the machine as before.
The floating-point and packing instructions of 04 R100 to R105 and R108 that write one register.
MOV, SEL, GETL, SETL, SHFL, VOTE and P2V (04 R112 to R117). A SETL of a line that a direct matrix instruction uses goes on with its result held, as an outstanding
operation (08 R219). -/
def Obligations.LaneResults : Prop :=
  (∀ (i : Instr) (u : LaneRule) (s : State) (g : Grp) (f : Frag), intRule i = some u → Issues i (u.act g f) s g f →
    Completes i s g (fun g h => g.writesV h u.d (u.mask g f) (u.r s g f))) ∧
  (∀ (i : Instr) (u : LaneRule) (s : State) (g : Grp) (f : Frag), floatRule i = some u → Issues i (u.act g f) s g f →
    Completes i s g (fun g h => g.writesV h u.d (u.mask g f) (u.r s g f))) ∧
  (∀ (i : Instr) (u : LaneRule) (s : State) (g : Grp) (f : Frag), moveRule i = some u → Issues i (u.act g f) s g f →
    ((∃ x, i = .setl x) → g.canLand [g.vline u.d] = true) → Completes i s g (fun g h => g.writesV h u.d (u.mask g f) (u.r s g f))) ∧
  (∀ (x : V3) (u : LaneRule) (s : State) (g : Grp) (f : Frag), moveRule (.setl x) = some u → Issues (.setl x) (u.act g f) s g f →
    g.canLand [g.vline u.d] = false → Completes (.setl x) s g (fun g h =>
      ∃ o, g.opBegins h o ∧ o.instr = .setl x ∧ o.m = u.mask g f ∧ o.lines = [g.vline u.d] ∧ o.slots = [caught (u.mask g f) (u.r s g f)]))

/-- REDUX (04 R118): a lane of M gets its segment's lanes of M, combined; FADD goes by the tree, and the order of the others does not
matter.
IADDW and IMADW write a pair: a 64-bit sum, and a signed product added to the old pair, modulo 2^64 (04 R99; 00 R5).
CVT (04 R106): the converted element stands at the bottom of the destination, and the rest of it is zero; an I64 destination is a pair.
CVTEF (04 R83, R107): the destination shifts right by the element's width with the new element at its top, and the residue register
takes the residue; both from the operands as they stood. -/
def Obligations.WideAndReducedResults : Prop :=
  (∀ (x : V2) (s : State) (g : Grp) (f : Frag), Issues (.redux x) (f.mask &&& g.pred x.g.toNat) s g f →
    Completes (.redux x) s g (fun g h => g.writesV h x.d.toNat (f.mask &&& g.pred x.g.toNat) (fun l =>
      let m := f.mask &&& g.pred x.g.toNat
      let w := laneSeg x.pf
      if laneMode x.pf = 7 then
        (pairTree faddRne (fun k => if m.getLsbD k then some (g.opA x.pf x.a k) else none) w.log2 (l - l % w)).getD 0
      else foldLanes (reduxRule (laneMode x.pf)) (g.opA x.pf x.a) ((List.range 32).filter (inSegment m w l))))) ∧
  ((∀ (x : V3) (s : State) (g : Grp) (f : Frag), Issues (.iaddw x) (f.mask &&& g.pred x.g.toNat) s g f →
    Completes (.iaddw x) s g (fun g h => g.writesVPair h x.d.toNat (f.mask &&& g.pred x.g.toNat) (fun l =>
      BitVec.ofNat 64 ((g.opA64 x.pf x.a l).toNat + (g.opB64 x.pf x.b l).toNat)))) ∧
  (∀ (x : V3) (s : State) (g : Grp) (f : Frag), Issues (.imadw x) (f.mask &&& g.pred x.g.toNat) s g f →
    Completes (.imadw x) s g (fun g h => g.writesVPair h x.d.toNat (f.mask &&& g.pred x.g.toNat) (fun l =>
      BitVec.ofInt 64 ((g.opA x.pf x.a l).toInt * (g.opB x.pf x.b false l).toInt
        + ((g.vreg (x.d.toNat + 1) l).toNat * 2 ^ 32 + (g.vreg x.d.toNat l).toNat : Nat)))))) ∧
  (∀ (x : Cvt) (s : State) (g : Grp) (f : Frag), Issues (.cvt x) (f.mask &&& g.pred x.g.toNat) s g f →
    Completes (.cvt x) s g (fun g h =>
      let r (l : Nat) : Dword := convert (cvSrc x.s) (cvDst x.f) (fpMod x.pf) (g.opA x.pf x.a l)
      if cvDst x.f = .int 64 then g.writesVPair h x.d.toNat (f.mask &&& g.pred x.g.toNat) r
      else g.writesV h x.d.toNat (f.mask &&& g.pred x.g.toNat) (fun l => (r l).setWidth 32))) ∧
  (∀ (i : Instr) (x : V3) (e : EfFmt) (s : State) (g : Grp) (f : Frag), feedbackRule i = some (x, e) →
    Issues i (f.mask &&& g.pred x.g.toNat) s g f →
    Completes i s g (fun g h => g.onlyLines h ∧ ∀ n l, l < 32 → h.word n l =
      let r := errorFeedback e (fpMod x.pf) (g.opA x.pf x.a l) (g.vreg x.b.toNat l)
      let m := (f.mask &&& g.pred x.g.toNat).getLsbD l
      if n = g.vline x.b.toNat ∧ m = true then r.2
      else if n = g.vline x.d.toNat ∧ m = true then
        BitVec.ofNat 32 (r.1 % 2 ^ e.bits * 2 ^ (32 - e.bits) + (g.vreg x.d.toNat l).toNat / 2 ^ e.bits)
      else g.word n l))

/-- ICMP and FCMP (04 R109; 02 R53): the two predicates by the combining type, p2 after p1, from the values before; p7 stays ones.
SCMP (04 R110; 02 R53): once, whatever the mask, on uniform predicates.
The scalar unit and SMOVW (04 R119, R120): one scalar, once, if the uniform guard holds; nothing otherwise.
PLOP and V2P (04 R111, R112): predicates by a table of three predicates, and from the bits of a register; p7 and the lanes not written
stay.
RDSR, WRSR and RDTIME (01 R27 to R30; 04 R121). A scalar form of RDSR reads for the lowest active lane; .W moves a pair. -/
def Obligations.ComparesAndScalars : Prop :=
  (∀ (i : Instr) (x : Cmp) (b : Bool) (c : Word → Word → Bool) (s : State) (g : Grp) (f : Frag),
    compareRule i = some (x, b, c) → Issues i f.mask s g f →
    Completes i s g (fun g h => h = { g with p := h.p } ∧ ∀ n l, l < 32 → (h.pred n).getLsbD l =
      let r := c (g.opA x.pf x.a l) (g.opB x.pf x.b b l)
      if n = 7 then true
      else if n = x.q.toNat then combined x.c.toNat false (f.mask.getLsbD l) ((g.pred n).getLsbD l) r
      else if n = x.p.toNat then combined x.c.toNat true (f.mask.getLsbD l) ((g.pred n).getLsbD l) r
      else (g.pred n).getLsbD l)) ∧
  (∀ (i : Instr) (x : Cmp) (c : Word → Word → Bool) (s : State) (g : Grp) (f : Frag),
    scalarCompareRule i = some (x, c) → Issues i f.mask s g f →
    Completes i s g (fun g h => h = { g with k := h.k } ∧ ∀ n, n < 8 → h.upred n =
      let r := c (g.sclOpA x.pf x.a) (g.sclOpB x.pf x.b false)
      if n = 7 then true
      else if n = x.q.toNat then combined x.c.toNat false true (g.upred n) r
      else if n = x.p.toNat then combined x.c.toNat true true (g.upred n) r
      else g.upred n)) ∧
  (∀ (i : Instr) (u : ScalarRule) (s : State) (g : Grp) (f : Frag), scalarRule i = some u → Issues i (g.guarded f u.k) s g f →
    Completes i s g (fun g h => if g.upred u.k.toNat then g.writesS h u.d (u.r g) else h = g)) ∧
  ((∀ (x : Plop) (s : State) (g : Grp) (f : Frag), Issues (.plop x) (f.mask &&& g.pred x.g.toNat) s g f →
    Completes (.plop x) s g (fun g h => h = { g with p := h.p } ∧ ∀ n l, l < 32 → (h.pred n).getLsbD l =
      let bit (p : BitVec 3) : Nat := if (g.pred p.toNat).getLsbD l then 1 else 0
      if n ≠ 7 ∧ n = x.p.toNat ∧ (f.mask &&& g.pred x.g.toNat).getLsbD l = true then x.l.getLsbD (4 * bit x.a + 2 * bit x.b + bit x.c)
      else (g.pred n).getLsbD l)) ∧
  (∀ (x : Src) (s : State) (g : Grp) (f : Frag), Issues (.v2p x) (f.mask &&& g.pred x.g.toNat) s g f →
    Completes (.v2p x) s g (fun g h => h = { g with p := h.p } ∧ ∀ n l, l < 32 → (h.pred n).getLsbD l =
      if n < 7 ∧ (f.mask &&& g.pred x.g.toNat).getLsbD l = true ∧ (g.opB x.pf x.b false l).getLsbD n = true then
        (g.opA x.pf x.a l).getLsbD n
      else (g.pred n).getLsbD l))) ∧
  ((∀ (x : RdSr) (s : State) (g : Grp) (f : Frag), Issues (.rdsr x) f.mask s g f →
    Completes (.rdsr x) s g (fun g h =>
      let v (n l : Nat) : Word := s.sr g f s.iss.slot n l
      if x.e = 1#1 then
        g.onlyScalars h ∧ ∀ k, h.scalar k =
          if x.w = 1#1 ∧ k = x.d.toNat + 1 then v (x.n.toNat + 1) (lowestLane f.mask)
          else if k = x.d.toNat then v x.n.toNat (lowestLane f.mask) else g.scalar k
      else g.writesV h x.d.toNat (f.mask &&& g.pred x.g.toNat) (v x.n.toNat))) ∧
  (∀ (x : WrSr) (s : State) (g : Grp) (f : Frag), Issues (.wrsr x) f.mask s g f →
    Completes (.wrsr x) s g (fun g h =>
      let t := srWritten g x.n.toNat (g.scalar x.d.toNat)
      h = if x.w = 1#1 then srWritten t (x.n.toNat + 1) (g.scalar (x.d.toNat + 1)) else t)) ∧
  (∀ (x : Sd) (s : State) (g : Grp) (f : Frag), Issues (.rdtime x) (g.guarded f x.k) s g f →
    Completes (.rdtime x) s g (fun g h =>
      let t := s.clockOf g.core % 2 ^ 64
      if g.upred x.k.toNat then
        g.onlyScalars h ∧ ∀ n, h.scalar n =
          if n = x.d.toNat + 1 then BitVec.ofNat 32 (t / 2 ^ 32)
          else if n = x.d.toNat then BitVec.ofNat 32 t else g.scalar n
      else h = g)))

/-! ### Memory, sampler and special-function instructions -/

/-- The issue of a load, store, atomic, prefetch, maintenance, sampler or special-function instruction (01 R23, R24; 02 R57, R58; 05 R141, R147;
07 R176, R183): its operands are captured, and one operation is outstanding, short of its fault point. No register and no byte of memory
changes. LDK and STK need a stack region (07 R190). -/
def Obligations.AccessIssue : Prop :=
  ∀ (i : Instr) (u : OpRule) (s : State) (g : Grp) (f : Frag), opRule i = some u → Issues i (u.act g f) s g f →
    ((∃ x, i = .ldk x ∨ i = .stk x) → (s.ctxAt g.ctx).stackBase ≠ 0) →
    Completes i s g (fun g h => if g.upred u.k then
      ∃ o, g.opBegins h o ∧ o.instr = i ∧ o.words = s.iss.words ∧ o.pc = s.iss.pc ∧ o.slot = s.iss.slot ∧ o.kind = u.kind
        ∧ o.m = u.act g f ∧ o.todo = o.m ∧ o.passed = false ∧ o.flag = flagOf (flagClass i) f.pos.setA f.pos.setB ∧ o.path = pathOf i
        ∧ o.base = u.base g ∧ o.slots = u.slots g f ∧ o.n = u.obj g ∧ o.lines = g.vlines (instrUses i).vw ∧ o.rel = releases i
        ∧ o.ord = g.opNext ∧ o.body = (g.inBody && !g.inHandler) ∧ o.fm = f.mask ∧ o.after = (if isAccess i then g.fusedBefore f.mask else [])
      else h = g)

/-- A special function completes lanes (04 R104; 03 R77, R85, R86): its line gets the rounded value of the captured operand in them; with the last owed lane
the operation is no longer outstanding.
A lane of an LDW lands (07 R189): its 16 bytes come into the window, 16 bytes are counted at the object; the last lane ends the operation.
A sampler operation completes lanes (07 R204 to R207): their four words land in its destination.
That lanes complete in any order and any number at a time, is the model's reading (log 58). -/
def Obligations.UnitCompletions : Prop :=
  (∀ (s : State) (gid n : Nat) (m : BitVec 32) (g : Grp) (o : Op) (x : V2) (fn : FpMod → Fv → Fv) (rne : Bool),
    s.hasOp gid n g o → sfuRule o.instr = some (x, fn, rne) → g.canLand o.lines = true → g.raised = [] → (o.owed &&& m ≠ 0 ∨ o.owed = 0) →
    ∃ t k, exec (.sfuCompletion gid ⟨n, m⟩) s = .next t ∧ s.lanesEnd t gid n o (o.owed &&& m) k
      ∧ g.landed k (fun ln l => if ln = o.lines.headD 0 ∧ (o.owed &&& m).getLsbD l = true then
          let c := fpMod x.pf
          some (BitVec.ofNat 32 (Ff.f32.round (if rne then { c with rm := .rne } else c) (fn c (Ff.f32.opnd c (o.slotAt 0 l).toNat))))
        else none)) ∧
  (∀ (s : State) (gid n lane c k c2 k2 l2 : Nat) (g : Grp) (o : Op) (x : V3), s.due gid n (BitVec.twoPow 32 lane) g o → o.instr = .ldw x →
    o.obj = some (c, k) → o.owed.getLsbD lane = true → s.objBusy g o.ord c k = false →
    o.locs2.find? (fun q => decide (q.1 = lane)) = some (l2, .win c2 k2) →
    let ls := o.locs.filter (fun q => decide (q.1 = lane))
    let r := (s.countHits (s.howOf g o) o (s.opAddr g o) ls).readWords (s.howOf g o) (va48 (s.opAddr g o lane)) ((ls.map (fun q => q.2)).headD .void) 16
    r.1.all (fun w => !w.2) = true →
    let u := (r.2.winWrite c2 k2 (r.1.flatMap (fun w => leBytes 4 w.1.toNat))).objLand c k 16
    ∃ t, exec (.ldwLaneLanding gid n lane) s = .next t ∧ u.lanesEnd t gid n o (BitVec.twoPow 32 lane) g) ∧
  (∀ (s : State) (gid n : Nat) (m : BitVec 32) (g : Grp) (o : Op), s.due gid n m g o → o.path = some .smp → o.lines.Nodup →
    let now := o.lanesOfEvent m
    let r := s.texResults (g.how o.pc) o (texDesc o.texBlock) (lanesOf now)
    ∃ t k, exec (.samplerCompletion gid ⟨n, m⟩) s = .next t ∧ r.2.lanesEnd t gid n o now k ∧ g.landed k (landing o.lines r.1))

/-! ### Control flow and traps -/

/-- BRA, CALL and JMPI (05 R122, R123, R132). A BRA or CALL whose guard holds in every active lane, and a JMPI whose guard holds, go to their target
and enter it (05 R128); CALL first writes the address of the next word into the pair v126, v127. With the guard failing they go on. A target that is
no clause header raises BADTARGET (02 R46).
Where no reconvergence entry at the target expects a lane of it, a fragment that transfers stands at the target's header with its mask, its wait
mask still to be tested, and nothing else of its group changes (05 R125, R128). -/
def Obligations.TransfersAndTargets : Prop :=
  ((∀ (x : Br) (s : State) (g : Grp) (f : Frag), Issues (.bra x) 0 s g f →
    let a := s.iss.pc + 4 * x.o.signExtend 64
    let taken := ∀ l, f.mask.getLsbD l = true → (g.pred x.g.toNat).getLsbD l = true
    (taken → TargetTraps (.bra x) s g a) ∧
    (∀ u, taken → s.leadsTo u g a → ∃ t, exec (.bra x) s = .next t ∧ u.onlyGroup t s.iss.g ∧ Tab.find t.groups s.iss.g = some (g.goto s.iss.slot a))
      ∧ (¬taken → Completes (.bra x) s g (fun k h => h = k))) ∧
  (∀ (x : Br) (s : State) (g : Grp) (f : Frag), Issues (.call x) 0 s g f →
    let a := s.iss.pc + 4 * x.o.signExtend 64
    let taken := ∀ l, f.mask.getLsbD l = true → (g.pred x.g.toNat).getLsbD l = true
    (taken → TargetTraps (.call x) s g a) ∧
    (∀ u, taken → s.leadsTo u g a → ∃ t j, exec (.call x) s = .next t ∧ u.onlyGroup t s.iss.g
        ∧ g.writesVPair j 126 f.mask (fun _ => s.iss.pc + 4) ∧ Tab.find t.groups s.iss.g = some (j.goto s.iss.slot a))
      ∧ (¬taken → Completes (.call x) s g (fun k h => h = k))) ∧
  (∀ (x : Xn) (s : State) (g : Grp) (f : Frag), Issues (.jmpi x) (g.guarded f x.k) s g f →
    let a := g.scalar (x.n.toNat + 1) ++ g.scalar x.n.toNat
    (g.upred x.k.toNat = true → ¬farOk a → exec (.jmpi x) s = .next (s.trapHere 0x03 0)) ∧
    (g.upred x.k.toNat = true → farOk a → TargetTraps (.jmpi x) s g a) ∧
    (∀ u, g.upred x.k.toNat = true → farOk a → s.leadsTo u g a →
        ∃ t, exec (.jmpi x) s = .next t ∧ u.onlyGroup t s.iss.g ∧ Tab.find t.groups s.iss.g = some (g.goto s.iss.slot a))
      ∧ (g.upred x.k.toNat = false → Completes (.jmpi x) s g (fun k h => h = k)))) ∧
  (∀ (g : Grp) (slot : Nat) (f : Frag) (a : Dword), g.frag slot = some f → g.newestEntry a f.mask = none →
    (g.goto slot a) = g.setFrag slot (some { f with pos := ⟨a, 0, 15, 15, false⟩, wait := .none, arriving := false, starved := false, loadFree := false }))

/-- BR (05 R124). When no active lane takes it, or it goes to the next word, the fragment goes on; when all take it, the fragment transfers; else the
fragment splits, the half with the lower address staying in its slot. Without room for the other half it raises SPLITFULL (01 R20).
RCV (05 R127): its address is tested; with no lane in its mask it goes on, else the lowest free entry of the table becomes a reconvergence entry,
the newest (01 R19); with no free entry it raises SPLITFULL. A target of either that is no clause header raises BADTARGET (02 R46).
RET (05 R131): the lanes part by their targets, least first; the fragment goes on at the first, and the lanes of each other one form a fragment
in an empty slot, else in a spilled entry, the newest; all enter their headers. A target whose fetch faults raises that fault, else a target that is no header raises
BADTARGET (02 R59), and too many targets SPLITFULL.
EXIT (05 R133): in a handler it is ILLEGAL (05 R145); lanes that exit leave the fragment, which ends when none is left, and every reconvergence entry counts them.
Which empty entries they take, is the model's choice (log 59). -/
def Obligations.LanesPart : Prop :=
  ((∀ (x : Br) (s : State) (g : Grp) (f : Frag), Issues (.br x) 0 s g f →
    let a := s.iss.pc + 4 * x.o.signExtend 64
    let b := s.iss.pc + 4
    let t := f.mask &&& g.pred x.g.toNat
    let n := f.mask &&& ~~~(g.pred x.g.toNat)
    (t = 0 ∨ a = b → Completes (.br x) s g (fun k h => h = k)) ∧
    (t ≠ 0 → a ≠ b → TargetTraps (.br x) s g a) ∧
    (∀ u, t ≠ 0 → a ≠ b → s.leadsTo u g a →
      (n = 0 → ∃ v, exec (.br x) s = .next v ∧ u.onlyGroup v s.iss.g ∧ Tab.find v.groups s.iss.g = some (g.goto s.iss.slot a)) ∧
      (n ≠ 0 → ¬(g.emptySlots = 0 ∧ g.emptyEntries = 0) → ∃ v, exec (.br x) s = .next v ∧ u.onlyGroup v s.iss.g ∧ Tab.find v.groups s.iss.g =
        some (if a < b then g.splitTo s.iss.slot f (a, t) (b, n) else g.splitTo s.iss.slot f (b, n) (a, t))) ∧
      (n ≠ 0 → g.emptySlots = 0 ∧ g.emptyEntries = 0 → exec (.br x) s = .next (u.trapHere 0x04 0)))) ∧
  (∀ (x : Br) (s : State) (g : Grp) (f : Frag) (e : Nat), Issues (.rcv x) 0 s g f →
    let a := s.iss.pc + 4 * x.o.signExtend 64
    let m := f.mask &&& g.pred x.g.toNat
    TargetTraps (.rcv x) s g a ∧
    (∀ u, s.leadsTo u g a → m ≠ 0 → g.emptyEntries = 0 → exec (.rcv x) s = .next (u.trapHere 0x04 0)) ∧
    (∀ u, s.leadsTo u g a → (m ≠ 0 → g.emptyEntries ≠ 0 ∧ g.freeEntry = some e) →
      ∃ t j, exec (.rcv x) s = .next t ∧ u.onlyGroup t s.iss.g ∧ Tab.find t.groups s.iss.g = some (j.advance s.iss.slot s.iss)
        ∧ if m = 0 then j = g else Tab.find j.split e = some ⟨g.orderNext, .reconv a m 0⟩
            ∧ (∀ d, d ≠ e → Tab.find j.split d = Tab.find g.split d) ∧ j = { g with split := j.split, orderNext := g.orderNext + 1 }))) ∧
  (∀ (x : Ret) (s : State) (g : Grp) (f : Frag) (a : Dword) (rest : List Dword), Issues (.ret x) f.mask s g f →
    let target (l : Nat) : Dword := g.vreg (x.n.toNat + 1) l ++ g.vreg x.n.toNat l
    (a :: rest).Pairwise (fun b c => b.toNat < c.toNat) → (∀ b, b ∈ a :: rest ↔ ∃ l, f.mask.getLsbD l = true ∧ target l = b) →
    let part (b : Dword) : Frag := { fragAt b (maskWhere (fun l => f.mask.getLsbD l && decide (target l = b))) with bko := f.bko }
    (∀ q e b u, s.testAll true g (a :: rest) none = ((q, some (e, b)), u) → exec (.ret x) s = .next (u.trapFetch e s.iss.pc b s.iss.opcode)) ∧
    (∀ u, s.testAll true g (a :: rest) none = ((true, none), u) → exec (.ret x) s = .next (u.trapHere 0x03 0)) ∧
    (∀ u, s.testAll true g (a :: rest) none = ((false, none), u) → g.emptySlots + g.emptyEntries < rest.length →
      exec (.ret x) s = .next (u.trapHere 0x04 0)) ∧
    (∀ u, s.testAll true g (a :: rest) none = ((false, none), u) → rest.length ≤ g.emptySlots + g.emptyEntries →
      ∃ t, exec (.ret x) s = .next t ∧ u.onlyGroup t s.iss.g
        ∧ Tab.find t.groups s.iss.g = some (partsPlaced (g.setFrag s.iss.slot (some (part a))) [.slot s.iss.slot] (rest.map part))) ∧
    (∀ u, farOk a → s.leadsTo u g a → s.testAll true g [a] none = ((false, none), u))) ∧
  ((∀ (x : Ex) (s : State) (g : Grp) (f : Frag), Issues (.exit x) 0 s g f → g.inHandler = true →
    exec (.exit x) s = .next (s.trapHere 0x01 0)) ∧
  (∀ (x : Ex) (s : State) (g : Grp) (f : Frag), Issues (.exit x) 0 s g f → g.inHandler = false →
    let m := f.mask &&& g.pred x.g.toNat
    (m = 0 → Completes (.exit x) s g (fun k h => h = k)) ∧
    (m ≠ 0 → m = f.mask → ∃ t, exec (.exit x) s = .next t ∧ s.onlyGroup t s.iss.g
      ∧ Tab.find t.groups s.iss.g = some ((g.setFrag s.iss.slot none).exitLanes m)) ∧
    (m ≠ 0 → m ≠ f.mask → Completes (.exit x) s g (fun k h =>
      h = (k.setFrag s.iss.slot (some { f with mask := f.mask &&& ~~~m })).exitLanes m))))

/-- NOP, BKOFF, BKOFF.CLR and SETVIEW (02 R55; 05 R135; 06 R156): nothing; the backoff level one higher, to at most 8, and its delay begun; the
level cleared; the views that its selector names taken from the bytes of its scalar.
YIELD (05 R134; 01 R21): the fragment goes on; if it still has a lane it had, an eligible spilled fragment, the oldest, takes its slot, and it is
spilled in that one's entry, the newest. -/
def Obligations.FragmentSettings : Prop :=
  ((∀ (x : Z) (s : State) (g : Grp) (f : Frag), Issues (.nop x) 0 s g f → Completes (.nop x) s g (fun k h => h = k)) ∧
  (∀ (x : Z) (s : State) (g : Grp) (f : Frag), Issues (.bkoff x) 0 s g f →
    Completes (.bkoff x) s g (fun k h => h = k.setFrag s.iss.slot (some { f with bko := min (f.bko + 1) 8, delayed := true }))) ∧
  (∀ (x : Z) (s : State) (g : Grp) (f : Frag), Issues (.bkoffClr x) 0 s g f →
    Completes (.bkoffClr x) s g (fun k h => h = k.setFrag s.iss.slot (some { f with bko := 0, delayed := false }))) ∧
  (∀ (x : Sv) (s : State) (g : Grp) (f : Frag), Issues (.setview x) (g.guarded f x.k) s g f →
    (g.upred x.k.toNat = true → (g.scalar x.n.toNat).toNat < 2 ^ 24) →
    Completes (.setview x) s g (fun k h =>
      let w := (k.scalar x.n.toNat).toNat
      h = if k.upred x.k.toNat then { k with view :=
        ⟨if x.e.getLsbD 0 then BitVec.ofNat 8 w else k.view.v, if x.e.getLsbD 1 then BitVec.ofNat 8 (w / 2 ^ 8) else k.view.t,
         if x.e.getLsbD 2 then BitVec.ofNat 8 (w / 2 ^ 16) else k.view.a⟩ } else k))) ∧
  (∀ (x : Z) (s : State) (g : Grp) (f : Frag), Issues (.yield x) 0 s g f →
    let t := s.finish g
    let h := t.grp s.iss.g
    let stays := ∃ k, h.frag s.iss.slot = some k ∧ k.mask &&& f.mask ≠ 0
    (¬stays ∨ t.eligible h = none → exec (.yield x) s = .next t) ∧
    (∀ k e r, h.frag s.iss.slot = some k → k.mask &&& f.mask ≠ 0 → t.eligible h = some (e, r) →
      exec (.yield x) s = .next (t.setGrp s.iss.g { h.setFrag s.iss.slot (some r) with
        split := Tab.put h.split e ⟨h.orderNext, .spilled { k with starved := false }⟩, orderNext := h.orderNext + 1 })))

/-- TRAP and BKPT (05 R136): the fragment goes on to the word after, and the trap is taken with the cause and the code.
TRAP_ENTRY and DEFERRED_TRAP_TAKEN (05 R142, R143): a raised fault's trap is taken once the group is on its core; deferred faults' trap when no
fragment can issue or the replay queue holds eight. -/
def Obligations.TrapEntry : Prop :=
  ((∀ (x : Code) (s : State) (g : Grp) (f : Frag), Issues (.trap x) 0 s g f →
    exec (.trap x) s = .next ((s.finish g).takeTrap s.iss.g
      [⟨0x05, x.c, s.iss.slot, f.mask, 0, s.iss.pc, s.iss.pc, false, s.iss.opcode, none, false⟩] [])) ∧
  (∀ (x : Code) (s : State) (g : Grp) (f : Frag), Issues (.bkpt x) 0 s g f →
    exec (.bkpt x) s = .next ((s.finish g).takeTrap s.iss.g
      [⟨0x06, x.c, s.iss.slot, f.mask, 0, s.iss.pc, s.iss.pc, false, s.iss.opcode, none, false⟩] []))) ∧
  ((∀ (s : State) (gid : Nat) (g : Grp), Tab.find s.groups gid = some g → g.raised ≠ [] → g.escalated = false → g.life.onCore = true →
    exec (.trapEntry gid) s = .next (s.takeTrap gid g.raised [])) ∧
  (∀ (s : State) (gid : Nat) (g : Grp), Tab.find s.groups gid = some g → g.raised = [] → g.deferred ≠ [] → g.escalated = false →
    g.life.onCore = true → (s.canIssue g = false ∨ 8 ≤ g.deferred.length + g.unpassed.length) →
    exec (.deferredTrapTaken gid) s = .next (s.takeTrap gid [] [])))

/-- Taking a trap on one fault, with no deferred one and no percolation run (05 R139, R142, R144, R146): the frame records it, with the fragments, the split table and the
operations short of their fault point, which leave with their flags; then the group is in its handler, all its lanes at one header and the trap registers
set, or the trap has escalated and the registers stand. It is taken in-group only where R139 lets it. -/
def Obligations.TrapTaken : Prop :=
  ∀ (s : State) (gid : Nat) (g : Grp) (r : Raise), Tab.find s.groups gid = some g → g.deferred = [] → g.inBody = false → g.cstepOp = none →
    (∀ p, p ∈ g.allFrags → p.2.arriving = false) → (∀ p, (s.coreAt g.core).perc = some p → p.g ≠ gid) →
    let q := g.unpassed.map (entryOf [r])
    let multi := decide (1 < (q.filter (fun e => decide (e.cause ≠ 0))).length) || (s.iss.both && r.op.isNone)
    let w : Word := r.code ++ BitVec.ofNat 4 q.length ++ BitVec.ofBool multi ++ BitVec.ofNat 1 r.slot ++ 0#1 ++ BitVec.ofBool (g.defer && !g.inHandler)
      ++ BitVec.ofNat 8 r.cause
    ∃ h, Tab.find (s.takeTrap gid [r] []).groups gid = some h
      ∧ (∃ fr, h.frame = some fr ∧ fr.tcause = w ∧ fr.tmask = r.m ∧ fr.tfault = r.lanes ∧ fr.exited = g.exited ∧ fr.f0 = g.f0 ∧ fr.f1 = g.f1
          ∧ fr.pc = r.pc ∧ fr.faddr = r.faddr ∧ fr.split = g.split ∧ fr.replay = q)
      ∧ h.f1 = none ∧ h.split = [] ∧ h.raised = [] ∧ (∀ n o, Tab.find h.ops n = some o → o.passed = true)
      ∧ ((g.inHandler = false ∧ 1 ≤ r.cause ∧ r.cause ≤ 0x0D ∧ g.tframe ≠ 0 ∧ g.tvec ≠ 0 ∧ g.tvec.toNat % 512 = 0
            ∧ h.inHandler = true ∧ h.escalated = false ∧ h.exited = 0 ∧ (∃ a, h.f0 = some (fragAt a g.gmask))
            ∧ h.tcause = w ∧ h.tmask = r.m ∧ h.tfault = r.lanes
            ∧ h.tprev = (match g.f1 with | some f => f.mask | none => 0) ++ (match g.f0 with | some f => f.mask | none => 0))
        ∨ (h.escalated = true ∧ h.inHandler = g.inHandler ∧ h.f0 = none ∧ h.exited = g.exited
            ∧ h.tcause = g.tcause ∧ h.tmask = g.tmask ∧ h.tfault = g.tfault ∧ h.tprev = g.tprev))

/-- What no instruction does past its issue checks (02 R59 to R61; 05 R141, R142): an ILLEGAL word or operand, then a control instruction that is not its
clause's last word, then a privileged form in user mode raise their trap on the machine as it stood. -/
def Obligations.IssueTraps : Prop :=
  ∀ (i : Instr) (act : Grp → Frag → BitVec 32) (body : State → Grp → Frag → State) (s : State) (g : Grp) (f : Frag),
    exec i s = issue i s act body → Tab.find s.groups s.iss.g = some g → g.frag s.iss.slot = some f →
    (issueIllegal i g f = some none → exec i s = .next (s.trapHere 0x01 0)) ∧
    (∀ n, issueIllegal i g f = some (some n) →
      let a := s.iss.start + BitVec.ofNat 64 (4 * n)
      exec i s = .next (s.raiseIssue 0x01 0 0 a a false 0 false)) ∧
    (issueIllegal i g f = none → instrEndsClause i = true → s.iss.last = false →
      let a := s.iss.pc + 4
      exec i s = .next (s.raiseIssue 0x01 0 0 a a false (s.opcodeAt g a) false)) ∧
    (issueIllegal i g f = none → (instrEndsClause i = true → s.iss.last = true) → privBlocked i g = true →
      exec i s = .next (s.trapHere 0x02 0))

/-- TRET (05 R148): in a handler with the whole group in this fragment, a frame that passes its checks and no reply out resumes the group, after an
acquire where an entry's fault went to the parent (13 R318). Outside a handler it is ILLEGAL.
Resuming from a frame with no replay entry, outside a capsule body (05 R148, R150): the fragments, the split table and the exited lanes are the
frame's, and the group has left its handler. -/
def Obligations.TrapReturn : Prop :=
  (∀ (x : Z) (s : State) (g : Grp) (f : Frag), Issues (.tret x) 0 s g f →
    (g.inHandler = false → exec (.tret x) s = .next (s.trapHere 0x01 0)) ∧
    (∀ fr u, g.inHandler = true → g.frag (1 - s.iss.slot) = none → g.split = [] → f.mask = g.gmask → g.replies = 0 →
      s.frameNow s.iss.g = (some fr, u) → g.replayRoom fr.replay = true →
      exec (.tret x) s = .next ((if fr.replay.any (fun e => decide (0x10 ≤ e.cause)) then u.acquireL1 g.core g.ctx g.sup else u).resume s.iss.g fr))) ∧
  (∀ (s : State) (gid : Nat) (g : Grp) (fr : Frame), Tab.find s.groups gid = some g → g.cap.body = false → fr.replay = [] →
    ∃ t, s.resume gid fr = t ∧ s.onlyGroup t gid ∧ Tab.find t.groups gid = some { g with
      f0 := fr.f0, f1 := fr.f1, split := fr.split, exited := fr.exited, inHandler := false, escalated := false, frame := none, frameKept := false })

/-! ### Fences, waits, barriers and timelines -/

/-- FENCE (07 R197): at a wide scope its release step leaves no line of the group's context dirty on its core, then its acquire step leaves none at all;
at a narrow scope it does neither. Then the fragment goes on.
WAITP, WAITB and WAITTL (07 R184, R203; 12 R287): the fragment goes on if the condition holds, after the acquire step of its scope, and waits else.
WAITC (18 R381): its block is read under the group's translation, at scope .k; the fragment goes on once the count is reached, and waits else. -/
def Obligations.FencesAndWaits : Prop :=
  (∀ (x : Fen) (s : State) (g : Grp) (f : Frag), Issues (.fence x) 0 s g f → s.plainL1 g.core g.ctx →
    CompletesAfter (.fence x) s g (fun u =>
      ∃ r, (if x.k.getLsbD 1 then s.released r g x.s.toNat else r = s) ∧ (if x.k.getLsbD 0 then r.acquired u g x.s.toNat else u = r)) (fun k h => h = k)) ∧
  ((∀ (x : Wp) (s : State) (g : Grp) (f : Frag), Issues (.waitp x) 0 s g f →
    let p := PathK.ofNum x.p.toNat
    (g.pathVal p ≤ x.n.toNat → Completes (.waitp x) s g (fun k h => h = k)) ∧
    (x.n.toNat < g.pathVal p → Waits (.waitp x) s g f (.path p x.n.toNat))) ∧
  (∀ (x : Wb) (s : State) (g : Grp) (f : Frag), Issues (.waitb x) (g.guarded f x.k) s g f →
    (g.upred x.k.toNat = false → Completes (.waitb x) s g (fun k h => h = k)) ∧
    (g.upred x.k.toNat = true → ∀ c key, s.winLoc g (g.scalar x.n.toNat) = some (c, key) → (g.scalar x.n.toNat).toNat % 16 = 0 →
      (s.objPhase c key ≠ decide (x.q = 1#1) → s.plainL1 g.core g.ctx →
        CompletesAfter (.waitb x) s g (fun u => s.acquired u g (objScope key)) (fun k h => h = k)) ∧
      (s.objPhase c key = decide (x.q = 1#1) → Waits (.waitb x) s g f (.barrier (g.scalar x.n.toNat) (decide (x.q = 1#1)))))) ∧
  (∀ (x : Wtl) (s : State) (g : Grp) (f : Frag), Issues (.waittl x) (g.guarded f x.k) s g f →
    let n := g.scalar (x.n.toNat + 1) ++ g.scalar x.n.toNat
    (g.upred x.k.toNat = false → Completes (.waittl x) s g (fun k h => h = k)) ∧
    (g.upred x.k.toNat = true → n ≤ g.tlDone x.i.toNat → s.plainL1 g.core g.ctx →
      CompletesAfter (.waittl x) s g (fun u => s.acquired u g x.s.toNat) (fun k h => h = k)) ∧
    (g.upred x.k.toNat = true → g.tlDone x.i.toNat < n → Waits (.waittl x) s g f (.timeline x.i.toNat n)))) ∧
  (∀ (x : Wc) (s : State) (g : Grp) (f : Frag) (r q : XOk), Issues (.waitc x) (g.guarded f x.k) s g f →
    let a := g.scalar (x.n.toNat + 1) ++ g.scalar x.n.toNat
    let n := g.scalar (x.m.toNat + 1) ++ g.scalar x.m.toNat
    let v := s.xCommit g.core r
    (g.upred x.k.toNat = false → Completes (.waitc x) s g (fun k h => h = k)) ∧
    (g.upred x.k.toNat = true → a.toNat % 16 = 0 → s.translate g.core g.ctx g.sup a .read = .ok r → v.translate g.core g.ctx g.sup a .read = .ok q →
      let count := if q.void then 0 else v.homeDword q.pa
      (n.toNat ≤ count → v.plainL1 g.core g.ctx → CompletesAfter (.waitc x) s g (fun u => v.acquired u g 4) (fun k h => h = k)) ∧
      (count < n.toNat → ∃ h, exec (.waitc x) s = .next (v.setGrp s.iss.g h)
        ∧ h = g.setFrag s.iss.slot (some { f with wait := .counter a n, starved := false, loadFree := false }))))

/-- ARRV, TLINC and PSET (07 R201; 12 R288; 09 R235): an arrival is outstanding on the object's place; the next numbers of a timeline are assigned, complete
at once if no access is open; percolation coefficients are taken from consecutive scalars. -/
def Obligations.ArrivalsAndNumbers : Prop :=
  (∀ (x : Arr) (s : State) (g : Grp) (f : Frag), Issues (.arrv x) (g.guarded f x.k) s g f →
    (g.upred x.k.toNat = false → Completes (.arrv x) s g (fun k h => h = k)) ∧
    (g.upred x.k.toNat = true → ∀ c key, s.winLoc g (g.scalar x.n.toNat) = some (c, key) → (g.scalar x.n.toNat).toNat % 16 = 0 →
      Completes (.arrv x) s g (fun k h => ∃ o, k.opBegins h o ∧ o.instr = .arrv x ∧ o.locs = [(0, .win c key)] ∧ o.kind = 2
        ∧ o.slotAt 0 0 = g.scalar x.t.toNat ∧ o.passed = !s.wide g (objScope key) ∧ o.rel = s.wide g (objScope key) ∧ o.flag = flagOf (flagClass (.arrv x)) f.pos.setA f.pos.setB ∧ o.path = pathOf (.arrv x)))) ∧
  (∀ (x : Tli) (s : State) (g : Grp) (f : Frag), Issues (.tlinc x) (g.guarded f x.k) s g f →
    let i := x.i.toNat
    let n := x.c.toNat + 1
    (g.upred x.k.toNat = false → Completes (.tlinc x) s g (fun k h => h = k)) ∧
    (g.upred x.k.toNat = true → (g.tlLast i).toNat + n < 2 ^ 64 → Completes (.tlinc x) s g (fun k h =>
      h = { k with tln := h.tln, tlc := h.tlc, tldone := h.tldone, tlinc := h.tlinc }
      ∧ (∀ j, h.tlLast j = if j = i then k.tlLast j + BitVec.ofNat 64 n else k.tlLast j) ∧ (∀ j, j ≠ i → h.tlDone j = k.tlDone j)
      ∧ (g.openAccesses = [] → g.tlDone i = g.tlLast i → (∀ p, p ∈ g.tldone → p.1 ≠ i) → h.tlDone i = h.tlLast i ∧ h.tlinc = k.tlinc)
      ∧ (g.openAccesses ≠ [] → h.tlDone i = k.tlDone i
          ∧ h.tlinc = k.tlinc ++ [(i, (g.tlLast i).toNat + 1, (g.tlLast i).toNat + n, g.openAccesses)]))) ∧
    (g.upred x.k.toNat = true → 2 ^ 64 ≤ (g.tlLast i).toNat + n →
      exec (.tlinc x) s = .next (s.trapHere 0x01 0))) ∧
  (∀ (x : Pst) (s : State) (g : Grp) (f : Frag), Issues (.pset x) (g.guarded f x.k) s g f →
    Completes (.pset x) s g (fun k h => h = { k with coef := h.coef } ∧ ∀ j, Sparse.get h.coef j =
      if g.upred x.k.toNat = true ∧ x.i.toNat ≤ j ∧ j ≤ x.i.toNat + x.c.toNat then g.scalar (x.n.toNat + (j - x.i.toNat)) else Sparse.get k.coef j))

/-- REGX (06 R168, R169): it arrives at its object and waits for its phase; then a smaller budget's lines go back to the team's pool at once, an equal one changes
nothing, and a larger one waits for its lines and goes on when it has them: the oldest grow takes them once every bank of the pool has them. Lines that a group takes
start zero. -/
def Obligations.BudgetExchange : Prop :=
  (∀ (x : Rgx) (s : State) (g : Grp) (f : Frag), Issues (.regx x) (g.guarded f x.k) s g f →
    let new := if g.role = 0 then 8 * x.p.toNat else 8 * x.c.toNat
    (g.upred x.k.toNat = false → Completes (.regx x) s g (fun k h => h = k)) ∧
    (g.upred x.k.toNat = true → f.wait = .none → ∀ c key, s.winLoc g (g.scalar x.n.toNat) = some (c, key) → (g.scalar x.n.toNat).toNat % 16 = 0 →
      s.plainL1 g.core g.ctx →
      ∃ r u, s.released r g (objScope key)
        ∧ u = (if g.nlines < new ∧ g.overs = false then r.setPool g.core { r.poolOf g with grows := (r.poolOf g).grows ++ [s.iss.g] } else r)
        ∧ exec (.regx x) s = .next ((u.objArrive c key 0 1).setGrp s.iss.g
          (g.setFrag s.iss.slot (some { f with wait := .regx (g.scalar x.n.toNat) (r.objPhase c key) new, starved := false, loadFree := false })))) ∧
    (g.upred x.k.toNat = true → ∀ a q n c key, f.wait = .regx a q n → s.winLoc g a = some (c, key) → s.plainL1 g.core g.ctx → s.objPhase c key ≠ q →
      (n < g.nlines → CompletesAfter (.regx x) s g
        (fun u => ∃ r, s.acquired r g (objScope key) ∧ u = if g.overs then r else
          r.setPool g.core { r.poolOf g with free := addBanks (r.poolOf g).free (linesByBank g.slot n g.nlines) })
        (fun k h => h.nlines = n ∧ (∀ l j, l < n → j < 32 → h.word l j = k.word l j)
          ∧ h = { k with nlines := h.nlines, resizeFirst := false, rs := h.rs, poison := h.poison, written := h.written, shared := h.shared })) ∧
      (n = g.nlines → CompletesAfter (.regx x) s g (fun u => s.acquired u g (objScope key)) (fun k h => h = { k with resizeFirst := false })) ∧
      (g.nlines < n → g.overs = true → CompletesAfter (.regx x) s g (fun u => s.acquired u g (objScope key)) (fun k h => h.nlines = n
          ∧ (∀ l j, l < k.nlines → j < 32 → h.word l j = k.word l j) ∧ (∀ l j, k.nlines ≤ l → j < 32 → h.word l j = 0)
          ∧ h = { k with nlines := h.nlines, resizeFirst := false, rs := h.rs, poison := h.poison, written := h.written, shared := h.shared })) ∧
      (g.nlines < n → g.overs = false → ∃ r, s.acquired r g (objScope key) ∧ ∃ p, exec (.regx x) s = .next ((r.setPool g.core p).setGrp s.iss.g
        (g.setFrag s.iss.slot (some { f with wait := .grow n, starved := false, loadFree := false }))) ∧ s.iss.g ∈ p.grows ∧ p.free = (r.poolOf g).free)) ∧
    (g.upred x.k.toNat = true → ∀ n, f.wait = .grow n → Completes (.regx x) s g (fun k h => h = k))) ∧
  (∀ (s : State) (gid n : Nat) (g : Grp) (f : Frag) (r : List Nat), Tab.find s.groups gid = some g → g.f0 = some f → f.wait = .grow n → g.nlines < n →
    (s.poolOf g).grows = gid :: r → s.shrinkDue g = false → coverBanks (s.poolOf g).free (linesByBank g.slot g.nlines n) = true →
    exec (.regxGrow gid) s = .next ((s.setPool g.core { s.poolOf g with
      free := subBanks (s.poolOf g).free (linesByBank g.slot g.nlines n), grows := r.filter (fun k => decide (k ≠ gid)) }).setGrp gid { g.growTo n with resizeFirst := false })
      ∧ (∀ l j, l < g.nlines → j < 32 → (g.growTo n).word l j = g.word l j) ∧ ∀ l j, g.nlines ≤ l → j < 32 → (g.growTo n).word l j = 0)

/-! ### Roasts -/

/-- FREEZE.G (10 R252 to R254, R262): after a release step the group's part of the grid roast is captured; the group stalls until the last group of the
prologue team has passed, which seals the roast; a group whose stall has ended acquires and goes on. A group that stands open raises FREEZEBUSY.
Sealing a grid roast (10 R254, R255): it holds the template window's bytes of the prologue team besides, the stalls of that team end, and the teams that
wait for the roast are poured.
FREEZE.T (10 R252 to R254): after a release step at the team's scope the group's part becomes a sealed team roast, of which the grid roast is the base
where there is one; the team's other groups are poured, and the group goes on. -/
def Obligations.Freezing : Prop :=
  (∀ (x : Z) (s : State) (g : Grp) (f : Frag), Issues (.freezeG x) 0 s g f →
    (f.wait = .freeze → g.stalled = false → s.plainL1 g.core g.ctx → CompletesAfter (.freezeG x) s g (fun u => s.acquired u g 4) (fun k h => h = k)) ∧
    (∀ l ro r, f.wait ≠ .freeze → Freezes s g f l false → l.roast = some ro → Tab.find s.roasts ro = some r → s.plainL1 g.core g.ctx →
      (Tab.put r.parts g.idx (g.roastPart s.iss.after (true, false))).length < (if l.r.tT then 1 else l.r.nP + l.r.nC) →
      ∃ u, s.released u g 4 ∧ exec (.freezeG x) s = .next ({ u with
        roasts := Tab.put s.roasts ro { r with parts := Tab.put r.parts g.idx (g.roastPart s.iss.after (true, false)) } }.setGrp s.iss.g
        (({ g.shareLines ro with froze := (true, false), stalled := true }).setFrag s.iss.slot (some { f with wait := .freeze, starved := false, loadFree := false })))) ∧
    (∀ l ro r, f.wait ≠ .freeze → Freezes s g f l false → l.roast = some ro → Tab.find s.roasts ro = some r → s.plainL1 g.core g.ctx →
      (if l.r.tT then 1 else l.r.nP + l.r.nC) ≤ (Tab.put r.parts g.idx (g.roastPart s.iss.after (true, false))).length →
      ∃ u v, s.released u g 4 ∧ v = ({ u with
        roasts := Tab.put s.roasts ro { r with parts := Tab.put r.parts g.idx (g.roastPart s.iss.after (true, false)) } }.setGrp s.iss.g
        { g.shareLines ro with froze := (true, false), stalled := true }).sealGrid g.launch ro l ∧
      exec (.freezeG x) s = .next (((v.acquire s.iss.g 4).finish ((v.acquire s.iss.g 4).grp s.iss.g)))) ∧
    (∀ l, f.wait ≠ .freeze → Tab.find s.launches g.launch = some l → l.r.tG = true → g.inHandler = false → g.team = 0 → g.froze = (false, false) →
      g.f1 ≠ none ∨ f.mask ≠ g.gmask ∨ g.drained = false → exec (.freezeG x) s = .next (s.trapHere 0x0C 0))) ∧
  (∀ (s : State) (lid ro : Nat) (l : Launch) (r : Roast), Tab.find s.roasts ro = some r →
    ∃ t : State, s.sealGrid lid ro l = t.pourDue lid ∧ (∃ q, Tab.find t.roasts ro = some q ∧ q.sealed = true ∧ q.parts = r.parts)
      ∧ (∀ k h, Tab.find t.groups k = some h → ∃ g, Tab.find s.groups k = some g
          ∧ h = { g with stalled := if g.launch = lid ∧ g.team = 0 then false else g.stalled })
      ∧ t = { s with roasts := t.roasts, groups := t.groups }) ∧
  (∀ (x : Z) (s : State) (g : Grp) (f : Frag) (l : Launch), Issues (.freezeT x) 0 s g f → Freezes s g f l true → s.plainL1 g.core g.ctx →
    ∃ u v, s.released u g 1
      ∧ v = (({ u with
        roasts := Tab.put s.roasts s.nextRoast ⟨g.launch, true, [(0, g.roastPart s.iss.after (g.froze.1, true))], [], [], if l.r.tG then l.roast else none⟩
        nextRoast := s.nextRoast + 1
        launches := Tab.put s.launches g.launch { l with
          teams := l.teams.map (fun (e : Nat × Team) => if e.1 = g.team then (e.1, { e.2 with roast := some s.nextRoast }) else e) } }).setGrp s.iss.g
        { g.shareLines s.nextRoast with froze := (g.froze.1, true) }).pourDue g.launch
      ∧ exec (.freezeT x) s = .next (v.finish (v.grp s.iss.g)))

/-! ### Memory accesses as they are performed -/

/-- An access within one line reads the bytes that its core sees there, and changes neither memory nor what the core sees anywhere; the bytes that a write
stores are seen after it, and no other byte of memory changes, none at all at a narrow scope but under policies 2 and 4; a held line, and a miss that finds no evictable way, have policy 2 (07 R180 to R182, R199; 13 R308). -/
def Obligations.ReadAfterWrite : Prop :=
  ∀ (s : State) (h : How) (va pa : Nat), s.plainL1 h.core h.ctx → (h.narrow = true → h.owner = false) →
    (∀ n, pa % 128 + n ≤ 128 →
      let r := s.readGlobal h va pa n
      r.1.1 = (List.range n).map (fun j => s.seen h va (pa + j)) ∧ r.2 = { s with cores := r.2.cores, l2 := r.2.l2 }
        ∧ (h.pol ≠ 4 → ∀ va' pa', (va' / 128 = va / 128 → pa' / 128 = pa / 128) → r.2.seen h va' pa' = s.seen h va' pa')) ∧
    (∀ bs : List Byte, bs ≠ [] → pa % 128 + bs.length ≤ 128 →
      let t := s.writeGlobal h va pa bs
      (∀ j, j < bs.length → t.seen h va (pa + j) = bs.getD j 0)
        ∧ (∀ a, a < pa ∨ pa + bs.length ≤ a →
            (h.narrow = true → h.pol = 4 → ∀ l, s.l1Find h.core h.ctx va = some l → ∀ j, l.dirtyAt j → l.pa + j ≠ a) → Sparse.get t.mem a = Sparse.get s.mem a)
        ∧ (h.narrow = true → s.polOf h va (s.l1Find h.core h.ctx va) ≠ 2 → h.pol ≠ 4 → t.mem = s.mem)
        ∧ (h.narrow = false ∨ s.polOf h va (s.l1Find h.core h.ctx va) = 2 ∨ h.pol = 4 → (∀ j, j < bs.length → s.l2Held (pa + j) = false) → ∀ j, j < bs.length → Sparse.get t.mem (pa + j) = bs.getD j 0))

/-- An indivisible read and write (07 R193, R195, R211): it answers the bytes that are seen at its home, and what the function gives is seen after it, unless
it read poison or the function gives nothing.
CWB and CINV of a line at a scope below .y (07 R196): its dirty bytes go home, and the core keeps it clean or drops it. -/
def Obligations.LineOperations : Prop :=
  (∀ (s : State) (h : How) (va pa n : Nat) (f : List Byte → Option (List Byte)), s.plainL1 h.core h.ctx → (h.narrow = true → h.owner = false) →
    0 < n → pa % 128 + n ≤ 128 → (∀ l, s.l1Find h.core h.ctx va = some l → l.pa = pa / 128 * 128) →
    let k := { h with pol := 0 }
    let r := s.rmwGlobal h va pa n f
    let old := (List.range n).map (fun j => s.seen k va (pa + j))
    r.1.1 = old ∧ (∀ bs, r.1.2 = false → f old = some bs → bs.length = n → ∀ j, j < n → r.2.seen k va (pa + j) = bs.getD j 0)
      ∧ (r.1.2 = true ∨ f old = none → ∀ j, j < n → r.2.seen k va (pa + j) = s.seen k va (pa + j))) ∧
  (∀ (s : State) (h : How) (va pa sc : Nat) (inv : Bool) (l : L1Line), s.plainL1 h.core h.ctx → sc ≠ 5 → s.l1Find h.core h.ctx va = some l →
    let t := s.maintLine h va pa sc inv
    t.l1Find h.core h.ctx va = (if inv then none else some { l with dirty := 0, held := false })
      ∧ (∀ a, (∀ j, l.dirtyAt j → l.pa + j ≠ a) → Sparse.get t.mem a = Sparse.get s.mem a)
      ∧ ((∀ m, m < 128 → s.l2Held (l.pa + m) = false) → ∀ j, l.dirtyAt j → Sparse.get t.mem (l.pa + j) = lineByte l.data j))

/-- A due load completes lanes (07 R183, R185 to R187, R190, R191): they are read, their words land in its destination and in no other register; with the last
owed lane it is no longer outstanding, and an acquire load's acquire step follows. PREF lands nothing.
That lanes are performed in any order and any number at a time, is the model's reading (log 58). -/
def Obligations.LoadCompletion : Prop :=
  ∀ (s : State) (gid n : Nat) (m : BitVec 32) (g : Grp) (o : Op), s.due gid n m g o → o.lines.Nodup →
    let now := o.lanesOfEvent m
    let h := s.howOf g o
    let addr := s.opAddr g o
    let u := s.countHits h o addr (o.locsOf now)
    ((∃ x, o.instr = .ldW x ∨ o.instr = .ldD x ∨ o.instr = .ldQ x ∨ o.instr = .ldN x) ∨ (∃ x, o.instr = .ldk x) →
      let r := u.readLanes h addr (o.locsOf now) (accBytes o.instr)
      let vs := r.1.map (fun v => (v.1, v.2.map (fun w => (narrowValue o.instr w.1, w.2))))
      ∃ t k, exec (.loadCompletion gid ⟨n, m⟩) s = .next t ∧ r.2.lanesEnd t gid n o now k ∧ g.landed k (landing o.lines vs)) ∧
    (∀ x, o.instr = .sld x → o.kind = 2 → o.todo ≠ 0 →
      let r := u.readLanes h addr o.locs 4
      ∀ l w p rest, r.1 = (l, (w, p) :: rest) :: r.1.tail →
        ∃ t k, exec (.loadCompletion gid ⟨n, m⟩) s = .next t ∧ r.2.lanesEnd t gid n o now k ∧ g.writesS k x.d.toNat w) ∧
    (∀ x, o.instr = .pref x → ∃ v t : State, exec (.loadCompletion gid ⟨n, m⟩) s = .next t ∧ v.lanesEnd t gid n o now g ∧ v.groups = s.groups)

/-- A due store or maintenance operation is performed in lanes (07 R183, R186, R187, R190, R196, R211): each lane's bytes in ascending order of lanes, at the address
that its fault point checked; words that the lanes write whole together lose their poison.
That lanes are performed in any order and any number at a time, is the model's reading (log 58). -/
def Obligations.StorePerformed : Prop :=
  ∀ (s : State) (gid n : Nat) (m : BitVec 32) (g : Grp) (o : Op), s.due gid n m g o →
    let now := o.lanesOfEvent m
    let h := s.howOf g o
    let addr := s.opAddr g o
    let bytes (slot l : Nat) : List Byte := o.dataBytes slot (accBytes o.instr) (if o.kind = 2 then 0 else l)
    let written (slot : Nat) : State := (o.locsOf now).foldl (fun (u : State) p => u.writeLoc h (va48 (addr p.1)) p.2 (bytes slot p.1)) s
    let clean (u : State) : State := if o.kind = 2 then u else u.cleanLanes h addr (accBytes o.instr) (o.locsOf now)
    ((∃ x, o.instr = .stW x ∨ o.instr = .stD x ∨ o.instr = .stQ x ∨ o.instr = .stN x) →
      ∃ t, exec (.storePerformed gid ⟨n, m⟩) s = .next t ∧ (clean (written 1)).lanesEnd t gid n o now g) ∧
    (∀ x, o.instr = .stk x → ∃ t, exec (.storePerformed gid ⟨n, m⟩) s = .next t ∧ (clean (written 0)).lanesEnd t gid n o now g) ∧
    (∀ x, o.instr = .sst x → ∃ t, exec (.storePerformed gid ⟨n, m⟩) s = .next t ∧ (clean (written 3)).lanesEnd t gid n o now g) ∧
    ((∃ x, o.instr = .cwb x ∨ o.instr = .cinv x ∨ o.instr = .cinvP x) →
      ∃ t, exec (.storePerformed gid ⟨n, m⟩) s = .next t ∧ (s.maintLanes h addr o.instr (o.locsOf now)).lanesEnd t gid n o now g)

/-- A due atomic is performed in lanes, upward (07 R179, R192 to R194): each lane's indivisible operation in ascending order of lanes; CAS writes where the old value is
the expected one; the forms with a result land the old values.
That any number of lanes is performed at a time, is the model's reading (log 58). -/
def Obligations.AtomicPerformed : Prop :=
  ∀ (s : State) (gid n : Nat) (m : BitVec 32) (g : Grp) (o : Op),
    let up := o.upward (if o.kind = 2 then o.owed else m)
    let now := o.lanesOfEvent up
    s.due gid n up g o → o.lines.Nodup →
    let h := s.howOf g o
    let addr := s.opAddr g o
    let r := s.atomLanes h addr o (o.locsOf now)
    (∀ x, o.instr = .atom x → ∃ t, exec (.atomicPerformed gid ⟨n, m⟩) s = .next t ∧ r.2.lanesEnd t gid n o now g) ∧
    ((∃ x, o.instr = .atomr x ∨ o.instr = .cas x) →
      ∃ t k, exec (.atomicPerformed gid ⟨n, m⟩) s = .next t ∧ r.2.lanesEnd t gid n o now k ∧ g.landed k (landing o.lines r.1)) ∧
    ((∃ x, o.instr = .atoml x ∨ o.instr = .casl x) →
      ∃ t k, exec (.windowAccessPerformed gid ⟨n, m⟩) s = .next t ∧ r.2.lanesEnd t gid n o now k ∧ g.landed k (landing o.lines r.1)) ∧
    (∀ x, o.instr = .satom x → o.kind = 2 → o.todo ≠ 0 →
      ∀ l w p rest, r.1 = (l, (w, p) :: rest) :: r.1.tail →
        ∃ t k, exec (.atomicPerformed gid ⟨n, m⟩) s = .next t ∧ r.2.lanesEnd t gid n o now k ∧ g.writesS k x.d.toNat w) ∧
    (∀ l v, o.atomFn l v = match o.instr with
      | .cas _ | .casl _ => if v = o.slotAt 1 l then some (o.slotAt 2 l) else none
      | .satom x => some (atomNew (atomOp x.pf) v (o.slotAt 3 0))
      | i => some (atomNew (atomOp i.pf) v (o.slotAt 1 l)))

/-- Window accesses and arrivals (07 R183, R188, R201; 12 R284): LDL lands window words, STL stores them; an arrival counts at its object, at once on its own
core, after a step of its own on another.
An arrival and a landing on a barrier object (07 R201, R202): announced bytes and arrivals are counted; the phase ends when no arrival is due and as many
bytes have landed as were announced: its parity turns, the arrivals due are the roster's, and both byte counts are 0. -/
def Obligations.WindowsAndBarriers : Prop :=
  (∀ (s : State) (gid n : Nat) (m : BitVec 32) (g : Grp) (o : Op),
    let now := o.lanesOfEvent m
    (s.due gid n m g o → o.lines.Nodup → (∃ x, o.instr = .ldl x) →
      let r := s.readLanes (s.howOf g o) (s.opAddr g o) (o.locsOf now) 4
      ∃ t k, exec (.windowAccessPerformed gid ⟨n, m⟩) s = .next t ∧ r.2.lanesEnd t gid n o now k ∧ g.landed k (landing o.lines r.1)) ∧
    (s.due gid n m g o → (∃ x, o.instr = .stl x) →
      ∃ t, exec (.windowAccessPerformed gid ⟨n, m⟩) s = .next t
        ∧ (s.storeLanes (s.howOf g o) (s.opAddr g o) o 1 (o.locsOf now)).lanesEnd t gid n o now g) ∧
    (∀ x l c key rest, s.due gid n m g o → o.instr = .arrv x → o.locs = (l, .win c key) :: rest →
      g.ops.any (fun p => decide (p.1 < n) && isAccess p.2.instr) = false →
      (c = g.core → ∃ t, exec (.windowAccessPerformed gid ⟨n, m⟩) s = .next t
        ∧ (s.objArrive c key (if x.u = 1#1 then o.slotAt 0 0 else 0) x.a.toNat).endsOp t gid n o g) ∧
      (c ≠ g.core → (gid, n) ∉ s.barriers → exec (.windowAccessPerformed gid ⟨n, m⟩) s = .next { s with barriers := s.barriers ++ [(gid, n)] })) ∧
    (∀ x l c key rest i, s.hasOp gid n g o → o.instr = .arrv x → o.locs = (l, .win c key) :: rest → s.barriers[i]? = some (gid, n) →
      ∃ t u, u = { s with barriers := s.barriers.filter (fun b => decide (b ≠ (gid, n))) } ∧ exec (.remoteBarrierStep i) s = .next t
        ∧ (u.objArrive c key (if x.u = 1#1 then o.slotAt 0 0 else 0) x.a.toNat).endsOp t gid n o g)) ∧
  (∀ (s : State) (core key : Nat),
    (∀ (due : Word) (arr : Nat),
      let left := s.objLeft core key - arr
      let d := s.objWord core key 3 + due
      let t := s.objArrive core key due arr
      (left ≠ 0 ∨ s.objWord core key 2 ≠ d →
        t.objPhase core key = s.objPhase core key ∧ t.objLeft core key = left ∧ t.objWord core key 3 = d ∧ t.objWord core key 2 = s.objWord core key 2) ∧
      (left = 0 ∧ s.objWord core key 2 = d →
        t.objPhase core key = !s.objPhase core key ∧ t.objLeft core key = ((s.objWord core key 1).extractLsb' 16 15).toNat
          ∧ t.objWord core key 2 = 0 ∧ t.objWord core key 3 = 0)) ∧
    (∀ n, s.objLeft core key = 0 → s.objWord core key 2 + BitVec.ofNat 32 n = s.objWord core key 3 →
      (s.objLand core key n).objPhase core key = !s.objPhase core key))

/-- The fault point of a memory operation (05 R141, R142; 07 R178; 17 R360): where no lane's check fails it is passed, with the places that the checks
found; else the cause of the lowest failing lane is raised with the lanes that failed, and nothing is performed. A copy's next page is translated (12 R294). -/
def Obligations.FaultPoint : Prop :=
  (∀ (s : State) (gid n : Nat) (g : Grp) (o : Op), s.hasOp gid n g o → (∀ x, o.instr ≠ .tex x) → (∀ x, o.instr ≠ .tld x) → o.passed = false → o.rel = false →
    g.raised = [] → g.escalated = false → isSfu o.instr = false → isMatrix o.instr = false → (∀ x, o.instr ≠ .pref x) → (∀ x, o.instr ≠ .ldw x) →
    (∀ x, o.instr ≠ .arrv x) → s.sameAddrs g n o = false →
    let r := s.checkLanes g o o.doLanes ⟨[], [], []⟩
    (∀ p, p ∈ r.1.locs → p.2 ≠ .void) →
      (r.1.faults = [] → exec (.translationWalk (.op gid n)) s = .next (r.2.setGrp gid { g with
        ops := Tab.put g.ops n { o with passed := true, locs := r.1.locs, locs2 := r.1.locs2, obj := none } })) ∧
      (∀ e es, r.1.faults = e :: es → o.kind ≠ 2 → (g.defer = false ∨ g.inHandler = true) → (∀ d, d ∈ e :: es → d.cause < 0x10) →
        exec (.translationWalk (.op gid n)) s = .next (r.2.setGrp gid { g with raised := g.raised ++
          [⟨e.cause, 0, o.slot, o.m, maskOf ((e :: es).map (fun d => d.lane)), o.pc, e.addr, e.win, wordsOpcode o.words, some n, false⟩] }))) ∧
  (∀ (s : State) (core k : Nat) (c : Copy) (r : XOk), Tab.find (s.coreAt core).copies k = some c → (∀ x, c.instr ≠ .cpyx x) → s.copyHeld c = false →
    c.faulted = false → c.upto < c.total → (∀ p, p ∈ c.pages → p.1 ≠ (c.far c.upto).toNat / 4096) →
    s.translate core c.ctx c.sup (c.far c.upto) (if copyDir c.instr = 1 then .write else .read) = .ok r → r.void = false →
    exec (.translationWalk (.copy core k)) s = .next ((s.xCommit core r).putCopy core k { c with
      pages := ((c.far c.upto).toNat / 4096, r.pa / 4096 * 4096, false, r.path.map (fun a => a / 4096 * 4096)) :: c.pages, upto := c.samePage c.upto 256 }))

/-! ### The matrix unit and percolation -/

/-- The issue of the matrix instructions (08 R215, R217, R221, R223 to R225): with their window operands and sparse headers in order, a direct one stands
last in its quarter's queue with its operands captured; a loop gets the next number of tl4, and runs if its quarter has none and no percolation run of its group
is open (09 R242). -/
def Obligations.MatrixIssue : Prop :=
  (∀ (i : Instr) (u : MatrixRule) (s : State) (g : Grp) (f : Frag), matrixRule i = some u → Issues i (g.guarded f u.k) s g f →
    (g.upred u.k.toNat = false → Completes i s g (fun k h => h = k)) ∧
    (g.upred u.k.toNat = true → windowsOk s g (u.us g) → CompletesAfter i s g
      (fun v => v = s.modCore g.core (fun k => { k with mq := k.mq.set (g.slot / 32) (k.mq.getD (g.slot / 32) [] ++ [(s.iss.g, g.opNext)]) }))
      (matrixBegins i g f (u.slots g)))) ∧
  (∀ (x : Mm) (s : State) (g : Grp) (f : Frag), Issues (.mmas x) (g.guarded f x.k) s g f →
    (g.upred x.k.toNat = false → Completes (.mmas x) s g (fun k h => h = k)) ∧
    (g.upred x.k.toNat = true → windowsOk s g (winUses g x.y true 1 .read ++ winUses g x.z false 1 .read) →
      let hd := s.headerAt g (sparseBase g x.y)
      (sparseOk x.f hd = true → CompletesAfter (.mmas x) s g
        (fun v => v = s.modCore g.core (fun k => { k with mq := k.mq.set (g.slot / 32) (k.mq.getD (g.slot / 32) [] ++ [(s.iss.g, g.opNext)]) }))
        (matrixBegins (.mmas x) g f [captureDesc g x.y, captureDesc g x.z, caughtScalar (hd.getD 0 0)])) ∧
      (sparseOk x.f hd = false → exec (.mmas x) s = .next (s.raiseIssue 0x0A 0 0 s.iss.pc
        ((sparseBase g x.y).setWidth 64) true s.iss.opcode false)))) ∧
  (∀ (x : Mm) (s : State) (g : Grp) (f : Frag) (sp : Bool) (n : Nat), Issues (.mloop x) (g.guarded f x.k) s g f → mloopHimm x.pf = some (sp, n) →
    (g.upred x.k.toNat = false → Completes (.mloop x) s g (fun k h => h = k)) ∧
    (g.upred x.k.toNat = true → windowsOk s g (winUses g x.y sp n .read ++ winUses g x.z false n .read) →
      (sp = true → sparseOk x.f (s.headerAt g (sparseBase g x.y)) = true) →
      let l : Loop := ⟨s.iss.g, g.opNext, g.slot / 32, 0, n, sp, g.tlLast 4 + 1, g.launch⟩
      CompletesAfter (.mloop x) s g
        (fun v => v = s.modCore g.core (fun k =>
          if (∀ e, e ∈ k.loops ++ k.lq → e.quarter ≠ g.slot / 32) ∧ g.percOpen = false then { k with loops := k.loops ++ [l] } else { k with lq := k.lq ++ [l] }))
        (fun k h => ∃ (j : Grp) (o : Op), j = { k with tln := j.tln } ∧ (∀ i, j.tlLast i = if i = 4 then k.tlLast 4 + 1 else k.tlLast i) ∧ j.opBegins h o
          ∧ o.instr = .mloop x ∧ o.n = g.tlLast 4 + 1 ∧ o.slots = [captureDesc g x.y, captureDesc g x.z] ∧ (o.reads, o.lines) = matrixOperands g (.mloop x))))

/-- What the direct operations give (08 R218, R220, R228; 03 R87 to R89): zeros; the transpose; and in element (i, j) of an accumulator the chunked sum over row i
of A and row j of B, from its old value.
The steps of the matrix unit (08 R217, R218, R224, R225, R230): a free unit takes the oldest direct instruction or the next loop step of the quarter whose
turn it is; a completed operation's lines are written, and a direct one, or a loop after its last step, ends. -/
def Obligations.MatrixOperations : Prop :=
  (∀ (s : State) (g : Grp) (o : Op), o.lines.length = 32 →
    let out (i j : Nat) : Word := (((s.directOut g o).lines.getD i (0, [])).2).getD j 0
    ((∃ x, o.instr = .mzero x) ∨ (∃ x, o.instr = .mtrn x) → (s.directOut g o).lines.map (fun p => p.1) = o.lines) ∧
    (∀ x i j, o.instr = .mzero x → i < 32 → j < 32 → out i j = 0) ∧
    (∀ x i j, o.instr = .mtrn x → o.reads.length = 32 → i < 32 → j < 32 → out i j = g.word (o.reads.getD j 0) i) ∧
    (∀ x i j, o.instr = .mma x → i < 32 → j < 32 →
      let a := (s.operandRows g o (mFmt x.f).a x.f x.y 0 0 none).1
      let b := (s.operandRows g o (mFmt x.f).b x.f x.z 1 0 none).1
      a.length = 32 → b.length = 32 → out i j = (mFmt x.f).dot (g.word (o.lines.getD i 0) j) (a.getD i []) (b.getD j []))) ∧
  ((∀ (s : State) (core q gid n : Nat) (g : Grp) (o : Op), (s.coreAt core).unit = none → s.nextQuarter (s.coreAt core) = some q →
    s.readyDirect (s.coreAt core) q = some (gid, n) → s.readyLoop (s.coreAt core) q = none → s.hasOp gid n g o →
    let k := s.coreAt core
    let r := s.directOut g o
    ∃ t, exec (.matrixUnitOperation core) s = .next t ∧ coreBecomes s t core { k with
      mq := k.mq.set q ((k.mq.getD q []).drop 1), mlast := q, loopLast := k.loopLast.set q 0, unit := some ⟨gid, n, false, q, r.lines, r.win, r.poison⟩ }) ∧
  (∀ (s : State) (core q : Nat) (l : Loop) (g : Grp) (o : Op) (x : Mm), (s.coreAt core).unit = none → s.nextQuarter (s.coreAt core) = some q →
    s.readyLoop (s.coreAt core) q = some l → (s.readyDirect (s.coreAt core) q = none ∨ (s.coreAt core).loopLast.getD q 0 ≠ 1) →
    s.hasOp l.g l.op g o → o.instr = .mloop x → l.sp = false →
    let k := s.coreAt core
    let r := s.mulStep g o x l.step none
    ∃ t, exec (.matrixUnitOperation core) s = .next t ∧ coreBecomes s t core { k with
      unit := some ⟨l.g, l.op, true, q, r.lines, r.win, r.poison⟩, mlast := q, loopLast := k.loopLast.set q 1 }) ∧
  (∀ (s : State) (core : Nat) (u : UnitOp) (g : Grp) (o : Op), (s.coreAt core).unit = some u → u.isLoop = false → u.quarter ≠ 4 → u.win = [] → s.hasOp u.g u.op g o →
    (∀ p, p ∈ g.ops → ∀ x, p.2.instr ≠ .setl x) →
    ∃ t v, coreBecomes s v core { s.coreAt core with unit := none } ∧ exec (.matrixOperationComplete core) s = .next t
      ∧ v.endsOp t u.g u.op o (g.putLines u.lines u.poison)) ∧
  (∀ (s : State) (core : Nat) (u : UnitOp) (l : Loop) (g : Grp), (s.coreAt core).unit = some u → u.isLoop = true → u.win = [] →
    (s.coreAt core).loops.find? (fun e => decide (e.g = u.g) && decide (e.op = u.op)) = some l → l.step + 1 ≠ l.count → Tab.find s.groups u.g = some g →
    ∃ t, exec (.matrixOperationComplete core) s = .next t ∧ Tab.find t.groups u.g = some (g.putLines u.lines u.poison)
      ∧ t.coreAt core = { s.coreAt core with unit := none, loops := (s.coreAt core).loops.map (fun e => if e = l then { e with step := e.step + 1 } else e) }) ∧
  (∀ (s : State) (core : Nat) (l : Loop) (r : List Loop), (s.coreAt core).lq = l :: r → l ∉ r → (∀ e, e ∈ (s.coreAt core).loops → e.quarter ≠ l.quarter) →
    (s.grp l.g).percBefore l.op = true →
    ∃ t, exec (.mloopStart core) s = .next t ∧ coreBecomes s t core { s.coreAt core with lq := r, loops := (s.coreAt core).loops ++ [l] }))

/-- Percolation (09 R231, R233, R239 to R241, R245): PERC takes the next number of tl4, sr.pstate and a place at the core's sequencer; its cap out of range is
ILLEGAL; the sequencer starts the oldest run; an iteration whose products the unit has formed and whose residual passes the divergence bound raises PERCDIV and leaves its tiles, any other one writes
them, counts in sr.pstate, and ends the run when it converges or reaches its cap. -/
def Obligations.Percolation : Prop :=
  (∀ (x : Prc) (s : State) (g : Grp) (f : Frag), Issues (.perc x) (g.guarded f x.k) s g f →
    let cap := (g.scalar x.n.toNat).toNat
    (g.upred x.k.toNat = false → Completes (.perc x) s g (fun k h => h = k)) ∧
    (g.upred x.k.toNat = true → (cap = 0 ∨ 65535 < cap) → exec (.perc x) s = .next (s.trapHere 0x01 0)) ∧
    (g.upred x.k.toNat = true → 0 < cap → cap ≤ 65535 →
      ∃ (t h : Grp) (v : State) (o : Op), exec (.perc x) s = .next (v.percPut g.core ⟨s.iss.g, g.opNext, Sparse.getList g.coef 0 16, cap, g.tlLast 4 + 1, g.launch, percBlocks x 0⟩) ∧ s.goesOn v h
        ∧ t = { g with tln := t.tln, pstate := t.pstate } ∧ (∀ i, t.tlLast i = if i = 4 then g.tlLast 4 + 1 else g.tlLast i)
        ∧ t.pstate = (x.m.setWidth 64 <<< 53 ||| x.o.setWidth 64 <<< 52) ∧ t.opBegins h o ∧ o.instr = .perc x ∧ o.n = g.tlLast 4 + 1
        ∧ o.lines = (percLines g x).1 ++ (percLines g x).2)) ∧
  (∀ (s : State) (core : Nat) (p : Perc) (r : List Perc), (s.coreAt core).perc = none → (s.coreAt core).percq = p :: r → p ∉ r →
    (s.grp p.g).matrixFirst p.op = true →
    ∃ t, exec (.percStart core) s = .next t ∧ coreBecomes s t core { s.coreAt core with perc := some p, percq := r, file := (t.coreAt core).file }) ∧
  (∀ (s : State) (core : Nat) (p : Perc) (g : Grp) (o : Op) (x : Prc), (s.coreAt core).perc = some p → s.hasOp p.g p.op g o → o.instr = .perc x →
    g.matrixFirst p.op = true → x.m ≠ 0#3 → p.left = 0 → (∀ u, (s.coreAt core).unit = some u → u.quarter ≠ 4) →
    let n := if x.o = 1#1 then 64 else 32
    let lx := o.lines.take (n * n / 32)
    let lw := o.lines.drop (n * n / 32)
    let bad := o.lines.any (fun l => s.linePoisoned g l)
    let r := residualStep n x.m.toNat p.coef (g.mat n lx) (g.mat n lw) bad
    let rho := f32Val r.rho
    let c14 := f32Val (p.coef.getD 14 0)
    ((rho.isNan = true ∨ c14.isNan = false ∧ 0 < Fv.cmp rho c14) → ∃ t, exec (.percIteration core) s = .next t
      ∧ coreBecomes s { t with groups := s.groups } core { s.coreAt core with perc := none }
      ∧ Tab.find t.groups p.g = some { g with
          pstate := pstateNext g.pstate 0 (pstateCount g.pstate) 3 r.rho
          raised := g.raised ++ [⟨0x0B, 0, o.slot, o.m, o.m, o.pc, o.pc, false, wordsOpcode o.words, some p.op, false⟩] }) ∧
    (¬(rho.isNan = true ∨ c14.isNan = false ∧ 0 < Fv.cmp rho c14) → exec (.percIteration core) s = .next (s.percAfter p x r lx lw bad)))

/-! ### Copies -/

/-- The copy instructions (12 R285, R289 to R293): with their block in order (R291) and after the release step of their order, the copy stands last in its
quarter's queue with the next number of its timeline, or its object, and its flag is one higher. -/
def Obligations.CopyIssue : Prop :=
  ∀ (i : Instr) (x : Cp) (n : Nat) (s : State) (g : Grp) (f : Frag), (i = .cpy x ∧ n = 4 ∨ i = .cpyt x ∧ n = 8 ∨ i = .cpyx x ∧ n = 8) →
    Issues i (g.guarded f x.k) s g f → s.plainL1 g.core g.ctx →
    let b := (List.range n).map (fun j => g.scalar (x.n.toNat + j))
    let obj := if x.o = 1#1 then some (g.scalar x.b.toNat) else none
    let tl := if x.o = 1#1 then none else some x.i.toNat
    (g.upred x.k.toNat = false → Completes i s g (fun k h => h = k)) ∧
    (g.upred x.k.toNat = true → s.copyCheck g i b obj tl = none → CompletesAfter i s g
      (fun v => ∃ r c, (if x.r = 0#2 then r = s else s.released r g (if x.r = 3#2 then 4 else x.r.toNat))
        ∧ v = r.modCore g.core (fun k => { k with dq := k.dq.modify (g.slot / 32) (fun q => q ++ [c]) })
        ∧ c.g = s.iss.g ∧ c.ctx = g.ctx ∧ c.launch = g.launch ∧ c.team = g.team ∧ c.instr = i ∧ c.pc = s.iss.pc ∧ c.block = b ∧ c.obj = obj
        ∧ c.tl = tl.map (fun t => (t, (g.tlLast t + 1).toNat)) ∧ c.flag = flagOf (flagClass i) f.pos.setA f.pos.setB ∧ c.landed = [] ∧ c.count = 0)
      (fun k h => h = { k with tln := h.tln, flags := h.flags } ∧ (∀ j, h.tlLast j = if tl = some j then k.tlLast j + 1 else k.tlLast j)
        ∧ ∀ j, Sparse.get h.flags j = if flagOf (flagClass i) f.pos.setA f.pos.setB = some j then Sparse.get k.flags j + 1 else Sparse.get k.flags j)) ∧
    (g.upred x.k.toNat = true → s.copyCheck g i b obj tl = some .illegal → exec i s = .next (s.trapHere 0x01 0))

/-- The dray (12 R293 to R297): it accepts the oldest copy of the quarter whose turn it is while it runs fewer than sixteen, and its flag falls;
one that a pre-emption had stopped takes a place again first (12 R300); a unit whose
pages are translated lands, chunk by chunk, and counts on the copy's object; with the last unit the copy is complete. -/
def Obligations.DraySteps : Prop :=
  (∀ (s : State) (core q : Nat) (c : Copy),
    let k := s.coreAt core
    ((List.range 4).map (fun i => (k.dlast + 1 + i) % 4)).find? (fun q => (s.nextCopy core q).isSome) = some q →
    s.nextCopy core q = some (.queued c) → (Tab.find s.launches c.launch).isSome = true → (k.copies.filter (fun p => !p.2.away)).length < 16 → c.total ≠ 0 →
    ∃ t, exec (.copyAccept core q) s = .next (t.modGrp c.g (fun g => g.flagDown c.flag)) ∧ coreBecomes s t core { k with
      dq := k.dq.modify q (fun cs => cs.erase c), dlast := q
      copies := Tab.put k.copies k.copyNext { c with upto := if copyDir c.instr = 2 then c.total else 0 }, copyNext := k.copyNext + 1 }) ∧
  (∀ (s : State) (core q n : Nat) (c : Copy),
    let k := s.coreAt core
    ((List.range 4).map (fun i => (k.dlast + 1 + i) % 4)).find? (fun q => (s.nextCopy core q).isSome) = some q →
    s.nextCopy core q = some (.again n c) → (Tab.find s.launches c.launch).isSome = true → (k.copies.filter (fun p => !p.2.away)).length < 16 →
    exec (.copyAccept core q) s = .next (s.setCore core { k with copies := Tab.put k.copies n { c with away := false }, dlast := q })) ∧
  (∀ (s : State) (core k q : Nat) (c : Copy), Tab.find (s.coreAt core).copies k = some c → s.copyHeld c = false → q + (c.unit q).length ≤ c.upto →
    unitStarts c.instr c.block c.idx q = true → q ∉ c.landed → s.copyMay core c = true → (∀ x, c.instr = .cpyx x → x.d = 1#2 → q = c.count) →
    s.copyPort core c q = none →
    let t := ((c.unit q).foldl (fun t j => t.landChunk core c j) s).copyOut core c q
    let v := match c.obj with
      | some a => (match t.copyLoc core c a.toNat with | some p => t.objLand p.1 p.2 (16 * (c.unit q).length) | none => t)
      | none => t
    let c1 := { c with landed := q :: c.landed, count := c.count + (c.unit q).length }
    (c.count + (c.unit q).length ≠ c.total → exec (.copyUnitLanding core k q) s = .next (v.putCopy core k c1)) ∧
    (c.count + (c.unit q).length = c.total → exec (.copyUnitLanding core k q) s = .next (v.copyDone core k c)))

/-! ### Capsules -/

/-- CAPB (14 R331, R332): on a free record it takes the lock under the next generation, at step 0, writes owner and checkpoint and enters the body; a lock
descheduled for the adopt delay is adopted at its step; on any other it waits. -/
def Obligations.CapsuleBegins : Prop :=
  ∀ (x : Xn) (s : State) (g : Grp) (f : Frag) (r : XOk), Issues (.capb x) (g.guarded f x.k) s g f →
    let a := g.scalar (x.n.toNat + 1) ++ g.scalar x.n.toNat
    let v := (s.xCommit g.core r).capFlush g a
    let w := v.lock r.pa
    (g.upred x.k.toNat = false → Completes (.capb x) s g (fun k h => h = k)) ∧
    (g.upred x.k.toNat = true → a.toNat % 256 = 0 → s.translate g.core g.ctx g.sup a .atomic = .ok r → r.void = false → CapbFits v g r.pa →
      (lwActive w = false → s.iss.slot = 0 → (v.testAll true g [v.capEntry r.pa 0, v.capExit r.pa] none).1 = (false, none) →
        ∃ (u : State) (h : Grp), exec (.capb x) s = .next (u.acquire s.iss.g (lwScope w).toNat) ∧ Tab.find u.groups s.iss.g = some h
          ∧ h = { g with cap := h.cap, f0 := some { f with pos := posAt (v.capEntry r.pa 0), wait := .none, arriving := false } }
          ∧ h.cap.st = .hold ∧ h.cap.body = true ∧ h.cap.gen = lwGen w + 1 ∧ h.cap.step = 0 ∧ h.cap.rcd = a ∧ h.cap.exit = v.capExit r.pa
          ∧ u.lock r.pa = lockWord (lwGen w + 1) (lwScope w) false false false true g.me ∧ u.homeWord (r.pa + 8) = 0
          ∧ u.homeWord (r.pa + 0x74) = g.me.toNat) ∧
      (lwActive w = true → (lwDesched w = false ∨ v.adoptDue g r.pa = false) → exec (.capb x) s = .next (v.waitHere (.lock a))) ∧
      (lwActive w = true → lwDesched w = true → v.adoptDue g r.pa = true →
        (v.testAll true g [v.capEntry r.pa (v.homeWord (r.pa + 8)), v.capExit r.pa] none).1 = (false, none) →
        ∃ (u : State) (h : Grp), exec (.capb x) s = .next (u.acquire s.iss.g (lwScope w).toNat) ∧ Tab.find u.groups s.iss.g = some h
          ∧ h.cap.st = .adopting ∧ h.cap.body = true ∧ h.cap.gen = lwGen w ∧ h.cap.step = v.homeWord (r.pa + 8)
          ∧ u.lock r.pa = lockWord (lwGen w) (lwScope w) (lwFail w) (lwDone w) false true g.me))

/-- CSTEP and its commit (14 R335, R336): in a body the step's store and checkpoint are captured and the commit is outstanding; a commit whose group holds the
record at its step counts the step, one whose group does not ends the body. The release of the commit is done at its issue. Outside a body CSTEP and CAPE are ILLEGAL,
and so is CRES before a body has ended (14 R338).
CAPE (14 R337): a group that holds its record at its step writes results and completer after the release step of the record's scope and frees the lock with
DONE; an owner goes to the exit, an adopter back to its own CAPB. A group that does not hold it leaves the body. -/
def Obligations.CapsuleStepsAndEnds : Prop :=
  ((∀ (x : Cst) (s : State) (g : Grp) (f : Frag), Issues (.cstep x) f.mask s g f →
    let a := g.scalar (368 + x.a.toNat + 1) ++ g.scalar (368 + x.a.toNat)
    let begins (locs : List (Nat × Loc)) (k h : Grp) : Prop := ∃ (j : Grp) (o : Op), k.opBegins j o ∧ h = { j with cap := { k.cap with busy := true } } ∧ o.instr = .cstep x
      ∧ o.base = a ∧ o.slots = [[g.scalar (368 + x.v.toNat)], g.capRegs] ∧ o.locs = locs
    (∀ pa, s.capPa g = some pa → s.memPoisoned pa 16 = false) → s.plainL1 g.core g.ctx →
      (x.s = 0#1 → CompletesAfter (.cstep x) s g (fun v => s.released v g (s.capScope g)) (begins [])) ∧
      (x.s = 1#1 → a.toNat % 4 = 0 → ∀ r, s.translate g.core g.ctx g.sup a .write = .ok r → r.void = false →
        (s.xCommit g.core r).plainL1 g.core g.ctx →
        CompletesAfter (.cstep x) s g (fun v => (s.xCommit g.core r).released v g (s.capScope g)) (begins [(0, .mem r.pa r.path)]))) ∧
  (∀ (s : State) (gid n pa : Nat) (g : Grp) (o : Op) (x : Cst), s.hasOp gid n g o → o.instr = .cstep x → o.passed = true → g.raised = [] →
    s.capPa g = some pa → s.memPoisoned pa 16 = false →
    (g.holds (s.lock pa) = true → s.homeWord (pa + 8) = g.cap.step →
      ∃ (t : State) (h : Grp), exec (.cstepCommit gid n) s = .next t ∧ Tab.find t.groups gid = some h ∧ h.cap = { g.cap with step := g.cap.step + 1, loads := 0, busy := false }
        ∧ Tab.find h.ops n = none) ∧
    (¬(g.holds (s.lock pa) = true ∧ s.homeWord (pa + 8) = g.cap.step) → exec (.cstepCommit gid n) s = .next (s.setGrp gid (g.capLost.opDone n))))) ∧
  (∀ (x : Z) (s : State) (g : Grp) (f : Frag), Issues (.cape x) f.mask s g f →
    (∀ pa, s.capPa g = some pa → s.memPoisoned pa 16 = false → s.memPoisoned (pa + 0x70) 8 = false → pa % 256 = 0 →
      (g.holds (s.lock pa) = true → s.homeWord (pa + 8) = g.cap.step → s.plainL1 g.core g.ctx →
        ∃ (r u : State) (h : Grp), s.released r g (lwScope (s.lock pa)).toNat ∧ exec (.cape x) s = .next u ∧ Tab.find u.groups s.iss.g = some h
          ∧ (BitVec.ofNat 32 (r.homeWord (pa + 0x74)) = g.me →
              u.lock pa = lockWord (lwGen (r.lock pa)) (lwScope (r.lock pa)) (lwFail (r.lock pa)) true false false 0
                ∧ h = if g.cap.st = .hold then ({ g with cap := { g.cap with st := .doneOwn, body := false } }).redirect g.cap.exit else g.capLeave)) ∧
      (¬(g.holds (s.lock pa) = true ∧ s.homeWord (pa + 8) = g.cap.step) → exec (.cape x) s = .next (s.setGrp s.iss.g g.capLost))) ∧
    (s.capPa g = none → exec (.cape x) s = .next (s.setGrp s.iss.g g.capLost))) ∧
  (∀ (i : Instr) (s : State) (g : Grp) (f : Frag), Tab.find s.groups s.iss.g = some g → g.frag s.iss.slot = some f → instrIllegal i = none →
    (((∃ x, i = .cstep x) ∨ (∃ x, i = .cape x)) ∧ (g.inBody = false ∨ g.inHandler = true))
      ∨ ((∃ x, i = .cres x) ∧ (g.cap.st = .idle ∨ g.cap.st = .hold ∨ g.cap.st = .adopting)) → exec i s = .next (s.trapHere 0x01 0))

/-- CRES (14 R338): with the outcome there it says in k6 and k5 which it is, gives an owner its results, acquires at the record's scope and leaves the group IDLE;
a displaced owner's stays outstanding.
CAPB_ATTEMPT (14 R332, R334): a CAPB that waits on a lock with something to do is attempted as a whole; a displaced owner adopts its record again, as its
holder, once the lock has been descheduled for the adopt delay. -/
def Obligations.CapsuleOutcomes : Prop :=
  (∀ (x : Z) (s : State) (g : Grp) (f : Frag), Issues (.cres x) 0 s g f →
    (g.cap.st = .displaced → Completes (.cres x) s g (fun k h => ∃ o, k.opBegins h o ∧ o.instr = .cres x ∧ o.passed = true)) ∧
    ((g.cap.st = .doneOwn ∨ g.cap.st = .delivered ∨ g.cap.st = .failed) → s.plainL1 g.core g.ctx →
      CompletesAfter (.cres x) s g (fun u => s.acquired u g (s.capScope g)) (fun k h =>
        h = { k with cap := h.cap, k := h.k, s := h.s, spoison := h.spoison } ∧ h.cap.st = .idle ∧ h.cap.body = false
          ∧ h.upred 6 = decide (g.cap.st ≠ .doneOwn) ∧ h.upred 5 = decide (g.cap.st = .failed) ∧ (∀ n, n < 5 → h.upred n = k.upred n)
          ∧ ∀ n, h.scalar n = if g.cap.st = .delivered ∧ 368 ≤ n ∧ n < 368 + (g.cap.results.take 4).length then g.cap.results.getD (n - 368) 0 else k.scalar n))) ∧
  ((∀ (s : State) (gid : Nat) (g : Grp) (f : Frag) (a : Dword) (x : Xn) (u v : State), Tab.find s.groups gid = some g → g.cap.st ≠ .displaced →
    g.f0 = some f → f.wait = .lock a → s.lockOpen g a = true →
    (s.setGrp gid (g.setFrag 0 (some { f with wait := .none }))).turnOf gid 0 = .run (.capb x) u → exec (.capb x) u = .next v →
    exec (.capbAttempt gid) s = .next { v with iss := issNone }) ∧
  (∀ (s : State) (gid pa : Nat) (g : Grp), Tab.find s.groups gid = some g → g.cap.st = .displaced → s.capPa g = some pa → g.inHandler = false →
    g.escalated = false → g.life = .resident → lwActive (s.lock pa) = true → lwDesched (s.lock pa) = true → lwFail (s.lock pa) = false →
    s.adoptDue g pa = true → lwGen (s.lock pa) = g.cap.gen →
    ∃ (u : State) (h : Grp), exec (.capbAttempt gid) s = .next (u.acquire gid (lwScope (s.lock pa)).toNat) ∧ Tab.find u.groups gid = some h
      ∧ h.cap.st = .hold ∧ h.cap.body = true ∧ h.cap.step = s.homeWord (pa + 8)))

/-! ### Service calls -/

/-- SVC.D and SVC.C (18 R387, R390, R392): after a release step at .y a request with the next number of tl6 stands last in the die's ring, with four registers of
every active lane; SVC.D waits for its reply at the word after it, and resumes there with an acquire step at .y, SVC.C goes on; both wait while the ring is closed to their context. -/
def Obligations.ServiceCalls : Prop :=
  (∀ (x : SvcD) (s : State) (g : Grp) (f : Frag), Issues (.svcD x) f.mask s g f → s.plainL1 g.core g.ctx →
    (s.ringFull g.core g.ctx = true → Waits (.svcD x) s g f .ring) ∧
    (s.ringFull g.core g.ctx = false → coreDie g.core < s.dies.length →
      ∃ (t r : State) (h : Grp) (e : CallEntry), exec (.svcD x) s = .next t ∧ s.released r g 5 ∧ Tab.find t.groups s.iss.g = some h
        ∧ (t.dieAt (coreDie g.core)).calls = (r.dieAt (coreDie g.core)).calls ++ [e] ∧ e.g = s.iss.g ∧ e.ctx = g.ctx ∧ e.m = f.mask ∧ e.pc = s.iss.pc
        ∧ e.n = (g.tlLast 6 + 1).toNat ∧ (∀ l i, l < 32 → i < 4 → f.mask.getLsbD l = true → (e.slots.getD l []).getD i 0 = g.vreg (x.n.toNat + i) l)
        ∧ h.tlLast 6 = g.tlLast 6 + 1 ∧ h.frag s.iss.slot = some { f with
            pos := s.iss.after, wait := .service (g.tlLast 6 + 1), arriving := s.iss.last, starved := false, loadFree := false } ∧ t.mem = r.mem)) ∧
  (∀ (s : State) (gid slot : Nat) (g : Grp) (f : Frag), Tab.find s.groups gid = some g → g.frag slot = some f → f.wait = .service 0 → g.mayIssue f = true →
    s.plainL1 g.core g.ctx → ∃ u, s.turnOf gid slot = .done u ∧ (s.setGrp gid (g.setFrag slot (some { f with wait := .none }))).acquired u g 5) ∧
  (∀ (x : SvcD) (s : State) (g : Grp) (f : Frag), Issues (.svcC x) f.mask s g f → s.plainL1 g.core g.ctx →
    (s.ringFull g.core g.ctx = true → Waits (.svcC x) s g f .ring) ∧
    (s.ringFull g.core g.ctx = false → coreDie g.core < s.dies.length →
      CompletesAfter (.svcC x) s g (fun u => ∃ (r : State) (e : CallEntry), s.released r g 5 ∧ u = { r with dies := u.dies }
          ∧ (u.dieAt (coreDie g.core)).calls = (r.dieAt (coreDie g.core)).calls ++ [e] ∧ e.g = s.iss.g ∧ e.m = f.mask ∧ e.n = (g.tlLast 6 + 1).toNat)
        (fun k h => h = { k with tln := h.tln } ∧ h.tlLast 6 = k.tlLast 6 + 1)))

/-- How calls are served (18 R387, R389, R390, R392, R393): a die takes the oldest request that it serves itself, where it is the turn of that
request's context (18 R394), and counts the service; a reply lands its words in the lanes and
registers of the call, ends the call's wait and completes its tl6 number; a control reply writes its block instead, for a
caller that has retired too (01 R37); a caller that was ended gets nothing.
The slot in a call ring is the model's reading (log 21); what a control reply carries comes from outside (log 32). -/
def Obligations.ServiceSteps : Prop :=
  (∀ (s : State) (die : Nat) (e : CallEntry) (r : List CallEntry), die < s.dies.length → s.svcDown die = false → (s.dieAt die).calls = e :: r →
    s.callHandler e = none → s.svcNext die e.ctx = true → exec (.serviceRequestTake die) s =
      .next ((s.modDie die (fun d => { d with calls := r, serving := d.serving ++ [e] })).svcCount die e.ctx)) ∧
  (∀ (s : State) (gid n d : Nat) (g : Grp) (e : CallEntry), s.callOf gid n = some (.die d, e) → e.control = false → Tab.find s.groups gid = some g →
    e.lines.Nodup → (∀ ln, ln ∈ e.lines → ln < g.nlines) → g.canLand e.lines = true →
    let ws := s.serviceWords d e
    ∃ (t : State) (h : Grp), exec (.serviceCallReply gid n) s = .next t ∧ Tab.find t.groups gid = some h
      ∧ (∀ ln l, l < 32 → h.word ln l = match e.lines.zipIdx.find? (fun p => decide (p.1 = ln)) with
          | some (_, i) => if e.m.getLsbD l then (ws.getD l []).getD i 0 else g.word ln l
          | none => g.word ln l)
      ∧ (∀ f, g.f0 = some f → f.wait = .service (BitVec.ofNat 64 e.n) → e.n < 2 ^ 64 → h.f0 = some { f with wait := .service 0 })
      ∧ (∀ c, c ∈ (t.dieAt d).serving → c ∈ (s.dieAt d).serving)) ∧
  (∀ (s : State) (gid n d : Nat) (e : CallEntry), s.callOf gid n = some (.die d, e) → Tab.find s.groups gid = none →
    exec (.serviceCallReply gid n) s = .next (if e.control then s else s.callDone (.die d) e)) ∧
  (∀ (s : State) (gid n d status : Nat) (results : List Byte) (e : CallEntry), s.callOf gid n = some (.die d, e) → e.control = true →
    exec (.controlReply gid n status results) s = .next (if e.lost then s.callDone (.die d) e
      else ((s.callDone (.die d) e).replyBlock e (if e.number ≤ 1 then status else 0xFFFF) results).modGrp gid (fun k => k.tlComplete 6 n)))

/-! ### Groups that leave and return -/

/-- PARK, PARK_RETURN and RETIRE (01 R33 to R37; 14 R333): a group whose parking time has come is PARKED and counts it; one whose return is due takes the lowest
free slot; one with no fragment, flag or access left is gone. -/
def Obligations.ParkingAndRetiring : Prop :=
  (∀ (s : State) (gid : Nat) (g : Grp), Tab.find s.groups gid = some g → s.parkDue g = true → g.cap.body = false → g.cstepOp = none → g.atService = false →
    exec (.park gid) s = .next (s.setGrp gid { g with life := .parked, parkcnt := g.parkcnt + 1 })) ∧
  (∀ (s : State) (gid n : Nat) (g : Grp), Tab.find s.groups gid = some g → s.returnDue g = true → g.cap.body = false →
    (∀ p, p ∈ g.allFrags → ∀ a q m, p.2.wait ≠ .regx a q m) → n < 128 → n ∉ (s.roomOf g.core g.ctx).slots → (∀ k, k < n → k ∈ (s.roomOf g.core g.ctx).slots) →
    exec (.parkReturn gid) s = .next (s.setGrp gid { g with life := .resident, slot := n })) ∧
  (∀ (s : State) (gid : Nat) (g : Grp), Tab.find s.groups gid = some g →
    g.f0 = none → g.f1 = none → g.split = [] → (∀ i, i < 12 → g.flagVal i = 0) → (∀ i, i < 4 → Sparse.get g.paths i = 0) → g.deferred = [] → g.raised = [] →
    g.preQueue = [] → g.frame = none → g.escalated = false → g.life.onCore = true →
    (∀ l, Tab.find s.launches g.launch = some l → l.r.tG = true → g.team = 0 → g.froze.1 = true) →
    exec (.retire gid) s = .next (s.dropGroup gid false) ∧ Tab.find (s.dropGroup gid false).groups gid = none)

/-! ### Where the forms with conditions of their own complete -/

/-- Each control, capsule, roast, service, launch and command instruction completes where the spec has it execute normally: a transfer whose target is a clause header
(05 R123, R124, R127, R131, R132), an EXIT outside a handler (05 R133), a CAPB on a free record, a CSTEP, CAPE and CRES of a group whose capsule lets them (14 R331 to R338), a
FREEZE of a group that stands alone (10 R252 to R254), a service request while the ring is open (18 R387), a LAUNCH with room in its queue (18 R375) and a DCMD (21 R415)
whose block is readable. What else each does, the claims about it say. -/
def Obligations.ControlFormsComplete : Prop :=
  ((∀ (x : Br) (s u : State) (g : Grp) (f : Frag), Issues (.bra x) 0 s g f → (∀ l, f.mask.getLsbD l = true → (g.pred x.g.toNat).getLsbD l = true) →
    s.leadsTo u g (s.iss.pc + 4 * x.o.signExtend 64) →
    ∃ t, exec (.bra x) s = .next t ∧ Tab.find t.groups s.iss.g = some (g.goto s.iss.slot (s.iss.pc + 4 * x.o.signExtend 64))) ∧
  (∀ (x : Br) (s u : State) (g : Grp) (f : Frag), Issues (.call x) 0 s g f → (∀ l, f.mask.getLsbD l = true → (g.pred x.g.toNat).getLsbD l = true) →
    s.leadsTo u g (s.iss.pc + 4 * x.o.signExtend 64) →
    ∃ t j, exec (.call x) s = .next t ∧ g.writesVPair j 126 f.mask (fun _ => s.iss.pc + 4)
      ∧ Tab.find t.groups s.iss.g = some (j.goto s.iss.slot (s.iss.pc + 4 * x.o.signExtend 64))) ∧
  (∀ (x : Xn) (s u : State) (g : Grp) (f : Frag), Issues (.jmpi x) (g.guarded f x.k) s g f → g.upred x.k.toNat = true →
    let a := g.scalar (x.n.toNat + 1) ++ g.scalar x.n.toNat
    farOk a → s.leadsTo u g a → ∃ t, exec (.jmpi x) s = .next t ∧ Tab.find t.groups s.iss.g = some (g.goto s.iss.slot a)) ∧
  (∀ (x : Br) (s u : State) (g : Grp) (f : Frag), Issues (.br x) 0 s g f →
    let a := s.iss.pc + 4 * x.o.signExtend 64
    let b := s.iss.pc + 4
    let t := f.mask &&& g.pred x.g.toNat
    let n := f.mask &&& ~~~(g.pred x.g.toNat)
    t ≠ 0 → n ≠ 0 → a ≠ b → s.leadsTo u g a → (g.f0 = none ∨ g.f1 = none ∨ g.split.length < 64) →
    ∃ v, exec (.br x) s = .next v ∧ Tab.find v.groups s.iss.g =
      some (if a < b then g.splitTo s.iss.slot f (a, t) (b, n) else g.splitTo s.iss.slot f (b, n) (a, t))) ∧
  (∀ (x : Br) (s u : State) (g : Grp) (f : Frag) (e : Nat), Issues (.rcv x) 0 s g f →
    let a := s.iss.pc + 4 * x.o.signExtend 64
    s.leadsTo u g a → f.mask &&& g.pred x.g.toNat ≠ 0 → g.split.length < 64 → g.freeEntry = some e →
    ∃ t h, exec (.rcv x) s = .next t ∧ Tab.find t.groups s.iss.g = some h
      ∧ Tab.find h.split e = some ⟨g.orderNext, .reconv a (f.mask &&& g.pred x.g.toNat) 0⟩) ∧
  (∀ (x : Ret) (s u : State) (g : Grp) (f : Frag) (a : Dword), Issues (.ret x) f.mask s g f → f.mask ≠ 0 →
    (∀ l, f.mask.getLsbD l = true → g.vreg (x.n.toNat + 1) l ++ g.vreg x.n.toNat l = a) → farOk a → s.leadsTo u g a →
    ∃ t, exec (.ret x) s = .next t
      ∧ Tab.find t.groups s.iss.g = some ((g.setFrag s.iss.slot (some { fragAt a f.mask with bko := f.bko })).enterAt (.slot s.iss.slot))) ∧
  (∀ (x : Ex) (s : State) (g : Grp) (f : Frag), Issues (.exit x) 0 s g f → g.inHandler = false → f.mask ≠ 0 → f.mask &&& g.pred x.g.toNat = f.mask →
    ∃ t, exec (.exit x) s = .next t ∧ Tab.find t.groups s.iss.g = some ((g.setFrag s.iss.slot none).exitLanes f.mask))) ∧
  ((∀ (x : Xn) (s : State) (g : Grp) (f : Frag) (r : XOk), Issues (.capb x) (g.guarded f x.k) s g f → g.upred x.k.toNat = true → s.iss.slot = 0 →
    let a := g.scalar (x.n.toNat + 1) ++ g.scalar x.n.toNat
    let v := (s.xCommit g.core r).capFlush g a
    a.toNat % 256 = 0 → s.translate g.core g.ctx g.sup a .atomic = .ok r → r.void = false → CapbFits v g r.pa → lwActive (v.lock r.pa) = false →
    (∃ u, v.leadsTo u g (v.capEntry r.pa 0) ∧ farOk (v.capEntry r.pa 0) ∧ ∃ w, u.leadsTo w g (v.capExit r.pa) ∧ farOk (v.capExit r.pa)) →
    ∃ (t u : State) (h : Grp), exec (.capb x) s = .next t ∧ t = u.acquire s.iss.g (lwScope (v.lock r.pa)).toNat ∧ Tab.find u.groups s.iss.g = some h
      ∧ h.cap.st = .hold ∧ h.cap.body = true) ∧
  (∀ (x : Cst) (s : State) (g : Grp) (f : Frag), Issues (.cstep x) f.mask s g f → x.s = 0#1 → s.plainL1 g.core g.ctx →
    (∀ pa, s.capPa g = some pa → s.memPoisoned pa 16 = false) →
    ∃ t h, exec (.cstep x) s = .next t ∧ Tab.find t.groups s.iss.g = some h ∧ h.cap = { g.cap with busy := true } ∧ h.opNext = g.opNext + 1) ∧
  (∀ (x : Z) (s : State) (g : Grp) (f : Frag) (pa : Nat), Issues (.cape x) f.mask s g f → s.capPa g = some pa → s.memPoisoned pa 16 = false →
    s.memPoisoned (pa + 0x70) 8 = false → g.holds (s.lock pa) = true → s.homeWord (pa + 8) = g.cap.step → s.plainL1 g.core g.ctx →
    ∃ r, s.released r g (lwScope (s.lock pa)).toNat ∧ exec (.cape x) s = .next ((r.capeRecord g pa).modGrp s.iss.g Grp.capeEnd)) ∧
  (∀ (x : Z) (s : State) (g : Grp) (f : Frag), Issues (.cres x) 0 s g f → (g.cap.st = .doneOwn ∨ g.cap.st = .delivered ∨ g.cap.st = .failed) →
    s.plainL1 g.core g.ctx → ∃ t h, exec (.cres x) s = .next t ∧ Tab.find t.groups s.iss.g = some h ∧ h.cap.st = .idle)) ∧
  ((∀ (x : Z) (s : State) (g : Grp) (f : Frag) (l : Launch) (ro : Nat) (r : Roast), Issues (.freezeG x) 0 s g f → f.wait ≠ .freeze → Freezes s g f l false →
    l.roast = some ro → Tab.find s.roasts ro = some r → s.plainL1 g.core g.ctx →
    ∃ t q, exec (.freezeG x) s = .next t ∧ Tab.find t.roasts ro = some q
      ∧ Tab.find q.parts g.idx = some (g.roastPart s.iss.after (true, false))) ∧
  (∀ (x : Z) (s : State) (g : Grp) (f : Frag) (l : Launch), Issues (.freezeT x) 0 s g f → Freezes s g f l true → s.plainL1 g.core g.ctx →
    ∃ t q, exec (.freezeT x) s = .next t ∧ Tab.find t.roasts s.nextRoast = some q ∧ q.sealed = true
      ∧ Tab.find q.parts 0 = some (g.roastPart s.iss.after (g.froze.1, true)))) ∧
  ((∀ (x : SvcD) (s : State) (g : Grp) (f : Frag), Issues (.svcD x) f.mask s g f → s.plainL1 g.core g.ctx → s.ringFull g.core g.ctx = false →
    ∃ t h k, exec (.svcD x) s = .next t ∧ Tab.find t.groups s.iss.g = some h ∧ h.tlLast 6 = g.tlLast 6 + 1 ∧ h.frag s.iss.slot = some k
      ∧ k.pos = s.iss.after ∧ k.wait = .service (g.tlLast 6 + 1)) ∧
  (∀ (x : SvcD) (s : State) (g : Grp) (f : Frag), Issues (.svcC x) f.mask s g f → s.plainL1 g.core g.ctx → s.ringFull g.core g.ctx = false →
    ∃ t h, exec (.svcC x) s = .next t ∧ Tab.find t.groups s.iss.g = some h ∧ h.tlLast 6 = g.tlLast 6 + 1) ∧
  (∀ (x : Xn) (s : State) (g : Grp) (f : Frag) (r : XOk), Issues (.launch x) (g.guarded f x.k) s g f → g.upred x.k.toNat = true → g.pend.length < 4 →
    let a := g.scalar (x.n.toNat + 1) ++ g.scalar x.n.toNat
    let q := (s.xCommit g.core r).readGlobal ((g.how s.iss.pc).on r.path) (va48 a) r.pa 64
    a.toNat % 64 = 0 → s.translate g.core g.ctx g.sup a .read = .ok r → r.void = false → q.2.plainL1 g.core g.ctx →
    ∃ t h e, exec (.launch x) s = .next t ∧ Tab.find t.groups s.iss.g = some h ∧ h.pend = g.pend ++ [e] ∧ e.rcd = q.1.1 ∧ h.tlLast 5 = g.tlLast 5 + 1) ∧
  (∀ (x : Xn) (s : State) (g : Grp) (f : Frag) (r : XOk), Issues (.dcmd x) (g.guarded f x.k) s g f → g.upred x.k.toNat = true →
    let a := g.scalar (x.n.toNat + 1) ++ g.scalar x.n.toNat
    let q := (s.xCommit g.core r).readGlobal ((g.how s.iss.pc).on r.path) (va48 a) r.pa 128
    a.toNat % 128 = 0 → s.translate g.core g.ctx g.sup a .read = .ok r → r.void = false → q.2.plainL1 g.core g.ctx →
    ∃ t h c, exec (.dcmd x) s = .next t ∧ Tab.find t.groups s.iss.g = some h ∧ h.tlLast 7 = g.tlLast 7 + 1 ∧ Tab.find t.cmds s.nextCmd = some c
      ∧ c.block = q.1.1 ∧ c.issuer = g.ctx))

/-! ### Launches -/

/-- LAUNCH (18 R375, R376): its record, read as the group's own access at scope .g and after a release step at .k, stands in the group's queue with the next number
of tl5, and its flag is one higher; it waits while four are pending. -/
def Obligations.LaunchIssue : Prop :=
  ∀ (x : Xn) (s : State) (g : Grp) (f : Frag) (r : XOk), Issues (.launch x) (g.guarded f x.k) s g f →
    let a := g.scalar (x.n.toNat + 1) ++ g.scalar x.n.toNat
    let q := (s.xCommit g.core r).readGlobal ((g.how s.iss.pc).on r.path) (va48 a) r.pa 64
    let flag := flagOf (flagClass (.launch x)) f.pos.setA f.pos.setB
    (g.upred x.k.toNat = false → Completes (.launch x) s g (fun k h => h = k)) ∧
    (g.upred x.k.toNat = true → 4 ≤ g.pend.length → Waits (.launch x) s g f .pending) ∧
    (g.upred x.k.toNat = true → g.pend.length < 4 → a.toNat % 64 = 0 → s.translate g.core g.ctx g.sup a .read = .ok r → r.void = false →
      q.2.plainL1 g.core g.ctx →
      CompletesAfter (.launch x) s g (fun u => q.2.released u g 4) (fun k h => h = { k with pend := h.pend, tln := h.tln, flags := h.flags }
        ∧ (∀ i, h.tlLast i = if i = 5 then k.tlLast 5 + 1 else k.tlLast i)
        ∧ (∀ i, Sparse.get h.flags i = if flag = some i then Sparse.get k.flags i + 1 else Sparse.get k.flags i)
        ∧ ∃ e, h.pend = k.pend ++ [e] ∧ e.g = s.iss.g ∧ e.ctx = g.ctx ∧ e.launch = g.launch ∧ e.sup = g.sup ∧ e.rcd = q.1.1
            ∧ e.n = (g.tlLast 5 + 1).toNat ∧ e.flag = flag))

/-- Acceptance and completion (18 R374, R377, R380): a record in order becomes a launch, with every team still to come; an invalid one completes at once as refused;
a launch whose work is over is gone, its launcher's tl5 number is complete, and its completion block counts. -/
def Obligations.LaunchSteps : Prop :=
  (∀ (s : State) (die gid : Nat) (e : PendingLaunch),
    leastBy (fun p => if (s.dieAt die).rr < p.1 then p.1 else p.1 + 2 ^ 64) ((s.pendHeads die).filter (fun p => s.pendReady p.2)) = some (gid, e) →
    let r0 := readRecord e.rcd
    let r1 := e.lower r0
    let r := if r0.cls = 2 ∧ r1.cls ≠ 2 then { r1 with dline := 0 } else r1
    s.procFree die = true → r0.valid = true →
    exec (.launchAccept die) s = .next ((s.dropPending die e).acceptRecord
      ⟨die, e.ctx, e.sup, some (e.g, e.n), none, e.issued, none, e.pace, e.th, e.thEn, none⟩ r true)
    ∧ r.cls ≤ e.cls ∧ r.prio ≤ e.prio) ∧
  (∀ (s : State) (a : Accepting) (r : LRec) (dl : Bool) (ws : List (Word × Bool)) (t : State), r.valid = true → (a.privOk = true ∨ r.priv = false) →
    s.grantOk a.ctx r = true → a.queue = none → a.absolute = none → s.preloadWords a.die a.ctx r 0 r.npre = (some ws, t) →
    ∃ l, Tab.find (s.acceptRecord a r dl).launches s.nextLaunch = some l ∧ l.ctx = a.ctx ∧ l.launcher = a.launcher ∧ l.r = r ∧ l.die = a.die ∧ l.next = 0
      ∧ l.done = 0 ∧ l.teams = [] ∧ l.st = .running ∧ l.refused = false ∧ l.preload = ws ∧ l.id = t.launchId + 1
      ∧ l.deadline = (if r.cls = 2 ∧ dl = true then some (a.base + 1000 * r.dline) else none)) ∧
  (∀ (s : State) (lid : Nat) (l : Launch), Tab.find s.launches lid = some l → s.launchOver lid l = true → s.earlierOpen l = false →
    exec (.launchCompletion lid) s = .next (s.finishLaunch lid l (if l.refused then 1 else if l.aborted then 2 else 0))
    ∧ ∀ last, let t := s.finishLaunch lid l last
      Tab.find t.launches lid = none ∧ (∀ p, p ∈ t.roasts → p.2.launch ≠ lid)
        ∧ ∀ g n h, l.launcher = some (g, n) → l.queue = none → Tab.find s.groups g = some h → Tab.find t.groups g = some (h.tlComplete 5 n)) ∧
  (∀ (s : State) (die x : Nat) (sup : Bool) (cblk : Dword) (inc last : Nat) (r : XOk), cblk ≠ 0 → cblk.toNat % 16 = 0 → r.pa % 16 = 0 →
    s.walkVa die x sup cblk .atomic = .ok r → r.void = false → r.tr.dsets = [] → (∀ c, c ∈ s.chain x → (s.ctxAt c).dirtyMap = none) →
    let t := s.completeBlock die x sup cblk inc last
    t.homeDword r.pa = (s.homeDword r.pa + inc) % 2 ^ 64
      ∧ t.homeWord (r.pa + 8) = (if last = 0 then s.homeWord (r.pa + 8) else (s.homeWord (r.pa + 8) + 1) % 2 ^ 32)
      ∧ (last ≠ 0 → last < 256 → t.homeByte (r.pa + 12) = BitVec.ofNat 8 last))

/-- Team dispatch (19 R402 to R404; 01 R16): the launches of a class are tried in order; the first that fits is admitted, one that does not counts a skip, and at the
64th reserves the cluster; what comes back to the cluster goes first (log 67). A created group has one fragment at the entry with its present lanes, its preload words, and all else zero. -/
def Obligations.TeamAdmission : Prop :=
  (∀ (s : State) (die cl : Nat), die < 4 → cl < 12 → s.comesBackTo (12 * die + cl) = false → exec (.teamAdmission die cl) s =
    .next (((s.noteAll.pickClasses die (12 * die + cl) [2, 1, 0]).deadlinePreempt die (12 * die + cl)).noteAll)) ∧
  (∀ (s : State) (die cl i : Nat) (rest : List Nat) (l : Launch), Tab.find s.launches i = some l →
    (∀ t, s.tryAdmit i cl l = some t → s.pickFrom die cl (i :: rest) = (t, true)) ∧
    (s.tryAdmit i cl l = none → l.skips < 63 →
      s.pickFrom die cl (i :: rest) = (s.modLaunch i (fun k => { k with skips := k.skips + 1 })).pickFrom die cl rest) ∧
    (s.tryAdmit i cl l = none → 63 ≤ l.skips → s.pickFrom die cl (i :: rest) =
      ((s.modLaunch i (fun k => { k with skips := k.skips + 1 })).modDie die (fun d =>
        { d with reserved := (cl, i) :: d.reserved.filter (fun p => decide (p.1 ≠ cl)) }), true))) ∧
  (∀ (s : State) (lid team k : Nat) (l : Launch) (t : Team) (core slot fidx : Nat), Tab.find s.launches lid = some l → Tab.find l.teams team = some t →
    t.places[k]? = some (core, slot, fidx) →
    ∃ h, Tab.find (s.createGroup lid team k).groups s.nextGroup = some h ∧ h.core = core ∧ h.slot = slot ∧ h.fidx = fidx ∧ h.ctx = l.ctx ∧ h.launch = lid
      ∧ (∀ n, n < 32 → h.gmask.getLsbD n = decide (32 * k + n < l.r.lanes)) ∧ h.f0 = some (fragAt l.r.entry h.gmask) ∧ h.f1 = none ∧ h.split = []
      ∧ (∀ ln n, h.word ln n = 0) ∧ (∀ i, i < 7 → h.pred i = 0 ∧ h.upred i = false) ∧ (∀ i, h.flagVal i = 0) ∧ h.inHandler = false ∧ h.cap.st = .idle
      ∧ h.nlines = (if k < l.r.nP then l.r.lp else l.r.lc) ∧ h.role = (if k < l.r.nP then 0 else 1)
      ∧ ∀ n, n < 16 * l.r.nsc → h.scalar n = (l.preload.getD n (0, false)).1)

/-! ### Queues, pacing and pre-emption -/

/-- A doorbell of a queue in order (19 R396, R397, R399, R401): its slot reads the write index again, or the first free slot of the die is bound to it with its
counters clear.
QUEUE_FETCH (19 R397, R398, R401): a bound slot of a running context with an entry to fetch, within its limit, hands the record at the read index to the launch
processor, with the descriptor's class and priority, and moves the read index on; of an entry rewritten while it was pending the record is the old one or the new one
(R396; log 20).
Where the doorbells stand and which die receives them, is the model's choice (log 30). -/
def Obligations.QueueSteps : Prop :=
  (∀ (s : State) (addr val x : Nat) (r : XOk) (t : State), (addr < 2 ^ 52 → s.homeWord addr = val) → s.bellCtx addr = some x → val < 2 ^ 16 →
    val < (s.ctxAt x).qcount → ((s.ctxAt x).st = .active ∨ (s.ctxAt x).st = .frozen) →
    s.walkVa (s.bellDie x) x true (BitVec.ofNat 64 ((s.ctxAt x).qtab + 64 * val)) .write = .ok r → r.void = false →
    (s.traced r.tr).checkQueue (s.bellDie x) x val r.pa = (true, t) →
    exec (.doorbell addr val) s = .next (s.ring x val) ∧
    (∀ d n, t.slotOf x val = some (d, n) → s.ring x val = t.setSlot d n { t.slotAt d n with
      rung := (t.dieAt d).clock, write := t.qWrite (t.slotAt d n).desc, seen := (t.slotAt d n).seen ++ [(t.qWrite (t.slotAt d n).desc, t.codeLog.length)] }) ∧
    (∀ n, t.slotOf x val = none → n < 24 → t.bellDie x < 4 → s.bellDie x = t.bellDie x → (t.slotAt (s.bellDie x) n).st = .free →
      (∀ m, m < n → (t.slotAt (s.bellDie x) m).st ≠ .free) → s.ring x val = t.bindSlot (s.bellDie x, n) x val r.pa) ∧
    (∀ d n, d < t.dies.length → n < (t.dieAt d).slots.length →
      let k := (t.bindSlot (d, n) x val r.pa).slotAt d n
      k.st = .bound ∧ k.ctx = x ∧ k.q = val ∧ k.desc = r.pa ∧ k.fetched = 0 ∧ k.completed = 0 ∧ k.write = t.qWrite r.pa ∧ k.inFlight = t.queueOpen x val)) ∧
  (∀ (s t : State) (die n : Nat) (w : XOk),
    let k := s.slotAt die n
    let x := k.ctx
    let i := t.qRead k.desc
    let ctl := t.qctl k.desc
    k.st = .bound → s.runs x = true → s.qRead k.desc ≠ k.write → qEn (s.qctl k.desc) = true → s.checkQueue die x k.q k.desc = (true, t) →
    t.walkVa die x true (t.ringVa k.desc i) .read = .ok w → w.void = false →
    let b := (t.traced w.tr).entryBytes k i w.pa
    let r := { readRecord b.1 with cls := qClass ctl, prio := qPrio ctl }
    k.inFlight ≤ k.flim → (qSer ctl = true → t.queueOpen x k.q = 0) → t.procFree die = true → t.storageReady x (t.ctxAt x).qpriv r = true →
    (b.1 = (t.traced w.tr).homeRead w.pa 64 ∨ some b.1 = (t.traced w.tr).entryThen k i w.pa)
      ∧ ((∀ p, p ∈ k.seen → i < p.1 → (t.traced w.tr).codeLog.length ≤ p.2) → b.1 = (t.traced w.tr).homeRead w.pa 64) ∧
    ∃ u v, u = ((b.2.l2Touch w.pa).homeSetDword (k.desc + 0x18) ((i + 1) % 2 ^ 64)).trackVa x ((t.ctxAt x).qtab + 64 * k.q)
      ∧ v = u.setSlot die n { k with
          fetched := k.fetched + 1, inFlight := k.inFlight + 1, write := u.qWrite k.desc
          seen := k.seen.filter (fun p => decide (i + 1 < p.1)) ++ [(u.qWrite k.desc, u.codeLog.length)] }
      ∧ exec (.queueFetch die n) s = .next (v.acceptRecord ⟨die, x, (v.ctxAt x).qpriv, none, some (k.q, i), (v.dieAt die).clock,
        v.fetchDeadline die x r (qDlmode ctl), k.pace, k.th, k.thEn, none⟩ r true))

/-- Pacing and slices (11 R275, R276; 19 R405): intervals that have run out are dropped, and what they held back is poured; a hold ends with
its point reached, the highest that a held launch of the die asks for, or after 40 us; a slice that has run out
pre-empts its launch when another context wants the cores, and begins anew else. -/
def Obligations.PacingAndSlices : Prop :=
  (∀ (s : State) (die : Nat), die < s.dies.length → ∃ (t : State) (gone : List (Nat × Nat)),
    exec (.staggerExpiry die) s = .next (gone.foldl (fun u p => u.pourDue p.1) t).noteAll ∧ t = { s with dies := t.dies }
    ∧ (∀ p, p ∈ gone ↔ p ∈ (s.dieAt die).starts ∧ p ∉ (t.dieAt die).starts)
    ∧ ∀ p, p ∈ (t.dieAt die).starts ↔ p ∈ (s.dieAt die).starts ∧
        ∃ l, Tab.find s.launches p.1 = some l ∧ (l.pace = 2 ∨ (s.dieAt die).clock < p.2 + l.r.staggerNs)) ∧
  (∀ (s : State) (die : Nat), die < s.dies.length → (s.launches.map (fun p => p.1)).Nodup →
    let d := s.dieAt die
    let since (i : Nat) : Nat := match d.starts.find? (fun p => decide (p.1 = i)) with | some p => p.2 | none => 0
    let late (i : Nat) : Prop := since i + 40000 ≤ d.clock
    let holds (l : Nat × Launch) : Prop := l ∈ s.launches ∧ l.2.die = die ∧ l.2.held = true
    ∃ (t : State) (point : Nat), exec (.operatingPointHoldEnd die) s = .next t.noteAll ∧ (t.dieAt die).point = point
      ∧ ((∃ l, holds l ∧ late l.1) ∨ (∀ l, ¬holds l) → point = d.point)
      ∧ ((∃ l, holds l) → (∀ l, holds l → ¬late l.1) → (∀ l, holds l → d.hintFor l.2 ≤ point) ∧ (point = 1 ∨ ∃ l, holds l ∧ point = d.hintFor l.2))
      ∧ ∀ i l, Tab.find s.launches i = some l → ∃ b, Tab.find t.launches i = some { l with held := b }
          ∧ ((∃ k, holds k ∧ late k.1) → (b = true ↔ l.held = true ∧ ¬(l.die = die ∧ late i)))
          ∧ ((∀ k, holds k → ¬late k.1) → (b = true ↔ l.held = true ∧ ¬(l.die = die ∧ l.r.ophint ≤ point)))) ∧
  (∀ (s : State) (lid b : Nat) (l : Launch), Tab.find s.launches lid = some l → l.sliceAt = some b → l.r.cls ≠ 2 → l.st = .running →
    b + 1000 * (if l.r.cls = 1 then (s.dieAt l.die).slices.1 else (s.dieAt l.die).slices.2) ≤ (s.dieAt l.die).clock →
    let wants := ∃ o, o ∈ s.launches ∧ o.2.ctx ≠ l.ctx ∧ l.r.cls ≤ o.2.r.cls ∧ s.holdsFor lid o = true ∧ s.fitsAnywhere o.2 = false
    (wants → exec (.sliceEnd lid) s = .next (s.signal lid).noteAll) ∧
    (¬wants → exec (.sliceEnd lid) s = .next (s.modLaunch lid (fun k => { k with sliceAt := some (s.dieAt l.die).clock }))))

/-- Pre-emption (11 R277 to R280; 19 R407; 21 R433): the signal stops a running launch; a core that holds anything of it stops and saves its groups, each PREEMPTED with its
operations captured, and its engines' work, and a save area that does not take what is written there has its context error-fenced; all of it comes back when every core has a place for what it held, in the queues of its engines too (log 67),
and the launch runs again. -/
def Obligations.Preemption : Prop :=
  (∀ (s : State) (lid : Nat) (l : Launch), Tab.find s.launches lid = some l → l.st = .running →
    Tab.find (s.signal lid).launches lid = some { l with st := .preempted, held := false, sliceAt := none }) ∧
  (∀ (s : State) (core lid : Nat) (l : Launch), Tab.find s.launches lid = some l → l.st = .preempted → s.coreHas core lid = true →
    let gs := (s.coreGroups core).filter (fun p => decide (p.2.launch = lid))
    exec (.corePreempt core lid) s = .next ((((gs.foldl (fun u p => u.preemptGroup p.1) s).saveCore core lid).launchLeaves core lid).saveArea l.ctx
      (s.savedAt core lid l.ctx gs))) ∧
  (∀ (s : State) (x a : Nat) (as : List Nat), x ≠ 0 →
    (∀ e, s.physNest x a true = .error e → e.tr = .none → (s.ctxAt x).errFence = none →
      s.saveArea x (a :: as) = s.setCtx x { s.ctxAt x with errFence := some ⟨1, e.cause, e.stage, e.level, some e.missCtx, 2, a⟩ }) ∧
    (∀ e, s.physNest x a true = .ok e → s.saveArea x (a :: as) = (s.traced e.tr).saveArea x as)) ∧
  (∀ (s : State) (gid : Nat) (g : Grp), Tab.find s.groups gid = some g → g.raised = [] → g.cap.body = false → g.cstepOp = none →
    (∀ p, p ∈ g.ops → ∀ x, p.2.instr ≠ .perc x) →
    ∃ h, Tab.find (s.preemptGroup gid).groups gid = some h ∧ h.life = .preempted (decide (g.life = .parked)) ∧ h.waitAt = s.clockOf g.core
      ∧ h.preQueue = g.preQueue ++ g.unpassed.map (entryOf []) ∧ (∀ n o, Tab.find h.ops n = some o → o.passed = true)
      ∧ h.rs = g.rs ∧ h.s = g.s ∧ h.p = g.p ∧ h.k = g.k ∧ h.f0 = g.f0 ∧ h.f1 = g.f1 ∧ h.split = g.split) ∧
  (∀ (s t : State) (lid : Nat) (l : Launch), Tab.find s.launches lid = some l → l.st = .preempted → s.runs l.ctx = true →
    (∀ c, c ∈ s.coresOf lid → s.coreHas c lid = false) → (∀ c, c ∈ l.calls → c ∉ s.openCalls lid) → s.yieldsTo lid l = false →
    (s.coresOf lid).foldl (fun (o : Option State) c => o.bind (fun t => t.backCore c lid l)) (some s) = some t → l.pace ≠ 2 → Tab.find t.launches lid = some l →
    let u := t.modLaunch lid (fun k => { k with
        st := .running, calls := [], first := true, sliceAt := if k.teams.isEmpty then none else some (t.dieAt l.die).clock })
    let v := (s.coresOf lid).foldl (fun w c => w.backEngines c lid) u
    ((∀ c, c ∈ s.coresOf lid → (v.coreAt c).queuesFit = true) →
      exec (.preemptResume lid) s = .next (((v.groups.filter (fun p => decide (p.2.launch = lid))).foldl (fun x p => x.backGroup p.1) v).pourDue lid)) ∧
    (∀ c, c ∈ s.coresOf lid → (v.coreAt c).queuesFit = false → exec (.preemptResume lid) s = .next s))

/-! ### Issue timing, caches and the register file -/

/-- The steps that time a fragment's issue and a core's throttle (05 R135; 11 R269 to R273): a delay ends; an eligible fragment starves; a throttled group's load is
let through; the level follows the window's victim hits, and is 32 where the throttle is off.
A line that is missed comes into the file, where its bank has room or a line of it may leave, the least recently used, and no word of it changes (06 R158 to R160); a line that leaves L1 has its dirty bytes written and leaves a victim tag
(07 R199; 11 R270). -/
def Obligations.TimingAndCaches : Prop :=
  ((∀ (s : State) (gid slot : Nat) (g : Grp) (f : Frag), Tab.find s.groups gid = some g → g.frag slot = some f →
    exec (.backoffExpiry gid slot) s = .next (s.setGrp gid (g.setFrag slot (some { f with delayed := false }))) ∧
    ((s.issuer gid slot g).isSome = true →
      exec (.fragmentStarved gid slot) s = .next (s.setGrp gid (g.setFrag slot (some { f with starved := true })))) ∧
    (∀ i t, s.turnOf gid slot = .run i t → isGlobalLoad i = true → t.throttled (t.grp gid) = true →
      exec (.throttleOverride gid slot) s = .next (s.setGrp gid (g.setFrag slot (some { f with loadFree := true }))))) ∧
  (∀ (s : State) (core : Nat),
    let k := s.coreAt core
    ∃ t n, exec (.throttleWindowEnd core) s = .next t ∧ coreBecomes s t core { k with vhits := 0, level := n } ∧
      (k.ten = false → n = 32) ∧ (k.ten = true → k.thi < k.vhits → k.level ∈ [32, 24, 16, 8, 4] → n ∈ [24, 16, 8, 4] ∧ (n < k.level ∨ n = 4)) ∧
      (k.ten = true → k.vhits ≤ k.thi → k.tlo ≤ k.vhits → n = k.level) ∧
      (k.ten = true → k.vhits ≤ k.thi → k.vhits < k.tlo → k.level ∈ [32, 24, 16, 8, 4] → n ∈ [32, 24, 16, 8] ∧ (k.level < n ∨ n = 32)))) ∧
  ((∀ (s : State) (gid line : Nat) (g : Grp), Tab.find s.groups gid = some g → line < g.nlines →
    let k := s.coreAt g.core
    let bank := k.file.filter (fun e => decide ((s.grp e.1).bank e.2.1 = g.bank line))
    ∃ t, exec (.lineMissFill gid line) s = .next t ∧ coreBecomes s t g.core { k with file := (t.coreAt g.core).file }
      ∧ ((∃ b, (gid, line, b) ∈ k.file) → (t.coreAt g.core).file = k.file)
      ∧ ((∀ b, (gid, line, b) ∉ k.file) → bank.length < 384 → (t.coreAt g.core).file = (gid, line, false) :: k.file)
      ∧ ((∀ b, (gid, line, b) ∉ k.file) → 384 ≤ bank.length → (∀ e, e ∈ bank → s.evictable k e.1 e.2.1 = false) → (t.coreAt g.core).file = k.file)
      ∧ (∀ v, (∀ b, (gid, line, b) ∉ k.file) → 384 ≤ bank.length → (bank.filter (fun e => s.evictable k e.1 e.2.1)).getLast? = some v →
          (t.coreAt g.core).file = (gid, line, false) :: k.file.filter (fun e => decide (e ≠ v)))) ∧
  (∀ (s : State) (core i : Nat) (l : L1Line), core ≠ 384 → (s.coreAt core).l1[i]? = some l → l.held = false → (s.coreAt core).evictFirst l = true →
    s.plainL1 core l.ctx → ∃ t, exec (.l1EvictionWriteback core i) s = .next t ∧ t.l1Find core l.ctx l.va = none ∧ (t.coreAt core).victims = ((l.ctx, l.va) :: (s.coreAt core).victims).take 2048
      ∧ (∀ a, (∀ j, l.dirtyAt j → l.pa + j ≠ a) → Sparse.get t.mem a = Sparse.get s.mem a)
      ∧ ((∀ m, m < 128 → s.l2Held (l.pa + m) = false) → ∀ j, l.dirtyAt j → Sparse.get t.mem (l.pa + j) = lineByte l.data j)))

/-! ### Service cores -/

/-- GSPAWN, GJOIN, VLT and VST.T by a hart outside user mode (18 R383 to R386): a valid block whose team fits starts it, and the status says which; GJOIN stays at
its word until the counter has the value; VLT and VST.T move 128 bytes between a vector register and a window of the die. Which exceptions stop them, the
model presumes (log 9). -/
def Obligations.ServiceCoreWords : Prop :=
  (∀ (s : State) (w : Word), s.iss.words = [w] →
    let d := s.iss.die
    let n := s.iss.hart
    let h := s.hartAt d n
    let out (t : State) (k : Hart) : Out := .next (t.setHart d n k)
    (∀ x, h.mode ≠ 0 →
      let a := h.get x.s.toNat
      let r := s.spawn d (s.homeRead a.toNat 256)
      (a.toNat % 256 = 0 → s.hartReach a = true → exec (.gspawn x) s = out r.2 { h.set x.d.toNat (BitVec.ofNat 64 r.1) with pc := h.pc + 4 }) ∧
      (a.toNat % 256 ≠ 0 ∨ s.hartReach a = false → exec (.gspawn x) s = out s (h.trap 5 a))) ∧
    (∀ x, h.mode ≠ 0 →
      let a := h.get x.s.toNat
      let v := s.homeDword a.toNat
      (a.toNat % 8 = 0 → s.hartReach a = true → (h.get x.t.toNat).toNat ≤ v →
        exec (.gjoin x) s = out s { h.set x.d.toNat (BitVec.ofNat 64 v) with pc := h.pc + 4 }) ∧
      (a.toNat % 8 = 0 → s.hartReach a = true → v < (h.get x.t.toNat).toNat → exec (.gjoin x) s = out s h)) ∧
    (∀ x, h.mode ≠ 0 → h.vstart = 0 → ∀ c key, s.locate d (h.get x.s.toNat) (h.get x.t.toNat) = some (c, key) →
      exec (.vlt x) s = out s { h with v := Sparse.set h.v x.d.toNat (setLineBytes 0 0 (s.winRead c key 128)), pc := h.pc + 4 }) ∧
    (∀ x, h.mode ≠ 0 → h.vstart = 0 → ∀ c key, s.locate d (h.get x.s.toNat) (h.get x.t.toNat) = some (c, key) →
      exec (.vstT x) s = out (s.winWrite c key (lineBytes (Sparse.get h.v x.v.toNat) 0 128)) { h with pc := h.pc + 4 })) ∧
  (∀ (s : State) (die : Nat) (bs : List Byte),
    let r := spawnRecord bs
    let f (o n : Nat) : Nat := leNat ((bs.drop o).take n)
    (s.spawnOk die bs = false → s.spawn die bs = (1, s)) ∧
    (s.spawnOk die bs = true → s.spawnFit die (f 0x08 2) (f 0x0A 2) r = none → s.spawn die bs = (2, s)) ∧
    (s.spawnOk die bs = true → s.spawnFit die (f 0x08 2) (f 0x0A 2) r ≠ none → (s.spawn die bs).1 = 0 ∧
      ∃ l, Tab.find (s.spawn die bs).2.launches s.nextLaunch = some l ∧ l.ctx = f 0x08 2 ∧ l.r = r ∧ l.next = 1 ∧ l.launcher = none
        ∧ l.join = if f 0x10 8 = 0 then none else some (f 0x10 8)))

/-! ### Device commands -/

/-- How a command reaches firmware (21 R415 to R417, R429): DCMD copies its block and takes the next number of tl7, after a release step at .y; a write to a page's
go word hands over the page's block; the journal accepts commands in order, and a code that names none is INVALID.
The end of a command (21 R415, R416, R419): it is gone; a group's block holds the status and, on OK, the results, and its tl7 number is complete; a page's block
holds them and vector 0 of its function is pending.
The number of the physical function and the dies of the journal are the model's choice (logs 34, 35); the moment of an unknown code's INVALID is
its reading (log 28); the order among the items of a die is its choice (log 72). -/
def Obligations.CommandTraffic : Prop :=
  ((∀ (x : Xn) (s : State) (g : Grp) (f : Frag) (r : XOk), Issues (.dcmd x) (g.guarded f x.k) s g f →
    let a := g.scalar (x.n.toNat + 1) ++ g.scalar x.n.toNat
    let q := (s.xCommit g.core r).readGlobal ((g.how s.iss.pc).on r.path) (va48 a) r.pa 128
    let flag := flagOf (flagClass (.dcmd x)) f.pos.setA f.pos.setB
    (g.upred x.k.toNat = false → Completes (.dcmd x) s g (fun k h => h = k)) ∧
    (g.upred x.k.toNat = true → a.toNat % 128 = 0 → s.translate g.core g.ctx g.sup a .read = .ok r → r.void = false → q.2.plainL1 g.core g.ctx →
      CompletesAfter (.dcmd x) s g
        (fun u => ∃ (v : State) (c : Cmd), q.2.released v g 5 ∧ u = { v with cmds := Tab.put v.cmds v.nextCmd c, nextCmd := v.nextCmd + 1 }
          ∧ c.block = q.1.1 ∧ c.issuer = g.ctx ∧ c.src = some (s.iss.g, (g.tlLast 7 + 1).toNat, a, flag) ∧ c.vf = none ∧ c.accepted = none ∧ c.begun = false)
        (fun k h => h = { k with tln := h.tln, flags := h.flags } ∧ (∀ i, h.tlLast i = if i = 7 then k.tlLast 7 + 1 else k.tlLast i)
          ∧ ∀ i, Sparse.get h.flags i = if flag = some i then Sparse.get k.flags i + 1 else Sparse.get k.flags i))) ∧
  (∀ (s : State) (fn : Nat), fn ≤ 384 →
    let x := if fn = 384 then 0 else Tab.findD s.pkg.vfs fn 0
    (s.pkg.boot = .ready → ∃ c : Cmd, exec (.hostCommandGo fn) s = .next { s with cmds := Tab.put s.cmds s.nextCmd c, nextCmd := s.nextCmd + 1 }
      ∧ c.block = (s.fnPage fn).block ∧ c.issuer = x ∧ c.src = none ∧ c.vf = some fn ∧ c.accepted = none ∧ c.begun = false) ∧
    (s.pkg.boot = .failed → ∃ t : State, exec (.hostCommandGo fn) s = .next t
      ∧ (t.fnPage fn).block = (s.fnPage fn).block.take 8 ++ leBytes 4 1 ++ (s.fnPage fn).block.drop 12)) ∧
  (∀ (s : State) (i : Nat) (c : Cmd), Tab.find s.cmds i = some c → c.accepted = none → s.svcDown c.die = false → s.svcNext c.die c.issuer = true →
    (∀ g n a fl, c.src = some (g, n, a, fl) → (c.issuer = 0 ∨ s.runs c.issuer = true)
      ∧ ∀ j o m b e, (j, o) ∈ s.cmds → j < i → o.accepted = none → o.src ≠ some (g, m, b, e)) →
    ∃ t n, (∀ o k, o ∈ s.cmds → o.2.accepted = some k → k < n) ∧ Tab.find t.cmds i = some { c with accepted := some n, dies := journalDies c.die }
      ∧ (∀ g m a fl h, c.src = some (g, m, a, fl) → Tab.find s.groups g = some h → Tab.find t.groups g = some (h.flagDown fl))
      ∧ exec (.commandJournal i) s = .next (if c.code = 0 ∨ 0x11 < c.code then t.cmdDone i { c with accepted := some n, dies := journalDies c.die } 1 [] else t))) ∧
  (∀ (s : State) (i st : Nat) (c : Cmd) (rs : List (Nat × List Byte)),
    let t := s.cmdDone i c st rs
    Tab.find t.cmds i = none ∧
    (∀ g n a fl h, c.src = some (g, n, a, fl) → Tab.find s.groups g = some h → Tab.find t.groups g = some (h.tlComplete 7 n)) ∧
    (∀ g n a fl u, c.src = some (g, n, a, fl) → (st ≠ 0 ∨ rs = []) → ({ s with cmds := Tab.drop s.cmds i } : State).fwFault c.issuer true a.toNat 128 .write = none →
      ({ s with cmds := Tab.drop s.cmds i } : State).fwWrite c.issuer true (a.toNat + 8) (leBytes 4 st) = some u → t.mem = u.mem) ∧
    (∀ fn, c.src = none → c.vf = some fn → (st ≠ 0 ∨ rs = []) →
      (t.fnPage fn).block = (s.fnPage fn).block.take 8 ++ leBytes 4 st ++ (s.fnPage fn).block.drop 12 ∧ (t.fnPage fn).msix.getLsbD 0 = true))

/-- CREATE, DESTROY and REVOKE (21 R420, R432): a child with the lowest free id, FROZEN, one level deeper, under a new generation; a child's subtree is fenced, and
once its engines have stopped it is reset and its ids are free.
Which of several statuses is returned and the two steps of a reset are the model's reading (logs 26, 36). -/
def Obligations.ContextCommands : Prop :=
  (∀ (s : State) (i n : Nat) (c : Cmd), s.cmdIs i c 0x01 → c.begun = false → c.clean 0 [(0x10, 8), (0x18, 2), (0x1C, 4)] = true → c.f 0x10 8 % 4096 = 0 →
    s.worldOk c.issuer (c.f 0x18 2) = true → c.target = 0 → s.freeId = some n → (s.ctxAt c.issuer).depth < 4 →
    ∃ t : State, exec (.create i) s = .next (t.cmdDone i c 0 [(0x1C, leBytes 4 (n + 2 ^ 16 * ((s.ctxAt n).gen + 1).toNat))])
      ∧ t.ctxAt n = { ctxInit with st := .frozen, parent := c.issuer, depth := (s.ctxAt c.issuer).depth + 1, gen := (s.ctxAt n).gen + 1
                                   tag := (s.ctxAt n).tag, world := c.f 0x18 2, save := c.f 0x10 8, mark := c.mark }
      ∧ (∀ y, y ≠ n → t.ctxAt y = s.ctxAt y) ∧ t.mem = s.mem ∧ t.groups = s.groups) ∧
  (∀ (s : State) (i : Nat) (c : Cmd) (e : Instr), (e = .destroy i ∧ s.cmdIs i c 0x02 ∨ e = .revoke i ∧ s.cmdIs i c 0x0C) →
    let x := c.target
    (c.begun = false → c.clean 0 [] = true → s.isChild c.issuer x = true → (e = .destroy i → (s.ctxAt x).st = .frozen ∧ s.childrenOf x = []) →
      exec e s = .next ((s.isolate (s.subtree x)).beginCmd i c)) ∧
    (c.begun = true → s.quiet (s.subtree x) = true → exec e s = .next ((s.resetCtx x true).cmdDone i c 0 []))) ∧
  (∀ (s : State) (xs : List Nat), (∀ x, x ∈ xs → ((s.isolate xs).ctxAt x).st = .fenced)
    ∧ (∀ p, p ∈ (s.isolate xs).cmds ↔ p ∈ s.cmds ∧ p.2.issuer ∉ xs) ∧ (s.isolate xs).mem = s.mem) ∧
  (∀ (s : State) (x : Nat), (s.ctxAt x).part = none →
    let t := s.resetCtx x true
    (∀ y, y ∈ s.subtree x → (t.ctxAt y).st = .free) ∧ (∀ p, p ∈ t.groups → p.2.ctx ∉ s.subtree x)
      ∧ (∀ p, p ∈ t.launches → p.2.ctx ∉ s.subtree x)) ∧
  (∀ (s : State) (x f a : Nat) (xs : List Nat) (more : List (Nat × Nat)), f ∈ s.mapFrames x → f ≤ a → a < f + 2 ^ 21 →
    Sparse.get (s.wipeCtx x xs more).mem a = 0)

/-- GRANT_CORE, GRANT_MEM, GRANT_QUEUES, GRANT_LINK and SET_HANDLER (21 R420, R421, R423; 17 R359): a command in order sets what its block names in its target, and
completes OK.
Which of several statuses is returned, and what context 0 holds, is the model's reading (logs 36, 38); RESOURCE for a map that is not contiguous is its
choice (log 23). -/
def Obligations.GrantCommands : Prop :=
  (∀ (s : State) (i : Nat) (c : Cmd), s.cmdIs i c 0x03 → c.begun = false →
    let x := c.target
    let k := s.ctxAt x
    let m := BitVec.ofNat 64 (c.f 0x10 8)
    c.clean 0 [(0x10, 16)] = true → c.f 0x10 8 < 2 ^ 48 → c.f 0x18 8 ≤ 2 ^ 32 → s.isChild c.issuer x = true →
    (∀ p, p ∈ s.groups → p.2.ctx ∈ s.subtree x → (k.clMask &&& ~~~m).getLsbD (coreCluster p.2.core) = false) →
    let sum := ((s.childrenOf c.issuer).filter (fun o => decide (o ≠ x))).foldl (fun a o => a + (s.ctxAt o).share) (c.f 0x18 8)
    (m &&& ~~~(s.ctxAt c.issuer).clMask ≠ 0 ∨ 2 ^ 32 < sum → exec (.grantCore i) s = .next (s.cmdDone i c 4 [])) ∧
    (m &&& ~~~(s.ctxAt c.issuer).clMask = 0 → sum ≤ 2 ^ 32 → (k.st = .active → s.saveOk x (m &&& ~~~k.clMask) = true) →
      exec (.grantCore i) s = .next ((s.setCtx x { k with clMask := m, share := c.f 0x18 8 }).noteAll.cmdDone i c 0 []))) ∧
  (∀ (s : State) (i pa : Nat) (c : Cmd), s.cmdIs i c 0x04 → c.begun = false →
    let x := c.target
    let k := s.ctxAt x
    c.clean 0xF [(0x10, 12), (0x20, 28)] = true → s.isChild c.issuer x = true →
    (c.flags.testBit 0 = true → c.f 0x20 8 % 4096 = 0 ∧ c.f 0x20 8 < 2 ^ 52) → (c.flags.testBit 2 = true → c.f 0x28 8 % 8 = 0) →
    (c.flags.testBit 3 = true → c.f 0x30 8 % 2 ^ 21 = 0) → (c.flags.testBit 1 = true → c.f 0x10 8 % 8 = 0) →
    (c.flags.testBit 1 = true ∧ c.f 0x18 4 ≠ 0 → s.contiguous c.issuer (c.f 0x10 8) (8 * c.f 0x18 4) = some (pa, true)) →
    (c.flags.testBit 1 = true ∧ c.f 0x18 4 = 0 → pa = 0) →
    let t := s.grantMemory c pa
    t.ctxAt x = { k with
      root := if c.flags.testBit 0 then c.f 0x20 8 else k.root
      mapBase := if c.flags.testBit 1 then pa else k.mapBase, mapCount := if c.flags.testBit 1 then c.f 0x18 4 else k.mapCount
      dirtyMap := if c.flags.testBit 2 then (if c.f 0x28 8 = 0 then none else some (c.f 0x28 8)) else k.dirtyMap
      pool := if c.flags.testBit 3 then c.f 0x30 8 else k.pool, poolCount := if c.flags.testBit 3 then c.f 0x38 4 else k.poolCount
      gen := if c.flags.testBit 0 || c.flags.testBit 1 || c.flags.testBit 3 then k.gen + 1 else k.gen
      mark := if c.flags.testBit 0 || c.flags.testBit 1 || c.flags.testBit 3 then c.mark else k.mark } ∧
    (c.flags.testBit 1 = false → exec (.grantMem i) s = .next (t.cmdDone i c 0 [])) ∧
    (∀ fs, c.flags.testBit 1 = true → t.joining x = some fs → exec (.grantMem i) s = .next ((t.leaveWorlds.joinWorld x fs).cmdDone i c 0 []))) ∧
  (∀ (s : State) (i : Nat) (c : Cmd), s.cmdIs i c 0x05 → c.begun = false → c.clean 3 [(0x10, 12), (0x20, 8)] = true → c.f 0x10 8 % 64 = 0 → 1 ≤ c.f 0x18 4 →
    c.f 0x18 4 + (s.ctxs.foldl (fun a k => if k.1 = c.target then a else a + k.2.qcount) 0) ≤ 65536 → c.f 0x20 8 % 4 = 0 → s.isChild c.issuer c.target = true →
    exec (.grantQueues i) s = .next ((s.setCtx c.target { s.ctxAt c.target with
      qtab := c.f 0x10 8, qcount := c.f 0x18 4, doorbell := c.f 0x20 8, restart := c.flags.testBit 0, qpriv := c.flags.testBit 1 }).cmdDone i c 0 [])) ∧
  (∀ (s : State) (i : Nat) (c : Cmd), s.cmdIs i c 0x06 → c.begun = false → c.clean 0 [(0x10, 2), (0x18, 24)] = true → s.isChild c.issuer c.target = true →
    let ps := BitVec.ofNat 16 (c.f 0x10 2)
    let pk := BitVec.ofNat 64 (c.f 0x28 8)
    (c.issuer = 0 ∨ ps &&& ~~~(s.ctxAt c.issuer).ports = 0 ∧ pk &&& ~~~(s.ctxAt c.issuer).packages = 0) →
    exec (.grantLink i) s = .next ((s.setCtx c.target { s.ctxAt c.target with
      ports := ps, packages := pk, portShares := (List.range 16).map (fun j => c.f (0x18 + j) 1) }).cmdDone i c 0 [])) ∧
  (∀ (s : State) (i : Nat) (c : Cmd), s.cmdIs i c 0x07 → c.begun = false → c.clean 3 [(0x10, 9), (0x1A, 2), (0x20, 64)] = true →
    s.isSelfOrChild c.issuer c.target = true →
    (c.flags.testBit 0 = true → c.f 0x10 8 % 64 = 0 ∧ 4 ≤ c.f 0x18 1 ∧ c.f 0x18 1 ≤ 16 ∧ c.f 0x1A 2 < 128 ∧ c.f 0x20 8 % 8 = 0 ∧ c.f 0x28 8 ≠ 0
      ∧ c.f 0x28 8 % 16 = 0 ∧ c.f 0x30 8 % 4 = 0 ∧ c.f 0x58 8 % 64 = 0) →
    (c.flags.testBit 1 = true → c.f 0x38 8 % 2 ^ 14 = 0 ∧ c.f 0x40 8 % 2 ^ 16 = 0) →
    ∃ t : State, exec (.setHandler i) s = .next (t.cmdDone i c 0 []) ∧ (∀ y, y ≠ c.target → t.ctxAt y = s.ctxAt y) ∧ t = { s with ctxs := t.ctxs } ∧
      let k := s.ctxAt c.target
      let q := c.flags.testBit 0
      let p := c.flags.testBit 1
      t.ctxAt c.target = { k with
        ring := if q then c.f 0x10 8 else k.ring, lgsz := if q then c.f 0x18 1 else k.lgsz, mask := if q then BitVec.ofNat 7 (c.f 0x1A 2) else k.mask
        replies := if q then c.f 0x20 8 else k.replies, notify := if q then c.f 0x28 8 else k.notify, replyBell := if q then c.f 0x30 8 else k.replyBell
        callRing := if q then c.f 0x58 8 else k.callRing, frames := if p then c.f 0x38 8 else k.frames
        stackBase := if p then c.f 0x40 8 else k.stackBase, tvec := if p then BitVec.ofNat 64 (c.f 0x48 8) else k.tvec
        parkns := if p then BitVec.ofNat 32 (c.f 0x50 4) else k.parkns, adopt := if p then BitVec.ofNat 32 (c.f 0x54 4) else k.adopt })

/-- FREEZE and THAW (21 R421, R428): FREEZE pre-empts the subtree's launches and makes its target FROZEN; once every engine has stopped, no fabric request is open and
no command that its groups issued is half done, it writes the L1 lines back and completes. THAW with its save areas mapped makes it ACTIVE.
CHECKPOINT and RESTORE (21 R430; 22 R443): the image of a settled FROZEN subtree is written, and its number, bytes and size are told; an image that the target's
grants cover comes back with its launches and groups. The image's layout is open (log 39). -/
def Obligations.StoppingAndImages : Prop :=
  ((∀ (s : State) (i : Nat) (c : Cmd), s.cmdIs i c 0x08 →
    let x := c.target
    let xs := s.subtree x
    (c.begun = false → c.clean 0 [] = true → s.isChild c.issuer x = true → (s.ctxAt x).st = .active →
      ∃ t : State, exec (.freeze i) s = .next (t.beginCmd i c) ∧ (t.ctxAt x).st = .frozen ∧ (∀ y, y ≠ x → t.ctxAt y = s.ctxAt y)
        ∧ ∀ n l, Tab.find s.launches n = some l → l.ctx ∈ xs → l.st = .running → ∃ k, Tab.find t.launches n = some k ∧ k.st = .preempted) ∧
    (c.begun = true → s.quiet xs = true → s.drainedPorts xs = true → (∀ p, p ∈ s.cmds → p.2.begun = true → p.2.src ≠ none → p.2.issuer ∉ xs) →
      exec (.freeze i) s = .next ((s.flushCtxs xs).cmdDone i c 0 []))) ∧
  (∀ (s : State) (i : Nat) (c : Cmd), s.cmdIs i c 0x09 → c.begun = false → c.clean 0 [] = true → s.isChild c.issuer c.target = true →
    (s.ctxAt c.target).st = .frozen →
    (s.saveOk c.target (s.ctxAt c.target).clMask = false → exec (.thaw i) s = .next (s.cmdDone i c 5 [])) ∧
    (s.saveOk c.target (s.ctxAt c.target).clMask = true → ∃ t : State, exec (.thaw i) s = .next (t.noteAll.cmdDone i c 0 [])
      ∧ t.ctxAt c.target = { s.ctxAt c.target with st := .active } ∧ (∀ y, y ≠ c.target → t.ctxAt y = s.ctxAt y)
      ∧ ∀ n l, Tab.find s.launches n = some l → l.cut = true → l.ctx = c.target → ∃ k, Tab.find t.launches n = some k ∧ k.cut = false
          ∧ (if (s.ctxAt c.target).restart then k.st = .running else k.st = .aborting ∧ k.aborted = true)))) ∧
  ((∀ (s u : State) (i : Nat) (c : Cmd), s.cmdIs i c 0x0A → c.begun = false → c.clean 1 [(0x10, 16), (0x20, 8)] = true → c.f 0x10 8 % 4096 = 0 →
    s.isChild c.issuer c.target = true → (s.ctxAt c.target).st = .frozen → s.worldMay c = true → s.settled (s.subtree c.target) = true →
    let m := s.takeImage c.target
    let n := s.pkg.nextImage
    (c.f 0x18 8 < m.size → exec (.checkpoint i) s = .next (s.cmdDone i c 4 [])) ∧
    (m.size ≤ c.f 0x18 8 → s.fwWrite c.issuer true (c.f 0x10 8) (imageBytes n m.size) = some u →
      ∃ v : State, exec (.checkpoint i) s = .next (v.cmdDone i c 0 [(0x20, leBytes 8 m.size)]) ∧ Tab.find v.pkg.images n = some m ∧ v.mem = u.mem
        ∧ (c.flags.testBit 0 = true → (v.ctxAt c.target).recov = some n))) ∧
  (∀ (s : State) (i n : Nat) (c : Cmd) (im : Image), s.cmdIs i c 0x0B → c.begun = false → c.clean 0 [(0x10, 8)] = true → s.isChild c.issuer c.target = true →
    (s.ctxAt c.target).st = .frozen → (∀ l, l ∈ s.launches → l.2.ctx ∈ s.subtree c.target → l.2.cut = true) → s.worldMay c = true →
    s.imageAt c.issuer (c.f 0x10 8) = some (n, im) →
    let m : Moved := ⟨s.nextLaunch, s.nextGroup, s.nextRoast, im.target, c.target, clustersOf im.clMask, clustersOf (s.ctxAt c.target).clMask⟩
    (s.covers m im = false → exec (.restore i) s = .next (s.cmdDone i c 4 [])) ∧
    (s.covers m im = true → ∃ t : State, exec (.restore i) s = .next (t.cmdDone i c 0 []) ∧ t.mem = s.mem
      ∧ ∀ k g l, (k, g) ∈ im.groups → (g.launch, l) ∈ im.launches → ((s.ctxAt c.target).recov = some n ∨ l.queue = none) →
          (k + s.nextGroup, m.grp g) ∈ t.groups)))

/-- DIRTYSCAN and QUERY (17 R369; 21 R424): the words of the bitmap go to the buffer and are cleared, their set bits are counted; the summary of a context goes to the
issuer's memory.
GENBUMP (17 R364, R365): the entry of each region's index rises by 1 per region, on every die, and with CTX the context's generation; the command is complete when the
accesses that were open are performed; from then on a lookup finds no value older than the command (17 R364, R367).
The bytes of the image's size are free (log 39); what GENBUMP waits for is the model's choice (log 40). -/
def Obligations.ScansAndBumps : Prop :=
  ((∀ (s t u : State) (i b : Nat) (c : Cmd) (ws : List Nat), s.cmdIs i c 0x0D → c.begun = false → c.clean 0 [(0x10, 12), (0x20, 16)] = true →
    1 ≤ c.f 0x18 4 → c.f 0x18 4 ≤ 4096 → c.f 0x20 8 % 8 = 0 → s.isChild c.issuer c.target = true → (s.ctxAt c.target).dirtyMap = some b →
    s.harvest c.issuer b (c.f 0x10 8) (c.f 0x18 4) = some (ws, t) →
    t.fwWrite c.issuer true (c.f 0x20 8) (ws.flatMap (fun w => leBytes 8 w)) = some u →
    exec (.dirtyscan i) s = .next (u.cmdDone i c 0 [(0x28, leBytes 8 (ws.map popCount).sum)])) ∧
  (∀ (s : State) (x b w : Nat) (e : NestOk), s.physNest x (b + 8 * w) true = .ok e →
    s.harvest x b w 1 = some (if e.void then ([0], s.traced e.tr) else ([s.homeDword e.pa], (s.traced e.tr).homeSetDword e.pa 0))) ∧
  (∀ (s u : State) (i : Nat) (c : Cmd), s.cmdIs i c 0x0E → c.begun = false → c.clean 0 [(0x10, 8)] = true → c.f 0x10 8 % 64 = 0 →
    (s.ctxAt c.target).st ≠ .free → (c.target = c.issuer ∨ c.target ≠ 0 ∧ (s.ctxAt c.target).parent = c.issuer) →
    s.fwWrite c.issuer true (c.f 0x10 8) (s.queryBytes c.target) = some u → exec (.query i) s = .next (u.cmdDone i c 0 [])) ∧
  (∀ (s : State) (x : Nat),
    let k := s.ctxAt x
    let q := s.queryBytes x
    q.length = 64 ∧ q.getD 0 0 = (match k.st with | .free => 0 | .frozen => 1 | .active => 2 | .fenced => 3) ∧ q.getD 4 0 = k.gen
      ∧ (k.parent < 2 ^ 16 → leNat ((q.drop 2).take 2) = k.parent) ∧ leNat ((q.drop 0x18).take 8) = k.clMask.toNat)) ∧
  ((∀ (s : State) (i : Nat) (c : Cmd) (e : Instr), s.cmdIs i c 0x11 →
    (e = .genbump i ∧ c.flags.testBit 0 = false ∨ e = .genbumpCtx i ∧ c.flags.testBit 0 = true) →
    let va := c.f 0x10 8
    let n := c.f 0x18 4
    (c.begun = false → c.clean 1 [(0x10, 12)] = true → va % 2 ^ 21 = 0 → n ≤ 2 ^ 20 → (c.flags.testBit 0 = false → n ≠ 0) →
      s.isSelfOrChild c.issuer c.target = true →
      exec e s = .next (((if c.flags.testBit 0 then s.bumpCtx c.target else s).bumpRegions c.target va n).beginCmd i
        { c with waits := s.openAccesses.1, copyWaits := s.openAccesses.2 })) ∧
    (c.begun = true → s.accessesDone c = true → exec e s = .next ((s.bumped c va n (c.flags.testBit 0)).cmdDone i c 0 []))) ∧
  (∀ (s : State) (c : Cmd) (va n : Nat) (all : Bool),
    let t := s.bumped c va n all
    t = { s with bumps := t.bumps, ctxs := t.ctxs } ∧ (∀ y, t.ctxAt y = { s.ctxAt y with mark := (t.ctxAt y).mark }) ∧
    (all = true → c.mark ≤ (t.ctxAt c.target).mark) ∧
    (∀ a, va / 2 ^ 21 ≤ a / 2 ^ 21 → a / 2 ^ 21 < va / 2 ^ 21 + n → c.mark ≤ t.tableMark c.target a)) ∧
  (∀ (s : State) (x : Nat), (s.bumpCtx x).ctxAt x = { s.ctxAt x with gen := (s.ctxAt x).gen + 1 }) ∧
  (∀ (s : State) (x va n d r : Nat), d < s.dies.length → r < 1024 → (∀ b, b < s.dies.length → (s.dieAt b).regionGen = (s.dieAt 0).regionGen) →
    let m := ((List.range n).filter (fun j => decide ((va / 2 ^ 21 + j) % 1024 = r))).length
    Sparse.get ((s.bumpRegions x va n).dieAt d).regionGen (r ^^^ (x % 1024)) = Sparse.get (s.dieAt d).regionGen (r ^^^ (x % 1024)) + BitVec.ofNat 6 m))

/-- BIND_VF, BIND_PARTITION and their UNBIND and RESET forms (21 R434 to R436): a function moves; an idle child of context 0 whose grants lie within a free partition is
bound to it; unbinding and resetting isolate the subtree, wait for its engines, and reset it.
The status of what is bound already is the model's reading (log 37). -/
def Obligations.BindCommands : Prop :=
  (∀ (s : State) (i dest : Nat) (c : Cmd) (e : Instr), s.cmdIs i c 0x0F → c.begun = false →
    (e = .bindVf i ∧ c.flags.testBit 0 = false ∧ dest = c.target ∨ e = .bindVfUnbind i ∧ c.flags.testBit 0 = true ∧ dest = c.issuer) →
    c.clean 1 [(0x10, 2)] = true → c.f 0x10 2 ≤ 383 → s.live c.target = true → (c.target = c.issuer ∨ c.issuer = 0 ∨ s.under c.issuer c.target = true) →
    (s.holdsVf c.issuer (c.f 0x10 2) = true → ∃ t : State, exec e s = .next (t.cmdDone i c 0 []) ∧ t = { s with pkg := t.pkg }
      ∧ ∀ f, Tab.findD t.pkg.vfs f 0 = if f = c.f 0x10 2 then dest else Tab.findD s.pkg.vfs f 0) ∧
    (s.holdsVf c.issuer (c.f 0x10 2) = false → exec e s = .next (s.cmdDone i c 4 []))) ∧
  (∀ (s : State) (i : Nat) (c : Cmd) (q : Partition), s.cmdIs i c 0x10 → c.begun = false → c.flags = 0 → c.clean 3 [(0x10, 1)] = true →
    let p := c.f 0x10 1
    let x := c.target
    p ≤ 15 → c.issuer = 0 → s.live x = true → (s.ctxAt x).depth = 1 → s.idleCtx x = true → Tab.find s.pkg.partitions p = some q → q.ctx = none →
    (s.ctxAt x).part = none → (s.ctxAt x).clMask &&& ~~~q.clMask = 0 → s.mapWithin x q = true →
    ∃ t : State, exec (.bindPartition i) s = .next (t.cmdDone i c 0 []) ∧ t.ctxAt x = { s.ctxAt x with part := some p }
      ∧ Tab.find t.pkg.partitions p = some { q with ctx := some x } ∧ ∀ y, y ≠ x → t.ctxAt y = s.ctxAt y) ∧
  (∀ (s : State) (i : Nat) (c : Cmd) (e : Instr), s.cmdIs i c 0x10 → (e = .bindPartitionUnbind i ∧ c.flags = 1 ∨ e = .bindPartitionReset i ∧ c.flags = 2) →
    let p := c.f 0x10 1
    let x := c.target
    (c.begun = false → c.clean 3 [(0x10, 1)] = true → p ≤ 15 → c.issuer = 0 → s.live x = true → (s.ctxAt x).depth = 1 → (s.ctxAt x).part = some p →
      (c.flags = 1 → s.idleCtx x = true) → exec e s = .next ((s.isolate (s.subtree x)).beginCmd i c)) ∧
    (c.begun = true → s.quiet (s.subtree x) = true → exec e s =
      .next ((if c.flags = 1 then (s.resetCtx x false).unbindPart x p else s.resetCtx x false).cmdDone i c 0 [])))

/-! ### Records, the service round and bandwidth -/

/-- The service round, the journal's second copies and the throttle of channel requests (17 R354; 18 R394; 21 R431): what has waited 30 us of its round is served at
once; an accepted command with one copy gets a second one; a publication moves each throttle step by at most one.
Records and replies (21 R425, R427, R433; 05 R150; 18 R380): a record goes to the ring of the first handler upward that takes its class, and its notify count rises; a
reply with its tag frees the slot; RETRY and END answer the group that waits, PASS posts the record to the parent; an error fence isolates a context, then
resets it.
What becomes of a record that no ring takes, and the slot of a record, are the model's reading (logs 21, 24); the fair order's tags are its choice (log 72). -/
def Obligations.FirmwareRounds : Prop :=
  ((∀ (s : State) (die i : Nat), s.svcDown die = false →
    let d := s.dieAt die
    (∀ e t, d.calls[i]? = some e → s.lateIn die e.issued = true → s.takeCall die e = some t →
      exec (.serviceRoundPriority die i) s = .next (t.svcCount die e.ctx)) ∧
    (∀ r, d.calls.length ≤ i → s.records[i - d.calls.length]? = some r → r.die = die → s.lateIn die r.since = true →
      s.recordBehind (i - d.calls.length) r = false →
      exec (.serviceRoundPriority die i) s = .next ((s.svcCount die r.ctx).postRecord (i - d.calls.length))) ∧
    (∀ k c, d.calls.length + s.records.length ≤ i →
      (s.cmds.filter (fun c => decide (c.2.die = die) && c.2.accepted.isNone))[i - d.calls.length - s.records.length]? = some (k, c) →
      s.lateIn die c.since = true → s.cmdWaits k c = true →
      exec (.serviceRoundPriority die i) s = .next ((s.svcCount die c.issuer).acceptCmd k))) ∧
  (∀ (s : State) (die x : Nat), die < s.dies.length →
    let t := s.svcCount die x
    let tag := max (s.dieAt die).svcTime (Tab.findD (s.dieAt die).svcTags x 0)
    t = { s with dies := t.dies } ∧ t.dieAt die = { s.dieAt die with svcTime := tag, svcTags := (t.dieAt die).svcTags } ∧
    (∀ y, Tab.findD (t.dieAt die).svcTags y 0 = if y = x then tag + 2 ^ 40 / max 1 (s.weight x) else Tab.findD (s.dieAt die).svcTags y 0)) ∧
  (∀ (s : State) (i die : Nat) (c : Cmd), die < 4 → s.svcDown die = false → Tab.find s.cmds i = some c → c.accepted ≠ none → c.dies.length < 2 → die ∉ c.dies →
    exec (.journalRecopy i die) s = .next { s with cmds := Tab.put s.cmds i { c with dies := c.dies ++ [die] } }) ∧
  (∀ (s : State) (die : Nat) (occ : List Nat), die < s.dies.length → ∃ t : State, exec (.bandwidthPublication die occ) s = .next t ∧ t = { s with dies := t.dies }
    ∧ (∀ p, p ∈ (t.dieAt die).throttle → p.2.1 ∈ s.tenants ∧ 1 ≤ p.2.2) ∧ ∀ b, b ≠ die → t.dieAt b = s.dieAt b) ∧
  (∀ q share os, q ≤ 7 →
    ((∃ o, o ∈ os ∧ 64 * share < o.1 ∧ 48 * 256 < o.2) → nextThrottle q share os = min 7 (q + 1)) ∧
    ((∀ o, o ∈ os → o.1 ≤ 64 * share ∨ o.2 < 32 * 256) → nextThrottle q share os = q - 1) ∧ nextThrottle q share os ≤ 7)) ∧
  ((∀ (s : State) (i n : Nat) (r : Rcd) (t : State), s.records[i]? = some r → s.svcDown r.die = false → s.recordBehind i r = false → s.svcNext r.die r.ctx = true →
    let u : State := { s.svcCount r.die r.ctx with records := s.records.eraseIdx i }
    let c := r.dest
    let k := s.ctxAt c
    k.mask.getLsbD r.cls.bit = true → k.posted.length < 2 ^ k.lgsz → k.backlog = [] →
    u.ringPut c k.ring 64 (fun n => (Tab.find k.posted n).isSome) r.bytes = some (some (n, t)) →
    exec (.recordPost i) s = .next ((t.setCtx c { t.ctxAt c with posted := Tab.put (t.ctxAt c).posted n r }).notified c)) ∧
  (∀ (s : State) (c slot code : Nat) (r : Rcd) (t : State), s.replyAt c slot = some (r, code) →
    s.fwWrite c true ((s.ctxAt c).replies + 8 * slot) (leBytes 8 0) = some t →
    let u := t.setCtx c { t.ctxAt c with posted := Tab.drop (t.ctxAt c).posted slot }
    (code = 1 → exec (.retryReply c slot) s = .next ((u.retry r).postBacklog c)) ∧
    (code = 2 → exec (.endReply c slot) s = .next ((u.endRecord r).postBacklog c)) ∧
    (code = 3 → c ≠ 0 → r.kind < 4 → exec (.passReply c slot) s = .next (({ u with
      records := u.records ++ [{ r with flags := r.flags ||| fUnhandled, dest := (u.ctxAt c).parent }] } : State).postBacklog c))) ∧
  (∀ (s : State) (r : Rcd) (gid : Nat) (g : Grp), r.subj = .group gid → Tab.find s.groups gid = some g →
    Tab.find (s.retry r).groups gid = some { g with replies := g.replies - 1 }) ∧
  (∀ (s : State) (x : Nat), x ≠ 0 →
    (((s.ctxAt x).st = .active ∨ (s.ctxAt x).st = .frozen) →
      exec (.errorFence x) s = .next ((s.isolate (s.subtree x)).setCtx x { (s.isolate (s.subtree x)).ctxAt x with
        errFence := some ((s.ctxAt x).errFence.getD ⟨0, 0x08, 0, 0xFF, none, 15, 0⟩) })) ∧
    (∀ w, (s.ctxAt x).errFence = some w → (s.ctxAt x).st = .fenced → s.quiet (s.subtree x) = true →
      exec (.errorFence x) s = .next (if w.reason = 2 then s.resetCtx x false else (s.resetCtx x false).childRcd x w (s.ctxAt x).parent))))

/-! ### Trust, time, power and errors -/

/-- Cold reset, life cycle, SPDM and IDE (22 R437, R439, R444 to R446; 24 R461, R462): a reset leaves no world but fuses and topology; the life cycle goes one state forward
while context 0 is alone; firmware answers SPDM while it runs; keys of 256 bits are taken; an insecure stream is dropped. What SPDM answers is free (log 44). -/
def Obligations.TrustSteps : Prop :=
  (∀ (s : State) (ok : Bool), ∃ t : State, exec (.coldReset ok) s = .next t ∧ t.mem = [] ∧ t.groups = [] ∧ t.launches = [] ∧ t.ctxs = State.reset.ctxs ∧ t.cores = []
    ∧ t.worlds = [] ∧ t.pkg.boot = (if ok then .ready else .failed) ∧ t.pkg.lifeCycle = s.pkg.lifeCycle ∧ t.pkg.sessions = [] ∧ t.pkg.ide = [] ∧ t.pkg.id = s.pkg.id) ∧
  (∀ s : State, ∃ t : State, exec .modulePowerOff s = .next t ∧ t.pkg.boot = .off ∧ t.mem = [] ∧ t.groups = [] ∧ t.pkg.sessions = [] ∧ t.pkg.lifeCycle = s.pkg.lifeCycle) ∧
  (∀ (s : State) (l : LifeCycle), s.pkg.boot = .ready → (∀ c, c ∈ s.ctxs → c.1 = 0 ∨ c.2.st = .free) →
    (s.pkg.lifeCycle = .manufacture ∧ l = .deployed ∨ s.pkg.lifeCycle = .deployed ∧ l = .returned) →
    ∃ t : State, exec (.lifeCycleChange l.code) s = .next t ∧ t.pkg.lifeCycle = l ∧ t.mem = [] ∧ t.pkg.sessions = [] ∧ t.pkg.ide = []) ∧
  (∀ s : State, s.pkg.boot = .ready →
    (∀ n, ∃ bs, exec (.getCertificate n) s = .next { s with pkg := { s.pkg with spdm := bs } }) ∧
    (∀ n, ∃ bs, exec (.challenge n) s = .next { s with pkg := { s.pkg with spdm := bs } }) ∧
    (∀ n, ∃ bs, exec (.getMeasurements n) s = .next { s with pkg := { s.pkg with spdm := bs } } ∧ (n = 0 ∨ 4 < n → bs = [])) ∧
    (∀ n key, key.length = 32 → exec (.keyExchange none n key) s = .next { s with pkg := { s.pkg with sessions := Tab.put s.pkg.sessions n key } }) ∧
    (∀ p n key, p < 16 → (s.portAt p).st = .keying → key.length = 32 → exec (.keyExchange (some p) n key) s = .next (s.setPort p { s.portAt p with
      st := .up, rxKey := key, txKey := key, rxCtr := 0, txCtr := 0, rxNext := none, txNext := none, sent := [], fails := 0 })) ∧
    (∀ n key, (n ≤ 8 ∨ 16 ≤ n ∧ n < 20) → key.length = 32 → s.pkg.sessions ≠ [] → exec (.ideKm n key) s = .next { s with pkg := { s.pkg with
      ide := Tab.put s.pkg.ide n key, ideInsecure := s.pkg.ideInsecure.filter (fun m => decide (m ≠ n)) } })) ∧
  (∀ (s : State) (n : Nat), (n ≤ 8 ∨ 16 ≤ n ∧ n < 20) → Tab.find s.pkg.ide n ≠ none → n ∉ s.pkg.ideInsecure →
    ∃ t : State, exec (.ideIntegrityFailure n) s = .next t ∧ n ∈ t.pkg.ideInsecure ∧ (n ≤ 8 → t = { s with pkg := { s.pkg with ideInsecure := n :: s.pkg.ideInsecure } })) ∧
  (∀ (s : State) (p seq : Nat) (key : List Byte), p < 16 → key.length = 32 → ((s.portAt p).st = .up ∨ (s.portAt p).st = .retrain) →
    exec (.keyUpdate p seq key) s = .next (s.setPort p { s.portAt p with rxNext := some (seq % 2 ^ 32, key), txNext := some (seq % 2 ^ 32, key) }))

/-- Time (22 R447, R448): the source that TCTL selects measures the offset; a forward offset of more than 1 ms is stepped, any other one slewed; LOCK rises only with an
offset under 100 ns, and its change raises vector 3 of the physical function.
Power, cooling and soft errors (22 R452 to R454; 06 R172; 07 R211): firmware lowers operating points; a hot layer's refresh doubles; what cannot be corrected is
poisoned and logged; a corrected error counts; an error in a service core's cache fences its page's context, or resets the die's service complex.
The die of a DRAM address where firmware's tables give no set of 2^k channels, and the size of a transfer, are the model's choice (log 46); the order of the limits is its reading (log 55). -/
def Obligations.TimeAndErrors : Prop :=
  ((∀ (s : State) (o : Int) (e : Instr), (e = .ptpMessage o ∧ 1 ≤ s.pkg.src ∧ s.pkg.src ≤ 3 ∨ e = .ptmResponse o ∧ s.pkg.src = 4) →
    ∃ t : State, exec e s = .next t ∧ t.pkg = { s.pkg with ofs := min o.natAbs 0xFFFFF } ∧ ∀ d, d < s.dies.length →
      (1000000 < o → t.dieAt d = { s.dieAt d with clock := (s.dieAt d).clock + o.toNat, slew := 0 }) ∧ (o ≤ 1000000 → t.dieAt d = { s.dieAt d with slew := o })) ∧
  (∀ (s : State) (b : Bool), s.pkg.lock ≠ b → (b = true → s.pkg.ofs < 100) →
    ∃ t : State, exec (.clockLockChange b) s = .next t ∧ t.pkg.lock = b ∧ (t.fnPage 384).msix.getLsbD 3 = true) ∧
  (∀ (s : State) (v : Word), (v.extractLsb' 28 3).toNat ≤ 4 → exec (.tctlWrite v) s = .next { s with pkg := { s.pkg with src := (v.extractLsb' 28 3).toNat } }) ∧
  (∀ (s : State) (v : Word), 4 < (v.extractLsb' 28 3).toNat → exec (.tctlWrite v) s = .next s)) ∧
  ((∀ (s : State) (die pt : Nat), die < s.dies.length → die < 4 → 1 ≤ pt → pt ≤ 15 →
    let d := s.dieAt die
    (pt < d.limits.1 → exec (.powerLimit die pt) s = .next (s.modDie die (fun d => { d with limits := (pt, d.limits.2) }))) ∧
    exec (.thermalThrottle die pt) s = .next (s.modDie die (fun d => { d with
      point := min d.point pt, limits := (min d.limits.1 pt, min d.limits.2.1 pt, min d.limits.2.2 pt) }))) ∧
  (∀ (s : State) (die n : Nat), die < s.dies.length → die < 4 →
    (∃ t : State, exec (.dramOvertemp die n) s = .next t ∧ n ∈ (t.dieAt die).refresh ∧ ∀ m, m ≠ n → (m ∈ (t.dieAt die).refresh ↔ m ∈ (s.dieAt die).refresh)) ∧
    (∃ t : State, exec (.correctedError die n) s = .next t ∧ Tab.findD (t.dieAt die).corrected n 0 = Tab.findD (s.dieAt die).corrected n 0 + 1)) ∧
  (∀ (s : State) (a n : Nat), reachOf s.pkg.id a = .dram →
    (∃ t : State, exec (.uncorrectableError (.dram a)) s = .next t ∧ t.memPoisoned a 1 = true ∧ t.mem = s.mem
      ∧ (s.homeDie a < s.dies.length → (t.dieAt (s.homeDie a)).errors = (s.dieAt (s.homeDie a)).errors ++ [(.dram a, (s.dieAt (s.homeDie a)).clock)])) ∧
    (8 < n → ∃ t : State, exec (.dramCrcRetry a n) s = .next t ∧ ∀ j, j < 64 → t.memPoisoned (a / 64 * 64 + j) 1 = true) ∧
    (n ≤ 8 → exec (.dramCrcRetry a n) s = .next s)) ∧
  (∀ (s : State) (c w : Nat), c < 384 → ∃ t : State, exec (.uncorrectableError (.window c w)) s = .next t ∧ w ∈ (t.coreAt c).winPoison ∧ (t.coreAt c).win = (s.coreAt c).win) ∧
  (∀ (s : State) (gid n : Nat) (g : Grp), Tab.find s.groups gid = some g → n < g.nlines →
    ∃ (t : State) (h : Grp), exec (.uncorrectableError (.line gid n)) s = .next t ∧ Tab.find t.groups gid = some h ∧ n ∈ h.poison ∧ h = { g with poison := h.poison }) ∧
  (∀ (s : State) (die x : Nat), die < 4 → x ≠ 0 → s.live x = true →
    ∃ t : State, exec (.serviceCoreCacheError die (some x)) s = .next t ∧ (t.ctxAt x).errFence = some ⟨0, 0x08, 0, 0xFF, none, 15, 0⟩ ∧ (x ∈ s.subtree x → (t.ctxAt x).st = .fenced)) ∧
  (∀ (s : State) (n p x : Nat) (q : Partition), n < 128 → s.pkg.partitions.find? (fun e => e.2.channels.contains n) = some (p, q) → q.ctx = some x → s.live x = true →
    ∃ t : State, exec (.uncorrectableError (.channel n)) s = .next t ∧ (t.ctxAt x).errFence = some ⟨2, 0, 0, 0xFF, none, 15, 0⟩
      ∧ (x ∈ s.subtree x → (t.ctxAt x).st = .fenced)) ∧
  (∀ (s : State) (die : Nat), die < 4 → die < s.dies.length → ∃ t : State, exec (.serviceCoreCacheError die none) s = .next t
    ∧ (t.dieAt die).svcBack ≤ (s.dieAt die).clock + 20000000 ∧ (t.dieAt die).harts = List.replicate 16 hartInit ∧ t.mem = s.mem))

/-! ### Host port and ingress -/

/-- The host port and the control words (03 R6; 11 R273; 13 R321; 19 R400; 22 R447): a host read of BAR 2 answers the bytes at the home slices, a posted write stores them;
a control word takes its value, and the discarded values change nothing. The registers' addresses are the model's (log 43).
Ingress (22 R450, R451): a write into an enabled window becomes ring entries, one for each 64-byte part, stamped with the device's time; a full ring counts a drop; reading the
drop count clears it. The time's last nanoseconds are free (log 48). -/
def Obligations.HostAndIngress : Prop :=
  ((∀ (s : State) (fn a n : Nat), s.bar2 fn a n = true →
    let x := s.fnCtx fn
    s.physFault x false (physPieces a n) = none → (s.physRead x 0 (physPieces a n)).2.2 = false →
    exec (.hostMemoryRead fn a n) s = .next { s with pkg := { s.pkg with
      hostRead := (s.physRead x 0 (physPieces a n)).1, hostPoison := (s.physRead x 0 (physPieces a n)).2.1 } }) ∧
  (∀ (s : State) (a n pa : Nat), a % 64 + n ≤ 64 → 0 < n → ∀ x w d v ps tr, s.physAt x a false = .ok ⟨pa, w, d, v, ps, tr⟩ → worldAllows 0 (s.frameWorld pa) false = true →
    s.physRead x 0 (physPieces a n) = (s.homeRead pa n, s.memPoisoned pa n, false)) ∧
  (∀ (s : State) (fn a : Nat) (bs : List Byte) (bad : Bool), s.bar2 fn a bs.length = true →
    let x := s.fnCtx fn
    s.physFault x true (physPieces a bs.length) = none → (s.physWrite x 0 (physPieces a bs.length) bs bad).2 = false →
    exec (.hostMemoryWrite fn a bs bad) s = .next (s.physWrite x 0 (physPieces a bs.length) bs bad).1) ∧
  (∀ (s : State) (a pa : Nat) (bs : List Byte), a % 64 + bs.length ≤ 64 → bs ≠ [] → s.physAt 0 a true = .ok ⟨pa, true, true, false, [], .none⟩ →
    worldAllows 0 (s.frameWorld pa) false = true → s.l2Held pa = false → (s.ctxAt 0).dirtyMap = none →
    let t := (s.physWrite 0 0 (physPieces a bs.length) bs false).1
    (∀ j, j < bs.length → Sparse.get t.mem (pa + j) = bs.getD j 0) ∧ ∀ b, b < pa ∨ pa + bs.length ≤ b → Sparse.get t.mem b = Sparse.get s.mem b) ∧
  (∀ (s : State) (o v fn : Nat), v < 2 ^ 32 → fn ≤ 384 → o % 4 = 0 → o < 0x80 → s.pkg.boot = .ready →
    ∃ t : State, exec (.registerWrite (2 ^ 53 + 2 ^ 20 * fn + o) v) s = .next t
      ∧ (t.fnPage fn).block = (s.fnPage fn).block.take o ++ leBytes 4 v ++ (s.fnPage fn).block.drop (o + 4)) ∧
  (∀ (s : State) (core : Nat) (v : Word), core < 384 →
    let thi := (v.extractLsb' 12 12).toNat
    let tlo := (v.extractLsb' 0 12).toNat
    (thi ≤ tlo → exec (.ictlWrite core v) s = .next s) ∧
    (tlo < thi → exec (.ictlWrite core v) s = .next (s.setCore core { s.coreAt core with
      ten := v.getLsbD 31, thi := thi, tlo := tlo, level := if v.getLsbD 31 then (s.coreAt core).level else 32 }))) ∧
  (∀ (s : State) (die slot : Nat) (v : Word), die < 4 → slot < 24 →
    ((v.extractLsb' 0 2).toNat = 3 → exec (.sctlWrite die slot v) s = .next s) ∧
    ((v.extractLsb' 0 2).toNat ≠ 3 → exec (.sctlWrite die slot v) s = .next (s.setSlot die slot { s.slotAt die slot with
      flim := (v.extractLsb' 2 4).toNat, pace := (v.extractLsb' 0 2).toNat })))) ∧
  ((∀ (s : State) (w : Nat), w < 16 → w < s.pkg.ingress.length → ∃ t : State, exec (.ingressDropRead w) s = .next t
    ∧ t.pkg.dropRead = (s.ingressAt w).drops ∧ t.ingressAt w = { s.ingressAt w with drops := 0 }) ∧
  (∀ (s : State) (w off : Nat) (bs : List Byte), w < 16 → (s.ingressAt w).en = true → bs ≠ [] → off + bs.length ≤ 2 ^ (s.ingressAt w).lwin → s.pkg.boot = .ready →
    let near (time : Nat) : Prop := (s.dieAt 0).clock ≤ time + 8 ∧ time ≤ (s.dieAt 0).clock + 8
    let parts (time : Nat) : Except (Nat × XFault) State := ({ s with freeCtr := s.freeCtr + 1 } : State).ingressParts w (cutParts off bs) time
    (∀ time, near time → ∃ t, parts time = .ok t) → ∃ time t, near time ∧ parts time = .ok t ∧ exec (.ingressWrite w off bs) s = .next t) ∧
  (∀ (s : State) (w time : Nat) (part wi ri : List Byte), w < s.pkg.ingress.length →
    let g := s.ingressAt w
    s.ringRead g.ctx g.ring 8 = .ok wi → s.ringRead g.ctx (g.ring + 8) 8 = .ok ri →
    ((leNat wi + 2 ^ 64 - leNat ri) % 2 ^ 64 = 2 ^ g.lgsz → ∃ t : State, s.ingressPart w part time = .ok t
      ∧ t.ingressAt w = { g with drops := (g.drops + 1) % 2 ^ 32, trailDrops := g.trailDrops + 1, seq := (g.seq + 1) % 2 ^ 32 }) ∧
    (∀ t u, (leNat wi + 2 ^ 64 - leNat ri) % 2 ^ 64 ≠ 2 ^ g.lgsz →
      s.ringWrite g.ctx (g.ring + 128 + 128 * (leNat wi % 2 ^ g.lgsz)) (ingressEntry g part time) = .ok t →
      t.ringWrite g.ctx g.ring (leBytes 8 ((leNat wi + 1) % 2 ^ 64)) = .ok u →
      s.ingressPart w part time = .ok (u.setIngress w { g with trailDrops := 0, seq := (g.seq + 1) % 2 ^ 32 }))))

/-! ### Fabric and CXL -/

/-- The states and flits of a fabric port (24 R460 to R463): a flit in sequence is accepted, one outside is dropped and named in a NACK; a failed tag isolates the port; a NACK
or a timeout sends the waiting flits again, and after eight times the port retrains.
Which flits an accepted one acknowledges, is free (log 41); how an exchange fails, is the model's choice (log 42). -/
def Obligations.LinkSteps : Prop :=
  (∀ (s : State) (i seq : Nat), i < 16 → i < s.pkg.ports.length →
    let p := s.portAt i
    (p.st = .up → seq = p.rxSeq → p.rxNext = none → ∃ t q, exec (.flitReceive i seq true) s = .next t ∧ t.portAt i = { p with
      rxSeq := (p.rxSeq + 1) % 2 ^ 32, rxCtr := p.rxCtr + 1, sent := q } ∧ (∀ f, f ∈ q → f ∈ p.sent)) ∧
    (p.st = .up → seq ≠ p.rxSeq → (seqDist seq p.rxSeq = 0 ∨ 512 < seqDist seq p.rxSeq) →
      exec (.flitReceive i seq true) s = .next (s.setPort i { p with nacked := some p.rxSeq })) ∧
    (p.st = .up → seq = p.rxSeq → ∃ t : State, exec (.flitReceive i seq false) s = .next t ∧ (t.portAt i).st = .isolated) ∧
    (∀ k, p.st = .up → p.sent.findIdx? (fun f => decide (f.1 = seq)) = some k →
      ((∀ f, f ∈ p.sent.drop k → f.2 < 8) → exec (.nack i seq) s = .next (s.setPort i { p with sent := (p.sent.drop k).map (fun f => (f.1, f.2 + 1)) })) ∧
      ((∃ f, f ∈ p.sent.drop k ∧ 8 ≤ f.2) → exec (.nack i seq) s = .next (s.setPort i { p with st := .retrain, sent := p.sent.drop k }))) ∧
    (∀ f r, p.st = .up → p.sent = f :: r → exec (.ackTimeout i) s = exec (.nack i f.1) s) ∧
    (p.st = .down → exec (.peerDetected i) s = .next (s.setPort i { p with st := .training })) ∧
    (p.st = .training → exec (.linkTrained i) s = .next (s.setPort i { p with st := .keying, rxSeq := 0, txSeq := 0 })) ∧
    (p.st = .retrain → exec (.linkTrained i) s = .next (s.setPort i { p with st := .up, sent := p.sent.map (fun f => (f.1, 0)) })) ∧
    (p.st = .training → exec (.trainingTimeout i) s = .next (s.setPort i { p with st := .down })) ∧
    (p.st = .retrain → ∃ t : State, exec (.retrainTimeout i) s = .next t ∧ (t.portAt i).st = .training ∧ (t.portAt i).sent = [] ∧ (t.portAt i).rxKey = []))

/-- Requests between packages, exports and CXL ports (24 R465, R467 to R469, R472, R473; 22 R442): the owner performs a request at its home slice; a request without a route is
answered; a withdrawn range is gone; a snoop and a lost port drop the copies here; after a snoop the peer may write its line (13 R322).
The die that logs an answer is the model's choice (log 50); the checks on a request are its reading (log 49); what a peer writes is free (log 73). -/
def Obligations.RemoteSteps : Prop :=
  (∀ (s : State) (pk w pa n : Nat), reachOf s.pkg.id pa = .dram → pa % 128 + n ≤ 128 → s.isWithdrawn pa = false →
    (∀ c : Bool, worldAllows w (s.frameWorld pa) false = true → ∃ t : State, exec (.remoteRequest (.read pk w pa n c)) s = .next t
      ∧ t.pkg.answer = s.homeRead pa n ∧ t.mem = s.mem ∧ (c = true → (pa / 128 * 128, pk) ∈ t.dir)) ∧
    (∀ c : Bool, worldAllows w (s.frameWorld pa) false = false → ∃ t : State, exec (.remoteRequest (.read pk w pa n c)) s = .next t
      ∧ t.pkg.answer = List.replicate n 0 ∧ t.mem = s.mem) ∧
    (∀ bs, bs.length = n → worldAllows w (s.frameWorld pa) false = true → ∃ t : State, exec (.remoteRequest (.write pk w pa bs)) s = .next t
      ∧ (∀ j, j < n → Sparse.get t.mem (pa + j) = bs.getD j 0) ∧ (∀ b, b < pa ∨ pa + n ≤ b → Sparse.get t.mem b = Sparse.get s.mem b)
      ∧ ∀ d, d ∈ t.dir ↔ d ∈ s.dir ∧ (d.1 ≠ pa / 128 * 128 ∨ d.2 = pk)) ∧
    (∀ op x, n = 4 → worldAllows w (s.frameWorld pa) false = true → s.memPoisoned pa 4 = false → ∃ t : State, exec (.remoteRequest (.atomic pk w pa op x)) s = .next t
      ∧ t.pkg.answer = leBytes 4 (s.homeWord pa) ∧ t.homeWord pa = (atomNew op (BitVec.ofNat 32 (s.homeWord pa)) x).toNat)) ∧
  (∀ (s : State) (i : Nat) (r : Sent), (s.sentAll.filter (fun r => match reachOf s.pkg.id r.pa with
      | .remote pk => (s.portFor r.ctx pk r.pa).isNone | _ => false))[i]? = some r →
    exec (.noRoute i) s = .next ((s.answer r).linkFault r.ctx 0xFF (r.pa / 2 ^ 46 % 64) 1 1)) ∧
  (∀ (s : State) (base n : Nat), (reachOf s.pkg.id base = .dram ∨ ∃ pk, reachOf s.pkg.id base = .remote pk) →
    ∃ t : State, exec (.exportWithdraw base n) s = .next t ∧ (base, n) ∈ t.pkg.withdrawn ∧ t.mem = s.mem
      ∧ (reachOf s.pkg.id base = .dram → ∀ d, d ∈ t.dir ↔ d ∈ s.dir ∧ (d.1 < base ∨ base + n ≤ d.1))) ∧
  (∀ (s : State) (a p : Nat) (l : L2Line), reachOf s.pkg.id a = .pooled p → s.l2Find (a / 128 * 128) = some l → ∃ t : State, exec (.cxlBackInvalidate a) s = .next t
    ∧ t.l2Find a = none ∧ ∃ u : State, (∀ j, j < 128 → l.dirty.getLsbD j = true → Sparse.get u.mem (l.pa + j) = lineByte l.data j)
    ∧ (∀ b, (∀ j, j < 128 → l.dirty.getLsbD j = true → l.pa + j ≠ b) → Sparse.get u.mem b = Sparse.get s.mem b)
    ∧ (t.mem = u.mem ∨ ∃ bs : List Byte, bs.length = 128 ∧ (∀ j, j < 128 → Sparse.get t.mem (a / 128 * 128 + j) = bs.getD j 0)
      ∧ ∀ b, b < a / 128 * 128 ∨ a / 128 * 128 + 128 ≤ b → Sparse.get t.mem b = Sparse.get u.mem b)) ∧
  (∀ (s : State) (p : Nat), p < 4 → p < s.pkg.cxlUp.length → s.pkg.cxlUp.getD p true = true → ∃ t : State, exec (.cxlPortDown p) s = .next t
    ∧ t.pkg.cxlUp.getD p true = false ∧ (∀ l, l ∈ t.l2 ↔ l ∈ s.l2 ∧ reachOf s.pkg.id l.pa ≠ .pooled p) ∧ t.mem = s.mem)

/-! ### The machine as a whole -/

/-- One step (02 R40 to R45, R47; 05 R138): a fragment inside a clause fetches the words of its next instruction, they decode, and the step is that instruction's; a fragment at
a header whose wait mask is met takes its fields; a hart's custom-0 word, and a step of the device that the agenda names, are executed; in a clock a quarter issues what it picks (11 R266 to R268). An empty agenda leaves
the choice to the policy (log 1); a hart's base words are presumed (log 74). -/
def Obligations.StepRunsInstruction : Prop :=
  (∀ (s t u : State) (gid slot : Nat) (r : List Turn) (g : Grp) (f : Frag) (hd : Header) (i : Instr) (ws : List Word), s.agenda = .issue gid slot :: r →
    Tab.find s.groups gid = some g → g.frag slot = some f → g.mayIssue f = true → f.served = false → f.arriving = false → f.pos.next ≠ 0 →
    f.pos.hdr.extractLsb' 0 2 = 0#2 →
    let s0 : State := { s with agenda := r, iss := { issNone with both := s.iss.both, g := gid, slot := slot, pc := wordAddr f.pos.hdr f.pos.next,
                                                                   start := wordAddr f.pos.hdr f.pos.next, after := f.pos } }
    let n := f.pos.next + ws.length - 1
    s0.clauseLen g f.pos.hdr = .ok (some hd, t) → t.wordsAt g f.pos.hdr f.pos.next ws u → decode ws = .ok (i, []) → instrIsService i = false →
    n ≤ hd.len.toNat + 1 →
    let v : State := { u with iss := { issNone with
      both := s.iss.both, g := gid, slot := slot, pc := wordAddr f.pos.hdr n, words := ws, start := wordAddr f.pos.hdr f.pos.next, last := decide (n = hd.len.toNat + 1),
      after := if n = hd.len.toNat + 1 then posAt (wordAddr f.pos.hdr (n + 1)) else { f.pos with next := n + 1 } } }
    step s = match exec i v with
      | .next w => .next (w.afterIssue i g f)
      | o => o) ∧
  (∀ (s : State) (g : Grp) (va : Dword) (r : XOk), s.translate g.core g.ctx g.sup va .fetch = .ok r → (s.xCommit g.core r).oldWords g.launch r.pa = [] →
    s.fetchWord g va = .ok (BitVec.ofNat 32 ((s.xCommit g.core r).homeWord r.pa), s.xCommit g.core r)) ∧
  (∀ (s t : State) (gid slot : Nat) (r : List Turn) (g : Grp) (f : Frag) (hd : Header), s.agenda = .issue gid slot :: r →
    Tab.find s.groups gid = some g → g.frag slot = some f → g.mayIssue f = true → f.served = false → f.arriving = false → f.pos.next = 0 →
    f.pos.hdr.extractLsb' 0 2 = 0#2 →
    ({ s with agenda := r, iss := { issNone with both := s.iss.both, g := gid, slot := slot, pc := f.pos.hdr, start := f.pos.hdr, after := f.pos } } : State).clauseLen g f.pos.hdr =
      .ok (some hd, t) → (∀ i, i < 12 → hd.wait.getLsbD i = true → g.flagVal i = 0) →
    (hd.setA.toNat < 12 ∨ hd.setA = 15#4) → (hd.setB.toNat < 12 ∨ hd.setB = 15#4) →
    step s = .next { (t.setGrp gid (g.setFrag slot (some { f with pos := ⟨f.pos.hdr, 1, hd.setA, hd.setB, hd.y⟩, wait := .none }))).settle with iss := issNone }) ∧
  (∀ (s : State) (d n : Nat) (r : List Turn) (i : Instr), s.agenda = .hart d n :: r → s.hartWord d n = some i →
    step s = match exec i { s with agenda := r, iss := { issNone with pc := (s.hartAt d n).pc, words := encode i, die := d, hart := n } } with
      | .next u => .next { u.settle with iss := issNone }
      | o => o) ∧
  (∀ (s t : State) (d n : Nat) (r : List Turn), s.agenda = .hart d n :: r → s.hartWord d n = none → s.hartCustom d n = false →
    ({ s with agenda := r } : State).hartBase d n = some t → step s = .next t.settle) ∧
  (∀ (s : State) (r : List Turn) (i : Instr), s.agenda = .event i :: r → instrWord i = none →
    step s = match exec i { s with agenda := r } with
      | .next u => .next (u.fileLanded { s with agenda := r }).settle
      | o => o) ∧
  (∀ (s : State) (c q : Nat) (busy : List (Nat × Nat)) (r : List Turn), s.agenda = .clock c q busy :: r →
    let picks := ({ s with agenda := r } : State).clockPicks c q busy
    (picks = [] → step s = .next ({ s with agenda := r } : State).settle) ∧
    (∀ a, picks = [a] → step s = step { s with agenda := .issue a.1 a.2 :: r }) ∧
    (∀ a b, picks = [a, b] → a.1 ≠ b.1 → step s = match step { s with agenda := .issue a.1 a.2 :: r } with
      | .next t => step { t with agenda := .issue b.1 b.2 :: t.agenda }
      | o => o)) ∧
  (∀ (s : State) (r : List Turn) (ns : Nat), s.agenda = .tick ns :: r → step s = .next (({ s with agenda := r } : State).pass ns).settle) ∧
  (∀ s : State, s.agenda = [] → step s = runTurn s.policy s)

/-- What a reset leaves (22 R437, R445; 21 R413, R414; 19 R400; 24 R462): no memory byte but zero, no core state, group, launch or record; context 0 alone, ACTIVE, in the firmware's
world, with every cluster; four dies whose slots are FREE; ports DOWN.
Values that the spec does not give are the model's (log 8). -/
def Obligations.ResetState : Prop :=
  State.reset.memOk ∧ (∀ a, Sparse.get State.reset.mem a = 0) ∧ State.reset.cores = [] ∧ State.reset.groups = [] ∧ State.reset.launches = []
    ∧ State.reset.records = [] ∧ State.reset.cmds = [] ∧ State.reset.journal = [] ∧ State.reset.l2 = [] ∧ State.reset.worlds = []
    ∧ (∀ x, x ≠ 0 → (State.reset.ctxAt x).st = .free) ∧ (State.reset.ctxAt 0).st = .active ∧ (State.reset.ctxAt 0).depth = 0
    ∧ (∀ c, c < 48 → (State.reset.ctxAt 0).clMask.getLsbD c = true) ∧ State.reset.dies.length = 4
    ∧ (∀ d n, d < 4 → n < 24 → (State.reset.slotAt d n).st = .free ∧ (State.reset.slotAt d n).flim = 15 ∧ (State.reset.slotAt d n).pace = 0)
    ∧ (∀ p, p < 16 → (State.reset.portAt p).st = .down) ∧ State.reset.pkg.lock = false ∧ State.reset.pkg.boot = .ready
    ∧ (∀ c, (State.reset.coreAt c).l1 = [] ∧ (State.reset.coreAt c).win = [])

/-- System physical memory (17 R349) stays in its canonical form, which is the model's: addresses strictly rising, and no byte listed that an
unlisted address reads as (log 7). -/
def Obligations.MemoryStaysCanonical : Prop :=
  ∀ s t : State, s.memOk → step s = .next t → t.memOk

/-! ### Encoding -/

/-- Every instruction that has words is what its words decode to, with every operand as it was, whatever follows them (02 R39, R47 to R58; 18 R383). -/
def Obligations.RoundTrip : Prop :=
  ∀ (i : Instr) (w : Word) (r : List Word), instrWord i = some w → decode (encode i ++ r) = .ok (i, r)

/-- Words written out from the encodings of 02 R52 to R54, and what they are: `CVTEF.F8A v8, v4, v9`; `ICMP.LT p1, p2, v3, #10` behind its HIMM; `PLOP p3, p1, p2, p7, #0x80`;
`SMOVW s300, s5`; a clause header, and a word of class 0xF, decode to nothing. -/
def Obligations.DecodedWords : Prop :=
  decode [0x51E20209#32] = .ok (.cvtefF8a ⟨[], 7, 8, 4, 9⟩, []) ∧
  decode [0xE000000A#32, 0x5A050180#32] = .ok (.icmpLt ⟨[.himm 10], 0, 1, 2, 3, 0⟩, []) ∧
  decode [0x0AECAF00#32] = .ok (.plop ⟨[], 7, 3, 1, 2, 7, 0x80⟩, []) ∧
  decode [0x7CE25805#32] = .ok (.smovw ⟨[], 7, 300, 5⟩, []) ∧
  decode [0xC000FF10#32] = .error .header ∧ decode [0xF0000000#32] = .error .reserved
end

