-- ==== Sys2Proof/Laws/Sparse.lean ====
section
/-! SUPPORT. What the sparse stores and the tables do: reading after a write, and the canonical form that every operation keeps. -/
namespace Sys2Proof

/-! ### Reading after a write -/

/-- Reading from a store of which entries are left out by their keys. -/
theorem Sparse.get_filter {w : Nat} {k : Nat} {m : Sparse w} (f : Nat → Bool) :
    Sparse.get (m.filter (fun c => f c.1)) k = if f k then Sparse.get m k else 0 := by
  induction m with
  | nil => simp [Sparse.get]
  | cons c t ih =>
    obtain ⟨a, u⟩ := c
    by_cases ha : f a = true
    · rw [List.filter_cons, if_pos ha]
      simp only [Sparse.get, ih]
      by_cases h : a = k
      · subst h; simp [ha]
      · simp [h]
    · rw [List.filter_cons, if_neg ha, ih]
      simp only [Sparse.get]
      by_cases h : a = k
      · subst h; simp [ha]
      · simp [h]

/-- A key that is in none of the entries reads 0. -/
theorem Sparse.get_absent {w : Nat} {k : Nat} {m : Sparse w} (h : ∀ c ∈ m, c.1 ≠ k) : Sparse.get m k = 0 := by
  induction m with
  | nil => rfl
  | cons c t ih =>
    obtain ⟨a, u⟩ := c
    simp only [Sparse.get]
    rw [if_neg (h (a, u) (by simp)), ih (fun c hc => h c (by simp [hc]))]

/-- Reading from two stores that split at `mid`. -/
theorem Sparse.get_append {w : Nat} {mid k : Nat} {m n : Sparse w} (hb : ∀ c ∈ m, c.1 < mid) (hn : ∀ c ∈ n, mid ≤ c.1) :
    Sparse.get (m ++ n) k = if k < mid then Sparse.get m k else Sparse.get n k := by
  induction m with
  | nil =>
    simp only [List.nil_append]
    split
    · rw [Sparse.get_absent (fun c hc => by have := hn c hc; omega)]; rfl
    · rfl
  | cons c t ih =>
    obtain ⟨a, u⟩ := c
    have ha : a < mid := hb (a, u) (by simp)
    simp only [List.cons_append, Sparse.get, ih (fun c hc => hb c (by simp [hc]))]
    by_cases h : a = k
    · subst h; simp [ha]
    · simp [h]

theorem Sparse.ofList_range {w : Nat} {k : Nat} {vs : List (BitVec w)} :
    ∀ c ∈ Sparse.ofList k vs, k ≤ c.1 ∧ c.1 < k + vs.length := by
  induction vs generalizing k with
  | nil => simp [Sparse.ofList]
  | cons v t ih =>
    intro c hc
    simp only [Sparse.ofList] at hc
    split at hc
    · have := ih c hc; simp only [List.length_cons]; omega
    · rcases List.mem_cons.1 hc with h | h
      · subst h; simp
      · have := ih c h; simp only [List.length_cons]; omega

theorem Sparse.get_ofList {w : Nat} {k j : Nat} {vs : List (BitVec w)} :
    Sparse.get (Sparse.ofList k vs) j = if k ≤ j then vs.getD (j - k) 0 else 0 := by
  induction vs generalizing k with
  | nil => simp [Sparse.ofList, Sparse.get]
  | cons v t ih =>
    have hcons : Sparse.get (Sparse.ofList k (v :: t)) j = if k = j then v else Sparse.get (Sparse.ofList (k + 1) t) j := by
      simp only [Sparse.ofList]
      split
      · rename_i hv
        by_cases h : k = j
        · rw [if_pos h, Sparse.get_absent (fun c hc => by have := Sparse.ofList_range c hc; omega), hv]
        · rw [if_neg h]
      · simp only [Sparse.get]
    rw [hcons, ih]
    by_cases h : k = j
    · subst h; simp
    · rw [if_neg h]
      by_cases h2 : k + 1 ≤ j
      · rw [if_pos h2, if_pos (by omega)]
        have : j - k = (j - (k + 1)) + 1 := by omega
        rw [this]; simp
      · rw [if_neg h2, if_neg (by omega)]

/-- Reading after a list is written: the list within its range, the old value elsewhere. -/
theorem Sparse.get_setList {w : Nat} {k j : Nat} {m : Sparse w} {vs : List (BitVec w)} :
    Sparse.get (Sparse.setList m k vs) j = if k ≤ j ∧ j < k + vs.length then vs.getD (j - k) 0 else Sparse.get m j := by
  unfold Sparse.setList
  rw [List.append_assoc, Sparse.get_append (mid := k) (fun c hc => of_decide_eq_true (List.mem_filter.1 hc).2)
    (fun c hc => by
      rcases List.mem_append.1 hc with h | h
      · exact (Sparse.ofList_range c h).1
      · have := of_decide_eq_true (List.mem_filter.1 h).2; omega),
    Sparse.get_append (mid := k + vs.length) (fun c hc => (Sparse.ofList_range c hc).2)
      (fun c hc => of_decide_eq_true (List.mem_filter.1 hc).2),
    Sparse.get_filter (fun x => decide (x < k)), Sparse.get_filter (fun x => decide (k + vs.length ≤ x)), Sparse.get_ofList]
  by_cases ha : j < k
  · have hn : ¬ (k ≤ j ∧ j < k + vs.length) := by omega
    simp only [ha, hn, if_true, if_false, decide_true]
  · by_cases hb : j < k + vs.length
    · have hp : k ≤ j ∧ j < k + vs.length := by omega
      simp only [ha, hb, hp, and_self, if_true, if_false]
    · have hq : k + vs.length ≤ j := by omega
      simp only [ha, hb, hq, and_false, if_true, if_false, decide_true]

theorem Sparse.set_eq {w : Nat} {k : Nat} {m : Sparse w} {v : BitVec w} : Sparse.set m k v = Sparse.setList m k [v] := by
  simp only [Sparse.set, Sparse.setList, Sparse.ofList, List.length_cons, List.length_nil, Nat.zero_add, Nat.succ_le_iff]

/-- Reading after a write. -/
theorem Sparse.get_set {w : Nat} {k j : Nat} {m : Sparse w} {v : BitVec w} :
    Sparse.get (Sparse.set m k v) j = if j = k then v else Sparse.get m j := by
  rw [Sparse.set_eq, Sparse.get_setList]
  by_cases h : j = k
  · subst h; simp
  · rw [if_neg h, if_neg (by simp only [List.length_cons, List.length_nil]; omega)]

/-- Reading after a range is cleared. -/
theorem Sparse.get_clear {w : Nat} {k n j : Nat} {m : Sparse w} :
    Sparse.get (Sparse.clear m k n) j = if k ≤ j ∧ j < k + n then 0 else Sparse.get m j := by
  unfold Sparse.clear
  rw [Sparse.get_filter (fun x => decide (x < k) || decide (k + n ≤ x))]
  by_cases h : k ≤ j ∧ j < k + n
  · rw [if_pos h, if_neg (by simp; omega)]
  · rw [if_neg h, if_pos (by simp; omega)]

/-! ### Canonical form -/

theorem Sparse.wfFrom_mono {w : Nat} {lo hi : Nat} {m : Sparse w} (h : lo ≤ hi) (hm : Sparse.wfFrom hi m = true) :
    Sparse.wfFrom lo m = true := by
  cases m with
  | nil => rfl
  | cons c t => simp only [Sparse.wfFrom, Bool.and_eq_true, decide_eq_true_eq] at hm ⊢; exact ⟨⟨by omega, hm.1.2⟩, hm.2⟩

theorem Sparse.get_below {w : Nat} {lo k : Nat} {m : Sparse w} (hm : Sparse.wfFrom lo m = true) (hk : k < lo) :
    Sparse.get m k = 0 := by
  induction m generalizing lo with
  | nil => rfl
  | cons c t ih =>
    simp only [Sparse.wfFrom, Bool.and_eq_true, decide_eq_true_eq] at hm
    simp only [Sparse.get]
    rw [if_neg (by omega), ih hm.2 (by omega)]

theorem Sparse.wfFrom_filter {w : Nat} {lo : Nat} {m : Sparse w} (f : Nat × BitVec w → Bool) (hm : Sparse.wfFrom lo m = true) :
    Sparse.wfFrom lo (m.filter f) = true := by
  induction m generalizing lo with
  | nil => rfl
  | cons c t ih =>
    obtain ⟨a, u⟩ := c
    simp only [Sparse.wfFrom, Bool.and_eq_true, decide_eq_true_eq] at hm
    simp only [List.filter_cons]
    split
    · simp only [Sparse.wfFrom, Bool.and_eq_true, decide_eq_true_eq]; exact ⟨hm.1, ih hm.2⟩
    · exact Sparse.wfFrom_mono (by omega) (ih hm.2)

/-- Leaving out entries keeps the canonical form. -/
theorem Sparse.wf_filter {w : Nat} {m : Sparse w} (f : Nat × BitVec w → Bool) (hm : Sparse.wf m = true) :
    Sparse.wf (m.filter f) = true := Sparse.wfFrom_filter f hm

theorem Sparse.wfFrom_append {w : Nat} {lo mid : Nat} {m n : Sparse w} (hm : Sparse.wfFrom lo m = true)
    (hn : Sparse.wfFrom mid n = true) (hb : ∀ c ∈ m, c.1 < mid) (hl : lo ≤ mid) : Sparse.wfFrom lo (m ++ n) = true := by
  induction m generalizing lo with
  | nil => exact Sparse.wfFrom_mono hl hn
  | cons c t ih =>
    obtain ⟨a, u⟩ := c
    simp only [Sparse.wfFrom, Bool.and_eq_true, decide_eq_true_eq] at hm
    have ha : a < mid := hb (a, u) (by simp)
    simp only [List.cons_append, Sparse.wfFrom, Bool.and_eq_true, decide_eq_true_eq]
    exact ⟨hm.1, ih hm.2 (fun c hc => hb c (by simp [hc])) (by omega)⟩

theorem Sparse.ofList_wf {w : Nat} {k : Nat} {vs : List (BitVec w)} : Sparse.wfFrom k (Sparse.ofList k vs) = true := by
  induction vs generalizing k with
  | nil => rfl
  | cons v t ih =>
    simp only [Sparse.ofList]
    split
    · exact Sparse.wfFrom_mono (by omega) ih
    · simp only [Sparse.wfFrom, Bool.and_eq_true, decide_eq_true_eq]; exact ⟨⟨Nat.le_refl _, ‹_›⟩, ih⟩

/-- A canonical store whose keys are all at least `mid` is canonical from there. -/
theorem Sparse.wfFrom_raise {w : Nat} {lo mid : Nat} {m : Sparse w} (hm : Sparse.wfFrom lo m = true) (hb : ∀ c ∈ m, mid ≤ c.1) :
    Sparse.wfFrom mid m = true := by
  cases m with
  | nil => rfl
  | cons c t =>
    simp only [Sparse.wfFrom, Bool.and_eq_true, decide_eq_true_eq] at hm ⊢
    exact ⟨⟨hb c (by simp), hm.1.2⟩, hm.2⟩

/-- Writing a list keeps the canonical form. -/
theorem Sparse.wf_setList {w : Nat} {k : Nat} {m : Sparse w} {vs : List (BitVec w)} (hm : Sparse.wf m = true) :
    Sparse.wf (Sparse.setList m k vs) = true := by
  have h3 : Sparse.wfFrom (k + vs.length) (m.filter (fun c => decide (k + vs.length ≤ c.1))) = true :=
    Sparse.wfFrom_raise (Sparse.wfFrom_filter _ hm) (fun c hc => of_decide_eq_true (List.mem_filter.1 hc).2)
  have h2 := Sparse.wfFrom_append (lo := k) (mid := k + vs.length) (Sparse.ofList_wf (vs := vs)) h3
    (fun c hc => (Sparse.ofList_range c hc).2) (by omega)
  unfold Sparse.setList Sparse.wf
  rw [List.append_assoc]
  exact Sparse.wfFrom_append (Sparse.wfFrom_filter _ hm) h2 (fun c hc => of_decide_eq_true (List.mem_filter.1 hc).2) (Nat.zero_le _)

/-- A write keeps the canonical form. -/
theorem Sparse.wf_set {w : Nat} {k : Nat} {m : Sparse w} {v : BitVec w} (hm : Sparse.wf m = true) : Sparse.wf (Sparse.set m k v) = true := by
  rw [Sparse.set_eq]; exact Sparse.wf_setList hm

/-- Clearing a range keeps the canonical form. -/
theorem Sparse.wf_clear {w : Nat} {k n : Nat} {m : Sparse w} (hm : Sparse.wf m = true) : Sparse.wf (Sparse.clear m k n) = true :=
  Sparse.wf_filter _ hm

/-- Stores in canonical form that read alike are the same data. -/
theorem Sparse.ext {w : Nat} {m n : Sparse w} {lo : Nat} (hm : Sparse.wfFrom lo m = true) (hn : Sparse.wfFrom lo n = true)
    (h : ∀ k, Sparse.get m k = Sparse.get n k) : m = n := by
  induction m generalizing lo n with
  | nil =>
    cases n with
    | nil => rfl
    | cons c t =>
      obtain ⟨a, u⟩ := c
      have := h a
      simp only [Sparse.get, if_true] at this
      simp only [Sparse.wfFrom, Bool.and_eq_true, decide_eq_true_eq] at hn
      exact absurd this.symm hn.1.2
  | cons c t ih =>
    obtain ⟨a, u⟩ := c
    cases n with
    | nil =>
      have := h a
      simp only [Sparse.get, if_true] at this
      simp only [Sparse.wfFrom, Bool.and_eq_true, decide_eq_true_eq] at hm
      exact absurd this hm.1.2
    | cons d r =>
      obtain ⟨b, v⟩ := d
      simp only [Sparse.wfFrom, Bool.and_eq_true, decide_eq_true_eq] at hm hn
      simp only [Sparse.get] at h
      have hab : a = b := by
        rcases Nat.lt_trichotomy a b with hlt | he | hlt
        · have := h a
          rw [if_pos rfl, if_neg (by omega), Sparse.get_below hn.2 (by omega)] at this
          exact absurd this hm.1.2
        · exact he
        · have := h b
          rw [if_pos rfl, if_neg (by omega), Sparse.get_below hm.2 (by omega)] at this
          exact absurd this.symm hn.1.2
      subst hab
      have huv : u = v := by have := h a; rwa [if_pos rfl, if_pos rfl] at this
      subst huv
      congr 1
      refine ih hm.2 hn.2 (fun k => ?_)
      have := h k
      by_cases hk : a = k
      · subst hk; rw [Sparse.get_below hm.2 (by omega), Sparse.get_below hn.2 (by omega)]
      · rwa [if_neg hk, if_neg hk] at this

theorem Sparse.getList_length {w : Nat} {m : Sparse w} {k n : Nat} : (Sparse.getList m k n).length = n := by
  induction n generalizing k with
  | zero => rfl
  | succ n ih => simp [Sparse.getList, ih]

theorem Sparse.getList_getD {w : Nat} {m : Sparse w} {k n i : Nat} (h : i < n) : (Sparse.getList m k n).getD i 0 = Sparse.get m (k + i) := by
  induction n generalizing k i with
  | zero => omega
  | succ n ih =>
    cases i with
    | zero => simp [Sparse.getList]
    | succ i =>
      have := ih (k := k + 1) (i := i) (by omega)
      simp only [Sparse.getList, List.getD_cons_succ, this]
      congr 1; omega

/-! ### Tables -/

@[simp] theorem Tab.find_put_same {α : Type} {t : Tab α} {k : Nat} {v : α} : Tab.find (Tab.put t k v) k = some v := by
  induction t with
  | nil => simp [Tab.put, Tab.find]
  | cons c r ih =>
    obtain ⟨a, u⟩ := c
    simp only [Tab.put]
    split
    · simp only [Tab.find]; rw [if_neg (by omega), ih]
    · split <;> simp [Tab.find]

theorem Tab.find_put_other {α : Type} {t : Tab α} {k j : Nat} {v : α} (h : j ≠ k) : Tab.find (Tab.put t k v) j = Tab.find t j := by
  induction t with
  | nil => simp [Tab.put, Tab.find]; omega
  | cons c r ih =>
    obtain ⟨a, u⟩ := c
    simp only [Tab.put]
    split
    · simp only [Tab.find, ih]
    · split
      · subst_vars; simp only [Tab.find]; rw [if_neg (fun e => h e.symm), if_neg (fun e => h e.symm)]
      · simp only [Tab.find]; rw [if_neg (fun e => h e.symm)]

theorem Tab.findD_put {α : Type} {t : Tab α} {k j : Nat} {v d : α} : Tab.findD (Tab.put t k v) j d = if j = k then v else Tab.findD t j d := by
  unfold Tab.findD
  by_cases h : j = k
  · subst h; simp
  · rw [Tab.find_put_other h, if_neg h]

theorem Tab.find_drop {α : Type} {t : Tab α} {k j : Nat} : Tab.find (Tab.drop t k) j = if j = k then none else Tab.find t j := by
  induction t with
  | nil => simp [Tab.drop, Tab.find]
  | cons c r ih =>
    obtain ⟨a, u⟩ := c
    unfold Tab.drop at ih ⊢
    simp only [List.filter_cons]
    by_cases ha : a = k
    · subst ha
      simp only [ne_eq, not_true_eq_false, decide_false, Bool.false_eq_true, if_false, ih, Tab.find]
      by_cases hj : j = a
      · simp [hj]
      · rw [if_neg hj, if_neg hj, if_neg (fun e => hj e.symm)]
    · simp only [ne_eq, ha, not_false_eq_true, decide_true, if_true, Tab.find, ih]
      by_cases hj : a = j
      · subst hj; simp [ha]
      · simp [hj]

/-! ### Bytes of numbers -/

theorem leBytes_length {n v : Nat} : (leBytes n v).length = n := by
  induction n generalizing v with
  | zero => rfl
  | succ n ih => simp [leBytes, ih]

/-- The bytes of a number give it back (00 R4). -/
theorem leNat_leBytes {n v : Nat} : leNat (leBytes n v) = v % 256 ^ n := by
  induction n generalizing v with
  | zero => simp [leBytes, leNat, Nat.mod_one]
  | succ n ih =>
    simp only [leBytes, leNat, ih, BitVec.toNat_ofNat]
    have h2 : v % 256 ^ (n + 1) = v % 256 + 256 * (v / 256 % 256 ^ n) := by
      rw [Nat.pow_succ, Nat.mul_comm, Nat.mod_mul]
    rw [h2]

end Sys2Proof
end

