-- ==== Sys2Proof/Laws/State.lean ====
section
/-! SUPPORT. What each update of State leaves and what it writes: one lemma per field. -/
namespace Sys2Proof.Machine

/-! ### setGrp -/

@[simp] theorem State.setGrp_agenda (s : State) (n : Nat) (g : Grp) : (s.setGrp n g).agenda = s.agenda := rfl
@[simp] theorem State.setGrp_iss (s : State) (n : Nat) (g : Grp) : (s.setGrp n g).iss = s.iss := rfl
@[simp] theorem State.setGrp_freeCtr (s : State) (n : Nat) (g : Grp) : (s.setGrp n g).freeCtr = s.freeCtr := rfl
@[simp] theorem State.setGrp_mem (s : State) (n : Nat) (g : Grp) : (s.setGrp n g).mem = s.mem := rfl
@[simp] theorem State.setGrp_memPoison (s : State) (n : Nat) (g : Grp) : (s.setGrp n g).memPoison = s.memPoison := rfl
@[simp] theorem State.setGrp_codeLog (s : State) (n : Nat) (g : Grp) : (s.setGrp n g).codeLog = s.codeLog := rfl
@[simp] theorem State.setGrp_bumps (s : State) (n : Nat) (g : Grp) : (s.setGrp n g).bumps = s.bumps := rfl
@[simp] theorem State.setGrp_worlds (s : State) (n : Nat) (g : Grp) : (s.setGrp n g).worlds = s.worlds := rfl
@[simp] theorem State.setGrp_l2 (s : State) (n : Nat) (g : Grp) : (s.setGrp n g).l2 = s.l2 := rfl
@[simp] theorem State.setGrp_dir (s : State) (n : Nat) (g : Grp) : (s.setGrp n g).dir = s.dir := rfl
@[simp] theorem State.setGrp_poolGen (s : State) (n : Nat) (g : Grp) : (s.setGrp n g).poolGen = s.poolGen := rfl
@[simp] theorem State.setGrp_cores (s : State) (n : Nat) (g : Grp) : (s.setGrp n g).cores = s.cores := rfl
@[simp] theorem State.setGrp_groups (s : State) (n : Nat) (g : Grp) : (s.setGrp n g).groups = Tab.put s.groups n g := rfl
@[simp] theorem State.setGrp_nextGroup (s : State) (n : Nat) (g : Grp) : (s.setGrp n g).nextGroup = s.nextGroup := rfl
@[simp] theorem State.setGrp_launches (s : State) (n : Nat) (g : Grp) : (s.setGrp n g).launches = s.launches := rfl
@[simp] theorem State.setGrp_nextLaunch (s : State) (n : Nat) (g : Grp) : (s.setGrp n g).nextLaunch = s.nextLaunch := rfl
@[simp] theorem State.setGrp_launchId (s : State) (n : Nat) (g : Grp) : (s.setGrp n g).launchId = s.launchId := rfl
@[simp] theorem State.setGrp_roasts (s : State) (n : Nat) (g : Grp) : (s.setGrp n g).roasts = s.roasts := rfl
@[simp] theorem State.setGrp_nextRoast (s : State) (n : Nat) (g : Grp) : (s.setGrp n g).nextRoast = s.nextRoast := rfl
@[simp] theorem State.setGrp_ctxs (s : State) (n : Nat) (g : Grp) : (s.setGrp n g).ctxs = s.ctxs := rfl
@[simp] theorem State.setGrp_dies (s : State) (n : Nat) (g : Grp) : (s.setGrp n g).dies = s.dies := rfl
@[simp] theorem State.setGrp_records (s : State) (n : Nat) (g : Grp) : (s.setGrp n g).records = s.records := rfl
@[simp] theorem State.setGrp_cmds (s : State) (n : Nat) (g : Grp) : (s.setGrp n g).cmds = s.cmds := rfl
@[simp] theorem State.setGrp_nextCmd (s : State) (n : Nat) (g : Grp) : (s.setGrp n g).nextCmd = s.nextCmd := rfl
@[simp] theorem State.setGrp_journal (s : State) (n : Nat) (g : Grp) : (s.setGrp n g).journal = s.journal := rfl
@[simp] theorem State.setGrp_barriers (s : State) (n : Nat) (g : Grp) : (s.setGrp n g).barriers = s.barriers := rfl
@[simp] theorem State.setGrp_pkg (s : State) (n : Nat) (g : Grp) : (s.setGrp n g).pkg = s.pkg := rfl

/-! ### setCore -/

@[simp] theorem State.setCore_agenda (s : State) (c : Nat) (k : Core) : (s.setCore c k).agenda = s.agenda := rfl
@[simp] theorem State.setCore_iss (s : State) (c : Nat) (k : Core) : (s.setCore c k).iss = s.iss := rfl
@[simp] theorem State.setCore_freeCtr (s : State) (c : Nat) (k : Core) : (s.setCore c k).freeCtr = s.freeCtr := rfl
@[simp] theorem State.setCore_mem (s : State) (c : Nat) (k : Core) : (s.setCore c k).mem = s.mem := rfl
@[simp] theorem State.setCore_memPoison (s : State) (c : Nat) (k : Core) : (s.setCore c k).memPoison = s.memPoison := rfl
@[simp] theorem State.setCore_codeLog (s : State) (c : Nat) (k : Core) : (s.setCore c k).codeLog = s.codeLog := rfl
@[simp] theorem State.setCore_bumps (s : State) (c : Nat) (k : Core) : (s.setCore c k).bumps = s.bumps := rfl
@[simp] theorem State.setCore_worlds (s : State) (c : Nat) (k : Core) : (s.setCore c k).worlds = s.worlds := rfl
@[simp] theorem State.setCore_l2 (s : State) (c : Nat) (k : Core) : (s.setCore c k).l2 = s.l2 := rfl
@[simp] theorem State.setCore_dir (s : State) (c : Nat) (k : Core) : (s.setCore c k).dir = s.dir := rfl
@[simp] theorem State.setCore_poolGen (s : State) (c : Nat) (k : Core) : (s.setCore c k).poolGen = s.poolGen := rfl
@[simp] theorem State.setCore_cores (s : State) (c : Nat) (k : Core) : (s.setCore c k).cores = Tab.put s.cores c k := rfl
@[simp] theorem State.setCore_groups (s : State) (c : Nat) (k : Core) : (s.setCore c k).groups = s.groups := rfl
@[simp] theorem State.setCore_nextGroup (s : State) (c : Nat) (k : Core) : (s.setCore c k).nextGroup = s.nextGroup := rfl
@[simp] theorem State.setCore_launches (s : State) (c : Nat) (k : Core) : (s.setCore c k).launches = s.launches := rfl
@[simp] theorem State.setCore_nextLaunch (s : State) (c : Nat) (k : Core) : (s.setCore c k).nextLaunch = s.nextLaunch := rfl
@[simp] theorem State.setCore_launchId (s : State) (c : Nat) (k : Core) : (s.setCore c k).launchId = s.launchId := rfl
@[simp] theorem State.setCore_roasts (s : State) (c : Nat) (k : Core) : (s.setCore c k).roasts = s.roasts := rfl
@[simp] theorem State.setCore_nextRoast (s : State) (c : Nat) (k : Core) : (s.setCore c k).nextRoast = s.nextRoast := rfl
@[simp] theorem State.setCore_ctxs (s : State) (c : Nat) (k : Core) : (s.setCore c k).ctxs = s.ctxs := rfl
@[simp] theorem State.setCore_dies (s : State) (c : Nat) (k : Core) : (s.setCore c k).dies = s.dies := rfl
@[simp] theorem State.setCore_records (s : State) (c : Nat) (k : Core) : (s.setCore c k).records = s.records := rfl
@[simp] theorem State.setCore_cmds (s : State) (c : Nat) (k : Core) : (s.setCore c k).cmds = s.cmds := rfl
@[simp] theorem State.setCore_nextCmd (s : State) (c : Nat) (k : Core) : (s.setCore c k).nextCmd = s.nextCmd := rfl
@[simp] theorem State.setCore_journal (s : State) (c : Nat) (k : Core) : (s.setCore c k).journal = s.journal := rfl
@[simp] theorem State.setCore_barriers (s : State) (c : Nat) (k : Core) : (s.setCore c k).barriers = s.barriers := rfl
@[simp] theorem State.setCore_pkg (s : State) (c : Nat) (k : Core) : (s.setCore c k).pkg = s.pkg := rfl

/-! ### modCore -/

@[simp] theorem State.modCore_agenda (s : State) (c : Nat) (f : Core → Core) : (s.modCore c f).agenda = s.agenda := rfl
@[simp] theorem State.modCore_iss (s : State) (c : Nat) (f : Core → Core) : (s.modCore c f).iss = s.iss := rfl
@[simp] theorem State.modCore_freeCtr (s : State) (c : Nat) (f : Core → Core) : (s.modCore c f).freeCtr = s.freeCtr := rfl
@[simp] theorem State.modCore_mem (s : State) (c : Nat) (f : Core → Core) : (s.modCore c f).mem = s.mem := rfl
@[simp] theorem State.modCore_memPoison (s : State) (c : Nat) (f : Core → Core) : (s.modCore c f).memPoison = s.memPoison := rfl
@[simp] theorem State.modCore_codeLog (s : State) (c : Nat) (f : Core → Core) : (s.modCore c f).codeLog = s.codeLog := rfl
@[simp] theorem State.modCore_bumps (s : State) (c : Nat) (f : Core → Core) : (s.modCore c f).bumps = s.bumps := rfl
@[simp] theorem State.modCore_worlds (s : State) (c : Nat) (f : Core → Core) : (s.modCore c f).worlds = s.worlds := rfl
@[simp] theorem State.modCore_l2 (s : State) (c : Nat) (f : Core → Core) : (s.modCore c f).l2 = s.l2 := rfl
@[simp] theorem State.modCore_dir (s : State) (c : Nat) (f : Core → Core) : (s.modCore c f).dir = s.dir := rfl
@[simp] theorem State.modCore_poolGen (s : State) (c : Nat) (f : Core → Core) : (s.modCore c f).poolGen = s.poolGen := rfl
@[simp] theorem State.modCore_cores (s : State) (c : Nat) (f : Core → Core) : (s.modCore c f).cores = Tab.put s.cores c (f (s.coreAt c)) := rfl
@[simp] theorem State.modCore_groups (s : State) (c : Nat) (f : Core → Core) : (s.modCore c f).groups = s.groups := rfl
@[simp] theorem State.modCore_nextGroup (s : State) (c : Nat) (f : Core → Core) : (s.modCore c f).nextGroup = s.nextGroup := rfl
@[simp] theorem State.modCore_launches (s : State) (c : Nat) (f : Core → Core) : (s.modCore c f).launches = s.launches := rfl
@[simp] theorem State.modCore_nextLaunch (s : State) (c : Nat) (f : Core → Core) : (s.modCore c f).nextLaunch = s.nextLaunch := rfl
@[simp] theorem State.modCore_launchId (s : State) (c : Nat) (f : Core → Core) : (s.modCore c f).launchId = s.launchId := rfl
@[simp] theorem State.modCore_roasts (s : State) (c : Nat) (f : Core → Core) : (s.modCore c f).roasts = s.roasts := rfl
@[simp] theorem State.modCore_nextRoast (s : State) (c : Nat) (f : Core → Core) : (s.modCore c f).nextRoast = s.nextRoast := rfl
@[simp] theorem State.modCore_ctxs (s : State) (c : Nat) (f : Core → Core) : (s.modCore c f).ctxs = s.ctxs := rfl
@[simp] theorem State.modCore_dies (s : State) (c : Nat) (f : Core → Core) : (s.modCore c f).dies = s.dies := rfl
@[simp] theorem State.modCore_records (s : State) (c : Nat) (f : Core → Core) : (s.modCore c f).records = s.records := rfl
@[simp] theorem State.modCore_cmds (s : State) (c : Nat) (f : Core → Core) : (s.modCore c f).cmds = s.cmds := rfl
@[simp] theorem State.modCore_nextCmd (s : State) (c : Nat) (f : Core → Core) : (s.modCore c f).nextCmd = s.nextCmd := rfl
@[simp] theorem State.modCore_journal (s : State) (c : Nat) (f : Core → Core) : (s.modCore c f).journal = s.journal := rfl
@[simp] theorem State.modCore_barriers (s : State) (c : Nat) (f : Core → Core) : (s.modCore c f).barriers = s.barriers := rfl
@[simp] theorem State.modCore_pkg (s : State) (c : Nat) (f : Core → Core) : (s.modCore c f).pkg = s.pkg := rfl

/-! ### setCtx -/

@[simp] theorem State.setCtx_agenda (s : State) (x : Nat) (c : Ctx) : (s.setCtx x c).agenda = s.agenda := rfl
@[simp] theorem State.setCtx_iss (s : State) (x : Nat) (c : Ctx) : (s.setCtx x c).iss = s.iss := rfl
@[simp] theorem State.setCtx_freeCtr (s : State) (x : Nat) (c : Ctx) : (s.setCtx x c).freeCtr = s.freeCtr := rfl
@[simp] theorem State.setCtx_mem (s : State) (x : Nat) (c : Ctx) : (s.setCtx x c).mem = s.mem := rfl
@[simp] theorem State.setCtx_memPoison (s : State) (x : Nat) (c : Ctx) : (s.setCtx x c).memPoison = s.memPoison := rfl
@[simp] theorem State.setCtx_codeLog (s : State) (x : Nat) (c : Ctx) : (s.setCtx x c).codeLog = s.codeLog := rfl
@[simp] theorem State.setCtx_bumps (s : State) (x : Nat) (c : Ctx) : (s.setCtx x c).bumps = s.bumps := rfl
@[simp] theorem State.setCtx_worlds (s : State) (x : Nat) (c : Ctx) : (s.setCtx x c).worlds = s.worlds := rfl
@[simp] theorem State.setCtx_l2 (s : State) (x : Nat) (c : Ctx) : (s.setCtx x c).l2 = s.l2 := rfl
@[simp] theorem State.setCtx_dir (s : State) (x : Nat) (c : Ctx) : (s.setCtx x c).dir = s.dir := rfl
@[simp] theorem State.setCtx_poolGen (s : State) (x : Nat) (c : Ctx) : (s.setCtx x c).poolGen = s.poolGen := rfl
@[simp] theorem State.setCtx_cores (s : State) (x : Nat) (c : Ctx) : (s.setCtx x c).cores = s.cores := rfl
@[simp] theorem State.setCtx_groups (s : State) (x : Nat) (c : Ctx) : (s.setCtx x c).groups = s.groups := rfl
@[simp] theorem State.setCtx_nextGroup (s : State) (x : Nat) (c : Ctx) : (s.setCtx x c).nextGroup = s.nextGroup := rfl
@[simp] theorem State.setCtx_launches (s : State) (x : Nat) (c : Ctx) : (s.setCtx x c).launches = s.launches := rfl
@[simp] theorem State.setCtx_nextLaunch (s : State) (x : Nat) (c : Ctx) : (s.setCtx x c).nextLaunch = s.nextLaunch := rfl
@[simp] theorem State.setCtx_launchId (s : State) (x : Nat) (c : Ctx) : (s.setCtx x c).launchId = s.launchId := rfl
@[simp] theorem State.setCtx_roasts (s : State) (x : Nat) (c : Ctx) : (s.setCtx x c).roasts = s.roasts := rfl
@[simp] theorem State.setCtx_nextRoast (s : State) (x : Nat) (c : Ctx) : (s.setCtx x c).nextRoast = s.nextRoast := rfl
@[simp] theorem State.setCtx_ctxs (s : State) (x : Nat) (c : Ctx) : (s.setCtx x c).ctxs = Tab.put s.ctxs x c := rfl
@[simp] theorem State.setCtx_dies (s : State) (x : Nat) (c : Ctx) : (s.setCtx x c).dies = s.dies := rfl
@[simp] theorem State.setCtx_records (s : State) (x : Nat) (c : Ctx) : (s.setCtx x c).records = s.records := rfl
@[simp] theorem State.setCtx_cmds (s : State) (x : Nat) (c : Ctx) : (s.setCtx x c).cmds = s.cmds := rfl
@[simp] theorem State.setCtx_nextCmd (s : State) (x : Nat) (c : Ctx) : (s.setCtx x c).nextCmd = s.nextCmd := rfl
@[simp] theorem State.setCtx_journal (s : State) (x : Nat) (c : Ctx) : (s.setCtx x c).journal = s.journal := rfl
@[simp] theorem State.setCtx_barriers (s : State) (x : Nat) (c : Ctx) : (s.setCtx x c).barriers = s.barriers := rfl
@[simp] theorem State.setCtx_pkg (s : State) (x : Nat) (c : Ctx) : (s.setCtx x c).pkg = s.pkg := rfl

/-! ### modCtx -/

@[simp] theorem State.modCtx_agenda (s : State) (x : Nat) (f : Ctx → Ctx) : (s.modCtx x f).agenda = s.agenda := rfl
@[simp] theorem State.modCtx_iss (s : State) (x : Nat) (f : Ctx → Ctx) : (s.modCtx x f).iss = s.iss := rfl
@[simp] theorem State.modCtx_freeCtr (s : State) (x : Nat) (f : Ctx → Ctx) : (s.modCtx x f).freeCtr = s.freeCtr := rfl
@[simp] theorem State.modCtx_mem (s : State) (x : Nat) (f : Ctx → Ctx) : (s.modCtx x f).mem = s.mem := rfl
@[simp] theorem State.modCtx_memPoison (s : State) (x : Nat) (f : Ctx → Ctx) : (s.modCtx x f).memPoison = s.memPoison := rfl
@[simp] theorem State.modCtx_codeLog (s : State) (x : Nat) (f : Ctx → Ctx) : (s.modCtx x f).codeLog = s.codeLog := rfl
@[simp] theorem State.modCtx_bumps (s : State) (x : Nat) (f : Ctx → Ctx) : (s.modCtx x f).bumps = s.bumps := rfl
@[simp] theorem State.modCtx_worlds (s : State) (x : Nat) (f : Ctx → Ctx) : (s.modCtx x f).worlds = s.worlds := rfl
@[simp] theorem State.modCtx_l2 (s : State) (x : Nat) (f : Ctx → Ctx) : (s.modCtx x f).l2 = s.l2 := rfl
@[simp] theorem State.modCtx_dir (s : State) (x : Nat) (f : Ctx → Ctx) : (s.modCtx x f).dir = s.dir := rfl
@[simp] theorem State.modCtx_poolGen (s : State) (x : Nat) (f : Ctx → Ctx) : (s.modCtx x f).poolGen = s.poolGen := rfl
@[simp] theorem State.modCtx_cores (s : State) (x : Nat) (f : Ctx → Ctx) : (s.modCtx x f).cores = s.cores := rfl
@[simp] theorem State.modCtx_groups (s : State) (x : Nat) (f : Ctx → Ctx) : (s.modCtx x f).groups = s.groups := rfl
@[simp] theorem State.modCtx_nextGroup (s : State) (x : Nat) (f : Ctx → Ctx) : (s.modCtx x f).nextGroup = s.nextGroup := rfl
@[simp] theorem State.modCtx_launches (s : State) (x : Nat) (f : Ctx → Ctx) : (s.modCtx x f).launches = s.launches := rfl
@[simp] theorem State.modCtx_nextLaunch (s : State) (x : Nat) (f : Ctx → Ctx) : (s.modCtx x f).nextLaunch = s.nextLaunch := rfl
@[simp] theorem State.modCtx_launchId (s : State) (x : Nat) (f : Ctx → Ctx) : (s.modCtx x f).launchId = s.launchId := rfl
@[simp] theorem State.modCtx_roasts (s : State) (x : Nat) (f : Ctx → Ctx) : (s.modCtx x f).roasts = s.roasts := rfl
@[simp] theorem State.modCtx_nextRoast (s : State) (x : Nat) (f : Ctx → Ctx) : (s.modCtx x f).nextRoast = s.nextRoast := rfl
@[simp] theorem State.modCtx_ctxs (s : State) (x : Nat) (f : Ctx → Ctx) : (s.modCtx x f).ctxs = Tab.put s.ctxs x (f (s.ctxAt x)) := rfl
@[simp] theorem State.modCtx_dies (s : State) (x : Nat) (f : Ctx → Ctx) : (s.modCtx x f).dies = s.dies := rfl
@[simp] theorem State.modCtx_records (s : State) (x : Nat) (f : Ctx → Ctx) : (s.modCtx x f).records = s.records := rfl
@[simp] theorem State.modCtx_cmds (s : State) (x : Nat) (f : Ctx → Ctx) : (s.modCtx x f).cmds = s.cmds := rfl
@[simp] theorem State.modCtx_nextCmd (s : State) (x : Nat) (f : Ctx → Ctx) : (s.modCtx x f).nextCmd = s.nextCmd := rfl
@[simp] theorem State.modCtx_journal (s : State) (x : Nat) (f : Ctx → Ctx) : (s.modCtx x f).journal = s.journal := rfl
@[simp] theorem State.modCtx_barriers (s : State) (x : Nat) (f : Ctx → Ctx) : (s.modCtx x f).barriers = s.barriers := rfl
@[simp] theorem State.modCtx_pkg (s : State) (x : Nat) (f : Ctx → Ctx) : (s.modCtx x f).pkg = s.pkg := rfl

/-! ### modDie -/

@[simp] theorem State.modDie_agenda (s : State) (d : Nat) (f : Die → Die) : (s.modDie d f).agenda = s.agenda := rfl
@[simp] theorem State.modDie_iss (s : State) (d : Nat) (f : Die → Die) : (s.modDie d f).iss = s.iss := rfl
@[simp] theorem State.modDie_freeCtr (s : State) (d : Nat) (f : Die → Die) : (s.modDie d f).freeCtr = s.freeCtr := rfl
@[simp] theorem State.modDie_mem (s : State) (d : Nat) (f : Die → Die) : (s.modDie d f).mem = s.mem := rfl
@[simp] theorem State.modDie_memPoison (s : State) (d : Nat) (f : Die → Die) : (s.modDie d f).memPoison = s.memPoison := rfl
@[simp] theorem State.modDie_codeLog (s : State) (d : Nat) (f : Die → Die) : (s.modDie d f).codeLog = s.codeLog := rfl
@[simp] theorem State.modDie_bumps (s : State) (d : Nat) (f : Die → Die) : (s.modDie d f).bumps = s.bumps := rfl
@[simp] theorem State.modDie_worlds (s : State) (d : Nat) (f : Die → Die) : (s.modDie d f).worlds = s.worlds := rfl
@[simp] theorem State.modDie_l2 (s : State) (d : Nat) (f : Die → Die) : (s.modDie d f).l2 = s.l2 := rfl
@[simp] theorem State.modDie_dir (s : State) (d : Nat) (f : Die → Die) : (s.modDie d f).dir = s.dir := rfl
@[simp] theorem State.modDie_poolGen (s : State) (d : Nat) (f : Die → Die) : (s.modDie d f).poolGen = s.poolGen := rfl
@[simp] theorem State.modDie_cores (s : State) (d : Nat) (f : Die → Die) : (s.modDie d f).cores = s.cores := rfl
@[simp] theorem State.modDie_groups (s : State) (d : Nat) (f : Die → Die) : (s.modDie d f).groups = s.groups := rfl
@[simp] theorem State.modDie_nextGroup (s : State) (d : Nat) (f : Die → Die) : (s.modDie d f).nextGroup = s.nextGroup := rfl
@[simp] theorem State.modDie_launches (s : State) (d : Nat) (f : Die → Die) : (s.modDie d f).launches = s.launches := rfl
@[simp] theorem State.modDie_nextLaunch (s : State) (d : Nat) (f : Die → Die) : (s.modDie d f).nextLaunch = s.nextLaunch := rfl
@[simp] theorem State.modDie_launchId (s : State) (d : Nat) (f : Die → Die) : (s.modDie d f).launchId = s.launchId := rfl
@[simp] theorem State.modDie_roasts (s : State) (d : Nat) (f : Die → Die) : (s.modDie d f).roasts = s.roasts := rfl
@[simp] theorem State.modDie_nextRoast (s : State) (d : Nat) (f : Die → Die) : (s.modDie d f).nextRoast = s.nextRoast := rfl
@[simp] theorem State.modDie_ctxs (s : State) (d : Nat) (f : Die → Die) : (s.modDie d f).ctxs = s.ctxs := rfl
@[simp] theorem State.modDie_dies (s : State) (d : Nat) (f : Die → Die) : (s.modDie d f).dies = s.dies.set d (f (s.dieAt d)) := rfl
@[simp] theorem State.modDie_records (s : State) (d : Nat) (f : Die → Die) : (s.modDie d f).records = s.records := rfl
@[simp] theorem State.modDie_cmds (s : State) (d : Nat) (f : Die → Die) : (s.modDie d f).cmds = s.cmds := rfl
@[simp] theorem State.modDie_nextCmd (s : State) (d : Nat) (f : Die → Die) : (s.modDie d f).nextCmd = s.nextCmd := rfl
@[simp] theorem State.modDie_journal (s : State) (d : Nat) (f : Die → Die) : (s.modDie d f).journal = s.journal := rfl
@[simp] theorem State.modDie_barriers (s : State) (d : Nat) (f : Die → Die) : (s.modDie d f).barriers = s.barriers := rfl
@[simp] theorem State.modDie_pkg (s : State) (d : Nat) (f : Die → Die) : (s.modDie d f).pkg = s.pkg := rfl

/-! ### useFree -/

@[simp] theorem State.useFree_agenda (s : State) (n : Nat) : (s.useFree n).agenda = s.agenda := rfl
@[simp] theorem State.useFree_iss (s : State) (n : Nat) : (s.useFree n).iss = s.iss := rfl
@[simp] theorem State.useFree_freeCtr (s : State) (n : Nat) : (s.useFree n).freeCtr = s.freeCtr + n := rfl
@[simp] theorem State.useFree_mem (s : State) (n : Nat) : (s.useFree n).mem = s.mem := rfl
@[simp] theorem State.useFree_memPoison (s : State) (n : Nat) : (s.useFree n).memPoison = s.memPoison := rfl
@[simp] theorem State.useFree_codeLog (s : State) (n : Nat) : (s.useFree n).codeLog = s.codeLog := rfl
@[simp] theorem State.useFree_bumps (s : State) (n : Nat) : (s.useFree n).bumps = s.bumps := rfl
@[simp] theorem State.useFree_worlds (s : State) (n : Nat) : (s.useFree n).worlds = s.worlds := rfl
@[simp] theorem State.useFree_l2 (s : State) (n : Nat) : (s.useFree n).l2 = s.l2 := rfl
@[simp] theorem State.useFree_dir (s : State) (n : Nat) : (s.useFree n).dir = s.dir := rfl
@[simp] theorem State.useFree_poolGen (s : State) (n : Nat) : (s.useFree n).poolGen = s.poolGen := rfl
@[simp] theorem State.useFree_cores (s : State) (n : Nat) : (s.useFree n).cores = s.cores := rfl
@[simp] theorem State.useFree_groups (s : State) (n : Nat) : (s.useFree n).groups = s.groups := rfl
@[simp] theorem State.useFree_nextGroup (s : State) (n : Nat) : (s.useFree n).nextGroup = s.nextGroup := rfl
@[simp] theorem State.useFree_launches (s : State) (n : Nat) : (s.useFree n).launches = s.launches := rfl
@[simp] theorem State.useFree_nextLaunch (s : State) (n : Nat) : (s.useFree n).nextLaunch = s.nextLaunch := rfl
@[simp] theorem State.useFree_launchId (s : State) (n : Nat) : (s.useFree n).launchId = s.launchId := rfl
@[simp] theorem State.useFree_roasts (s : State) (n : Nat) : (s.useFree n).roasts = s.roasts := rfl
@[simp] theorem State.useFree_nextRoast (s : State) (n : Nat) : (s.useFree n).nextRoast = s.nextRoast := rfl
@[simp] theorem State.useFree_ctxs (s : State) (n : Nat) : (s.useFree n).ctxs = s.ctxs := rfl
@[simp] theorem State.useFree_dies (s : State) (n : Nat) : (s.useFree n).dies = s.dies := rfl
@[simp] theorem State.useFree_records (s : State) (n : Nat) : (s.useFree n).records = s.records := rfl
@[simp] theorem State.useFree_cmds (s : State) (n : Nat) : (s.useFree n).cmds = s.cmds := rfl
@[simp] theorem State.useFree_nextCmd (s : State) (n : Nat) : (s.useFree n).nextCmd = s.nextCmd := rfl
@[simp] theorem State.useFree_journal (s : State) (n : Nat) : (s.useFree n).journal = s.journal := rfl
@[simp] theorem State.useFree_barriers (s : State) (n : Nat) : (s.useFree n).barriers = s.barriers := rfl
@[simp] theorem State.useFree_pkg (s : State) (n : Nat) : (s.useFree n).pkg = s.pkg := rfl

/-! ### poisonMem -/

@[simp] theorem State.poisonMem_agenda (s : State) (a : Nat) : (s.poisonMem a).agenda = s.agenda := rfl
@[simp] theorem State.poisonMem_iss (s : State) (a : Nat) : (s.poisonMem a).iss = s.iss := rfl
@[simp] theorem State.poisonMem_freeCtr (s : State) (a : Nat) : (s.poisonMem a).freeCtr = s.freeCtr := rfl
@[simp] theorem State.poisonMem_mem (s : State) (a : Nat) : (s.poisonMem a).mem = s.mem := rfl
@[simp] theorem State.poisonMem_memPoison (s : State) (a : Nat) : (s.poisonMem a).memPoison = if s.memPoison.contains (a / 8) then s.memPoison else (a / 8) :: s.memPoison := rfl
@[simp] theorem State.poisonMem_codeLog (s : State) (a : Nat) : (s.poisonMem a).codeLog = s.codeLog := rfl
@[simp] theorem State.poisonMem_bumps (s : State) (a : Nat) : (s.poisonMem a).bumps = s.bumps := rfl
@[simp] theorem State.poisonMem_worlds (s : State) (a : Nat) : (s.poisonMem a).worlds = s.worlds := rfl
@[simp] theorem State.poisonMem_l2 (s : State) (a : Nat) : (s.poisonMem a).l2 = s.l2 := rfl
@[simp] theorem State.poisonMem_dir (s : State) (a : Nat) : (s.poisonMem a).dir = s.dir := rfl
@[simp] theorem State.poisonMem_poolGen (s : State) (a : Nat) : (s.poisonMem a).poolGen = s.poolGen := rfl
@[simp] theorem State.poisonMem_cores (s : State) (a : Nat) : (s.poisonMem a).cores = s.cores := rfl
@[simp] theorem State.poisonMem_groups (s : State) (a : Nat) : (s.poisonMem a).groups = s.groups := rfl
@[simp] theorem State.poisonMem_nextGroup (s : State) (a : Nat) : (s.poisonMem a).nextGroup = s.nextGroup := rfl
@[simp] theorem State.poisonMem_launches (s : State) (a : Nat) : (s.poisonMem a).launches = s.launches := rfl
@[simp] theorem State.poisonMem_nextLaunch (s : State) (a : Nat) : (s.poisonMem a).nextLaunch = s.nextLaunch := rfl
@[simp] theorem State.poisonMem_launchId (s : State) (a : Nat) : (s.poisonMem a).launchId = s.launchId := rfl
@[simp] theorem State.poisonMem_roasts (s : State) (a : Nat) : (s.poisonMem a).roasts = s.roasts := rfl
@[simp] theorem State.poisonMem_nextRoast (s : State) (a : Nat) : (s.poisonMem a).nextRoast = s.nextRoast := rfl
@[simp] theorem State.poisonMem_ctxs (s : State) (a : Nat) : (s.poisonMem a).ctxs = s.ctxs := rfl
@[simp] theorem State.poisonMem_dies (s : State) (a : Nat) : (s.poisonMem a).dies = s.dies := rfl
@[simp] theorem State.poisonMem_records (s : State) (a : Nat) : (s.poisonMem a).records = s.records := rfl
@[simp] theorem State.poisonMem_cmds (s : State) (a : Nat) : (s.poisonMem a).cmds = s.cmds := rfl
@[simp] theorem State.poisonMem_nextCmd (s : State) (a : Nat) : (s.poisonMem a).nextCmd = s.nextCmd := rfl
@[simp] theorem State.poisonMem_journal (s : State) (a : Nat) : (s.poisonMem a).journal = s.journal := rfl
@[simp] theorem State.poisonMem_barriers (s : State) (a : Nat) : (s.poisonMem a).barriers = s.barriers := rfl
@[simp] theorem State.poisonMem_pkg (s : State) (a : Nat) : (s.poisonMem a).pkg = s.pkg := rfl

/-! ### Reading an entry after it is written -/

theorem State.grp_setGrp (s : State) (n m : Nat) (g : Grp) : (s.setGrp n g).grp m = if m = n then g else s.grp m := by
  simp only [State.grp, State.setGrp_groups, Tab.findD_put]

theorem State.coreAt_setCore (s : State) (c d : Nat) (k : Core) : (s.setCore c k).coreAt d = if d = c then k else s.coreAt d := by
  simp only [State.coreAt, State.setCore_cores, Tab.findD_put]

theorem State.coreAt_modCore (s : State) (c d : Nat) (f : Core → Core) :
    (s.modCore c f).coreAt d = if d = c then f (s.coreAt c) else s.coreAt d := State.coreAt_setCore s c d _

theorem State.ctxAt_setCtx (s : State) (x y : Nat) (c : Ctx) : (s.setCtx x c).ctxAt y = if y = x then c else s.ctxAt y := by
  simp only [State.ctxAt, State.setCtx_ctxs, Tab.findD_put]

theorem State.ctxAt_modCtx (s : State) (x y : Nat) (f : Ctx → Ctx) :
    (s.modCtx x f).ctxAt y = if y = x then f (s.ctxAt x) else s.ctxAt y := State.ctxAt_setCtx s x y _

theorem State.dieAt_modDie (s : State) (d e : Nat) (f : Die → Die) (hd : d < s.dies.length) :
    (s.modDie d f).dieAt e = if e = d then f (s.dieAt d) else s.dieAt e := by
  simp only [State.dieAt, State.modDie_dies, List.getD_eq_getElem?_getD, List.getElem?_set]
  by_cases h : e = d
  · subst h; simp [hd]
  · rw [if_neg (fun x => h x.symm), if_neg h]

/-- A group that lives is read from the table. -/
theorem State.grp_of_find {s : State} {n : Nat} {g : Grp} (h : Tab.find s.groups n = some g) : s.grp n = g := by
  simp [State.grp, Tab.findD, h]

theorem State.modGrp_of_find {s : State} {n : Nat} {g : Grp} (f : Grp → Grp) (h : Tab.find s.groups n = some g) :
    s.modGrp n f = s.setGrp n (f g) := by
  simp [State.modGrp, h]

theorem State.grp_modGrp_other (s : State) (n m : Nat) (f : Grp → Grp) (h : m ≠ n) : (s.modGrp n f).grp m = s.grp m := by
  unfold State.modGrp
  split
  · rw [State.grp_setGrp, if_neg h]
  · rfl

end Sys2Proof.Machine
end

