-- ==== Sys2Proof/Laws/Groups.lean ====
section
/-! SUPPORT. A group's registers, fragments and counters: what each shared operation on them does and leaves. -/
namespace Sys2Proof.Machine

/-! ### Scalars, predicates, flags -/

theorem Grp.scalar_setScalar (g : Grp) (n k : Nat) (v : Word) : (g.setScalar n v).scalar k = if k = n then v else g.scalar k := by
  simp only [Grp.scalar, Grp.setScalar, Sparse.get_set]

theorem Grp.setScalar_only (g : Grp) (n : Nat) (v : Word) : g.onlyScalars (g.setScalar n v) := rfl

theorem Grp.writesS_setScalar (g : Grp) (n : Nat) (v : Word) : g.writesS (g.setScalar n v) n v :=
  ⟨rfl, fun k => g.scalar_setScalar n k v⟩

theorem Grp.pred_setPred (g : Grp) (i j : Nat) (v : BitVec 32) :
    (g.setPred i v).pred j = if j = 7 then BitVec.allOnes 32 else if j = i then v else g.pred j := by
  unfold Grp.setPred Grp.pred
  by_cases hj : j = 7
  · rw [if_pos hj, if_pos hj]
  · rw [if_neg hj, if_neg hj]
    by_cases hi : i = 7
    · rw [if_pos hi, if_neg (fun e => hj (e.trans hi)), if_neg hj]
    · rw [if_neg hi, Sparse.get_set, if_neg hj]

theorem Grp.upred_setUpred (g : Grp) (i j : Nat) (b : Bool) (hi : i < 8) (hj : j < 8) :
    (g.setUpred i b).upred j = if j = 7 then true else if j = i then b else g.upred j := by
  unfold Grp.setUpred Grp.upred
  by_cases h7 : j = 7
  · rw [if_pos h7, if_pos h7]
  · rw [if_neg h7, if_neg h7]
    by_cases hi7 : i = 7
    · rw [if_pos hi7, if_neg (fun e => h7 (e.trans hi7)), if_neg h7]
    · rw [if_neg hi7, if_neg h7]
      show (setBit g.k i b).getLsbD j = _
      unfold setBit
      by_cases hji : j = i
      · subst hji
        cases b <;> simp [BitVec.getLsbD_twoPow] <;> omega
      · cases b <;> simp [BitVec.getLsbD_twoPow, hji] <;> omega

/-! ### Register lines -/

theorem Grp.mergedLine_getD (g : Grp) (ln : Nat) (m : BitVec 32) (f : Nat → Word) (l : Nat) (hl : l < 32) :
    (g.mergedLine ln m f).getD l 0 = if m.getLsbD l then f l else g.word ln l := by
  simp [Grp.mergedLine, List.getD_eq_getElem?_getD, hl]

theorem Grp.mergedLine_length (g : Grp) (ln : Nat) (m : BitVec 32) (f : Nat → Word) : (g.mergedLine ln m f).length = 32 := by
  simp [Grp.mergedLine]

theorem Grp.touchLine_only (g : Grp) (ln : Nat) (w : Bool) : g.onlyLines (g.touchLine ln w) := rfl

theorem Grp.writeLine_only (g : Grp) (ln : Nat) (m : BitVec 32) (f : Nat → Word) : g.onlyLines (g.writeLine ln m f) := by
  unfold Grp.writeLine
  split
  · rfl
  · rfl

/-- A line after a write: new words in the written lanes, every other word of the register space as before. -/
theorem Grp.word_writeLine (g : Grp) (ln n l : Nat) (m : BitVec 32) (f : Nat → Word) (hl : l < 32) :
    (g.writeLine ln m f).word n l = if n = ln ∧ m.getLsbD l = true then f l else g.word n l := by
  unfold Grp.writeLine
  by_cases hm : m = 0
  · rw [if_pos hm, hm]; simp
  · rw [if_neg hm]
    show Sparse.get (Sparse.setList g.rs (32 * ln) (g.mergedLine ln m f)) (32 * n + l) = _
    rw [Sparse.get_setList, Grp.mergedLine_length]
    by_cases hn : n = ln
    · subst hn
      rw [if_pos (by omega)]
      have : 32 * n + l - 32 * n = l := by omega
      rw [this, Grp.mergedLine_getD _ _ _ _ _ hl]
      by_cases hb : m.getLsbD l = true <;> simp [hb]
    · rw [if_neg (by omega), if_neg (by simp [hn])]; rfl

theorem Grp.writesV_setV (g : Grp) (d : Nat) (m : BitVec 32) (r : Nat → Word) : g.writesV (g.setV d m r) d m r :=
  ⟨g.writeLine_only _ _ _, fun n l hl => g.word_writeLine _ n l m r hl⟩

theorem Grp.onlyLines_trans {g h k : Grp} (a : g.onlyLines h) (b : h.onlyLines k) : g.onlyLines k := by
  unfold Grp.onlyLines at *
  rw [a] at b; exact b

theorem Grp.onlyLines_vline {g h : Grp} (a : g.onlyLines h) (v : Nat) : h.vline v = g.vline v := by
  rw [a]; rfl

theorem Grp.lo32_hi32 (x : Dword) : lo32 x = x.setWidth 32 ∧ hi32 x = (x >>> 32).setWidth 32 := by
  refine ⟨rfl, ?_⟩
  unfold hi32
  apply BitVec.eq_of_toNat_eq
  simp [BitVec.extractLsb'_toNat, Nat.shiftRight_eq_div_pow]

theorem Grp.writesVPair_setVPair (g : Grp) (d : Nat) (m : BitVec 32) (r : Nat → Dword) : g.writesVPair (g.setVPair d m r) d m r := by
  refine ⟨Grp.onlyLines_trans (g.writeLine_only _ _ _) (Grp.writeLine_only _ _ _ _), fun n l hl => ?_⟩
  unfold Grp.setVPair
  have h1 := (g.setV d m (fun l => lo32 (r l))).word_writeLine ((g.setV d m (fun l => lo32 (r l))).vline (d + 1)) n l m
    (fun l => hi32 (r l)) hl
  have hv : (g.setV d m (fun l => lo32 (r l))).vline (d + 1) = g.vline (d + 1) := Grp.onlyLines_vline (g.writeLine_only _ _ _) _
  show ((g.setV d m (fun l => lo32 (r l))).writeLine _ m _).word n l = _
  rw [h1, hv]
  have h0 : (g.setV d m (fun l => lo32 (r l))).word n l = _ := g.word_writeLine (g.vline d) n l m (fun l => lo32 (r l)) hl
  rw [h0]
  have hne : g.vline d ≠ g.vline (d + 1) := by unfold Grp.vline; omega
  simp only [(Grp.lo32_hi32 _).1, (Grp.lo32_hi32 _).2]
  by_cases ha : n = g.vline d
  · subst ha; simp [hne]
  · simp [ha]

/-! ### Fragments -/

theorem Grp.onlyFrags_refl (g : Grp) : g.onlyFrags g := rfl

theorem Grp.onlyFrags_trans {g h k : Grp} (a : g.onlyFrags h) (b : h.onlyFrags k) : g.onlyFrags k := by
  unfold Grp.onlyFrags at *
  rw [a] at b; exact b

theorem Grp.setFrag_only (g : Grp) (n : Nat) (f : Option Frag) : g.onlyFrags (g.setFrag n f) := by
  unfold Grp.setFrag; split <;> rfl

theorem Grp.putAt_only (g : Grp) (p : Place) (f : Option Frag) : g.onlyFrags (g.putAt p f) := by
  unfold Grp.putAt
  split
  · exact g.setFrag_only _ _
  · split <;> rfl

theorem Grp.fuse_only (g : Grp) (i : Nat) (h : Dword) (m : BitVec 32) : g.onlyFrags (g.fuse i h m).2 := by
  have h0 : ∀ k, g.onlyFrags (g.fuseOrder k) := fun _ => rfl
  have h1 : ∀ (k : Grp) (sp : Tab SplitEntry) (o : BitVec 14), k.onlyFrags { k with split := sp, orderNext := o } := fun _ _ _ => rfl
  have h2 : ∀ (k : Grp) (sp : Tab SplitEntry), k.onlyFrags { k with split := sp } := fun _ _ => rfl
  unfold Grp.fuse
  simp only
  split
  · exact Grp.onlyFrags_trans (h0 _) (h2 _ _)
  · split
    · exact Grp.onlyFrags_trans (h0 _) (Grp.onlyFrags_trans (Grp.setFrag_only _ _ _) (h2 _ _))
    · exact Grp.onlyFrags_trans (h0 _) (h1 _ _ _)

/-- Arrival at a header, with its fusions, changes nothing but where fragments stand (05 R128, R129). -/
theorem Grp.enter_only (n : Nat) (g : Grp) (p : Place) : g.onlyFrags (g.enter n p) := by
  induction n generalizing g p with
  | zero => rfl
  | succ n ih =>
    unfold Grp.enter
    split
    · rfl
    · rename_i f _
      split
      · rfl
      · rename_i i e _
        split
        · rfl
        · rename_i a mask arrived _
          simp only
          have key : ∀ (g2 : Grp) (arr : BitVec 32), g.onlyFrags g2 →
              g.onlyFrags (if g2.entryDone mask arr = true then (match g2.fuse i a mask with
                | (some q, g3) => g3.enter n q
                | (none, g3) => g3) else g2) := by
            intro g2 arr h2
            have h3 := g2.fuse_only i a mask
            split
            · split
              · rename_i q g3 hq
                rw [hq] at h3
                exact Grp.onlyFrags_trans h2 (Grp.onlyFrags_trans h3 (ih _ _))
              · rename_i g3 hq
                rw [hq] at h3
                exact Grp.onlyFrags_trans h2 h3
            · exact h2
          exact key _ _ (Grp.onlyFrags_trans (h := { g with split := _ }) rfl (Grp.putAt_only _ _ _))

theorem Grp.enterAt_only (g : Grp) (p : Place) : g.onlyFrags (g.enterAt p) := Grp.enter_only 66 g p

theorem Grp.advance_only (g : Grp) (n : Nat) (i : Issue) : g.onlyFrags (g.advance n i) := by
  unfold Grp.advance
  split
  · rfl
  · simp only
    split
    · exact Grp.onlyFrags_trans (Grp.setFrag_only _ _ _) (Grp.enterAt_only _ _)
    · exact Grp.setFrag_only _ _ _

theorem Grp.frag_setFrag (g : Grp) (n : Nat) (f : Option Frag) : (g.setFrag n f).frag n = f := by
  unfold Grp.setFrag Grp.frag; split <;> rfl

/-- Within a clause the fragment stands at the word after (02 R43). -/
theorem Grp.advance_frag (g : Grp) (n : Nat) (i : Issue) (f : Frag) (hi : i.last = false) (hf : g.frag n = some f) :
    (g.advance n i).frag n = some { f with pos := i.after, wait := .none, arriving := false, starved := false, loadFree := false } := by
  unfold Grp.advance
  rw [hf]
  simp only [hi, Bool.false_and, Bool.false_eq_true, if_false, Grp.frag_setFrag]

/-! ### The issue of an instruction -/

/-- A commit that stalls a word of a body stalls it (14 R336). -/
theorem State.stalls_cap {s : State} {i : Instr} {g : Grp} {f : Frag} (h : s.stalls i g f = false) : capStalls i g = false := by
  cases q : capStalls i g
  · rfl
  · unfold State.stalls at h
    simp [q] at h

/-- An instruction that has its own effect: its body runs on its group. -/
theorem issue_runs {i : Instr} {s : State} {g : Grp} {f : Frag} (act : Grp → Frag → BitVec 32) (body : State → Grp → Frag → State)
    (h : Issues i (act g f) s g f) : issue i s act body = .next (body s g f) := by
  obtain ⟨h1, h2, h3, h4, h5, h6, h7, h8⟩ := h
  unfold issue
  simp only [h1, h2, h3, h5, h7, State.stalls_cap h7, Bool.false_eq_true, if_false]
  have e4 : (instrEndsClause i && !s.iss.last) = false := by
    cases hi : instrEndsClause i
    · rfl
    · simp [h4 hi]
  have e6 : (g.inBody && !g.inHandler && capBreaks i g) = false := by
    cases hb : g.inBody
    · rfl
    · cases hh : g.inHandler
      · simp [h6 hb hh]
      · rfl
  rw [e4, e6]
  simp only [Bool.false_eq_true, if_false]
  rcases h8 with h8 | h8
  · rw [if_pos h8]
  · rw [h8]; simp

/-- The fragment goes on after the change of its group (02 R43). -/
theorem finish_goesOn (s : State) (h : Grp) : s.goesOn (s.finish h) h := by
  refine ⟨⟨rfl, fun k hk => ?_⟩, h.advance s.iss.slot s.iss, ?_, h.advance_only _ _, fun hl f hf => h.advance_frag _ _ f hl hf⟩
  · exact Tab.find_put_other hk
  · exact Tab.find_put_same

/-- What a class F instruction comes to: its group changed by `fn`, and its fragment goes on. -/
theorem issueF_completes {i : Instr} {s : State} {g : Grp} {f : Frag} (act : Grp → Frag → BitVec 32) (fn : State → Grp → Frag → Grp)
    (h : Issues i (act g f) s g f) : ∃ t, issueF i s act fn = .next t ∧ s.goesOn t (fn s g f) :=
  ⟨_, issue_runs act _ h, finish_goesOn s _⟩

/-- Counting an instruction changes the capsule state alone. -/
theorem Grp.capCount_only (g : Grp) (i : Instr) : g.capCount i = { g with cap := (g.capCount i).cap } := rfl

end Sys2Proof.Machine
end

