-- ==== Sys2Proof/Laws/Fetch.lean ====
section
/-! SUPPORT. Fetches and reads of translations: they change caches of translations and the count of free values alone (02 R40, R41; 17 R360,
R362). -/
namespace Sys2Proof.Machine

theorem State.fetched_refl (s : State) : s.fetched s := ⟨rfl, fun _ => ⟨_, rfl⟩, fun _ => ⟨_, rfl⟩⟩

theorem State.fetched_trans {s t u : State} (a : s.fetched t) (b : t.fetched u) : s.fetched u := by
  obtain ⟨a1, a2, a3⟩ := a
  obtain ⟨b1, b2, b3⟩ := b
  refine ⟨?_, fun n => ?_, fun n => ?_⟩
  · rw [a1] at b1; exact b1
  · obtain ⟨x, hx⟩ := a2 n
    obtain ⟨y, hy⟩ := b2 n
    exact ⟨y, by rw [hy, hx]⟩
  · obtain ⟨x, hx⟩ := a3 n
    obtain ⟨y, hy⟩ := b3 n
    exact ⟨y, by rw [hy, hx]⟩

theorem State.fetched_groups {s u : State} (h : s.fetched u) : u.groups = s.groups := by rw [h.1]

theorem State.fetched_iss {s u : State} (h : s.fetched u) : u.iss = s.iss := by rw [h.1]

theorem State.nestMaps_dsets (s : State) (ch : List Nat) (st a lv : Nat) (w : Bool) (tr : XTrace) (r : NestOk)
    (h : s.nestMaps ch st a lv w false tr = .ok r) : r.tr.dsets = tr.dsets := by
  induction ch generalizing st a tr r with
  | nil => simp only [State.nestMaps, Except.ok.injEq] at h; rw [← h]
  | cons c rest ih =>
    simp only [State.nestMaps] at h
    split at h
    · exact absurd h (by simp)
    · split at h
      · exact absurd h (by simp)
      · split at h
        · exact absurd h (by simp)
        · split at h
          · exact absurd h (by simp)
          · split at h
            · exact absurd h (by simp)
            · rename_i q hq
              have := ih _ _ _ _ hq
              simp only [Except.ok.injEq] at h
              rw [← h]
              simpa using this

theorem State.nest_dsets (s : State) (x a lv : Nat) (w : Bool) (tr : XTrace) (r : NestOk)
    (h : s.nest x a lv w false tr = .ok r) : r.tr.dsets = tr.dsets := by
  unfold State.nest at h
  split at h
  · exact absurd h (by simp)
  · rename_i q hq
    split at h
    · exact absurd h (by simp)
    · simp only [Except.ok.injEq] at h
      rw [← h]; exact s.nestMaps_dsets _ _ _ _ _ _ q hq

/-- An access that writes nothing sets no D bit (17 R357, R359). -/
theorem State.translate_dsets (s : State) (core x : Nat) (sup : Bool) (va : Dword) (k : AccK) (r : XOk) (hk : k.writes = false)
    (h : s.translate core x sup va k = .ok r) : r.tr.dsets = [] := by
  have hwalk : ∀ die v q, s.walk die x sup v k = .ok q → q.tr.dsets = [] := by
    intro die v q hq
    unfold State.walk at hq
    split at hq
    · exact absurd hq (by simp)
    · rename_i l _
      have hD : s.setLeafD x l k = .ok ⟨[], l.drew⟩ := by unfold State.setLeafD; simp [hk]
      simp only [hk, hD] at hq
      split at hq
      · exact absurd hq (by simp)
      · split at hq
        · exact absurd hq (by simp)
        · rename_i z hz
          split at hq
          · exact absurd hq (by simp)
          · simp only [Except.ok.injEq] at hq
            rw [← hq]; exact s.nest_dsets _ _ _ _ _ _ hz
  unfold State.translate at h
  split at h
  · exact absurd h (by simp)
  · simp only at h
    split at h
    · exact hwalk _ _ _ h
    · simp only [hk, Bool.false_and, Bool.false_eq_true, if_false] at h
      split at h
      · exact absurd h (by simp)
      · split at h
        · exact absurd h (by simp)
        · simp only [Except.ok.injEq] at h; rw [← h]; rfl

theorem State.fillEntry_fetched (s : State) (core : Nat) (e : Option TEntry) : s.fetched (s.fillEntry core e) := by
  cases e with
  | none => exact s.fetched_refl
  | some e =>
    refine ⟨rfl, fun n => ?_, fun n => ?_⟩
    · unfold State.fillEntry
      have q : ∀ f k, ((s.modCore core f).modDie (coreDie core) k).coreAt n = (s.modCore core f).coreAt n := fun _ _ => rfl
      simp only [q, State.coreAt_modCore]
      by_cases hn : n = core
      · subst hn; rw [if_pos rfl]; exact ⟨_, rfl⟩
      · rw [if_neg hn]; exact ⟨(s.coreAt n).tlb, rfl⟩
    · unfold State.fillEntry
      by_cases hl : coreDie core < s.dies.length
      · have q := fun f k => State.dieAt_modDie (s.modCore core f) (coreDie core) n k hl
        simp only [q]
        by_cases hn : n = coreDie core
        · subst hn; rw [if_pos rfl]; exact ⟨_, rfl⟩
        · rw [if_neg hn]; exact ⟨(s.dieAt n).flat, rfl⟩
      · refine ⟨(s.dieAt n).flat, ?_⟩
        unfold State.dieAt State.modDie
        simp only [State.modCore_dies]
        rw [List.set_eq_of_length_le (by omega)]

theorem State.useFree_fetched (s : State) (n : Nat) : s.fetched (s.useFree n) := ⟨rfl, fun _ => ⟨_, rfl⟩, fun _ => ⟨_, rfl⟩⟩

theorem State.xCommit_fetched (s : State) (core : Nat) (r : XOk) (h : r.tr.dsets = []) : s.fetched (s.xCommit core r) := by
  unfold State.xCommit State.traced; rw [h]; exact State.fetched_trans (s.useFree_fetched _) (State.fillEntry_fetched _ _ _)

theorem State.fetchWordPa_fetched (s : State) (l pa : Nat) : s.fetched (s.fetchWordPa l pa).2 := by
  unfold State.fetchWordPa
  split
  · exact s.fetched_refl
  · exact s.useFree_fetched _
  · exact s.useFree_fetched _

theorem State.fetchWord_fetched (s : State) (g : Grp) (va : Dword) (w : Word) (t : State) (h : s.fetchWord g va = .ok (w, t)) : s.fetched t := by
  unfold State.fetchWord at h
  split at h
  · exact absurd h (by simp)
  · rename_i r hr
    simp only [Except.ok.injEq] at h
    have := State.fetched_trans (s.xCommit_fetched g.core r (s.translate_dsets _ _ _ _ _ _ rfl hr)) (State.fetchWordPa_fetched _ g.launch r.pa)
    rw [h] at this; exact this

/-- The test of a transfer's target changes what a fetch may change (02 R46). -/
theorem State.target_fetched (s : State) (far : Bool) (g : Grp) (a : Dword) : s.fetched (s.target far g a).2 := by
  unfold State.target
  split
  · exact s.fetched_refl
  · split
    · exact s.useFree_fetched _
    · rename_i w t h; exact s.fetchWord_fetched g a w t h

theorem State.testAll_fetched (s : State) (far : Bool) (g : Grp) (ts : List Dword) (fl : Option (XFault × Dword)) :
    s.fetched (s.testAll far g ts fl).2 := by
  induction ts generalizing s fl with
  | nil => exact s.fetched_refl
  | cons t r ih =>
    have h := s.target_fetched far g t
    unfold State.testAll
    split
    · rename_i u hu; rw [hu] at h; exact State.fetched_trans h (ih _ _)
    · rename_i u hu; rw [hu] at h; exact State.fetched_trans h (ih _ _)
    · rename_i e u hu; rw [hu] at h; exact State.fetched_trans h (ih _ _)

end Sys2Proof.Machine
end

