-- ==== Sys2Proof/Laws/Words.lean ====
section
/-! SUPPORT. The word functions of the integer instructions as arithmetic on numbers (04 R97 to R99). -/
namespace Sys2Proof.Machine

theorem word_add (a b : Word) : a + b = BitVec.ofNat 32 (a.toNat + b.toNat) := by
  apply BitVec.eq_of_toNat_eq; simp

theorem word_sub (a b : Word) : a - b = BitVec.ofInt 32 (a.toInt - b.toInt) := by
  apply BitVec.eq_of_toInt_eq; simp [BitVec.toInt_sub, BitVec.toInt_ofInt]

theorem word_mul (a b : Word) : a * b = BitVec.ofNat 32 (a.toNat * b.toNat) := by
  apply BitVec.eq_of_toNat_eq; simp

theorem word_mad (a b d : Word) : a * b + d = BitVec.ofNat 32 (a.toNat * b.toNat + d.toNat) := by
  apply BitVec.eq_of_toNat_eq; simp

theorem word_mulhs (a b : Word) : mulhs a b = BitVec.ofInt 32 (a.toInt * b.toInt / 4294967296) := rfl

theorem word_ofInt_toInt (a : Word) : BitVec.ofInt 32 a.toInt = a := BitVec.ofInt_toInt

theorem word_smin (a b : Word) : smin32 a b = BitVec.ofInt 32 (min a.toInt b.toInt) := by
  unfold smin32; split
  · rw [Int.min_eq_left ‹_›, word_ofInt_toInt]
  · rw [Int.min_eq_right (by omega), word_ofInt_toInt]

theorem word_smax (a b : Word) : smax32 a b = BitVec.ofInt 32 (max a.toInt b.toInt) := by
  unfold smax32; split
  · rw [Int.max_eq_right ‹_›, word_ofInt_toInt]
  · rw [Int.max_eq_left (by omega), word_ofInt_toInt]

theorem word_umin (a b : Word) : (if a ≤ b then a else b) = BitVec.ofNat 32 (min a.toNat b.toNat) := by
  by_cases h : a ≤ b
  · rw [if_pos h, Nat.min_eq_left (BitVec.le_def.1 h)]; simp
  · rw [if_neg h, Nat.min_eq_right (by have := mt BitVec.le_def.2 h; omega)]; simp

theorem word_umax (a b : Word) : (if a ≤ b then b else a) = BitVec.ofNat 32 (max a.toNat b.toNat) := by
  by_cases h : a ≤ b
  · rw [if_pos h, Nat.max_eq_right (BitVec.le_def.1 h)]; simp
  · rw [if_neg h, Nat.max_eq_left (by have := mt BitVec.le_def.2 h; omega)]; simp

theorem word_neg (a : Word) : 0 - a = BitVec.ofInt 32 (-a.toInt) := by
  rw [word_sub]; simp

theorem word_abs (a : Word) : (if a.getLsbD 31 then 0 - a else a) = BitVec.ofNat 32 a.toInt.natAbs := by
  have hm : a.getLsbD 31 = decide (a.toInt < 0) := by
    rw [← BitVec.msb_eq_toInt, BitVec.msb_eq_getLsbD_last]
  rw [hm]
  apply BitVec.eq_of_toNat_eq
  have := a.isLt
  have hi := BitVec.toInt_eq_toNat_cond a
  by_cases h : a.toInt < 0
  · simp only [h, decide_true, if_true, BitVec.toNat_sub, BitVec.toNat_ofNat]
    rw [hi]; split <;> rename_i hc
    · rw [hi, if_pos hc] at h; omega
    · simp only [BitVec.ofNat_eq_ofNat, BitVec.toNat_ofNat]; omega
  · simp only [h, decide_false, Bool.false_eq_true, if_false, BitVec.toNat_ofNat]
    rw [hi]; split <;> rename_i hc
    · omega
    · rw [hi, if_neg hc] at h; omega

theorem word_not (a : Word) : ~~~a = BitVec.ofNat 32 (4294967295 - a.toNat) := by
  apply BitVec.eq_of_toNat_eq
  have := a.isLt
  simp only [BitVec.toNat_not, BitVec.toNat_ofNat]; omega

theorem word_mulhu (a b : Word) : BitVec.ofNat 32 (a.toNat * b.toNat / 2 ^ 32) = BitVec.ofNat 32 (a.toNat * b.toNat / 4294967296) := rfl

theorem word_shl (a b : Word) : shl32 a b = if b.toNat < 32 then BitVec.ofNat 32 (a.toNat * 2 ^ b.toNat) else 0 := by
  unfold shl32
  by_cases h : b.toNat < 32
  · rw [if_neg (by omega), if_pos h]
    apply BitVec.eq_of_toNat_eq
    simp [Nat.shiftLeft_eq]
  · rw [if_pos (by omega), if_neg h]

theorem word_shr (a b : Word) : shr32 a b = if b.toNat < 32 then BitVec.ofNat 32 (a.toNat / 2 ^ b.toNat) else 0 := by
  unfold shr32
  by_cases h : b.toNat < 32
  · rw [if_neg (by omega), if_pos h]
    apply BitVec.eq_of_toNat_eq
    have h2 : a.toNat / 2 ^ b.toNat < 2 ^ 32 := Nat.lt_of_le_of_lt (Nat.div_le_self _ _) a.isLt
    rw [BitVec.toNat_ushiftRight, BitVec.toNat_ofNat, Nat.shiftRight_eq_div_pow, Nat.mod_eq_of_lt h2]
  · rw [if_pos (by omega), if_neg h]

theorem toInt_sshiftRight32 (a : Word) (n : Nat) : a.sshiftRight n = BitVec.ofInt 32 (a.toInt / 2 ^ n) := by
  unfold BitVec.sshiftRight
  rw [Int.shiftRight_eq_div_pow]
  congr 1

theorem word_sra (a b : Word) : sra32 a b = BitVec.ofInt 32 (a.toInt / 2 ^ min b.toNat 31) := by
  unfold sra32
  by_cases h : 32 ≤ b.toNat
  · rw [if_pos h, Nat.min_eq_right (by omega)]
    have hm : a.getLsbD 31 = decide (a.toInt < 0) := by rw [← BitVec.msb_eq_toInt, BitVec.msb_eq_getLsbD_last]
    have h1 := BitVec.toInt_lt (x := a)
    have h2 := BitVec.le_toInt a
    rw [hm]
    by_cases hn : a.toInt < 0
    · have : a.toInt / 2 ^ 31 = -1 := by omega
      simp only [hn, decide_true, if_true, this]; decide
    · have : a.toInt / 2 ^ 31 = 0 := by omega
      simp only [hn, decide_false, Bool.false_eq_true, if_false, this]; decide
  · rw [if_neg h, Nat.min_eq_left (by omega), toInt_sshiftRight32]

theorem word_rot (a b : Word) :
    a.rotateLeft (b.toNat % 32) = BitVec.ofNat 32 (a.toNat * 2 ^ (b.toNat % 32) + a.toNat / 2 ^ (32 - b.toNat % 32)) := by
  have hb : b.toNat % 32 < 32 := Nat.mod_lt _ (by decide)
  generalize b.toNat % 32 = n at hb
  rw [BitVec.rotateLeft_def, Nat.mod_eq_of_lt hb]
  have hd : a <<< n &&& a >>> (32 - n) = 0#32 := by
    apply BitVec.eq_of_getLsbD_eq
    intro i hi
    simp only [BitVec.getLsbD_and, BitVec.getLsbD_shiftLeft, BitVec.getLsbD_ushiftRight, BitVec.getLsbD_zero]
    by_cases h : i < n
    · simp [h]
    · rw [BitVec.getLsbD_of_ge a (32 - n + i) (by omega)]; simp
  rw [← BitVec.add_eq_or_of_and_eq_zero _ _ hd]
  apply BitVec.eq_of_toNat_eq
  simp [Nat.shiftLeft_eq, Nat.shiftRight_eq_div_pow]

/-! ### Bits -/

theorem maskOf_getLsbD (ls : List Nat) (m : BitVec 32) (i : Nat) (hi : i < 32) :
    (ls.foldl (fun m l => m ||| BitVec.twoPow 32 l) m).getLsbD i = (m.getLsbD i || ls.contains i) := by
  induction ls generalizing m with
  | nil => simp
  | cons l t ih =>
    rw [List.foldl_cons, ih]
    rw [BitVec.getLsbD_or, BitVec.getLsbD_twoPow, List.contains_cons]
    by_cases h : l = i
    · subst h; simp [hi]
    · have h' : (i == l) = false := by simp; exact fun e => h e.symm
      simp [h, h']

/-- Bit `i` of the lanes where a test holds. -/
theorem maskWhere_getLsbD (f : Nat → Bool) (i : Nat) : (maskWhere f).getLsbD i = (decide (i < 32) && f i) := by
  by_cases hi : i < 32
  · unfold maskWhere maskOf
    rw [maskOf_getLsbD _ _ _ hi]
    by_cases hf : f i = true
    · simp [hi, hf]
    · simp [hi, hf]
  · rw [BitVec.getLsbD_of_ge _ _ (by omega)]; simp [hi]

theorem word_rev (a : Word) : maskWhere (fun i => a.getLsbD (31 - i)) = a.reverse := by
  apply BitVec.eq_of_getLsbD_eq
  intro i hi
  rw [maskWhere_getLsbD, BitVec.getLsbD_reverse, BitVec.getMsbD_eq_getLsbD]

theorem word_clz (a : Word) : clz32 a = if a = 0 then 32 else 31 - a.toNat.log2 := by
  unfold clz32
  by_cases h : a = 0
  · subst h; decide
  · rw [if_neg h]
    have hn : a.toNat ≠ 0 := fun e => h (BitVec.eq_of_toNat_eq (by simpa using e))
    have hl : a.toNat.log2 < 32 := (Nat.log2_lt hn).2 a.isLt
    have hbit : a.getLsbD a.toNat.log2 = true := Nat.testBit_log2 hn
    have habove : ∀ j, a.toNat.log2 < j → a.getLsbD j = false := by
      intro j hj
      exact Nat.testBit_lt_two_pow (Nat.lt_of_lt_of_le Nat.lt_log2_self (Nat.pow_le_pow_right (by decide) hj))
    have hf : (List.range 32).find? (fun i => a.getLsbD (31 - i)) = some (31 - a.toNat.log2) := by
      rw [List.find?_range_eq_some]
      refine ⟨?_, ?_, ?_⟩
      · have : 31 - (31 - a.toNat.log2) = a.toNat.log2 := by omega
        rw [this]; exact hbit
      · simp; omega
      · intro j hj
        rw [habove _ (by omega)]; rfl
    rw [hf]

theorem word_popc (a : Word) : popc32 a = ((List.range 32).map (fun k => a.toNat / 2 ^ k % 2)).sum := by
  unfold popc32
  have : ∀ ls : List Nat, (ls.filter (fun i => a.getLsbD i)).length = (ls.map (fun k => a.toNat / 2 ^ k % 2)).sum := by
    intro ls
    induction ls with
    | nil => rfl
    | cons k t ih =>
      have hk : a.getLsbD k = decide (a.toNat / 2 ^ k % 2 = 1) := by
        rw [← BitVec.testBit_toNat, Nat.testBit_eq_decide_div_mod_eq]
      simp only [List.filter_cons, List.map_cons, List.sum_cons, hk]
      by_cases h : a.toNat / 2 ^ k % 2 = 1
      · simp [h, ← ih]; omega
      · have h0 : a.toNat / 2 ^ k % 2 = 0 := by omega
        simp [h0, ← ih]
  exact this _

/-! ### Bit fields (04 R98) -/

theorem fieldPos_eq (b : Word) : fieldPos b = b.toNat % 256 := by
  simp [fieldPos, BitVec.extractLsb'_toNat]

theorem fieldLen_eq (b : Word) : fieldLen b = min (b.toNat / 256 % 256) 32 := by
  simp [fieldLen, BitVec.extractLsb'_toNat, Nat.shiftRight_eq_div_pow]

theorem fieldLen_le (b : Word) : fieldLen b ≤ 32 := by unfold fieldLen; omega

/-- Bit `i` of an arithmetic shift of a number of any size. -/
theorem intBit (a : Word) (i : Nat) :
    (BitVec.ofInt 32 (a.toInt / 2 ^ i)).getLsbD 0 = (if i ≤ 31 then a.getLsbD i else a.getLsbD 31) := by
  rw [← toInt_sshiftRight32, BitVec.getLsbD_sshiftRight]
  have hm : a.msb = a.getLsbD 31 := BitVec.msb_eq_getLsbD_last a
  by_cases h : i ≤ 31
  · rw [if_pos h]; simp [show i < 32 by omega]
  · rw [if_neg h]; simp [show ¬ i < 32 by omega, hm]

/-- UBFX. -/
theorem word_ubfx (a b : Word) : bfx false a b = BitVec.ofNat 32 (a.toNat / 2 ^ (b.toNat % 256) % 2 ^ min (b.toNat / 256 % 256) 32) := by
  rw [← fieldPos_eq, ← fieldLen_eq]
  unfold bfx
  simp only [Bool.false_and]
  split
  · rename_i h; rw [h]; simp [Nat.mod_one]
  · apply BitVec.eq_of_getLsbD_eq
    intro j hj
    rw [maskWhere_getLsbD, BitVec.getLsbD_ofNat, Nat.testBit_mod_two_pow, Nat.testBit_div_two_pow]
    simp only [hj, decide_true, Bool.true_and]
    by_cases h : j < fieldLen b
    · simp only [h, if_true, decide_true, Bool.true_and]
      split
      · rw [Nat.add_comm]; rfl
      · rw [show a.toNat.testBit (j + fieldPos b) = a.getLsbD (j + fieldPos b) from rfl, BitVec.getLsbD_of_ge _ _ (by omega)]
    · simp [h]

/-- Bit `k` of an integer's low bits. -/
theorem ofInt_bit (x : Int) (n k : Nat) (hk : k < n) : (BitVec.ofInt n x).getLsbD k = decide (x / 2 ^ k % 2 = 1) := by
  rw [← BitVec.testBit_toNat, Nat.testBit_eq_decide_div_mod_eq, BitVec.toNat_ofInt]
  have hp : (0 : Int) < 2 ^ n := Int.pow_pos (by decide)
  have hq : (0 : Int) < 2 ^ k := Int.pow_pos (by decide)
  have hr := Int.emod_nonneg x (Int.ne_of_gt hp)
  have hx : x / 2 ^ k = (x % 2 ^ n) / 2 ^ k + 2 ^ (n - k) * (x / 2 ^ n) := by
    have h1 : x = x % 2 ^ n + 2 ^ k * (2 ^ (n - k) * (x / 2 ^ n)) := by
      rw [← Int.mul_assoc, ← Int.pow_add, show k + (n - k) = n by omega, Int.emod_add_mul_ediv]
    conv => lhs; rw [h1]
    rw [Int.add_mul_ediv_left _ _ (Int.ne_of_gt hq)]
  have h2 : (2 : Int) ^ (n - k) * (x / 2 ^ n) % 2 = 0 := by
    rw [show n - k = (n - k - 1) + 1 by omega, Int.pow_succ, Int.mul_comm ((2 : Int) ^ (n - k - 1)) 2, Int.mul_assoc]
    exact Int.mul_emod_right 2 _
  rw [decide_eq_decide, hx]
  have h3 : (((x % ((2 ^ n : Nat) : Int)).toNat / 2 ^ k % 2 : Nat) : Int) = (x % 2 ^ n) / 2 ^ k % 2 := by
    push_cast
    rw [Int.toNat_of_nonneg (by simpa using hr)]
  omega

/-- A field of the shifted number, sign and all. -/
theorem bmod_bit (x : Int) (n j : Nat) (hn : 0 < n) (h32 : n ≤ 32) (hj : j < 32) :
    (BitVec.ofInt 32 (Int.bmod x (2 ^ n))).getLsbD j = (BitVec.ofInt 32 (x / 2 ^ min j (n - 1))).getLsbD 0 := by
  have hsx : BitVec.ofInt 32 (Int.bmod x (2 ^ n)) = (BitVec.ofInt n x).signExtend 32 := by
    unfold BitVec.signExtend
    rw [BitVec.toInt_ofInt]
  rw [hsx, BitVec.getLsbD_signExtend]
  have h0 : ∀ k, k < n → (BitVec.ofInt n x).getLsbD k = (BitVec.ofInt 32 (x / 2 ^ k)).getLsbD 0 := by
    intro k hk
    rw [ofInt_bit _ _ _ hk, ofInt_bit _ 32 0 (by decide)]
    simp
  by_cases h : j < n
  · have : min j (n - 1) = j := by omega
    rw [this, if_pos h, h0 j h]; simp [hj]
  · have : min j (n - 1) = n - 1 := by omega
    rw [this, BitVec.msb_eq_getLsbD_last, if_neg h, h0 (n - 1) (by omega)]; simp [hj]

/-- IBFX. -/
theorem word_ibfx (a b : Word) :
    bfx true a b = BitVec.ofInt 32 (Int.bmod (a.toInt / 2 ^ (b.toNat % 256)) (2 ^ min (b.toNat / 256 % 256) 32)) := by
  rw [← fieldPos_eq, ← fieldLen_eq]
  have hle := fieldLen_le b
  unfold bfx
  simp only [Bool.true_and]
  split
  · rename_i h; rw [h]; simp [Int.bmod_one]
  · rename_i h
    apply BitVec.eq_of_getLsbD_eq
    intro j hj
    rw [maskWhere_getLsbD, bmod_bit _ _ _ (by omega) hle hj]
    have hd : a.toInt / 2 ^ fieldPos b / 2 ^ min j (fieldLen b - 1) = a.toInt / 2 ^ (fieldPos b + min j (fieldLen b - 1)) := by
      rw [Int.ediv_ediv_of_nonneg (Int.le_of_lt (Int.pow_pos (by decide))), ← Int.pow_add]
    rw [hd, intBit]
    rw [decide_eq_true hj, Bool.true_and]
    by_cases hl : j < fieldLen b
    · have : min j (fieldLen b - 1) = j := by omega
      rw [if_pos hl, this]
    · have : min j (fieldLen b - 1) = fieldLen b - 1 := by omega
      rw [if_neg hl, this, show fieldPos b + fieldLen b - 1 = fieldPos b + (fieldLen b - 1) by omega]

/-- IBFI. -/
theorem word_ibfi (a b d : Word) :
    bfi a b d =
      (let m : Word := BitVec.ofNat 32 ((2 ^ min (b.toNat / 256 % 256) 32 - 1) * 2 ^ (b.toNat % 256))
       (d &&& ~~~m) ||| (BitVec.ofNat 32 (a.toNat * 2 ^ (b.toNat % 256)) &&& m)) := by
  rw [← fieldPos_eq, ← fieldLen_eq]
  unfold bfi
  apply BitVec.eq_of_getLsbD_eq
  intro j hj
  have hm : (BitVec.ofNat 32 ((2 ^ fieldLen b - 1) * 2 ^ fieldPos b)).getLsbD j
      = (decide (fieldPos b ≤ j) && decide (j < fieldPos b + fieldLen b)) := by
    rw [BitVec.getLsbD_ofNat, Nat.testBit_mul_two_pow, Nat.testBit_two_pow_sub_one]
    by_cases h : fieldPos b ≤ j
    · simp only [hj, h, decide_true, Bool.true_and, decide_eq_decide]; omega
    · simp [h]
  have ha : (BitVec.ofNat 32 (a.toNat * 2 ^ fieldPos b)).getLsbD j = (decide (fieldPos b ≤ j) && a.getLsbD (j - fieldPos b)) := by
    rw [BitVec.getLsbD_ofNat, Nat.testBit_mul_two_pow, decide_eq_true hj, Bool.true_and]; rfl
  rw [maskWhere_getLsbD]
  simp only [BitVec.getLsbD_or, BitVec.getLsbD_and, BitVec.getLsbD_not, hm, ha, hj, decide_true, Bool.true_and]
  by_cases h1 : fieldPos b ≤ j <;> by_cases h2 : j < fieldPos b + fieldLen b <;> simp [h1, h2]

/-! ### Bytes (04 R99) -/

theorem byteOf_toNat (a : Word) (i : Nat) : (byteOf a i).toNat = a.toNat / 256 ^ i % 256 := by
  simp [byteOf, BitVec.extractLsb'_toNat, Nat.shiftRight_eq_div_pow, Nat.pow_mul]

theorem byteOf_toInt (a : Word) (i : Nat) : (byteOf a i).toInt =
    if a.toNat / 256 ^ i % 256 < 128 then ((a.toNat / 256 ^ i % 256 : Nat) : Int) else ((a.toNat / 256 ^ i % 256 : Nat) : Int) - 256 := by
  rw [BitVec.toInt_eq_toNat_cond, byteOf_toNat]
  simp only [show (2 : Nat) ^ 8 = 256 from rfl]
  split <;> split <;> first | rfl | omega

theorem word_sat (x : Int) : satS32 x = BitVec.ofInt 32 (max (-2147483648) (min 2147483647 x)) := by
  unfold satS32 clampInt
  congr 1
  simp only [show (2 : Int) ^ 31 = 2147483648 from rfl]
  split <;> (try split) <;> omega

end Sys2Proof.Machine
end

