-- ==== Sys2Proof/Laws/Lanes.lean ====
section
/-! SUPPORT. What the shared shapes of lane, compare and scalar instructions come to when the instruction has its own effect. -/
namespace Sys2Proof.Machine

theorem Issues.frag {i : Instr} {m : BitVec 32} {s : State} {g : Grp} {f : Frag} (h : Issues i m s g f) : g.frag s.iss.slot = some f := h.2.1

/-- A class F instruction completes with the effect of its change. -/
theorem issueF_complete {i : Instr} {s : State} {g : Grp} {f : Frag} {effect : Grp → Grp → Prop} (act : Grp → Frag → BitVec 32)
    (fn : State → Grp → Frag → Grp) (hx : exec i s = issueF i s act fn) (h : Issues i (act g f) s g f)
    (he : effect g (fn s g f)) : Completes i s g effect := by
  obtain ⟨t, h1, h2⟩ := issueF_completes act fn h
  exact ⟨t, _, hx.trans h1, h2, he⟩

/-- A binary lane form writes its register in the active lanes (04 R93). -/
theorem lane3_complete {i : Instr} {x : V3} {b32 : Bool} {fn : Word → Word → Word → Word} {s : State} {g : Grp} {f : Frag}
    (hx : exec i s = issueLane3 i x b32 fn s) (h : Issues i (g.lanes f x.g) s g f) :
    Completes i s g (fun g h => g.writesV h x.d.toNat (g.lanes f x.g)
      (fun l => fn (g.opA x.pf x.a l) (g.opB x.pf x.b b32 l) (g.vreg x.d.toNat l))) :=
  issueF_complete _ _ hx h (Grp.writesV_setV _ _ _ _)

/-- A unary lane form writes its register in the active lanes. -/
theorem lane2_complete {i : Instr} {x : V2} {fn : Word → Word} {s : State} {g : Grp} {f : Frag}
    (hx : exec i s = issueLane2 i x fn s) (h : Issues i (g.lanes f x.g) s g f) :
    Completes i s g (fun g h => g.writesV h x.d.toNat (g.lanes f x.g) (fun l => fn (g.opA x.pf x.a l))) :=
  issueF_complete _ _ hx h (Grp.writesV_setV _ _ _ _)

/-- A scalar instruction writes its scalar if its guard holds (04 R119). -/
theorem scalar_complete {i : Instr} {x : S3} {b32 : Bool} {fn : Word → Word → Word → Word} {s : State} {g : Grp} {f : Frag}
    (hx : exec i s = issueS3 i x b32 fn s) (h : Issues i (g.guarded f x.k) s g f) :
    Completes i s g (fun g h => if g.upred x.k.toNat then
      g.writesS h x.d.toNat (fn (g.sclOpA x.pf x.a) (g.sclOpB x.pf x.b b32) (g.scalar x.d.toNat)) else h = g) := by
  refine issueF_complete _ _ hx h ?_
  split
  · exact Grp.writesS_setScalar _ _ _
  · rfl

/-- The new bit of a compare's predicate field in one lane (02 R53). -/
theorem cmpCombine_bit (ct : BitVec 3) (first : Bool) (m old c : BitVec 32) (l : Nat) (hl : l < 32) :
    (cmpCombine ct first m old c).getLsbD l =
      (let v := if first then c.getLsbD l else !c.getLsbD l
       let a := m.getLsbD l
       let o := old.getLsbD l
       match ct.toNat, first with
       | 0, _ => if a then v else o
       | 1, _ => a && v
       | 2, _ => if a then o && v else o
       | 3, _ => if a then o || v else o
       | 4, true => if a then o && v else o
       | 4, false => if a then o || v else o
       | _, true => if a then o || v else o
       | _, false => if a then o && v else o) := by
  have h8 := ct.isLt
  unfold cmpCombine
  generalize ct.toNat = n at h8
  match n, h8 with
  | 0, _ | 1, _ | 2, _ | 3, _ | 4, _ | 5, _ | 6, _ | 7, _ =>
    cases first <;>
      simp only [BitVec.getLsbD_or, BitVec.getLsbD_and, BitVec.getLsbD_not, hl, decide_true, Bool.true_and, if_true, if_false,
        Bool.false_eq_true] <;>
      cases m.getLsbD l <;> cases old.getLsbD l <;> cases c.getLsbD l <;> rfl
  | n + 8, h => omega

/-- The predicates after a lane compare: p2 names the later write. -/
theorem Grp.pred_cmpWrite (g : Grp) (x : Cmp) (m c : BitVec 32) (j : Nat) :
    (g.cmpWrite x m c).pred j =
      if j = 7 then BitVec.allOnes 32 else if j = x.q.toNat then cmpCombine x.c false m (g.pred x.q.toNat) c
      else if j = x.p.toNat then cmpCombine x.c true m (g.pred x.p.toNat) c else g.pred j := by
  unfold Grp.cmpWrite
  rw [Grp.pred_setPred, Grp.pred_setPred]
  by_cases h : j = 7 <;> simp [h]

theorem Grp.cmpWrite_only (g : Grp) (x : Cmp) (m c : BitVec 32) : g.cmpWrite x m c = { g with p := (g.cmpWrite x m c).p } := by
  unfold Grp.cmpWrite Grp.setPred
  split <;> split <;> rfl

theorem Grp.scmpWrite_only (g : Grp) (x : Cmp) (c : Bool) : g.scmpWrite x c = { g with k := (g.scmpWrite x c).k } := by
  unfold Grp.scmpWrite Grp.setUpred
  simp only
  split <;> split <;> rfl

end Sys2Proof.Machine
end

