-- ==== Sys2Proof/Laws/Ops.lean ====
section
/-! SUPPORT. Outstanding operations: what their beginning and their end change, and when a step of the device acts on one. -/
namespace Sys2Proof.Machine

theorem Grp.flagUp_only (g : Grp) (f : Option Nat) : g.flagUp f = { g with flags := (g.flagUp f).flags } := by
  unfold Grp.flagUp; split <;> rfl

theorem Grp.pathUp_only (g : Grp) (p : Option PathK) : g.pathUp p = { g with paths := (g.pathUp p).paths } := by
  unfold Grp.pathUp; split <;> rfl

theorem Grp.flagDown_only (g : Grp) (f : Option Nat) : g.flagDown f = { g with flags := (g.flagDown f).flags } := by
  unfold Grp.flagDown; split <;> rfl

theorem Grp.pathDown_only (g : Grp) (p : Option PathK) : g.pathDown p = { g with paths := (g.pathDown p).paths } := by
  unfold Grp.pathDown; split <;> rfl

theorem Grp.flagUp_get (g : Grp) (f : Option Nat) (n : Nat) :
    Sparse.get (g.flagUp f).flags n = if f = some n then Sparse.get g.flags n + 1 else Sparse.get g.flags n := by
  cases f with
  | none => rfl
  | some i =>
    simp only [Grp.flagUp, Sparse.get_set, Option.some.injEq]
    by_cases h : n = i
    · subst h; simp
    · rw [if_neg h, if_neg (fun e => h e.symm)]

theorem Grp.flagDown_get (g : Grp) (f : Option Nat) (n : Nat) :
    Sparse.get (g.flagDown f).flags n = if f = some n then Sparse.get g.flags n - 1 else Sparse.get g.flags n := by
  cases f with
  | none => rfl
  | some i =>
    simp only [Grp.flagDown, Sparse.get_set, Option.some.injEq]
    by_cases h : n = i
    · subst h; simp
    · rw [if_neg h, if_neg (fun e => h e.symm)]

theorem PathK.num_inj {p q : PathK} : p.num = q.num ↔ p = q := by
  constructor
  · intro h; cases p <;> cases q <;> first | rfl | (exact absurd h (by decide))
  · intro h; rw [h]

theorem Grp.pathUp_get (g : Grp) (f : Option PathK) (p : PathK) :
    Sparse.get (g.pathUp f).paths p.num = if f = some p then Sparse.get g.paths p.num + 1 else Sparse.get g.paths p.num := by
  cases f with
  | none => rfl
  | some i =>
    simp only [Grp.pathUp, Sparse.get_set, Option.some.injEq, PathK.num_inj]
    by_cases h : p = i
    · subst h; simp
    · rw [if_neg h, if_neg (fun e => h e.symm)]

theorem Grp.pathDown_get (g : Grp) (f : Option PathK) (p : PathK) :
    Sparse.get (g.pathDown f).paths p.num = if f = some p then Sparse.get g.paths p.num - 1 else Sparse.get g.paths p.num := by
  cases f with
  | none => rfl
  | some i =>
    simp only [Grp.pathDown, Sparse.get_set, Option.some.injEq, PathK.num_inj]
    by_cases h : p = i
    · subst h; simp
    · rw [if_neg h, if_neg (fun e => h e.symm)]

/-- Issuing an operation makes it outstanding and changes nothing else of its group. -/
theorem Grp.addOp_begins (g : Grp) (o : Op) : g.opBegins (g.addOp o) o := by
  unfold Grp.addOp
  have h1 := Grp.flagUp_only { g with ops := Tab.put g.ops g.opNext o, opNext := g.opNext + 1 } o.flag
  have h2 := Grp.pathUp_only (Grp.flagUp { g with ops := Tab.put g.ops g.opNext o, opNext := g.opNext + 1 } o.flag) o.path
  refine ⟨?_, ?_, ?_, ?_, ?_⟩
  · rw [h2]; simp only; rw [h1]
  · rw [h2]; simp only; rw [h1]; exact Tab.find_put_same
  · intro k hk; rw [h2]; simp only; rw [h1]; exact Tab.find_put_other hk
  · intro n; rw [h2]; exact Grp.flagUp_get _ _ _
  · intro p
    refine (Grp.pathUp_get _ _ _).trans ?_
    rw [h1]

theorem Grp.tlComplete_only (g : Grp) (i n : Nat) :
    g.tlComplete i n = { g with tlc := (g.tlComplete i n).tlc, tldone := (g.tlComplete i n).tldone } := rfl

theorem Grp.tlCompleteRange_only (g : Grp) (i f n : Nat) :
    g.tlCompleteRange i f n = { g with tlc := (g.tlCompleteRange i f n).tlc, tldone := (g.tlCompleteRange i f n).tldone } := by
  induction n generalizing g f with
  | zero => rfl
  | succ n ih => unfold Grp.tlCompleteRange; rw [ih]; rfl

theorem Grp.tlincCheck_only (g : Grp) (xs : List (Nat × Nat × Nat × List Nat)) :
    g.tlincCheck xs = { g with tlc := (g.tlincCheck xs).tlc, tldone := (g.tlincCheck xs).tldone } := by
  induction xs generalizing g with
  | nil => rfl
  | cons x r ih =>
    obtain ⟨i, a, b, ops⟩ := x
    unfold Grp.tlincCheck
    split
    · have e := ih (g.tlCompleteRange i a (b + 1 - a))
      have e2 := Grp.tlCompleteRange_only g i a (b + 1 - a)
      generalize (g.tlCompleteRange i a (b + 1 - a)).tlincCheck r = X at e ⊢
      rw [e, e2]
    · exact ih g

theorem Grp.tlincDone_only (g : Grp) (n : Nat) :
    g.tlincDone n = { g with tlinc := (g.tlincDone n).tlinc, tlc := (g.tlincDone n).tlc, tldone := (g.tlincDone n).tldone } := by
  unfold Grp.tlincDone
  simp only
  rw [Grp.tlincCheck_only]

/-- Completing an operation ends it and changes nothing else of its group but timelines that TLINC waits for. -/
theorem Grp.opDone_ends (g : Grp) (n : Nat) (o : Op) (h : Tab.find g.ops n = some o) : g.opEnds (g.opDone n) n o := by
  unfold Grp.opDone
  rw [h]
  simp only
  have h0 := Grp.tlincDone_only (((({ g with ops := Tab.drop g.ops n }).flagDown o.flag).pathDown o.path)) n
  have h1 := Grp.flagDown_only { g with ops := Tab.drop g.ops n } o.flag
  have h2 := Grp.pathDown_only (Grp.flagDown { g with ops := Tab.drop g.ops n } o.flag) o.path
  refine ⟨?_, ?_, ?_, ?_, ?_⟩
  · rw [h0]; simp only; rw [h2]; simp only; rw [h1]
  · rw [h0]; simp only; rw [h2]; simp only; rw [h1]; simp [Tab.find_drop]
  · intro k hk; rw [h0]; simp only; rw [h2]; simp only; rw [h1]; simp [Tab.find_drop, hk]
  · intro i; rw [h0]; simp only; rw [h2]; exact Grp.flagDown_get _ _ _
  · intro p
    rw [h0]
    refine (Grp.pathDown_get _ _ _).trans ?_
    rw [h1]

theorem Grp.onlyLines_ops {g h : Grp} (a : g.onlyLines h) : h.ops = g.ops := by rw [a]

/-- An event acts on the operation it names. -/
theorem withOp_of {s : State} {gid n : Nat} {g : Grp} {o : Op} (h : s.hasOp gid n g o) (k : Grp → Op → State) :
    s.withOp gid n k = k g o := by
  unfold State.withOp; rw [h.1]; simp only; rw [h.2]

/-- An operation with no request beyond the package goes out at once. -/
theorem goOut_of {s : State} {gid n : Nat} {g : Grp} {o : Op} (pick : Nat → Bool) (h : s.sentOf gid g n o = []) :
    s.goOut gid g n o pick = some s := by
  unfold State.goOut; rw [h]; rfl

/-- A due operation is performed in the lanes that its event names. -/
theorem withDue_of {s : State} {gid n : Nat} {m : BitVec 32} {g : Grp} {o : Op} (h : s.due gid n m g o)
    (k : State → Grp → Op → BitVec 32 → State) : s.withDue gid n m k = k s g o (o.lanesOfEvent m) := by
  obtain ⟨h1, h2, h3, h4, h5⟩ := h
  unfold State.withDue
  rw [withOp_of h1]
  have e : (s.performable g n o (o.lanesOfEvent m) && (decide (o.owed &&& ~~~(o.lanesOfEvent m) ≠ 0) || g.pathFirst n)
      && (decide (o.lanesOfEvent m ≠ 0) || decide (o.owed = 0))) = true := by
    simp only [h2, Bool.true_and, Bool.and_eq_true, Bool.or_eq_true, decide_eq_true_eq]
    exact ⟨h3, h4⟩
  simp only [e, if_true]
  rw [goOut_of _ h5]
  exact withOp_of h1 _

/-- What a step does after it has performed lanes of an operation of a group that it changes to `f g` (01 R23, R24). -/
theorem lanesDone_ends {s : State} {gid n : Nat} {g : Grp} {o : Op} (h : s.hasOp gid n g o) (now : BitVec 32) (f : Grp → Grp)
    (hf : (f g).ops = g.ops) : s.lanesEnd (s.lanesDone gid n o now f) gid n o now (f g) := by
  have hm : ∀ k : Grp → Grp, s.modGrp gid k = s.setGrp gid (k g) := fun k => State.modGrp_of_find k h.1
  have hp : Tab.find (f g).ops n = some o := by rw [hf]; exact h.2
  refine ⟨fun e => ?_, fun e => ?_⟩
  · unfold State.lanesDone
    rw [if_pos e, hm]
    exact ⟨_, ⟨⟨rfl, fun k hk => Tab.find_put_other hk⟩, _, Tab.find_put_same, Grp.opDone_ends _ _ _ hp⟩, rfl⟩
  · unfold State.lanesDone
    rw [if_neg e, hm]
    have q : Tab.find (s.setGrp gid (f g)).groups gid = some (f g) := Tab.find_put_same
    unfold State.modOp
    rw [State.modGrp_of_find _ q]
    simp only [hp]
    exact ⟨⟨rfl, fun k hk => (Tab.find_put_other hk).trans (Tab.find_put_other hk)⟩, Tab.find_put_same⟩

theorem grp_of {s : State} {gid : Nat} {g : Grp} (h : Tab.find s.groups gid = some g) : s.grp gid = g := State.grp_of_find h

end Sys2Proof.Machine
end

