-- ==== Sys2Proof/Laws/Issue.lean ====
section
/-! SUPPORT. Words that leave an operation outstanding, and words that transfer: one lemma per shared shape. -/
namespace Sys2Proof.Machine

/-- What a word that leaves an operation outstanding does to its group: the operation of its rule begins. -/
def opStarts (i : Instr) (s : State) (f : Frag) (u : OpRule) : Grp → Grp → Prop := fun g h => if g.upred u.k then
      ∃ o, g.opBegins h o ∧ o.instr = i ∧ o.words = s.iss.words ∧ o.pc = s.iss.pc ∧ o.slot = s.iss.slot ∧ o.kind = u.kind
        ∧ o.m = u.act g f ∧ o.todo = o.m ∧ o.passed = false ∧ o.flag = flagOf (flagClass i) f.pos.setA f.pos.setB ∧ o.path = pathOf i
        ∧ o.base = u.base g ∧ o.slots = u.slots g f ∧ o.n = u.obj g ∧ o.lines = g.vlines (instrUses i).vw ∧ o.rel = releases i
        ∧ o.ord = g.opNext ∧ o.body = (g.inBody && !g.inHandler) ∧ o.fm = f.mask ∧ o.after = (if isAccess i then g.fusedBefore f.mask else [])
      else h = g

theorem opStarts_of {i : Instr} {u : OpRule} {s : State} {f : Frag} {G : Grp} {S : State} (hS : S.iss = s.iss) (o : Op) (hl : lateFault i = true)
    (ho : o = { mkOp S G f i u.kind (u.act G f) (u.base G) (u.slots G f) with n := u.obj G }) (hu : G.upred u.k = true) :
    opStarts i s f u G (G.addOp o) := by
  unfold opStarts
  rw [if_pos hu]
  refine ⟨_, Grp.addOp_begins _ _, ?_⟩
  rw [ho]
  refine ⟨rfl, ?_, ?_, ?_, rfl, rfl, rfl, ?_, rfl, rfl, rfl, rfl, rfl, rfl, rfl, rfl, rfl, rfl, rfl⟩
  · simp [mkOp, hS]
  · simp [mkOp, hS]
  · simp [mkOp, hS]
  · simp [mkOp, hl]

theorem mem_starts (i : Instr) (gd : BitVec 3) (a : BitVec 7) (data : List Nat) (base : Grp → Dword) (s : State) (g : Grp) (f : Frag)
    (hx : exec i s = issueMem i gd a data base s) (h : Issues i (f.mask &&& g.pred gd.toNat) s g f) (hl : lateFault i = true) :
    Completes i s g (opStarts i s f (memRule gd a data base)) := by
  refine issueF_complete (fun g f => g.lanes f gd)
    (fun s g f => g.addOp (mkOp s g f i 0 (g.lanes f gd) (base g) (capture (g.lanes f gd) (g.vreg a.toNat) :: data.map (fun v => capture (g.lanes f gd) (g.vreg v)))))
    hx h ?_
  exact opStarts_of rfl _ hl rfl (by rfl)

theorem scalarMem_starts (i : Instr) (x : S3) (r : Bool) (s : State) (g : Grp) (f : Frag)
    (hx : exec i s = issueScalarMem i x r s) (h : Issues i (g.guarded f x.k) s g f) (hl : lateFault i = true) :
    Completes i s g (opStarts i s f (scalarMemRule x r)) := by
  refine issueF_complete (fun g f => g.guarded f x.k)
    (fun s g f => if g.upred x.k.toNat then g.addOp (mkOp s g f i 2 f.mask 0 ([captureScalar (g.scalar (sclA x.pf x.a.toNat)), captureScalar (g.scalar (sclA x.pf x.a.toNat + 1)), captureScalar (g.sclOpB x.pf x.b false)]
        ++ (if r then [captureScalar (g.scalar x.d.toNat)] else []))) else g)
    (hx.trans ?_) h ?_
  · unfold issueScalarMem issueF
    congr 1
    funext s g f
    by_cases q : g.upred x.k.toNat = true
    · show (if _ then _ else _) = s.finish (if _ then _ else _); rw [if_pos q, if_pos q]
    · show (if _ then _ else _) = s.finish (if _ then _ else _); rw [if_neg q, if_neg q]
  · by_cases q : g.upred x.k.toNat = true
    · simp only [if_pos q]
      exact opStarts_of rfl _ hl (by simp only [scalarMemRule, q, if_true]; rfl) q
    · simp only [if_neg q]
      unfold opStarts
      exact (if_neg q).symm ▸ rfl

theorem tex_starts (i : Instr) (x : Tx) (s : State) (g : Grp) (f : Frag)
    (hx : exec i s = issueTex i x s) (h : Issues i (g.guarded f x.k) s g f) (hl : lateFault i = true) :
    Completes i s g (opStarts i s f (texRule x)) := by
  refine issueF_complete (fun g f => g.guarded f x.k)
    (fun s g f => if g.upred x.k.toNat then g.addOp (mkOp s g f i 0 f.mask (g.scalarPair x.n.toNat) ((upFrom x.y.toNat 4).map (fun v => capture f.mask (g.vreg v)))) else g)
    (hx.trans ?_) h ?_
  · unfold issueTex issueF
    congr 1
    funext s g f
    by_cases q : g.upred x.k.toNat = true
    · show (if _ then _ else _) = s.finish (if _ then _ else _); rw [if_pos q, if_pos q]
    · show (if _ then _ else _) = s.finish (if _ then _ else _); rw [if_neg q, if_neg q]
  · by_cases q : g.upred x.k.toNat = true
    · simp only [if_pos q]
      exact opStarts_of rfl _ hl (by simp only [texRule, q, if_true]; rfl) q
    · simp only [if_neg q]
      unfold opStarts
      exact (if_neg q).symm ▸ rfl

theorem stack_starts (i : Instr) (x : Dst) (data : Grp → BitVec 32 → List (List Word)) (u : OpRule) (s : State) (g : Grp) (f : Frag)
    (hx : exec i s = issueStack i x data s) (h : Issues i (g.lanes f x.g) s g f) (hl : lateFault i = true) (hst : (s.ctxAt g.ctx).stackBase ≠ 0)
    (hu : u = { memRule x.g 0 [] (fun _ => 0) with slots := fun g f => data g (f.mask &&& g.pred x.g.toNat) }) :
    Completes i s g (opStarts i s f u) := by
  obtain ⟨t, h1, h2⟩ := issueF_completes (i := i) (fun g f => g.lanes f x.g) (fun s g f => g.addOp (mkOp s g f i 0 (g.lanes f x.g) 0 (data g (g.lanes f x.g)))) h
  refine ⟨t, _, ?_, h2, ?_⟩
  · rw [hx]
    unfold issueStack
    rw [issue_runs _ _ h]
    unfold issueF at h1
    rw [issue_runs _ _ h] at h1
    rw [← h1]
    simp only
    rw [if_neg hst]
  · subst hu
    exact opStarts_of rfl _ hl rfl (by rfl)

theorem sfu_starts (i : Instr) (x : V2) (s : State) (g : Grp) (f : Frag)
    (hx : exec i s = issueSfu i x s) (h : Issues i (f.mask &&& g.pred x.g.toNat) s g f) (hl : lateFault i = true) :
    Completes i s g (opStarts i s f ⟨fun g f => f.mask &&& g.pred x.g.toNat, 7, 0, fun _ => 0,
      fun g f => [caught (f.mask &&& g.pred x.g.toNat) (g.opA x.pf x.a)], fun _ => 0⟩) := by
  refine issueF_complete (fun g f => g.lanes f x.g)
    (fun s g f => g.addOp (mkOp s g f i 0 (g.lanes f x.g) 0 [capture (g.lanes f x.g) (g.opA x.pf x.a)]))
    hx h ?_
  exact opStarts_of rfl _ hl rfl (by rfl)
theorem ldw_starts (x : V3) (s : State) (g : Grp) (f : Frag) (h : Issues (.ldw x) (f.mask &&& g.pred x.g.toNat) s g f) :
    Completes (.ldw x) s g (opStarts (.ldw x) s f { memRule x.g x.a [x.d.toNat] (pairAt x.b) with obj := fun g => (g.scalar (x.b.toNat + 2)).setWidth 64 }) := by
  refine issueF_complete (fun g f => g.lanes f x.g)
    (fun s g f => g.addOp ({ mkOp s g f (.ldw x) 0 (g.lanes f x.g) (g.scalarPair x.b.toNat) [capture (g.lanes f x.g) (g.vreg x.a.toNat), capture (g.lanes f x.g) (g.vreg x.d.toNat)] with n := (g.scalar (x.b.toNat + 2)).setWidth 64 }))
    rfl h ?_
  exact opStarts_of rfl _ rfl rfl (by rfl)

theorem guardAll_iff (g : Grp) (f : Frag) (k : BitVec 3) : g.guardAll f k = true ↔ ∀ l, f.mask.getLsbD l = true → (g.pred k.toNat).getLsbD l = true := by
  unfold Grp.guardAll
  rw [decide_eq_true_iff]
  constructor
  · intro h l hl
    have e := congrArg (fun x => BitVec.getLsbD x l) h
    have hl32 : l < 32 := BitVec.lt_of_getLsbD hl
    simp only [BitVec.getLsbD_and, BitVec.getLsbD_not, hl, hl32, decide_true, Bool.true_and] at e
    revert e
    cases (g.pred k.toNat).getLsbD l <;> simp
  · intro h
    apply BitVec.eq_of_getLsbD_eq
    intro l hl
    simp only [BitVec.getLsbD_and, BitVec.getLsbD_not, hl, decide_true, Bool.true_and]
    cases q : f.mask.getLsbD l with
    | false => simp
    | true => rw [h l q]; simp

theorem withTarget_of {s : State} {far : Bool} {g : Grp} {a : Dword} (k : State → State) (h : (s.target far g a).1 = .header) :
    s.withTarget far g a k = k (s.target far g a).2 := by
  unfold State.withTarget
  split <;> simp_all

theorem goesOn_of {i : Instr} {s : State} {g : Grp} {f : Frag} {effect : Grp → Grp → Prop} (act : Grp → Frag → BitVec 32) (body : State → Grp → Frag → State)
    (hx : exec i s = issue i s act body) (h : Issues i (act g f) s g f) (k : Grp)
    (hb : body s g f = s.finish k) (he : effect g k) :
    Completes i s g effect :=
  ⟨_, k, by rw [hx, issue_runs act body h, hb], finish_goesOn s _, he⟩

theorem transfers_of {i : Instr} {s : State} {g : Grp} {f : Frag} (act : Grp → Frag → BitVec 32) (body : State → Grp → Frag → State)
    (hx : exec i s = issue i s act body) (h : Issues i (act g f) s g f) (u : State) (k : Grp) (hb : body s g f = u.setGrp s.iss.g k) :
    ∃ t, exec i s = .next t ∧ u.onlyGroup t s.iss.g ∧ Tab.find t.groups s.iss.g = some k :=
  ⟨_, by rw [hx, issue_runs act body h, hb], ⟨rfl, fun _ hj => Tab.find_put_other hj⟩, Tab.find_put_same⟩

theorem fetched_find {s u : State} {gid : Nat} {k : Grp} (hk : Tab.find s.groups gid = some k) (hu : s.fetched u) : Tab.find u.groups gid = some k := by
  rw [State.fetched_groups hu]; exact hk

/-- The test of a target that is named by an offset, or that has the form of an address. -/
theorem target_near {s : State} {far : Bool} {g : Grp} {a : Dword} (hf : far = true → farOk a) : s.target far g a =
    match s.fetchWord g a with
    | .error f => (.fetch f, s.useFree f.tr.drew)
    | .ok (w, t) => (if wordClass w = .header then .header else .bad, t) := by
  have n : ¬(far = true ∧ (a.extractLsb' 0 2 ≠ 0#2 ∨ canonical a = false)) := by
    rintro ⟨h, n | n⟩
    · exact n (hf h).1
    · rw [(hf h).2] at n; cases n
  unfold State.target
  rw [if_neg n]
  all_goals split <;> simp_all

theorem withTarget_leads {s u : State} {far : Bool} {g : Grp} {a : Dword} (k : State → State) (hf : far = true → farOk a) (h : s.leadsTo u g a) :
    s.withTarget far g a k = k u := by
  obtain ⟨w, e, c⟩ := h
  simp [State.withTarget, target_near hf, e, c]

/-- An instruction whose body is the test of a target raises what the test gives. -/
theorem targetTraps_of {i : Instr} {s : State} {g : Grp} {f : Frag} {a : Dword} {far : Bool} (act : Grp → Frag → BitVec 32) (body : State → Grp → Frag → State)
    (k : State → State) (hx : exec i s = issue i s act body) (h : Issues i (act g f) s g f) (hf : far = true → farOk a)
    (hb : body s g f = s.withTarget far g a k) : TargetTraps i s g a := by
  refine ⟨fun w u e c => ?_, fun e he => ?_⟩
  · rw [hx, issue_runs act body h, hb]; simp [State.withTarget, target_near hf, e, c]
  · rw [hx, issue_runs act body h, hb]; simp [State.withTarget, target_near hf, he]

end Sys2Proof.Machine
end

