-- ==== Sys2Proof/Laws/Memory.lean ====
section
/-! SUPPORT. What each operation over system physical memory does to it, and that each keeps its canonical form. -/
namespace Sys2Proof.Machine

/-! ### Writes to memory -/

/-- What a write of bytes can do: memory has the bytes, and beside it only poison marks, the directory of copies and the code log change. -/
theorem State.memWrite_only (s : State) (pa : Nat) (bs : List Byte) :
    s.memWrite pa bs = { s with mem := (s.memWrite pa bs).mem, dir := (s.memWrite pa bs).dir, memPoison := (s.memWrite pa bs).memPoison,
                                codeLog := (s.memWrite pa bs).codeLog } := by
  unfold State.memWrite; split <;> rfl

theorem State.memWrite_mem (s : State) (pa : Nat) (bs : List Byte) : (s.memWrite pa bs).mem = if bs.isEmpty then s.mem else Sparse.setList s.mem pa bs := by
  unfold State.memWrite; split <;> rfl

theorem State.memWrite_get (s : State) (pa : Nat) (bs : List Byte) (a : Nat) :
    Sparse.get (s.memWrite pa bs).mem a = if pa ≤ a ∧ a < pa + bs.length then bs.getD (a - pa) 0 else Sparse.get s.mem a := by
  rw [State.memWrite_mem]
  split
  · rename_i h
    rw [List.isEmpty_iff.mp h, if_neg (by simp only [List.length_nil]; omega)]
  · exact Sparse.get_setList

/-- A write into an L2 copy leaves memory alone. -/
theorem State.l2Write_only (s : State) (pa : Nat) (bs : List Byte) : s.l2Write pa bs = { s with l2 := (s.l2Write pa bs).l2, codeLog := (s.l2Write pa bs).codeLog } := rfl

/-- What a write at the home slice can do: memory has the bytes or is as it was, and beside it only L2 copies, poison marks, the directory of copies and the code log change. -/
theorem State.homeWrite_only (s : State) (pa : Nat) (bs : List Byte) (o : Bool) :
    s.homeWrite pa bs o = { s with mem := (s.homeWrite pa bs o).mem, dir := (s.homeWrite pa bs o).dir, memPoison := (s.homeWrite pa bs o).memPoison,
                                   codeLog := (s.homeWrite pa bs o).codeLog, l2 := (s.homeWrite pa bs o).l2 } := by
  unfold State.homeWrite
  cases s.l2Held pa with
  | false => simp only [Bool.false_eq_true, if_false]; rw [State.memWrite_only]
  | true =>
    cases o with
    | false => rfl
    | true =>
      simp only [if_true]
      have e := s.memWrite_only pa bs
      cases s.l2Find pa with
      | none =>
        simp only
        generalize s.memWrite pa bs = t at e
        rw [e]
      | some _ =>
        simp only
        rw [State.l2Write_only]
        generalize s.memWrite pa bs = t at e
        rw [e]

theorem State.homeWrite_mem (s : State) (pa : Nat) (bs : List Byte) (o : Bool) :
    (s.homeWrite pa bs o).mem = s.mem ∨ (s.homeWrite pa bs o).mem = Sparse.setList s.mem pa bs := by
  have k : (s.memWrite pa bs).mem = s.mem ∨ (s.memWrite pa bs).mem = Sparse.setList s.mem pa bs := by
    rw [State.memWrite_mem]
    split
    · exact Or.inl rfl
    · exact Or.inr rfl
  unfold State.homeWrite
  cases s.l2Held pa with
  | false => simp only [Bool.false_eq_true, if_false]; exact k
  | true =>
    cases o with
    | false => exact Or.inl rfl
    | true =>
      simp only [if_true]
      cases s.l2Find pa <;> exact k

/-- Of memory that no L2 copy stands before, the write is memory's. -/
theorem State.homeWrite_here (s : State) (pa : Nat) (bs : List Byte) (o : Bool) (h : s.l2Held pa = false) : s.homeWrite pa bs o = s.memWrite pa bs := by
  unfold State.homeWrite; rw [h]; rfl

/-! ### The canonical form -/

theorem State.memOk_of_mem {s t : State} (h : t.mem = s.mem) (w : s.memOk) : t.memOk := by
  unfold State.memOk; rw [h]; exact w

/-- Reset's memory has it. -/
theorem reset_memOk : State.reset.memOk := rfl

theorem State.memWrite_memOk (s : State) (pa : Nat) (bs : List Byte) (h : s.memOk) : (s.memWrite pa bs).memOk := by
  show Sparse.wf (s.memWrite pa bs).mem = true
  rw [State.memWrite_mem]
  split
  · exact h
  · exact Sparse.wf_setList h

theorem State.homeWrite_memOk (s : State) (pa : Nat) (bs : List Byte) (o : Bool) (h : s.memOk) : (s.homeWrite pa bs o).memOk := by
  show Sparse.wf (s.homeWrite pa bs o).mem = true
  rcases s.homeWrite_mem pa bs o with e | e <;> rw [e]
  · exact h
  · exact Sparse.wf_setList h

theorem State.homeSetDword_memOk (s : State) (pa v : Nat) (h : s.memOk) : (s.homeSetDword pa v).memOk := s.homeWrite_memOk _ _ _ h

theorem State.homeSetWord_memOk (s : State) (pa v : Nat) (h : s.memOk) : (s.homeSetWord pa v).memOk := s.homeWrite_memOk _ _ _ h

/-- Any fold of steps that each keep the form keeps it. -/
theorem State.foldl_memOk {α : Type} (f : State → α → State) (hf : ∀ s x, s.memOk → (f s x).memOk) (xs : List α) (s : State) (h : s.memOk) :
    (xs.foldl f s).memOk := by
  induction xs generalizing s with
  | nil => exact h
  | cons x r ih => exact ih _ (hf s x h)

/-- Dirty bits of page tables (17 R357, R359). -/
theorem State.setDs_memOk (s : State) (ds : List DSet) (h : s.memOk) : (s.setDs ds).memOk := by
  induction ds generalizing s with
  | nil => exact h
  | cons d r ih => exact ih _ (State.memOk_of_mem (s := s.homeSetDword d.pa (s.homeDword d.pa ||| 2 ^ d.bit)) rfl (s.homeSetDword_memOk _ _ h))

theorem State.traced_memOk (s : State) (tr : XTrace) (h : s.memOk) : (s.traced tr).memOk := s.setDs_memOk _ h

theorem State.fillEntry_mem (s : State) (core : Nat) (e : Option TEntry) : (s.fillEntry core e).mem = s.mem := by
  unfold State.fillEntry; cases e <;> rfl

theorem State.xCommit_memOk (s : State) (core : Nat) (r : XOk) (h : s.memOk) : (s.xCommit core r).memOk :=
  State.memOk_of_mem (State.fillEntry_mem _ _ _) (s.traced_memOk _ h)

/-- Dirty bitmaps (17 R368). -/
theorem State.markPage_memOk (s : State) (c a : Nat) (h : s.memOk) : (s.markPage c a).memOk := by
  unfold State.markPage
  split
  · exact h
  · simp only
    split
    · exact State.traced_memOk _ _ h
    · split
      · exact State.traced_memOk _ _ h
      · exact State.homeSetDword_memOk _ _ _ (State.traced_memOk _ _ h)

theorem State.trackPath_memOk (s : State) (ch path : List Nat) (h : s.memOk) : (s.trackPath ch path).memOk :=
  State.foldl_memOk _ (fun u _ w => u.markPage_memOk _ _ w) _ _ h

theorem State.trackVa_memOk (s : State) (x va : Nat) (h : s.memOk) : (s.trackVa x va).memOk := by
  unfold State.trackVa
  split
  · exact h
  · exact s.trackPath_memOk _ _ h

/-- Write-backs of L1 lines (07 R182, R199). -/
theorem State.poisonMem_memOk (s : State) (pa : Nat) (h : s.memOk) : (s.poisonMem pa).memOk := h

theorem State.putWord8_memOk (s : State) (pa : Nat) (l : L1Line) (i : Nat) (h : s.memOk) : (s.putWord8 pa l i).memOk := by
  unfold State.putWord8
  simp only
  split
  · exact h
  · have k : (if l.dirty.extractLsb' (8 * i) 8 = 0xFF#8 then s.homeWrite (pa + 8 * i) (leBytes 8 (l.data.extractLsb' (64 * i) 64).toNat) false
        else (List.range 8).foldl (fun u j => if (l.dirty.extractLsb' (8 * i) 8).getLsbD j then
          u.homeWrite (pa + 8 * i + j) [(leBytes 8 (l.data.extractLsb' (64 * i) 64).toNat).getD j 0] false else u) s).memOk := by
      split
      · exact s.homeWrite_memOk _ _ _ h
      · refine State.foldl_memOk _ (fun u j w => ?_) _ _ h
        split
        · exact u.homeWrite_memOk _ _ _ w
        · exact w
    split
    · exact k
    · exact k

theorem State.putDirty_memOk (s : State) (l : L1Line) (h : s.memOk) : (s.putDirty l).memOk := by
  unfold State.putDirty
  split
  · exact h
  · exact State.trackPath_memOk _ _ _ (State.foldl_memOk _ (fun u i w => u.putWord8_memOk _ _ _ w) _ _ h)

theorem State.writeBackLine_memOk (s t : State) (core : Nat) (sup : Bool) (l : L1Line) (e : s.writeBackLine core sup l = .ok t) (h : s.memOk) : t.memOk := by
  unfold State.writeBackLine at e
  split at e
  · cases e; exact s.putDirty_memOk l h
  · split at e
    · cases e
    · cases e
      split
      · exact s.xCommit_memOk _ _ h
      · exact State.putDirty_memOk _ _ (s.xCommit_memOk _ _ h)

/-- Zeroed ranges (22 R441, R445). -/
theorem State.zeroRanges_memOk (s : State) (rs : List (Nat × Nat)) (h : s.memOk) : (s.zeroRanges rs).memOk := by
  induction rs generalizing s with
  | nil => exact h
  | cons r rest ih => exact ih _ (Sparse.wf_clear h)

theorem State.zeroRanges_get (s : State) (rs : List (Nat × Nat)) (a : Nat) :
    Sparse.get (s.zeroRanges rs).mem a = if rs.any (fun r => decide (r.1 ≤ a) && decide (a < r.1 + r.2)) then 0 else Sparse.get s.mem a := by
  induction rs generalizing s with
  | nil => rfl
  | cons r rest ih =>
    unfold State.zeroRanges
    rw [ih, List.any_cons, Sparse.get_clear]
    by_cases q : rest.any (fun r => decide (r.1 ≤ a) && decide (a < r.1 + r.2)) = true
    · rw [if_pos q, q, Bool.or_true, if_pos rfl]
    · rw [if_neg q]
      by_cases p : r.1 ≤ a ∧ a < r.1 + r.2
      · rw [if_pos p]; simp [p]
      · rw [if_neg p, if_neg]
        simp only [Bool.or_eq_true, Bool.and_eq_true, decide_eq_true_eq]
        exact fun o => o.elim p q

/-- The write-back of an L2 copy (07 R196). -/
theorem State.l2Clean_memOk (s : State) (pa : Nat) (inv : Bool) (h : s.memOk) : (s.l2Clean pa inv).memOk := by
  unfold State.l2Clean
  split
  · exact h
  · refine State.memOk_of_mem rfl (State.foldl_memOk _ (fun u _ w => ?_) _ _ h)
    split
    · exact u.memWrite_memOk _ _ w
    · exact w

/-- Firmware's writes (18 R387), the host's and ingress (22 R447, R451). -/
theorem State.writePieces_memOk (s : State) (x : Nat) (sup : Bool) (ps : List (Nat × Nat)) (bs : List Byte) (h : s.memOk) : (s.writePieces x sup ps bs).memOk := by
  induction ps generalizing s bs with
  | nil => exact h
  | cons p rest ih =>
    unfold State.writePieces
    split
    · exact ih _ _ h
    · refine ih _ _ ?_
      split
      · exact h
      · exact State.trackPath_memOk _ _ _ (State.homeWrite_memOk _ _ _ _ (s.traced_memOk _ h))

theorem State.fwWrite_memOk (s t : State) (x : Nat) (sup : Bool) (va : Nat) (bs : List Byte) (e : s.fwWrite x sup va bs = some t) (h : s.memOk) : t.memOk := by
  unfold State.fwWrite at e
  simp only at e
  split at e
  · cases e
  · cases e; exact s.writePieces_memOk _ _ _ _ h

theorem State.poisonRange_memOk (s : State) (pa n : Nat) (h : s.memOk) : (s.poisonRange pa n).memOk :=
  State.foldl_memOk _ (fun u _ w => u.poisonMem_memOk _ w) _ _ h

theorem State.physWrite_memOk (s : State) (x w : Nat) (ps : List (Nat × Nat)) (bs : List Byte) (bad : Bool) (h : s.memOk) : (s.physWrite x w ps bs bad).1.memOk := by
  induction ps generalizing s bs with
  | nil => exact h
  | cons p rest ih =>
    unfold State.physWrite
    split
    · exact ih _ _ h
    · split
      · refine ih _ _ (State.trackPath_memOk _ _ _ ?_)
        split
        · exact State.poisonRange_memOk _ _ _ (State.homeWrite_memOk _ _ _ _ (s.traced_memOk _ h))
        · exact State.homeWrite_memOk _ _ _ _ (s.traced_memOk _ h)
      · exact ih _ _ h

/-- Where an instruction is placed (log 2). -/
theorem State.loadTerkor_memOk (s : State) (ws : List Word) (h : s.memOk) : (s.loadTerkor ws).memOk := Sparse.wf_setList h

theorem State.loadHart_memOk (s : State) (ws : List Word) (h : s.memOk) : (s.loadHart ws).memOk := Sparse.wf_setList h

end Sys2Proof.Machine
end

