-- ==== Sys2Proof/Laws/Rules.lean ====
section
/-! SUPPORT. The operations of the model's lanes, as the claims' rules put them: one lemma per shared shape of instruction, and what the
reduction tree, the compares and error feedback compute. -/
namespace Sys2Proof.Machine

theorem word_idot4 (a b d : Word) : idot4 a b d = BitVec.ofInt 32 (d.toInt + byteInt a 0 * byteInt b 0 + byteInt a 1 * byteInt b 1
      + byteInt a 2 * byteInt b 2 + byteInt a 3 * byteInt b 3) := by
  have hb : ∀ a i, byteInt a i = (byteOf a i).toInt := fun a i => (byteOf_toInt a i).symm
  simp only [hb]
  unfold idot4
  simp only [List.range, List.range.loop, List.map, List.foldl]
  apply BitVec.eq_of_toInt_eq
  rw [BitVec.toInt_add, BitVec.toInt_ofInt, BitVec.toInt_ofInt, Int.add_bmod_bmod]
  congr 1; omega
theorem word_isad (a b d : Word) : isad a b d = BitVec.ofNat 32 (d.toNat
      + ((byteNat a 0 : Int) - byteNat b 0).natAbs + ((byteNat a 1 : Int) - byteNat b 1).natAbs
      + ((byteNat a 2 : Int) - byteNat b 2).natAbs + ((byteNat a 3 : Int) - byteNat b 3).natAbs) := by
  have hb : ∀ a i, byteNat a i = (byteOf a i).toNat := fun a i => (byteOf_toNat a i).symm
  simp only [hb]
  unfold isad
  simp only [List.range, List.range.loop, List.map, List.foldl]
  apply BitVec.eq_of_toNat_eq
  have e : ∀ m n : Nat, m - n + (n - m) = ((m : Int) - n).natAbs := by intro m n; omega
  simp only [e]
  generalize (((byteOf a 0).toNat : Int) - (byteOf b 0).toNat).natAbs = x0
  generalize (((byteOf a 1).toNat : Int) - (byteOf b 1).toNat).natAbs = x1
  generalize (((byteOf a 2).toNat : Int) - (byteOf b 2).toNat).natAbs = x2
  generalize (((byteOf a 3).toNat : Int) - (byteOf b 3).toNat).natAbs = x3
  simp only [BitVec.toNat_add, BitVec.toNat_ofNat]
  omega

theorem lane3_rule {i x b32} {fn fn' : Word → Word → Word → Word} {s g f} (hx : exec i s = issueLane3 i x b32 fn s) (hf : fn = fn')
   (h : Issues i (g.lanes f x.g) s g f) : Completes i s g (fun g h => g.writesV h x.d.toNat (g.lanes f x.g)
      (fun l => fn' (g.opA x.pf x.a l) (g.opB x.pf x.b b32 l) (g.vreg x.d.toNat l))) := hf ▸ lane3_complete hx h
theorem lane2_rule {i x} {fn fn' : Word → Word} {s g f} (hx : exec i s = issueLane2 i x fn s) (hf : fn = fn')
   (h : Issues i (g.lanes f x.g) s g f) : Completes i s g (fun g h => g.writesV h x.d.toNat (g.lanes f x.g)
      (fun l => fn' (g.opA x.pf x.a l))) := hf ▸ lane2_complete hx h
theorem lanes_rule {i : Instr} {s : State} {g : Grp} {f : Frag} (act : Grp → Frag → BitVec 32)
    (fn : State → Grp → Frag → Grp) (d : Nat) (m : Grp → Frag → BitVec 32) (r r' : State → Grp → Frag → Nat → Word)
    (hx : exec i s = issueF i s act fn) (hfn : fn = fun s g f => g.setV d (m g f) (r s g f))
    (h : Issues i (act g f) s g f)
    (hr : r s g f = r' s g f) :
    Completes i s g (fun g h => g.writesV h d (m g f) (r' s g f)) :=
  issueF_complete act fn hx h (by subst hfn; show Grp.writesV _ (Grp.setV _ _ _ _) _ _ _; rw [hr]; exact Grp.writesV_setV _ _ _ _)

theorem packed2_halves (fn : Nat → Nat → Nat → Nat) (a b d : Word) : packed2 fn a b d =
   BitVec.ofNat 16 (fn (a.toNat / 65536) (b.toNat / 65536) (d.toNat / 65536))
      ++ BitVec.ofNat 16 (fn (a.toNat % 65536) (b.toNat % 65536) (d.toNat % 65536)) := by
  unfold packed2
  have e0 : ∀ w : Word, (w.extractLsb' (16*0) 16).toNat = w.toNat % 65536 := by intro w; simp [BitVec.extractLsb'_toNat]
  have e1 : ∀ w : Word, (w.extractLsb' (16*1) 16).toNat = w.toNat / 65536 := by
    intro w; simp [BitVec.extractLsb'_toNat, Nat.shiftRight_eq_div_pow]; have := w.isLt; omega
  simp only [e0, e1]
  apply BitVec.eq_of_toNat_eq
  simp only [BitVec.toNat_append, BitVec.toNat_ofNat]
  rw [← Nat.shiftLeft_add_eq_or_of_lt (by omega)]
  simp only [Nat.shiftLeft_eq]; omega

theorem packWord_bytes (a b d : Word) : packWord a b d = packByte a b d 3 ++ packByte a b d 2 ++ packByte a b d 1 ++ packByte a b d 0 := by
  have hb : ∀ i, i < 4 → packByte a b d i = (let n := (b.extractLsb' (4 * i) 4).toNat
      let byte : Byte := if n ≤ 7 then (pair d a).extractLsb' (8 * n) 8 else 0
      byte) := by
    intro i hi
    have hn : (b.extractLsb' (4 * i) 4).toNat = b.toNat / 16 ^ i % 16 := by
      simp [BitVec.extractLsb'_toNat, Nat.shiftRight_eq_div_pow, Nat.pow_mul]
    simp only [hn, packByte]
    generalize b.toNat / 16 ^ i % 16 = n
    have hp : (pair d a).toNat = d.toNat * 2 ^ 32 + a.toNat := by
      unfold pair
      rw [BitVec.toNat_append, ← Nat.shiftLeft_add_eq_or_of_lt a.isLt]; simp [Nat.shiftLeft_eq]
    by_cases h4 : n < 4
    · rw [if_pos h4, if_pos (by omega)]
      apply BitVec.eq_of_toNat_eq
      rw [BitVec.extractLsb'_toNat, hp]
      simp only [byteNat, BitVec.toNat_ofNat, Nat.shiftRight_eq_div_pow]
      have ha := a.isLt
      have hd := d.isLt
      match n, h4 with
      | 0, _ | 1, _ | 2, _ | 3, _ => omega
    · rw [if_neg h4]
      by_cases h8 : n < 8
      · rw [if_pos h8, if_pos (by omega)]
        apply BitVec.eq_of_toNat_eq
        rw [BitVec.extractLsb'_toNat, hp]
        simp only [byteNat, BitVec.toNat_ofNat, Nat.shiftRight_eq_div_pow]
        have ha := a.isLt
        have hd := d.isLt
        match n, h8, h4 with
        | 4, _, _ | 5, _, _ | 6, _, _ | 7, _, _ => omega
      · rw [if_neg h8, if_neg (by omega)]
  rw [hb 0 (by decide), hb 1 (by decide), hb 2 (by decide), hb 3 (by decide)]
  unfold packWord
  simp only [List.range, List.range.loop, List.foldl]
  generalize (if (b.extractLsb' (4 * 0) 4).toNat ≤ 7 then (pair d a).extractLsb' (8 * (b.extractLsb' (4 * 0) 4).toNat) 8 else (0 : Byte)) = x0
  generalize (if (b.extractLsb' (4 * 1) 4).toNat ≤ 7 then (pair d a).extractLsb' (8 * (b.extractLsb' (4 * 1) 4).toNat) 8 else (0 : Byte)) = x1
  generalize (if (b.extractLsb' (4 * 2) 4).toNat ≤ 7 then (pair d a).extractLsb' (8 * (b.extractLsb' (4 * 2) 4).toNat) 8 else (0 : Byte)) = x2
  generalize (if (b.extractLsb' (4 * 3) 4).toNat ≤ 7 then (pair d a).extractLsb' (8 * (b.extractLsb' (4 * 3) 4).toNat) 8 else (0 : Byte)) = x3
  apply BitVec.eq_of_getLsbD_eq
  intro k hk
  have h0 := fun j (h : 8 ≤ j) => BitVec.getLsbD_of_ge x0 j h
  have h1 := fun j (h : 8 ≤ j) => BitVec.getLsbD_of_ge x1 j h
  have h2 := fun j (h : 8 ≤ j) => BitVec.getLsbD_of_ge x2 j h
  simp only [BitVec.getLsbD_append, BitVec.getLsbD_or, BitVec.getLsbD_shiftLeft, BitVec.getLsbD_setWidth, hk, decide_true,
    Bool.true_and]
  by_cases k8 : k < 8
  · simp [k8, hk, show k < 16 by omega, show k < 24 by omega]
  · by_cases k16 : k < 16
    · have := h0 k (by omega)
      simp [k8, k16, hk, this, show k - 8 < 8 by omega, show k < 24 by omega, show k - 8 < 32 by omega]
    · by_cases k24 : k < 24
      · have := h0 k (by omega)
        have := h1 (k - 8) (by omega)
        simp [k8, k16, k24, hk, *, show ¬ (k - 8 < 8) by omega, show k - 8 - 8 < 8 by omega, show k - 16 < 8 by omega, show k - 16 < 32 by omega, show k - 8 - 8 = k - 16 by omega]
      · have := h0 k (by omega)
        have := h1 (k - 8) (by omega)
        have := h2 (k - 16) (by omega)
        simp [k8, k16, k24, hk, *, show ¬ (k - 8 < 8) by omega, show ¬ (k - 16 < 8) by omega, show ¬ (k - 8 - 8 < 8) by omega, show k - 24 < 32 by omega, show k - 8 - 8 - 8 = k - 24 by omega, show k - 16 - 8 = k - 24 by omega, show k - 8 - 8 = k - 16 by omega]

theorem segLanes_filter (m : BitVec 32) (w l : Nat) : segLanes m w l = (List.range 32).filter (inSegment m w l) := by
  unfold segLanes lanesOf
  rw [List.filter_filter]
  congr 1; funext k; simp [inSegment, Bool.and_comm]
theorem voteValue_eq (md : Nat) (a : Nat → Word) (m : BitVec 32) (w l : Nat) :
    voteValue md a (segLanes m w l) l =
      (match md with
        | 0 => if ∀ k ∈ (List.range 32).filter (inSegment m w l), a k ≠ 0 then 1 else 0
        | 1 => if ∃ k ∈ (List.range 32).filter (inSegment m w l), a k ≠ 0 then 1 else 0
        | 2 => maskWhere (fun k => inSegment m w l k && decide (a k ≠ 0))
        | _ => if ∀ k ∈ (List.range 32).filter (inSegment m w l), a k = a l then 1 else 0) := by
  unfold voteValue
  rw [segLanes_filter]
  match md with
  | 0 => simp only [List.all_eq_true, List.any_eq_true, decide_eq_true_eq]
  | 1 => simp only [List.any_eq_true, decide_eq_true_eq]
  | 2 =>
    show maskOf _ = maskOf _
    rw [List.filter_filter]
    congr 1
    apply List.filter_congr
    intro k _
    exact Bool.and_comm _ _
  | n + 3 => simp only [List.all_eq_true, List.any_eq_true, decide_eq_true_eq]
theorem writesV_of (G : Grp) (d : Nat) (m : BitVec 32) (r r' : Nat → Word) (h : r = r') : Grp.writesV G (Grp.setV G d m r) d m r' :=
  h ▸ Grp.writesV_setV _ _ _ _

theorem scalar_rule {i : Instr} {x : S3} {b : Bool} {fn fn' : Word → Word → Word → Word} {s : State} {g : Grp} {f : Frag}
    (hx : exec i s = issueS3 i x b fn s) (hf : fn = fn')
     (h : Issues i (g.guarded f x.k) s g f) : Completes i s g (fun g h => if g.upred x.k.toNat then
      g.writesS h x.d.toNat (fn' (g.sclOpA x.pf x.a) (g.sclOpB x.pf x.b b) (g.scalar x.d.toNat)) else h = g) := hf ▸ scalar_complete hx h

theorem combined_bit (ct : BitVec 3) (first : Bool) (m old c : BitVec 32) (l : Nat) (hl : l < 32) :
    (cmpCombine ct first m old c).getLsbD l = combined ct.toNat first (m.getLsbD l) (old.getLsbD l) (c.getLsbD l) := by
  rw [cmpCombine_bit ct first m old c l hl]; rfl

theorem cmp_rule {i : Instr} {x : Cmp} {b : Bool} {c c' : Word → Word → Bool} {s : State} {g : Grp} {f : Frag} (hx : exec i s = issueCmp i x b c' s) (hc : c' = c) (h : Issues i f.mask s g f) :
      Completes i s g (fun g h => h = { g with p := h.p } ∧ ∀ n l, l < 32 → (h.pred n).getLsbD l =
      let r := c (g.opA x.pf x.a l) (g.opB x.pf x.b b l)
      if n = 7 then true
      else if n = x.q.toNat then combined x.c.toNat false (f.mask.getLsbD l) ((g.pred n).getLsbD l) r
      else if n = x.p.toNat then combined x.c.toNat true (f.mask.getLsbD l) ((g.pred n).getLsbD l) r
      else (g.pred n).getLsbD l) := by
    subst hc
    refine issueF_complete _ _ hx h ⟨Grp.cmpWrite_only _ _ _ _, ?_⟩
    intro n l hl
    show (Grp.pred (Grp.cmpWrite _ _ _ _) n).getLsbD l = _
    rw [Grp.pred_cmpWrite]
    have hm : ∀ fn, (maskWhere fn).getLsbD l = fn l := fun fn => by rw [maskWhere_getLsbD]; simp [hl]
    by_cases h7 : n = 7
    · rw [if_pos h7]; show _ = if n = 7 then true else _; rw [if_pos h7, BitVec.getLsbD_allOnes]; simp [hl]
    · rw [if_neg h7]; show _ = if n = 7 then true else _; rw [if_neg h7]
      by_cases hq : n = x.q.toNat
      · rw [if_pos hq, if_pos hq, combined_bit _ _ _ _ _ _ hl, hm, hq]
      · rw [if_neg hq, if_neg hq]
        by_cases hp : n = x.p.toNat
        · rw [if_pos hp, if_pos hp, combined_bit _ _ _ _ _ _ hl, hm, hp]
        · rw [if_neg hp, if_neg hp]

theorem fcmp_rule {i : Instr} {x : Cmp} {cf : Fv → Fv → Bool} {c : Word → Word → Bool} {s : State} {g : Grp} {f : Frag} (hx : exec i s = issueFcmp i x cf s)
   (hc : (fun a b => cf (Ff.f32.opnd (fpMod x.pf) a.toNat) (Ff.f32.opnd (fpMod x.pf) b.toNat)) = c) (h : Issues i f.mask s g f) :
    Completes i s g (fun g h => h = { g with p := h.p } ∧ ∀ n l, l < 32 → (h.pred n).getLsbD l =
      let r := c (g.opA x.pf x.a l) (g.opB x.pf x.b true l)
      if n = 7 then true
      else if n = x.q.toNat then combined x.c.toNat false (f.mask.getLsbD l) ((g.pred n).getLsbD l) r
      else if n = x.p.toNat then combined x.c.toNat true (f.mask.getLsbD l) ((g.pred n).getLsbD l) r
      else (g.pred n).getLsbD l) :=
   cmp_rule (x := x) (b := true) hx hc h

theorem scmp_rule {i : Instr} {x : Cmp} {c c' : Word → Word → Bool} {s : State} {g : Grp} {f : Frag} (hx : exec i s = issueScmp i x c' s) (hc : c' = c) (h : Issues i f.mask s g f) :
    Completes i s g (fun g h => h = { g with k := h.k } ∧ ∀ n, n < 8 → h.upred n =
      let r := c (g.sclOpA x.pf x.a) (g.sclOpB x.pf x.b false)
      if n = 7 then true
      else if n = x.q.toNat then combined x.c.toNat false true (g.upred n) r
      else if n = x.p.toNat then combined x.c.toNat true true (g.upred n) r
      else g.upred n) := by
    subst hc
    refine issueF_complete _ _ hx h ⟨Grp.scmpWrite_only _ _ _, ?_⟩
    intro n hn
    show Grp.upred (Grp.scmpWrite _ _ _) n = _
    unfold Grp.scmpWrite
    simp only
    have b1 := x.p.isLt
    have b2 := x.q.isLt
    rw [Grp.upred_setUpred _ _ _ _ (by omega) hn, Grp.upred_setUpred _ _ _ _ (by omega) hn, combined_bit _ _ _ _ _ _ (by omega), combined_bit _ _ _ _ _ _ (by omega)]
    have e : ∀ b : Bool, ((BitVec.ofBool b).setWidth 32).getLsbD 0 = b := by decide
    have e1 : (1#32).getLsbD 0 = true := by decide
    rw [e, e, e, e1]
    by_cases h7 : n = 7
    · rw [if_pos h7, if_pos h7]
    · rw [if_neg h7, if_neg h7, if_neg h7]
      by_cases hq : n = x.q.toNat
      · rw [if_pos hq, if_pos hq, hq]
      · rw [if_neg hq, if_neg hq]
        by_cases hp : n = x.p.toNat
        · rw [if_pos hp, if_pos hp, hp]
        · rw [if_neg hp, if_neg hp]

theorem writesVPair_of (G : Grp) (d : Nat) (m : BitVec 32) (r r' : Nat → Dword) (h : r = r') : Grp.writesVPair G (Grp.setVPair G d m r) d m r' :=
  h ▸ Grp.writesVPair_setVPair _ _ _ _

theorem pair_toNat (d a : Word) : (pair d a).toNat = d.toNat * 2 ^ 32 + a.toNat := by
  unfold pair
  rw [BitVec.toNat_append, ← Nat.shiftLeft_add_eq_or_of_lt a.isLt]; simp [Nat.shiftLeft_eq]

theorem feedback_merge (p : Nat) (d : Word) (w : Nat) (hw : w ≤ 32) :
    (BitVec.ofNat 32 (p % 2 ^ w * 2 ^ (32 - w)) ||| (d >>> w)) = BitVec.ofNat 32 (p % 2 ^ w * 2 ^ (32 - w) + d.toNat / 2 ^ w) := by
  have h1 : d.toNat / 2 ^ w < 2 ^ (32 - w) := by
    rw [Nat.div_lt_iff_lt_mul (Nat.two_pow_pos w), ← Nat.pow_add, Nat.sub_add_cancel hw]; exact d.isLt
  have h2 : p % 2 ^ w < 2 ^ w := Nat.mod_lt _ (Nat.two_pow_pos w)
  have h3 : p % 2 ^ w * 2 ^ (32 - w) < 2 ^ 32 := by
    calc _ < 2 ^ w * 2 ^ (32 - w) := Nat.mul_lt_mul_of_pos_right h2 (Nat.two_pow_pos _)
      _ = 2 ^ 32 := by rw [← Nat.pow_add, Nat.add_sub_cancel' hw]
  apply BitVec.eq_of_toNat_eq
  rw [BitVec.toNat_or, BitVec.toNat_ushiftRight, BitVec.toNat_ofNat, BitVec.toNat_ofNat, Nat.mod_eq_of_lt h3, Nat.shiftRight_eq_div_pow,
    ← Nat.shiftLeft_eq, ← Nat.shiftLeft_add_eq_or_of_lt h1, Nat.shiftLeft_eq]
  refine (Nat.mod_eq_of_lt ?_).symm
  calc _ < p % 2 ^ w * 2 ^ (32 - w) + 2 ^ (32 - w) := Nat.add_lt_add_left h1 _
    _ = (p % 2 ^ w + 1) * 2 ^ (32 - w) := by rw [Nat.add_mul, Nat.one_mul]
    _ ≤ 2 ^ w * 2 ^ (32 - w) := Nat.mul_le_mul_right _ h2
    _ = 2 ^ 32 := by rw [← Nat.pow_add, Nat.add_sub_cancel' hw]

theorem feedback_rule {i : Instr} {x : V3} {e : EfFmt} {s : State} {g : Grp} {f : Frag} (hx : exec i s = issueCvtef i x e s) (he : e.bits ≤ 32)
    (h : Issues i (f.mask &&& g.pred x.g.toNat) s g f) :
    Completes i s g (fun g h => g.onlyLines h ∧ ∀ n l, l < 32 → h.word n l =
      let r := errorFeedback e (fpMod x.pf) (g.opA x.pf x.a l) (g.vreg x.b.toNat l)
      let m := (f.mask &&& g.pred x.g.toNat).getLsbD l
      if n = g.vline x.b.toNat ∧ m = true then r.2
      else if n = g.vline x.d.toNat ∧ m = true then
        BitVec.ofNat 32 (r.1 % 2 ^ e.bits * 2 ^ (32 - e.bits) + (g.vreg x.d.toNat l).toNat / 2 ^ e.bits)
      else g.word n l) := by
  refine issueF_complete _ _ hx h ⟨Grp.onlyLines_trans (Grp.writeLine_only _ _ _ _) (Grp.writeLine_only _ _ _ _), ?_⟩
  intro n l hl
  simp only
  show (Grp.writeLine (Grp.setV g x.d.toNat (g.lanes f x.g) _) _ _ _).word n l = _
  rw [Grp.word_writeLine _ _ _ _ _ _ hl, show (Grp.setV g x.d.toNat (g.lanes f x.g) _).vline x.b.toNat = g.vline x.b.toNat from
    Grp.onlyLines_vline (Grp.writeLine_only _ _ _ _) _]
  unfold Grp.setV
  rw [Grp.word_writeLine _ _ _ _ _ _ hl, feedback_merge _ _ _ he]
  rfl

theorem Grp.setPred_only (g : Grp) (n : Nat) (v : BitVec 32) : g.setPred n v = { g with p := (g.setPred n v).p } := by
  unfold Grp.setPred; split <;> rfl

theorem masked_bit (o m v : BitVec 32) (l : Nat) (hl : l < 32) :
    ((o &&& ~~~m) ||| (v &&& m)).getLsbD l = if m.getLsbD l then v.getLsbD l else o.getLsbD l := by
  simp only [BitVec.getLsbD_or, BitVec.getLsbD_and, BitVec.getLsbD_not, hl, decide_true, Bool.true_and]
  cases m.getLsbD l <;> simp

theorem setPred_fold (G : Grp) (F : Nat → BitVec 32) (n : Nat) : ∀ k, k ≤ 7 → 
   (((List.range k).foldl (fun (h : Grp) i => h.setPred i (F i)) G).pred n = if n < k then F n else G.pred n) ∧ 
   ((List.range k).foldl (fun (h : Grp) i => h.setPred i (F i)) G) = { G with p := ((List.range k).foldl (fun (h : Grp) i => h.setPred i (F i)) G).p } := by
  intro k
  induction k with
  | zero => intro _; exact ⟨by simp, rfl⟩
  | succ k ih =>
    intro hk
    obtain ⟨i1, i2⟩ := ih (by omega)
    rw [List.range_succ, List.foldl_append]
    refine ⟨?_, ?_⟩
    · show Grp.pred (Grp.setPred _ k (F k)) n = _
      rw [Grp.pred_setPred, i1]
      by_cases h7 : n = 7
      · subst h7; rw [if_pos rfl, if_neg (by omega)]; rfl
      · rw [if_neg h7]
        by_cases hn : n = k
        · subst hn; simp
        · rw [if_neg hn]; by_cases h2 : n < k
          · rw [if_pos h2, if_pos (by omega)]
          · rw [if_neg h2, if_neg (by omega)]
    · show Grp.setPred _ k (F k) = { G with p := (Grp.setPred _ k (F k)).p }
      generalize (List.range k).foldl (fun (h : Grp) i => h.setPred i (F i)) G = H at i2
      rw [Grp.setPred_only]
      generalize (H.setPred k (F k)).p = P
      rw [i2]

def joined (op : Word → Word → Word) : Option Word → Option Word → Option Word
  | some x, some y => some (op x y)
  | some x, none => some x
  | none, y => y
theorem joined_none (op) (x : Option Word) : joined op x none = x := by cases x <;> rfl
theorem joined_assoc (op : Word → Word → Word) (ha : ∀ a b c, op (op a b) c = op a (op b c)) (x y z : Option Word) :
    joined op (joined op x y) z = joined op x (joined op y z) := by
  cases x <;> cases y <;> cases z <;> simp [joined, ha]
theorem joined_init (op : Word → Word → Word) (ha : ∀ a b c, op (op a b) c = op a (op b c)) (v : Nat → Option Word) (ls : List Nat) (w : Option Word) :
    ls.foldl (fun w j => joined op w (v j)) w = joined op w (ls.foldl (fun w j => joined op w (v j)) none) := by
  induction ls generalizing w with
  | nil => simp [joined_none]
  | cons x r ih =>
    simp only [List.foldl_cons]
    rw [ih, ih (joined op none (v x)), ← joined_assoc op ha]; rfl
theorem pairTree_fold (op : Word → Word → Word) (ha : ∀ a b c, op (op a b) c = op a (op b c)) (v : Nat → Option Word) (k l : Nat) :
    pairTree op v k l = ((List.range (2 ^ k)).map (l + ·)).foldl (fun w j => joined op w (v j)) none := by
  induction k generalizing l with
  | zero => simp [pairTree, joined]
  | succ k ih =>
    have e : pairTree op v (k + 1) l = joined op (pairTree op v k l) (pairTree op v k (l + 2 ^ k)) := by
      simp only [pairTree]
      cases pairTree op v k l <;> cases pairTree op v k (l + 2 ^ k) <;> rfl
    rw [e, ih, ih, show 2 ^ (k + 1) = 2 ^ k + 2 ^ k by omega, List.range_add, List.map_append, List.foldl_append]
    rw [joined_init op ha v _ (List.foldl _ _ _)]
    congr 2
    rw [List.map_map]; congr 1; funext j; simp; omega
theorem joined_some (op : Word → Word → Word) (m : BitVec 32) (a : Nat → Word) (ls : List Nat) (w : Word) :
    ls.foldl (fun w j => joined op w (if m.getLsbD j then some (a j) else none)) (some w) = some ((ls.filter (fun k => m.getLsbD k)).foldl (fun w k => op w (a k)) w) := by
  induction ls generalizing w with
  | nil => rfl
  | cons x r ih =>
    by_cases hx : m.getLsbD x = true
    · simp only [List.foldl_cons, hx, if_true, List.filter_cons]; exact ih _
    · simp only [List.foldl_cons, hx, if_false, List.filter_cons]; exact ih _
theorem joined_filter (op : Word → Word → Word) (m : BitVec 32) (a : Nat → Word) (ls : List Nat) :
    (ls.foldl (fun w j => joined op w (if m.getLsbD j then some (a j) else none)) none).getD 0 = foldLanes op a (ls.filter (fun k => m.getLsbD k)) := by
  induction ls with
  | nil => rfl
  | cons x r ih =>
    by_cases hx : m.getLsbD x = true
    · simp only [List.foldl_cons, hx, if_true, List.filter_cons]
      show (List.foldl _ (some (a x)) r).getD 0 = _
      rw [joined_some]; rfl
    · simp only [List.foldl_cons, hx, List.filter_cons]; exact ih
theorem reduxTree_pairs (md n : Nat) (m : BitVec 32) (a : Nat → Word) (l : Nat) :
    reduxTree md n m a l = pairTree (reduxOp md) (fun k => if m.getLsbD k then some (a k) else none) n l := by
  induction n generalizing l with
  | zero => rfl
  | succ n ih =>
    simp only [reduxTree, pairTree, ih]
    cases pairTree (reduxOp md) (fun k => if m.getLsbD k then some (a k) else none) n l <;>
      cases pairTree (reduxOp md) (fun k => if m.getLsbD k then some (a k) else none) n (l + 2 ^ n) <;> rfl
theorem segment_small : ∀ n, n < 6 → ∀ l, l < 32 → (List.range 32).filter (fun k => decide (k / 2 ^ n = l / 2 ^ n)) = (List.range (2 ^ n)).map ((l - l % 2 ^ n) + ·) := by
  decide
theorem segment_list (m : BitVec 32) (n l : Nat) (hl : l < 32) :
    ((List.range (2 ^ n)).map ((l - l % 2 ^ n) + ·)).filter (fun k => m.getLsbD k) = (List.range 32).filter (inSegment m (2 ^ n) l) := by
  have e : (List.range 32).filter (inSegment m (2 ^ n) l) = ((List.range 32).filter (fun k => decide (k / 2 ^ n = l / 2 ^ n))).filter (fun k => m.getLsbD k) := by
    rw [List.filter_filter]; rfl
  by_cases hn : n < 6
  · rw [e, segment_small n hn l hl]
  · have hp : 64 ≤ 2 ^ n := by
      calc 64 = 2 ^ 6 := rfl
        _ ≤ 2 ^ n := Nat.pow_le_pow_right (by omega) (by omega)
    rw [e, Nat.mod_eq_of_lt (by omega : l < 2 ^ n), Nat.sub_self]
    rw [show 2 ^ n = 32 + (2 ^ n - 32) by omega, List.range_add, List.map_append, List.filter_append]
    have hnil : (List.map (fun x => 0 + x) (List.map (fun x => 32 + x) (List.range (2 ^ n - 32)))).filter (fun k => m.getLsbD k) = [] := by
      rw [List.filter_eq_nil_iff]
      intro k hk
      simp at hk
      obtain ⟨j, _, rfl⟩ := hk
      simp [BitVec.getLsbD_of_ge]
    rw [hnil]
    · simp only [List.append_nil]
      have : (List.range 32).filter (fun k => decide (k / (32 + (2 ^ n - 32)) = l / (32 + (2 ^ n - 32)))) = List.range 32 := by
        rw [List.filter_eq_self]
        intro k hk; simp at hk
        rw [Nat.div_eq_of_lt (by omega), Nat.div_eq_of_lt (by omega)]; simp
      rw [this]; simp
theorem smin32_assoc (a b c : Word) : smin32 (smin32 a b) c = smin32 a (smin32 b c) := by
  unfold smin32; repeat' split
  all_goals first | rfl | omega
theorem smax32_assoc (a b c : Word) : smax32 (smax32 a b) c = smax32 a (smax32 b c) := by
  unfold smax32; repeat' split
  all_goals first | rfl | omega

theorem reduxOp_assoc (md : Nat) (h : md ≠ 7) (h7 : md < 8) (a b c : Word) : reduxOp md (reduxOp md a b) c = reduxOp md a (reduxOp md b c) := by
  match md, h7, h with
  | 0, _, _ => exact BitVec.add_assoc a b c
  | 1, _, _ => exact smin32_assoc a b c
  | 2, _, _ => exact smax32_assoc a b c
  | 3, _, _ => simp only [reduxOp, BitVec.le_def]; repeat' split
               all_goals first | rfl | omega
  | 4, _, _ => simp only [reduxOp, BitVec.le_def]; repeat' split
               all_goals first | rfl | omega
  | 5, _, _ => exact BitVec.and_assoc a b c
  | 6, _, _ => exact BitVec.or_assoc a b c
  | 7, _, h => exact absurd rfl h
theorem reduxOp_rule (md : Nat) (h : md ≠ 7) (h7 : md < 8) : reduxOp md = reduxRule md := by
  funext a b
  match md, h7, h with
  | 0, _, _ => exact word_add a b
  | 1, _, _ => exact word_smin a b
  | 2, _, _ => exact word_smax a b
  | 3, _, _ => exact word_umin a b
  | 4, _, _ => exact word_umax a b
  | 5, _, _ => rfl
  | 6, _, _ => rfl
  | 7, _, h => exact absurd rfl h
theorem reduxOp_fadd : reduxOp 7 = faddRne := by
  funext a b
  have e : ∀ n, Ff.f32.opnd FpMod.none n = Ff.f32.value n := by intro n; simp only [Ff.opnd, FpMod.none, Ff.flushIn]; cases Ff.f32.value n <;> rfl
  show f32Add FpMod.none a b = _
  unfold f32Add faddRne
  rw [e, e]
  rfl

end Sys2Proof.Machine
end

