-- ==== Sys2Proof/Tests/Bench.lean ====
section
/-! SUPPORT. The states that the tests stand on: one group with one fragment, inside a clause or at its last word, on core 0 of die 0. -/
namespace Sys2Proof.Tests
set_option Elab.async false
open Sys2Proof.Machine

/-- The bench's group: every line and scalar, supervisor mode, all 32 lanes. -/
def grp0 : Grp := { loadGrp with launch := 0 }

/-- Its fragment. -/
def frag0 : Frag :=
  { fragAt (BitVec.ofNat 64 loadAt) (BitVec.allOnes 32) with pos := ⟨BitVec.ofNat 64 loadAt, 1, 0#4, 1#4, false⟩ }

/-- The machine with group 0 as `g` and the NOP of log 2 in memory. -/
def bench (g : Grp) : State := { State.reset.loadTerkor [0] with agenda := [], groups := [(0, g)] }

/-- The machine as the fragment in slot 0 issues `i`; a control instruction stands last in its clause. -/
def sit (i : Instr) (g : Grp) : State := { bench g with
  iss := ⟨0, 0, BitVec.ofNat 64 (loadAt + 4), encode i, BitVec.ofNat 64 (loadAt + 4), instrEndsClause i,
    if instrEndsClause i then posAt (BitVec.ofNat 64 (loadAt + 8)) else ⟨BitVec.ofNat 64 loadAt, 2, 0#4, 1#4, false⟩, false, 0, 0⟩ }

/-- What `Issues` asks beside the group and the fragment, as a test. -/
def ready (i : Instr) (m : BitVec 32) (s : State) (g : Grp) (f : Frag) : Bool :=
  (issueIllegal i g f).isNone && (!instrEndsClause i || s.iss.last) && !privBlocked i g
    && (!(g.inBody && !g.inHandler) || !capBreaks i g) && !s.stalls i g f && ((decide (m = 0) && !readsAlways i) || (s.poisonCause i g).isNone)

theorem ready_issues (i : Instr) (m : BitVec 32) (s : State) (g : Grp) (f : Frag) (hg : Tab.find s.groups s.iss.g = some g)
    (hf : g.frag s.iss.slot = some f) (h : ready i m s g f = true) : Issues i m s g f := by
  simp only [ready, Bool.and_eq_true, Bool.or_eq_true, Bool.not_eq_true', decide_eq_true_eq, Option.isNone_iff_eq_none] at h
  obtain ⟨⟨⟨⟨⟨h1, h2⟩, h3⟩, h4⟩, h5⟩, h6⟩ := h
  refine ⟨hg, hf, h1, fun e => ?_, h3, fun b c => ?_, h5, h6⟩
  · rcases h2 with h2 | h2
    · rw [e] at h2; cases h2
    · exact h2
  · rcases h4 with h4 | h4
    · rw [b, c] at h4; cases h4
    · exact h4

/-- A bench where the fragment's instruction `i` is ready, for any active set. -/
theorem sit_issues (i : Instr) (m : BitVec 32) (g : Grp) (f : Frag) (hf : g.frag 0 = some f) (h : ready i m (sit i g) g f = true) :
    Issues i m (sit i g) g f :=
  ready_issues i m (sit i g) g f rfl hf h

/-- One that is ready with a lane active is ready whatever its active set. -/
theorem ready_any (i : Instr) (s : State) (g : Grp) (f : Frag) (h : ready i 1#32 s g f = true) (m : BitVec 32) : ready i m s g f = true := by
  simp only [ready, Bool.and_eq_true, Bool.or_eq_true] at h ⊢
  refine ⟨h.1, ?_⟩
  rcases h.2 with h | h
  · exact absurd (of_decide_eq_true h.1) (by decide)
  · exact Or.inr h

theorem any_issues (i : Instr) (s : State) (g : Grp) (f : Frag) (hg : Tab.find s.groups s.iss.g = some g) (hf : g.frag s.iss.slot = some f)
    (h : ready i 1#32 s g f = true) (m : BitVec 32) : Issues i m s g f :=
  ready_issues i m s g f hg hf (ready_any i s g f h m)

theorem sit_any (i : Instr) (g : Grp) (f : Frag) (hf : g.frag 0 = some f) (h : ready i 1#32 (sit i g) g f = true) (m : BitVec 32) :
    Issues i m (sit i g) g f :=
  ready_issues i m (sit i g) g f rfl hf (ready_any i (sit i g) g f h m)

/-- Of every instruction in a list: it is ready at the bench, whatever its active set. -/
theorem all_issue (is : List Instr) (h : is.all (fun i => ready i 1#32 (sit i grp0) grp0 frag0) = true) (i : Instr) (hi : i ∈ is) (m : BitVec 32) :
    Issues i m (sit i grp0) grp0 frag0 :=
  sit_any i grp0 frag0 rfl (List.all_eq_true.mp h i hi) m

/-- Context 0's tables: one leaf that maps the first GiB to itself, readable, writable, executable, atomic, dirty (17 R356). -/
def tables : Sparse 8 := [(0x30000, 0x01), (0x30001, 0x10), (0x30002, 0x03), (0x31000, 0x9F), (0x31001, 0x03)]

/-- The machine after reset with those tables. -/
def resetT : State := { State.reset with mem := tables, ctxs := [(0, { ctxRoot with root := 0x30000 })] }

def v3 : V3 := ⟨[], 7, 4, 6, 8⟩
def v2 : V2 := ⟨[], 7, 4, 6⟩
def s3 : S3 := ⟨[], 7, 4, 6, 8⟩
def cm : Cmp := ⟨[], 0, 1, 2, 4, 5⟩
def z0 : Z := ⟨[]⟩
def br0 : Br := ⟨[], 7, 3⟩
def xn0 : Xn := ⟨[], 7, 2⟩

end Sys2Proof.Tests
end

