-- ==== Sys2Proof/Tests/Decoding.lean ====
section
/-! SUPPORT. A word of every instruction, put together from the opcode table's match and the places of its fields, and what it decodes to. -/
namespace Sys2Proof.Tests
set_option Elab.async false

/-- Does each word decode to the instruction beside it, whose word it is? -/
def wordsAre (ps : List (Word × Instr)) : Bool :=
  ps.all (fun p => (match decode [p.1] with | .ok (i, []) => decide (i = p.2) | _ => false) && decide (encode p.2 = [p.1]))

set_option maxRecDepth 100000 in
/-- Moves, lanes and predicates (02 R52 to R55). -/
theorem test_words_moves : wordsAre (
    [(0x00000000#32, .nop ⟨[]⟩), (0x01B4C02C#32, .mov ⟨[], 5, 83, 44⟩), (0x02B4D666#32, .sel ⟨[], 5, 83, 44, 102⟩),
     (0x03B4D666#32, .getl ⟨[], 5, 83, 44, 102⟩), (0x04B4D666#32, .setl ⟨[], 5, 83, 44, 102⟩), (0x05B4D666#32, .shfl ⟨[], 5, 83, 44, 102⟩),
     (0x06B4D600#32, .vote ⟨[], 5, 83, 44⟩), (0x07B4D600#32, .redux ⟨[], 5, 83, 44⟩), (0x08B4F119#32, .rdsr ⟨[], 5, 83, 1, 1, 281⟩),
     (0x09E970AC#32, .wrsr ⟨[], 37, 1, 172⟩), (0x0AAE63E4#32, .plop ⟨[], 5, 3, 4, 6, 1, 242⟩), (0x0BB4C000#32, .p2v ⟨[], 5, 83⟩),
     (0x0CA029AC#32, .v2p ⟨[], 5, 83, 44⟩), (0x0DB4C000#32, .rdtime ⟨[], 5, 83⟩), (0x0EE00000#32, .cape ⟨[]⟩),
     (0x0FE00000#32, .cres ⟨[]⟩)]) = true := by decide +kernel

set_option maxRecDepth 100000 in
/-- Integer instructions (02 R52). -/
theorem test_words_ints : wordsAre (
    [(0x10B4D666#32, .iadd ⟨[], 5, 83, 44, 102⟩), (0x11B4D666#32, .isub ⟨[], 5, 83, 44, 102⟩), (0x12B4D666#32, .imul ⟨[], 5, 83, 44, 102⟩),
     (0x13B4D666#32, .imulh ⟨[], 5, 83, 44, 102⟩), (0x14B4D666#32, .imulhu ⟨[], 5, 83, 44, 102⟩), (0x15B4D666#32, .imad ⟨[], 5, 83, 44, 102⟩),
     (0x16B4D666#32, .imin ⟨[], 5, 83, 44, 102⟩), (0x17B4D666#32, .imax ⟨[], 5, 83, 44, 102⟩), (0x18B4D666#32, .umin ⟨[], 5, 83, 44, 102⟩),
     (0x19B4D666#32, .umax ⟨[], 5, 83, 44, 102⟩), (0x1AB4D600#32, .iabs ⟨[], 5, 83, 44⟩), (0x1BB4D600#32, .ineg ⟨[], 5, 83, 44⟩),
     (0x1CB4D666#32, .iand ⟨[], 5, 83, 44, 102⟩), (0x1DB4D666#32, .ior ⟨[], 5, 83, 44, 102⟩), (0x1EB4D666#32, .ixor ⟨[], 5, 83, 44, 102⟩),
     (0x1FB4D600#32, .inot ⟨[], 5, 83, 44⟩), (0x20B4D666#32, .ishl ⟨[], 5, 83, 44, 102⟩), (0x21B4D666#32, .ishr ⟨[], 5, 83, 44, 102⟩)] ++
    [(0x22B4D666#32, .isra ⟨[], 5, 83, 44, 102⟩), (0x23B4D666#32, .irot ⟨[], 5, 83, 44, 102⟩), (0x24B4D600#32, .iclz ⟨[], 5, 83, 44⟩),
     (0x25B4D600#32, .ipopc ⟨[], 5, 83, 44⟩), (0x26B4D600#32, .ibrev ⟨[], 5, 83, 44⟩), (0x27B4D666#32, .ibfx ⟨[], 5, 83, 44, 102⟩),
     (0x28B4D666#32, .ubfx ⟨[], 5, 83, 44, 102⟩), (0x29B4D666#32, .ibfi ⟨[], 5, 83, 44, 102⟩), (0x2AB4D666#32, .iaddw ⟨[], 5, 83, 44, 102⟩),
     (0x2BB4D666#32, .imadw ⟨[], 5, 83, 44, 102⟩), (0x2CB4D666#32, .idot4 ⟨[], 5, 83, 44, 102⟩), (0x2DB4D666#32, .isad ⟨[], 5, 83, 44, 102⟩),
     (0x2EB4D666#32, .iaddsat ⟨[], 5, 83, 44, 102⟩), (0x2FB4D666#32, .isubsat ⟨[], 5, 83, 44, 102⟩)]) = true := by decide +kernel

set_option maxRecDepth 100000 in
/-- Floating point, first half (02 R52). -/
theorem test_words_floats : wordsAre (
    [(0x30B4D666#32, .fadd ⟨[], 5, 83, 44, 102⟩), (0x31B4D666#32, .fsub ⟨[], 5, 83, 44, 102⟩), (0x32B4D666#32, .fmul ⟨[], 5, 83, 44, 102⟩),
     (0x33B4D666#32, .ffma ⟨[], 5, 83, 44, 102⟩), (0x34B4D666#32, .fmin ⟨[], 5, 83, 44, 102⟩), (0x35B4D666#32, .fmax ⟨[], 5, 83, 44, 102⟩),
     (0x36B4D600#32, .fabs ⟨[], 5, 83, 44⟩), (0x37B4D600#32, .fneg ⟨[], 5, 83, 44⟩), (0x38B4D600#32, .frcp ⟨[], 5, 83, 44⟩),
     (0x39B4D600#32, .frsq ⟨[], 5, 83, 44⟩), (0x3AB4D600#32, .fsqrt ⟨[], 5, 83, 44⟩), (0x3BB4D600#32, .fex2 ⟨[], 5, 83, 44⟩),
     (0x3CB4D600#32, .flg2 ⟨[], 5, 83, 44⟩), (0x3DB4D600#32, .fsin ⟨[], 5, 83, 44⟩), (0x3EB4D600#32, .fcos ⟨[], 5, 83, 44⟩),
     (0x3FB4D600#32, .ftanh ⟨[], 5, 83, 44⟩), (0x40B4D600#32, .ffloor ⟨[], 5, 83, 44⟩), (0x41B4D600#32, .fceil ⟨[], 5, 83, 44⟩)] ++
    [(0x42B4D600#32, .ftrunc ⟨[], 5, 83, 44⟩), (0x43B4D600#32, .frint ⟨[], 5, 83, 44⟩), (0x44B4D600#32, .fclass ⟨[], 5, 83, 44⟩),
     (0x45B4D666#32, .fscale ⟨[], 5, 83, 44, 102⟩)]) = true := by decide +kernel

set_option maxRecDepth 100000 in
/-- Packed, conversion and pack (02 R52, R80). -/
theorem test_words_packed : wordsAre (
    [(0x46B4D666#32, .hadd2 ⟨[], 5, 83, 44, 102⟩), (0x47B4D666#32, .hmul2 ⟨[], 5, 83, 44, 102⟩), (0x48B4D666#32, .hfma2 ⟨[], 5, 83, 44, 102⟩),
     (0x49B4D666#32, .hmin2 ⟨[], 5, 83, 44, 102⟩), (0x4AB4D666#32, .hmax2 ⟨[], 5, 83, 44, 102⟩), (0x4BB4D666#32, .badd2 ⟨[], 5, 83, 44, 102⟩),
     (0x4CB4D666#32, .bmul2 ⟨[], 5, 83, 44, 102⟩), (0x4DB4D666#32, .bfma2 ⟨[], 5, 83, 44, 102⟩), (0x4EB4D666#32, .bmin2 ⟨[], 5, 83, 44, 102⟩),
     (0x4FB4D666#32, .bmax2 ⟨[], 5, 83, 44, 102⟩), (0x50B4D669#32, .cvt ⟨[], 5, 83, 44, 6, 9⟩), (0x51B4D666#32, .cvtefF8a ⟨[], 5, 83, 44, 102⟩),
     (0x52B4D666#32, .cvtefF8b ⟨[], 5, 83, 44, 102⟩), (0x53B4D666#32, .cvtefF4 ⟨[], 5, 83, 44, 102⟩), (0x54B4D666#32, .cvtefH16 ⟨[], 5, 83, 44, 102⟩),
     (0x55B4D666#32, .cvtefB16 ⟨[], 5, 83, 44, 102⟩), (0x56B4D666#32, .cvtefI8 ⟨[], 5, 83, 44, 102⟩), (0x57B4D666#32, .pack ⟨[], 5, 83, 44, 102⟩)]) = true := by decide +kernel

set_option maxRecDepth 100000 in
/-- Comparisons and the sampler (02 R53). -/
theorem test_words_compares : wordsAre (
    [(0x58AE3319#32, .icmpEq ⟨[], 5, 3, 4, 102, 25⟩), (0x59AE3319#32, .icmpNe ⟨[], 5, 3, 4, 102, 25⟩), (0x5AAE3319#32, .icmpLt ⟨[], 5, 3, 4, 102, 25⟩),
     (0x5BAE3319#32, .icmpLe ⟨[], 5, 3, 4, 102, 25⟩), (0x5CAE3319#32, .icmpGt ⟨[], 5, 3, 4, 102, 25⟩), (0x5DAE3319#32, .icmpGe ⟨[], 5, 3, 4, 102, 25⟩),
     (0x5EAE3319#32, .icmpLtu ⟨[], 5, 3, 4, 102, 25⟩), (0x5FAE3319#32, .icmpLeu ⟨[], 5, 3, 4, 102, 25⟩), (0x60AE3319#32, .icmpGtu ⟨[], 5, 3, 4, 102, 25⟩),
     (0x61AE3319#32, .icmpGeu ⟨[], 5, 3, 4, 102, 25⟩), (0x62AE3319#32, .fcmpEq ⟨[], 5, 3, 4, 102, 25⟩), (0x63AE3319#32, .fcmpNe ⟨[], 5, 3, 4, 102, 25⟩),
     (0x64AE3319#32, .fcmpLt ⟨[], 5, 3, 4, 102, 25⟩), (0x65AE3319#32, .fcmpLe ⟨[], 5, 3, 4, 102, 25⟩), (0x66AE3319#32, .fcmpGt ⟨[], 5, 3, 4, 102, 25⟩),
     (0x67AE3319#32, .fcmpGe ⟨[], 5, 3, 4, 102, 25⟩), (0x68AE3319#32, .fcmpUn ⟨[], 5, 3, 4, 102, 25⟩), (0x69AE3319#32, .fcmpOr ⟨[], 5, 3, 4, 102, 25⟩)] ++
    [(0x6AAE3319#32, .scmpEq ⟨[], 5, 3, 4, 102, 25⟩), (0x6BAE3319#32, .scmpNe ⟨[], 5, 3, 4, 102, 25⟩), (0x6CAE3319#32, .scmpLt ⟨[], 5, 3, 4, 102, 25⟩),
     (0x6DAE3319#32, .scmpLtu ⟨[], 5, 3, 4, 102, 25⟩), (0x6EB4D666#32, .tex ⟨[], 5, 83, 44, 102⟩), (0x6FB4D666#32, .tld ⟨[], 5, 83, 44, 102⟩)]) = true := by decide +kernel

set_option maxRecDepth 100000 in
/-- Scalars (02 R54). -/
theorem test_words_scalars : wordsAre (
    [(0x70B4D666#32, .sadd ⟨[], 5, 83, 44, 102⟩), (0x71B4D666#32, .ssub ⟨[], 5, 83, 44, 102⟩), (0x72B4D666#32, .smul ⟨[], 5, 83, 44, 102⟩),
     (0x73B4D666#32, .smulh ⟨[], 5, 83, 44, 102⟩), (0x74B4D666#32, .sand ⟨[], 5, 83, 44, 102⟩), (0x75B4D666#32, .sor ⟨[], 5, 83, 44, 102⟩),
     (0x76B4D666#32, .sxor ⟨[], 5, 83, 44, 102⟩), (0x77B4D666#32, .sshl ⟨[], 5, 83, 44, 102⟩), (0x78B4D666#32, .sshr ⟨[], 5, 83, 44, 102⟩),
     (0x79B4D666#32, .ssra ⟨[], 5, 83, 44, 102⟩), (0x7AB4D666#32, .smin ⟨[], 5, 83, 44, 102⟩), (0x7BB4D666#32, .smax ⟨[], 5, 83, 44, 102⟩),
     (0x7CA2A6AC#32, .smovw ⟨[], 5, 339, 172⟩), (0x7DB4D666#32, .sfadd ⟨[], 5, 83, 44, 102⟩), (0x7EB4D666#32, .sfmul ⟨[], 5, 83, 44, 102⟩),
     (0x7FB4D666#32, .sffma ⟨[], 5, 83, 44, 102⟩)]) = true := by decide +kernel

set_option maxRecDepth 100000 in
/-- Control (02 R54). -/
theorem test_words_control : wordsAre (
    [(0x80A00153#32, .bra ⟨[], 5, 339⟩), (0x81A00153#32, .br ⟨[], 5, 339⟩), (0x82A00153#32, .rcv ⟨[], 5, 339⟩),
     (0x83A00153#32, .call ⟨[], 5, 339⟩), (0x84000025#32, .ret ⟨[], 37⟩), (0x85B4C000#32, .jmpi ⟨[], 5, 83⟩),
     (0x86A00000#32, .exit ⟨[], 5⟩), (0x87000000#32, .yield ⟨[]⟩), (0x88000000#32, .bkoff ⟨[]⟩),
     (0x88000001#32, .bkoffClr ⟨[]⟩), (0x8900B5A5#32, .trap ⟨[], 46501⟩), (0x8A250153#32, .svcD ⟨[], 37, 339⟩),
     (0x8AA50153#32, .svcC ⟨[], 37, 339⟩), (0x8B00B5A5#32, .bkpt ⟨[], 46501⟩), (0x8C000000#32, .tret ⟨[]⟩),
     (0x8DB4C000#32, .dcmd ⟨[], 5, 83⟩), (0x8EB4C200#32, .setview ⟨[], 5, 83, 4⟩), (0x8FA01301#32, .tlinc ⟨[], 5, 19, 1⟩)]) = true := by decide +kernel

set_option maxRecDepth 100000 in
/-- Memory (02 R52, R55). -/
theorem test_words_memory : wordsAre (
    [(0x90B4D666#32, .ldW ⟨[], 5, 83, 44, 102⟩), (0x91B4D666#32, .ldD ⟨[], 5, 83, 44, 102⟩), (0x92B4D666#32, .ldQ ⟨[], 5, 83, 44, 102⟩),
     (0x93B4D666#32, .ldN ⟨[], 5, 83, 44, 102⟩), (0x94B4D666#32, .stW ⟨[], 5, 83, 44, 102⟩), (0x95B4D666#32, .stD ⟨[], 5, 83, 44, 102⟩),
     (0x96B4D666#32, .stQ ⟨[], 5, 83, 44, 102⟩), (0x97B4D666#32, .stN ⟨[], 5, 83, 44, 102⟩), (0x98B4D666#32, .ldl ⟨[], 5, 83, 44, 102⟩),
     (0x99B4D666#32, .stl ⟨[], 5, 83, 44, 102⟩), (0x9AB4D666#32, .ldw ⟨[], 5, 83, 44, 102⟩), (0x9BB4C000#32, .ldk ⟨[], 5, 83⟩),
     (0x9CB4C000#32, .stk ⟨[], 5, 83⟩), (0x9DB4D666#32, .sld ⟨[], 5, 83, 44, 102⟩), (0x9EB4D666#32, .sst ⟨[], 5, 83, 44, 102⟩),
     (0x9FA029AC#32, .pref ⟨[], 5, 83, 44⟩), (0xA0B4D666#32, .atom ⟨[], 5, 83, 44, 102⟩), (0xA1B4D666#32, .atomr ⟨[], 5, 83, 44, 102⟩)] ++
    [(0xA2B4D666#32, .atoml ⟨[], 5, 83, 44, 102⟩), (0xA3B4D666#32, .cas ⟨[], 5, 83, 44, 102⟩), (0xA4B4D666#32, .casl ⟨[], 5, 83, 44, 102⟩),
     (0xA5B4D666#32, .satom ⟨[], 5, 83, 44, 102⟩), (0xA6A029AC#32, .cwb ⟨[], 5, 83, 44⟩), (0xA7A029AC#32, .cinv ⟨[], 5, 83, 44⟩),
     (0xA7A069AC#32, .cinvP ⟨[], 5, 83, 44⟩)]) = true := by decide +kernel

set_option maxRecDepth 100000 in
/-- Order and synchronisation (02 R55). -/
theorem test_words_sync : wordsAre (
    [(0xA800000B#32, .fence ⟨[], 1, 3⟩), (0xA9000297#32, .waitp ⟨[], 165, 3⟩), (0xAAB4F319#32, .arrv ⟨[], 5, 83, 1, 38, 25⟩),
     (0xABB4C080#32, .waitb ⟨[], 5, 83, 1⟩), (0xACB4C026#32, .waittl ⟨[], 5, 83, 4, 6⟩), (0xADB4D600#32, .waitc ⟨[], 5, 83, 44⟩),
     (0xAE000000#32, .freezeG ⟨[]⟩), (0xAE000001#32, .freezeT ⟨[]⟩), (0xAFB4D666#32, .regx ⟨[], 5, 83, 44, 102⟩)]) = true := by decide +kernel

set_option maxRecDepth 100000 in
/-- Matrix, copies, launch and capsules (02 R55). -/
theorem test_words_units : wordsAre (
    [(0xB0AF3319#32, .mma ⟨[], 5, 3, 12, 102, 25⟩), (0xB1AF3319#32, .mmas ⟨[], 5, 3, 12, 102, 25⟩), (0xB2AF3319#32, .mloop ⟨[], 5, 3, 12, 102, 25⟩),
     (0xB3B4C000#32, .mzero ⟨[], 5, 83⟩), (0xB4B4D600#32, .mldt ⟨[], 5, 83, 44⟩), (0xB5B4D600#32, .mstt ⟨[], 5, 83, 44⟩),
     (0xB6B4D666#32, .scalc ⟨[], 5, 83, 44, 102⟩), (0xB7B4D600#32, .mtrn ⟨[], 5, 83, 44⟩), (0xB8A07319#32, .perc ⟨[], 5, 1, 12, 6, 25⟩),
     (0xB9A0D606#32, .pset ⟨[], 5, 3, 44, 6⟩), (0xBAB4F335#32, .cpy ⟨[], 5, 83, 1, 2, 1, 2, 53⟩), (0xBBB4F335#32, .cpyt ⟨[], 5, 83, 1, 2, 1, 2, 53⟩),
     (0xBCB4F335#32, .cpyx ⟨[], 5, 83, 1, 2, 1, 2, 53⟩), (0xBDB4C000#32, .launch ⟨[], 5, 83⟩), (0xBEB4C000#32, .capb ⟨[], 5, 83⟩),
     (0xBFE05301#32, .cstep ⟨[], 5, 3, 1⟩)]) = true := by decide +kernel

/-- The service cores' words (18 R383). -/
theorem test_words_service : wordsAre [(0x0002898B#32, .gspawn ⟨5, 19⟩), (0x0059960B#32, .gjoin ⟨5, 19, 12⟩), (0x0059A60B#32, .vlt ⟨5, 19, 12⟩), (0x0059B60B#32, .vstT ⟨5, 19, 12⟩)] = true := by decide +kernel

end Sys2Proof.Tests
end

