-- ==== Sys2Proof/Tests/Riscv.lean ====
section
/-! SUPPORT. Base words of a hart. The expected words are those of the RISC-V architecture's own assembly tables. -/
namespace Sys2Proof.Tests
open Sys2Proof.Machine

set_option Elab.async false

/-- Compressed words as base words: li a0, 1; ret; addi sp, sp, -16; sd ra, 8(sp); ld ra, 8(sp); mv a0, a1; lui a0, 1; addi a0, sp, 8; j -4; beqz a0, 8. -/
theorem test_rv_compressed :
    [0x4505, 0x8082, 0x1141, 0xE406, 0x60A2, 0x852E, 0x6505, 0x0028, 0xBFF5, 0xC501].map rvc =
    [0x00100513, 0x00008067, 0xFF010113, 0x00113423, 0x00813083, 0x00B00533, 0x00001537, 0x00810513, 0xFFDFF06F, 0x00050463].map some := by decide

/-- A hart with x5 = 0x20000 and x6 = 5, at a word that stands at 0x10000. -/
def rvBench (w : Nat) : State :=
  ({ State.reset with mem := Sparse.setList (Sparse.setList [] 0x10000 (leBytes 4 w)) 0x20000 (leBytes 8 7) }).setHart 0 0
    { hartInit with x := [(5, 0x20000#64), (6, 5#64)], pc := 0x10000 }

/-- The state after a hart's turn at a base word; the state itself where there is no such turn. -/
def rvRan (w : Nat) : State := ((rvBench w).hartBase 0 0).getD State.reset

theorem witness_StepRunsInstruction_base : (rvBench 0xFFF00393).hartWord 0 0 = none ∧ (rvBench 0xFFF00393).hartCustom 0 0 = false
    ∧ ((rvBench 0xFFF00393).hartBase 0 0).isSome = true := by decide
theorem test_rv_addi : ((rvRan 0xFFF00393).hartAt 0 0).get 7 = 0xFFFFFFFFFFFFFFFF#64 := by decide
theorem test_rv_amoadd : ((rvRan 0x0062B3AF).hartAt 0 0).get 7 = 7#64 ∧ (rvRan 0x0062B3AF).homeDword 0x20000 = 12 := by decide
theorem test_rv_lr : ((rvRan 0x1002B3AF).hartAt 0 0).get 7 = 7#64 ∧ ((rvRan 0x1002B3AF).hartAt 0 0).res = some (0x20000#64, 0, 7) := by decide
theorem test_rv_sc_unreserved : ((rvRan 0x1862B3AF).hartAt 0 0).get 7 = 1#64 ∧ (rvRan 0x1862B3AF).homeDword 0x20000 = 7 := by decide
theorem test_rv_jal : ((rvRan 0xFFDFF3EF).hartAt 0 0).pc = 0xFFFC#64 ∧ ((rvRan 0xFFDFF3EF).hartAt 0 0).get 7 = 0x10004#64 := by decide
theorem test_rv_ecall : ((rvRan 0x00000073).hartAt 0 0).mcause = 11#64 ∧ ((rvRan 0x00000073).hartAt 0 0).mepc = 0x10000#64 := by decide
theorem test_rv_csrrw : ((rvRan 0x34031073).hartAt 0 0).csrAt 0x340 = 5#64 := by decide

end Sys2Proof.Tests
end

