-- ==== Sys2Proof/WellFormed.lean ====
section
/-! DEFINITION. Which instructions are well formed: words that no rule makes ILLEGAL whatever the group holds (02 R60), and steps
whose numbers name something the device has. -/
namespace Sys2Proof

open Machine in
/-- Well-formedness. -/
def Instr.wellFormed (i : Instr) : Bool :=
  match i with
  | .backoffExpiry _ slot => decide (slot < 2)
  | .fragmentStarved _ slot => decide (slot < 2)
  | .throttleOverride _ slot => decide (slot < 2)
  | .ldwLaneLanding _ _ lane => decide (lane < 32)
  | .copyAccept _ q => decide (q < 4)
  | .hostMemoryRead _ _ n => decide (0 < n)
  | .queueFetch die slot => decide (die < 4) && decide (slot < 24)
  | .sctlWrite die slot _ => decide (die < 4) && decide (slot < 24)
  | .ingressDropRead w => decide (w < 16)
  | .ingressWrite w _ _ => decide (w < 16)
  | .cxlPortDown p => decide (p < 4)
  | _ => (instrIllegal i).isNone

end Sys2Proof
end

