-- ==== Sys2Proof/Tests/Slice0.lean ====
section
/-! SUPPORT. Words that the spec writes out beside their instructions, ill-formed instructions, and results that its tables and examples give. -/
namespace Sys2Proof.Tests
set_option Elab.async false
open Sys2Proof.Machine

/-! ### Words written out in the spec -/

set_option maxRecDepth 100000 in
/-- Words that the chapters write beside the assembly: RDSR (01), CVTEF, PLOP, SMOVW, RDTIME (04), BRA, JMPI, RET (05), SETVIEW, REGX (06), WAITP, FENCE (07), MMA, MMAS,
MZERO, MLDT, MSTT, MTRN (08), PERC, PSET (09), FREEZE (10), WAITTL, TLINC, CPY (12), CAPB, CSTEP, CAPE, CRES (14), LAUNCH, WAITC, SVC (18). -/
theorem test_words_of_spec : wordsAre (
    [(0x08E1200C#32, .rdsr ⟨[], 7, 4, 1, 0, 12⟩), (0x51E20209#32, .cvtefF8a ⟨[], 7, 8, 4, 9⟩), (0x0AECAF00#32, .plop ⟨[], 7, 3, 1, 2, 7, 0x80⟩),
     (0x7CE25805#32, .smovw ⟨[], 7, 300, 5⟩), (0x0DE20000#32, .rdtime ⟨[], 7, 8⟩), (0x80E00003#32, .bra ⟨[], 7, 3⟩), (0x80FFFFFB#32, .bra ⟨[], 7, -5⟩),
     (0x85E28000#32, .jmpi ⟨[], 7, 10⟩), (0x8400007E#32, .ret ⟨[], 126⟩), (0x8EE30080#32, .setview ⟨[], 7, 12, 1⟩), (0xAFE50108#32, .regx ⟨[], 7, 20, 2, 8⟩),
     (0xA9000001#32, .waitp ⟨[], 0, 1⟩), (0xA900000C#32, .waitp ⟨[], 3, 0⟩), (0xA8000014#32, .fence ⟨[], 2, 4⟩), (0xA800001A#32, .fence ⟨[], 3, 2⟩)] ++
    [(0xB0E88001#32, .mma ⟨[], 7, 2, 2, 0, 1⟩), (0xB1E0A201#32, .mmas ⟨[], 7, 0, 2, 0x44, 1⟩), (0xB3E2C000#32, .mzero ⟨[], 7, 0x0B⟩),
     (0xB4E0A300#32, .mldt ⟨[], 7, 2, 0x46⟩), (0xB5E26300#32, .mstt ⟨[], 7, 9, 0x46⟩), (0xB7E24480#32, .mtrn ⟨[], 7, 9, 9⟩),
     (0xB8E04106#32, .perc ⟨[], 7, 1, 0, 2, 6⟩), (0xB8E01402#32, .perc ⟨[], 7, 0, 5, 0, 2⟩), (0xB9E00A01#32, .pset ⟨[], 7, 0, 20, 1⟩),
     (0xB9E39400#32, .pset ⟨[], 7, 14, 40, 0⟩), (0xAE000000#32, .freezeG ⟨[]⟩), (0xAE000001#32, .freezeT ⟨[]⟩), (0xACE78000#32, .waittl ⟨[], 7, 30, 0, 0⟩),
     (0xACE08014#32, .waittl ⟨[], 7, 2, 2, 4⟩), (0x8FE00001#32, .tlinc ⟨[], 7, 0, 1⟩), (0x8FE00300#32, .tlinc ⟨[], 7, 3, 0⟩)] ++
    [(0xBAE40000#32, .cpy ⟨[], 7, 16, 0, 0, 0, 0, 0⟩), (0xBBE20D00#32, .cpyt ⟨[], 7, 8, 0, 1, 2, 2, 0⟩), (0xBCE62005#32, .cpyx ⟨[], 7, 24, 1, 0, 0, 0, 5⟩),
     (0xBEE50000#32, .capb ⟨[], 7, 20⟩), (0xBFE00201#32, .cstep ⟨[], 0, 2, 1⟩), (0xBFE00000#32, .cstep ⟨[], 0, 0, 0⟩), (0x0EE00000#32, .cape ⟨[]⟩),
     (0x0FE00000#32, .cres ⟨[]⟩), (0xBDE50000#32, .launch ⟨[], 7, 20⟩), (0xADE08600#32, .waitc ⟨[], 7, 2, 12⟩), (0x8A088001#32, .svcD ⟨[], 8, 0x8001⟩),
     (0x8A940001#32, .svcC ⟨[], 20, 1⟩), (0x90E0C184#32, .ldW ⟨[], 7, 3, 3, 4⟩), (0x94E18386#32, .stW ⟨[], 7, 6, 7, 6⟩), (0x86E00000#32, .exit ⟨[], 7⟩)]) = true := by
  decide +kernel

/-- Does a sequence of words decode to an instruction with nothing left, and is it that instruction's? -/
def seqIs (ws : List Word) (i : Instr) : Bool := (match decode ws with | .ok (j, []) => decide (j = i) | _ => false) && decide (encode i = ws)

/-- Instructions behind prefixes: ICMP with an immediate and REDUX.IADD.s8 (04), IADD of 1 (05), MLOOP.SP and SCALC.zp (08). -/
theorem test_prefixed_words : seqIs [0xE000000A#32, 0x5A050180#32] (.icmpLt ⟨[.himm 10], 0, 1, 2, 3, 0⟩) = true
    ∧ seqIs [0xD0000018#32, 0x07E08080#32] (.redux ⟨[.mod 0x18], 7, 2, 1⟩) = true ∧ seqIs [0xE0000001#32, 0x10E18180#32] (.iadd ⟨[.himm 1], 7, 6, 3, 0⟩) = true
    ∧ seqIs [0xE8000004#32, 0xB2E0A245#32] (.mloop ⟨[.himm 0x8000004], 7, 0, 2, 0x44, 0x45⟩) = true
    ∧ seqIs [0xD0000001#32, 0xB6E20485#32] (.scalc ⟨[.mod 1], 7, 8, 9, 5⟩) = true := by decide +kernel

/-- Clause headers of 05's example, and their fields. -/
theorem test_headers : decodeHeader 0xC0000F00#32 = some ⟨0, 0, 15, 0, false⟩ ∧ decodeHeader 0xC001FF30#32 = some ⟨1, 15, 15, 3, false⟩
    ∧ decodeHeader 0xC000FF10#32 = some ⟨0, 15, 15, 1, false⟩ ∧ decodeHeader 0xC000FF11#32 = none := by decide

/-- Class 0xF, a hint of kind 5, a fixed bit that is set, and a body that ends in a prefix (02 R39, R47, R48, R60). -/
theorem test_rejected_words : decode [0xF0000000#32] = .error .reserved ∧ decode [0xD5000000#32, 0x00000000#32] = .error .badHint
    ∧ decode [0x00000001#32] = .error .badWord ∧ decode [0xE0000001#32] = .error .truncated ∧ decode [0xC0000000#32] = .error .header :=
  ⟨rfl, rfl, rfl, rfl, rfl⟩

/-- The opcode table's numbering: the first word is the low one. -/
theorem test_table_word : decodeTableWord 64 0x5A050180E000000A = some (.icmpLt ⟨[.himm 10], 0, 1, 2, 3, 0⟩) ∧ decodeTableWord 32 0 = some (.nop ⟨[]⟩) := by decide

/-! ### Well-formedness -/

/-- A number out of range in each step that has one. -/
theorem test_ill_formed_steps : ([.backoffExpiry 0 2, .fragmentStarved 0 2, .throttleOverride 0 2, .ldwLaneLanding 0 0 32, .copyAccept 0 4, .hostMemoryRead 0 0 0,
    .queueFetch 4 0, .queueFetch 0 24, .sctlWrite 4 0 0, .sctlWrite 0 24 0, .ingressDropRead 16, .ingressWrite 16 0 [], .cxlPortDown 4] : List Instr).all
      (fun i => !i.wellFormed) = true := by decide

/-- The same steps at the last number that each admits. -/
theorem test_well_formed_steps : ([.backoffExpiry 0 1, .fragmentStarved 0 1, .throttleOverride 0 1, .ldwLaneLanding 0 0 31, .copyAccept 0 3, .hostMemoryRead 0 0 1,
    .queueFetch 3 23, .sctlWrite 3 23 0, .ingressDropRead 15, .ingressWrite 15 0 [], .cxlPortDown 3] : List Instr).all (fun i => i.wellFormed) = true := by decide

/-- Words that a rule makes ILLEGAL whatever the group holds: PRIO 3, a MOD where none is taken, an HIMM beside a nonzero field, an odd pair, CVTEF onto its residue. -/
theorem test_ill_formed_words : ([.nop ⟨[.prio 3]⟩, .iadd ⟨[.mod 1], 7, 4, 6, 8⟩, .iadd ⟨[.himm 1], 7, 4, 6, 8⟩, .capb ⟨[], 7, 3⟩, .cvtefF8a ⟨[], 7, 4, 6, 4⟩,
    .cstep ⟨[], 2, 0, 0⟩, .cpy ⟨[], 7, 2, 0, 0, 0, 0, 0⟩] : List Instr).all (fun i => !i.wellFormed) = true := by decide

/-! ### Results that the spec gives -/

/-- A group with words put into lines, each lane the same, and the group after an instruction at the bench. -/
def withLines (ls : List (Nat × Word)) : Grp := ls.foldl (fun g p => g.writeLine p.1 (BitVec.allOnes 32) (fun _ => p.2)) grp0
def ran (i : Instr) (g : Grp) : Grp := match exec i (sit i g) with | .next s => s.grp 0 | _ => grpInit

/-- A sum that wraps, and the same with the destination a source (04 R97). -/
theorem test_iadd_wraps : (ran (.iadd ⟨[], 7, 4, 6, 8⟩) (withLines [(6, 0xFFFFFFFF), (8, 2)])).vreg 4 31 = 1
    ∧ (ran (.iadd ⟨[], 7, 6, 6, 6⟩) (withLines [(6, 0x80000001)])).vreg 6 0 = 2 := by decide +kernel

/-- High products of −1 and 2, signed and unsigned (04 R97). -/
theorem test_imulh_signs : (ran (.imulh ⟨[], 7, 4, 6, 8⟩) (withLines [(6, 0xFFFFFFFF), (8, 2)])).vreg 4 0 = 0xFFFFFFFF
    ∧ (ran (.imulhu ⟨[], 7, 4, 6, 8⟩) (withLines [(6, 0xFFFFFFFF), (8, 2)])).vreg 4 0 = 1 := by decide +kernel

/-- Shifts by 32: nothing is left, or the sign. -/
theorem test_shift_full : (ran (.ishl ⟨[], 7, 4, 6, 8⟩) (withLines [(6, 0xFFFFFFFF), (8, 32)])).vreg 4 0 = 0
    ∧ (ran (.isra ⟨[], 7, 4, 6, 8⟩) (withLines [(6, 0x80000000), (8, 32)])).vreg 4 0 = 0xFFFFFFFF := by decide +kernel

/-- FSCALE of 1.5 by −149 is the tie that rounds to 2^−148 (04 R104's example). -/
theorem test_fscale_tie : (ran (.fscale ⟨[], 7, 4, 6, 8⟩) (withLines [(6, 0x3FC00000), (8, BitVec.ofInt 32 (-149))])).vreg 4 0 = 2 := by decide +kernel

/-- 500.0 to F8A saturates to 448; under NANOV it is the NaN (04 R106's example). -/
theorem test_cvt_f8a : convert (cvSrc 0) (.flt .f8a) FpMod.none 0x43FA0000 = 0x7E ∧ convert (cvSrc 0) (.flt .f8a) { FpMod.none with nanov := true } 0x43FA0000 = 0x7F := by decide +kernel

/-- −0.5 under RNE gives 0 and 2.5 under RNA gives 3 (03 R81). -/
theorem test_cvt_int : (f32Val 0xBF000000).toInt .rne (-(2 ^ 31)) (2 ^ 31 - 1) = 0 ∧ (f32Val 0x40200000).toInt .rna (-(2 ^ 31)) (2 ^ 31 - 1) = 3 := by decide +kernel

/-- Steps 3 and 4 of the example of CVTEF.F8A (04 R107): 500.0 leaves 52.0, and 3.0 + 52.0 gives 56. -/
theorem test_cvtef_example : let g := ran (.cvtefF8a ⟨[], 7, 8, 4, 9⟩) (withLines [(4, 0x43FA0000), (8, 0x34380000)])
    let h := ran (.cvtefF8a ⟨[], 7, 8, 4, 9⟩) (withLines [(4, 0x40400000), (8, 0x7E343800), (9, 0x42500000)])
    g.vreg 8 0 = 0x7E343800 ∧ g.vreg 9 0 = 0x42500000 ∧ h.vreg 8 0 = 0x667E3438 ∧ h.vreg 9 0 = 0xBF800000 := by decide +kernel

/-- 1.0625 is a tie that keeps 0.0625 (03 R84's example). -/
theorem test_cvtef_tie : errorFeedback (.flt .f8a) FpMod.none 0x3F880000 0 = (0x38, 0x3D800000) ∧ errorFeedback (.flt .f8a) FpMod.none 0x3F880000 0x3D800000 = (0x39, 0) := by
  decide +kernel

/-- REDUX.IADD.s8 over lanes 4 to 15 of the lane numbers (04 R118's example). -/
theorem test_redux_lanes : let g : Grp := { grp0.writeLine 1 (BitVec.allOnes 32) (fun l => BitVec.ofNat 32 l) with f0 := some { frag0 with mask := 0xFFF0 } }
    let h := ran (.redux ⟨[.mod 0x18], 7, 2, 1⟩) g
    h.vreg 2 4 = 22 ∧ h.vreg 2 7 = 22 ∧ h.vreg 2 3 = 0 ∧ h.vreg 2 15 = 92 ∧ h.vreg 2 16 = 0 := by decide +kernel

/-- REDUX.FADD.s4: the tree's rounding (04 R118's second example). -/
theorem test_redux_tree : (ran (.redux ⟨[.mod 0x17], 7, 2, 1⟩) (grp0.writeLine 1 (BitVec.allOnes 32) (fun l => if l = 0 then 0x3F800000 else 0x33800000))).vreg 2 3 = 0x3F800001 := by
  decide +kernel

/-- PLOP p3, p1, p2, p7, #0x80 is p1 and p2 (04 R111's example); p7 takes no write. -/
theorem test_plop_and : let g := (grp0.setPred 1 0xFF00).setPred 2 0x0FF0
    (ran (.plop ⟨[], 7, 3, 1, 2, 7, 0x80⟩) g).pred 3 = 0x0F00 ∧ (ran (.plop ⟨[], 7, 7, 1, 2, 7, 0x80⟩) g).pred 7 = 0xFFFFFFFF := by decide +kernel

/-- ICMP.LT of 9 and of 10 against #10: p1 the condition, p2 its complement. -/
theorem test_icmp_lt : let i : Instr := .icmpLt ⟨[.himm 10], 0, 1, 2, 3, 0⟩
    (ran i (withLines [(3, 9)])).pred 1 = 0xFFFFFFFF ∧ (ran i (withLines [(3, 9)])).pred 2 = 0 ∧ (ran i (withLines [(3, 10)])).pred 1 = 0
      ∧ (ran i (withLines [(3, 10)])).pred 2 = 0xFFFFFFFF := by decide +kernel

/-- SMOVW s300, s5; a scalar sum that wraps. -/
theorem test_scalars : (ran (.smovw ⟨[], 7, 300, 5⟩) (grp0.setScalar 5 77)).scalar 300 = 77
    ∧ (ran (.sadd ⟨[], 7, 4, 6, 8⟩) ((grp0.setScalar 6 0xFFFFFFFF).setScalar 8 2)).scalar 4 = 1 := by decide +kernel

/-- SETVIEW.V s12 with 128 makes v3 line 131 (06 R156's example). -/
theorem test_setview : (ran (.setview ⟨[], 7, 12, 1⟩) (grp0.setScalar 12 0x80)).vline 3 = 131 := by decide +kernel

/-- A branch back to its own clause's header. -/
theorem test_branch_back : ((ran (.bra ⟨[], 7, -1⟩) grp0).frag 0).map (fun f => f.pos) = some (posAt (BitVec.ofNat 64 loadAt)) := by decide +kernel

/-- TRAP #0x8005 is taken at once: the frame's copy of sr.tcause has its code and cause 0x05, and without a handler the group waits (05 R136, R144). -/
theorem test_trap_taken : ((ran (.trap ⟨[], 0x8005⟩) grp0).frame.map (fun f => f.tcause)) = some 0x80050005 ∧ (ran (.trap ⟨[], 0x8005⟩) grp0).escalated = true := by
  decide +kernel

/-- MZERO of a tile clears its lines when it is performed; the accumulator is busy until then. -/
theorem test_mzero_outstanding : (ran (.mzero ⟨[], 7, 0x0B⟩) grp0).ops.length = 1 := by decide +kernel

/-- SCALC of 1.0, 3.0, 126 and 125 (03 R92's example). -/
theorem test_scale : scaleAdd 0x3F800000 0x40400000 126 125 = 0x3FB00000 := by decide +kernel

/-- Sixteen products of 2^−24 in one chunk onto 1.0 (03 R91's example). -/
theorem test_chunk : (mFmt 1).dot 0x3F800000 (List.replicate 16 (.flt (Ff.b16.value 0x3980))) (List.replicate 16 (.flt (Ff.b16.value 0x3980))) = 0x3F800008 := by decide +kernel

/-- A saturating accumulator at 2^31 − 100, then +200 and −200 in two chunks (03 R89's example). -/
theorem test_saturating_chunks : chunksI 8 1 true 0x7FFFFF9C [200, -200] = BitVec.ofInt 32 (2 ^ 31 - 201) := by decide +kernel

/-- The kept pair of seed 0, and the header check of seed 0x1234 (08 R221, R222's examples). -/
theorem test_sparsity : keptPair 0 0 0 = (0, 1) ∧ sparseOk 2 [0x1234, 0x00000201, 0x5EED1336, 0] = true ∧ sparseOk 2 [0x1234, 0x00000201, 0x5EED1337, 0] = false := by decide +kernel

/-- FEX2's special values, of −infinity and of −200 (03 R86). -/
theorem test_ex2 : sfResult .ex2 FpMod.none 0xFF800000 = 0 ∧ sfResult .ex2 FpMod.none 0xC3480000 = 0 ∧ sfResult .rcp FpMod.none 0x80000000 = 0xFF800000 := by decide +kernel

/-- Little-endian words at the home (17 R351), and the memory that a zero leaves. -/
theorem test_home_word : (State.reset.homeWrite 0x100 [0x78, 0x56, 0x34, 0x12] true).homeWord 0x100 = 0x12345678
    ∧ ((State.reset.homeWrite 0x100 [1] true).homeWrite 0x100 [0] true).mem = [] := by decide +kernel

/-! ### The first step -/

set_option maxRecDepth 100000 in
/-- After reset with `IADD v6, v3, #1` placed, the next step runs it: every lane of v6 is v3 + 1, and the machine goes on. -/
theorem test_first_step : (match step (State.reset.withFetchWord 64 0x10E18180E0000001) with
    | .next s => decide ((s.grp 0).vreg 6 0 = 1) && decide ((s.grp 0).vreg 6 31 = 1) && decide ((s.grp 0).vreg 3 0 = 0)
    | _ => false) = true := by decide +kernel

/-- An agenda that names no turn leaves the choice to the policy, and the machine goes on. -/
theorem test_reset_goes_on : (match step State.reset with | .next _ => true | _ => false) = true := by decide +kernel

end Sys2Proof.Tests
end

