-- ==== Sys2Proof/Tests/WitFlow.lean ====
section
/-! SUPPORT. States and operands that meet the hypotheses of the claims about control flow, traps, waits and group settings. -/
namespace Sys2Proof.Tests
set_option Elab.async false
open Sys2Proof.Machine

/-- A group whose scalar pair 2 is the address of the bench's clause header. -/
def grpS : Grp := { grp0 with s := [(2, 0x10000#32)] }

/-- The header's address. -/
def hdr0 : Dword := BitVec.ofNat 64 loadAt

/-- A branch back to the clause's header, by all lanes and by none. -/
def back : Br := ⟨[], 7, 0x1FFFFF⟩
def backNone : Br := ⟨[], 0, 0x1FFFFF⟩

/-- A group whose p0 holds in lane 31 alone, so that a branch under p0 parts its lanes. -/
def grpP : Grp := { grp0 with p := [(0, 0x80000000#32)] }

theorem none_taken (h : ∀ l, frag0.mask.getLsbD l = true → (grp0.pred 0).getLsbD l = true) : False := absurd (h 0 (by decide)) (by decide)

/-- The test of a target, as `State.leadsTo` asks it. -/
def leads (s : State) (g : Grp) (a : Dword) : Bool :=
  match s.fetchWord g a with
  | .ok (w, _) => decide (wordClass w = .header)
  | .error _ => false

theorem leads_of (s : State) (g : Grp) (a : Dword) (h : leads s g a = true) : ∃ u, s.leadsTo u g a := by
  unfold leads at h
  split at h
  · next w u e => exact ⟨u, w, e, of_decide_eq_true h⟩
  · cases h

/-- What the word at an address is where it is no header: `some true`; `some false` where its fetch faults. -/
def badTarget (s : State) (g : Grp) (a : Dword) : Option Bool :=
  match s.fetchWord g a with
  | .ok (w, _) => if wordClass w = .header then none else some true
  | .error _ => some false

/-- A group whose p0 holds in no lane but one stands beside one whose pair 2 is the header's address, a word inside the clause, an address whose fetch faults, and one
that is no canonical one. -/
def here : Br := ⟨[], 7, 0⟩
def grpJ (a : Word) : Grp := { grp0 with s := [(2, a)] }

/-- TransfersAndTargets: a guard that holds in every lane with a target that is a header, and one that holds in none; no entry at the target. -/
theorem witness_TransfersAndTargets :
    ((∀ m, Issues (.bra back) m (sit (.bra back) grp0) grp0 frag0) ∧ leads (sit (.bra back) grp0) grp0 hdr0 = true
      ∧ (sit (.bra back) grp0).iss.pc + 4 * back.o.signExtend 64 = hdr0
      ∧ ∀ l, frag0.mask.getLsbD l = true → (grp0.pred back.g.toNat).getLsbD l = true) ∧
    ((∀ m, Issues (.bra backNone) m (sit (.bra backNone) grp0) grp0 frag0)
      ∧ ¬∀ l, frag0.mask.getLsbD l = true → (grp0.pred backNone.g.toNat).getLsbD l = true) ∧
    ((∀ m, Issues (.call back) m (sit (.call back) grp0) grp0 frag0) ∧ leads (sit (.call back) grp0) grp0 hdr0 = true) ∧
    (∀ m, Issues (.call backNone) m (sit (.call backNone) grp0) grp0 frag0) ∧
    ((∀ m, Issues (.jmpi xn0) m (sit (.jmpi xn0) grpS) grpS frag0) ∧ leads (sit (.jmpi xn0) grpS) grpS hdr0 = true
      ∧ grpS.scalar 3 ++ grpS.scalar 2 = hdr0 ∧ grpS.upred 7 = true ∧ farOk hdr0) ∧
    ((∀ m, Issues (.jmpi ⟨[], 0, 2⟩) m (sit (.jmpi ⟨[], 0, 2⟩) grp0) grp0 frag0) ∧ grp0.upred 0 = false) ∧
    grp0.frag 0 = some frag0 ∧ grp0.newestEntry hdr0 frag0.mask = none := by
  refine ⟨⟨sit_any _ _ _ rfl (by decide), by decide, by decide, fun l h => h⟩,
    ⟨sit_any _ _ _ rfl (by decide), fun h => none_taken h⟩, ⟨sit_any _ _ _ rfl (by decide), by decide⟩,
    sit_any _ _ _ rfl (by decide), ⟨sit_any _ _ _ rfl (by decide), by decide, by decide, by decide, by decide, by decide⟩,
    ⟨sit_any _ _ _ rfl (by decide), by decide⟩, rfl, by decide⟩

def far : Br := ⟨[], 7, 0x8000⟩
theorem far_faults : [Instr.bra far, .call far, .br far, .rcv far].all (fun i =>
    decide (badTarget (sit i grp0) grp0 ((sit i grp0).iss.pc + 4 * far.o.signExtend 64) = some false)) = true := by decide +kernel
theorem jump_faults : badTarget (sit (.jmpi xn0) (grpJ 0x90000)) (grpJ 0x90000) 0x90000 = some false := by decide +kernel

/-- TransfersAndTargets and LanesPart: a branch to its own word, which is no header, and one to a page that is not mapped; jumps to such addresses and to one whose form is bad. -/
theorem witness_TransfersAndTargets_bad :
    (∀ i ∈ [Instr.bra here, .call here, .br here, .rcv here], (∀ m, Issues i m (sit i grp0) grp0 frag0)
      ∧ badTarget (sit i grp0) grp0 0x10004 = some true ∧ (sit i grp0).iss.pc + 4 * here.o.signExtend 64 = 0x10004) ∧
    (∀ i ∈ [Instr.bra far, .call far, .br far, .rcv far], (∀ m, Issues i m (sit i grp0) grp0 frag0)
      ∧ badTarget (sit i grp0) grp0 ((sit i grp0).iss.pc + 4 * far.o.signExtend 64) = some false) ∧
    (∀ a : Word, a ∈ [(0x10004 : Word), 0x90000, 0x10001] → ∀ m, Issues (.jmpi xn0) m (sit (.jmpi xn0) (grpJ a)) (grpJ a) frag0) ∧
    (badTarget (sit (.jmpi xn0) (grpJ 0x10004)) (grpJ 0x10004) 0x10004 = some true ∧ farOk 0x10004) ∧
    (badTarget (sit (.jmpi xn0) (grpJ 0x90000)) (grpJ 0x90000) 0x90000 = some false ∧ farOk 0x90000) ∧ ¬farOk 0x10001 := by
  refine ⟨fun i h => ⟨all_issue _ ?_ i h, ?_⟩, fun i h => ⟨all_issue _ ?_ i h, ?_⟩, fun a h => sit_any _ _ _ rfl (List.all_eq_true.mp
      (show [(0x10004 : Word), 0x90000, 0x10001].all (fun a => ready (.jmpi xn0) 1#32 (sit (.jmpi xn0) (grpJ a)) (grpJ a) frag0) = true by decide) a h),
    ⟨by decide, by decide, by decide⟩,
    ⟨jump_faults, by decide, by decide⟩, fun h => absurd h.1 (by decide)⟩
  · decide
  · revert i; decide
  · decide
  · exact of_decide_eq_true (List.all_eq_true.mp far_faults i h)

/-- A split table without a free entry, and both slots taken. -/
def grpFull : Grp := { grpP with
  f1 := some frag0, split := (List.range 64).map (fun i => (i, ⟨BitVec.ofNat 14 i, .reconv 0 1 0⟩)) }

/-- LanesPart: no lane, all lanes and some lanes take the branch; there is no room; RCV with and without lanes. -/
theorem witness_LanesPart_branches :
    ((∀ m, Issues (.br backNone) m (sit (.br backNone) grp0) grp0 frag0) ∧ frag0.mask &&& grp0.pred backNone.g.toNat = 0) ∧
    ((∀ m, Issues (.br back) m (sit (.br back) grp0) grp0 frag0) ∧ frag0.mask &&& grp0.pred back.g.toNat ≠ 0
      ∧ (sit (.br back) grp0).iss.pc + 4 * back.o.signExtend 64 ≠ (sit (.br back) grp0).iss.pc + 4
      ∧ leads (sit (.br back) grp0) grp0 hdr0 = true ∧ frag0.mask &&& ~~~(grp0.pred back.g.toNat) = 0) ∧
    ((∀ m, Issues (.br backNone) m (sit (.br backNone) grpP) grpP frag0) ∧ frag0.mask &&& grpP.pred 0 ≠ 0 ∧ frag0.mask &&& ~~~(grpP.pred 0) ≠ 0
      ∧ leads (sit (.br backNone) grpP) grpP hdr0 = true ∧ ¬(grpP.emptySlots = 0 ∧ grpP.emptyEntries = 0)) ∧
    ((∀ m, Issues (.br backNone) m (sit (.br backNone) grpFull) grpFull frag0) ∧ frag0.mask &&& ~~~(grpFull.pred 0) ≠ 0
      ∧ leads (sit (.br backNone) grpFull) grpFull hdr0 = true ∧ (grpFull.emptySlots = 0 ∧ grpFull.emptyEntries = 0)) ∧
    ((∀ m, Issues (.rcv back) m (sit (.rcv back) grp0) grp0 frag0) ∧ leads (sit (.rcv back) grp0) grp0 hdr0 = true
      ∧ grp0.emptyEntries ≠ 0 ∧ grp0.freeEntry = some 0) ∧
    ((∀ m, Issues (.rcv back) m (sit (.rcv back) grpFull) grpFull frag0) ∧ leads (sit (.rcv back) grpFull) grpFull hdr0 = true
      ∧ frag0.mask &&& grpFull.pred 7 ≠ 0 ∧ grpFull.emptyEntries = 0) ∧
    ((∀ m, Issues (.rcv backNone) m (sit (.rcv backNone) grp0) grp0 frag0) ∧ leads (sit (.rcv backNone) grp0) grp0 hdr0 = true
      ∧ frag0.mask &&& grp0.pred 0 = 0) :=
  ⟨⟨sit_any _ _ _ rfl (by decide), by decide⟩, ⟨sit_any _ _ _ rfl (by decide), by decide, by decide, by decide, by decide⟩,
    ⟨sit_any _ _ _ rfl (by decide), by decide, by decide, by decide, by decide⟩, ⟨sit_any _ _ _ rfl (by decide), by decide, by decide, by decide⟩,
    ⟨sit_any _ _ _ rfl (by decide), by decide, by decide, by decide⟩, ⟨sit_any _ _ _ rfl (by decide), by decide, by decide, by decide⟩,
    ⟨sit_any _ _ _ rfl (by decide), by decide, by decide⟩⟩

/-- A group whose v126, v127 pair is one address in every lane. -/
def grpRet (a : Word) : Grp := { grp0 with rs := (List.range 32).map (fun l => (32 * 126 + l, a)) }
def grpR : Grp := grpRet 0x10000
def ret0 : Ret := ⟨[], 126⟩

/-- A group whose lane 31 alone returns elsewhere while no place is free. -/
def grpRf : Grp := { grpFull with rs := (List.range 32).map (fun l => (32 * 126 + l, if l = 31 then 0x20000#32 else 0x10000#32)) }
def benchRf : State := { sit (.ret ret0) grpRf with mem := Sparse.setList (sit (.ret ret0) grpRf).mem 0x20000 [0, 0, 0, 0xC0] }

theorem ret_faults : (((sit (.ret ret0) (grpRet 0x90000)).testAll true (grpRet 0x90000) [0x90000] none).1.2.map (fun q => q.2)) = some 0x90000 := by
  decide +kernel

/-- LanesPart: a RET to a word that is no header, one whose target's fetch faults, one with too many targets; EXIT in a handler. -/
theorem witness_LanesPart_traps :
    (∀ a ∈ [(0x10004 : Word), 0x90000], Issues (.ret ret0) frag0.mask (sit (.ret ret0) (grpRet a)) (grpRet a) frag0) ∧
    ([(0x10004 : Dword)].Pairwise (fun b c => b.toNat < c.toNat)
      ∧ ((sit (.ret ret0) (grpRet 0x10004)).testAll true (grpRet 0x10004) [0x10004] none).1 = (true, none)
      ∧ (((sit (.ret ret0) (grpRet 0x90000)).testAll true (grpRet 0x90000) [0x90000] none).1.2.map (fun q => q.2)) = some 0x90000) ∧
    (let e : TEntry := { loadEntry with va := 0x20000, pa := 0x20000 }
     let u := benchRf.modCore 0 (fun k => { k with tlb := e :: k.tlb })
     Issues (.ret ret0) frag0.mask u grpRf frag0 ∧ [hdr0, (0x20000 : Dword)].Pairwise (fun b c => b.toNat < c.toNat)
      ∧ (u.testAll true grpRf [hdr0, 0x20000] none).1 = (false, none)
      ∧ grpRf.emptySlots + grpRf.emptyEntries < [(0x20000 : Dword)].length) ∧
    ((∀ m, Issues (.exit ⟨[], 7⟩) m (sit (.exit ⟨[], 7⟩) { grp0 with inHandler := true }) { grp0 with inHandler := true } frag0)) := by
  refine ⟨fun a h => sit_issues _ _ _ _ rfl (List.all_eq_true.mp (show [(0x10004 : Word), 0x90000].all (fun a =>
      ready (.ret ret0) frag0.mask (sit (.ret ret0) (grpRet a)) (grpRet a) frag0) = true by decide) a h), ⟨by decide, by decide, ret_faults⟩, ⟨ready_issues _ _ _ _ _ rfl rfl (by decide), by decide, by decide, by decide⟩,
    sit_any _ _ _ rfl (by decide)⟩

/-- LanesPart: all lanes return to one header; EXIT of no lane, of all and of lane 31. -/
theorem witness_LanesPart_leaving :
    (Issues (.ret ret0) frag0.mask (sit (.ret ret0) grpR) grpR frag0 ∧ [hdr0].Pairwise (fun b c => b.toNat < c.toNat)
      ∧ (∀ b, b ∈ [hdr0] ↔ ∃ l, frag0.mask.getLsbD l = true ∧ grpR.vreg (ret0.n.toNat + 1) l ++ grpR.vreg ret0.n.toNat l = b)
      ∧ ((sit (.ret ret0) grpR).testAll true grpR [hdr0] none).1 = (false, none) ∧ farOk hdr0 ∧ leads (sit (.ret ret0) grpR) grpR hdr0 = true
      ∧ ([] : List Dword).length ≤ grpR.emptySlots + grpR.emptyEntries) ∧
    ((∀ m, Issues (.exit ⟨[], 0⟩) m (sit (.exit ⟨[], 0⟩) grp0) grp0 frag0) ∧ grp0.inHandler = false ∧ frag0.mask &&& grp0.pred 0 = 0) ∧
    ((∀ m, Issues (.exit ⟨[], 7⟩) m (sit (.exit ⟨[], 7⟩) grp0) grp0 frag0) ∧ frag0.mask &&& grp0.pred 7 ≠ 0 ∧ frag0.mask &&& grp0.pred 7 = frag0.mask) ∧
    ((∀ m, Issues (.exit ⟨[], 0⟩) m (sit (.exit ⟨[], 0⟩) grpP) grpP frag0) ∧ frag0.mask &&& grpP.pred 0 ≠ 0 ∧ frag0.mask &&& grpP.pred 0 ≠ frag0.mask) := by
  have all : ∀ l, l < 32 → grpR.vreg (ret0.n.toNat + 1) l ++ grpR.vreg ret0.n.toNat l = hdr0 := by decide
  refine ⟨⟨sit_issues _ _ _ _ rfl (by decide), by decide, fun b => ?_, by decide, ⟨by decide, by decide⟩, by decide, by decide⟩, ⟨sit_any _ _ _ rfl (by decide), by decide, by decide⟩,
    ⟨sit_any _ _ _ rfl (by decide), by decide, by decide⟩, ⟨sit_any _ _ _ rfl (by decide), by decide, by decide⟩⟩
  constructor
  · intro h
    rw [List.mem_singleton] at h
    exact ⟨0, by decide, by rw [h]; exact all 0 (by decide)⟩
  · rintro ⟨l, hl, hb⟩
    rw [List.mem_singleton, ← hb]
    refine all l ?_
    rcases Nat.lt_or_ge l 32 with h | h
    · exact h
    · rw [BitVec.getLsbD_of_ge _ _ h] at hl; cases hl

/-- ControlFormsComplete: the transfers meet their targets; there is room for a half and for an entry; all lanes leave. -/
theorem witness_ControlFormsComplete_transfers :
    (∀ i ∈ [Instr.bra back, .call back, .rcv back], (∀ m, Issues i m (sit i grp0) grp0 frag0) ∧ ∃ u, (sit i grp0).leadsTo u grp0 hdr0) ∧
    (∃ u, (sit (.jmpi xn0) grpS).leadsTo u grpS hdr0) ∧
    ((∀ m, Issues (.br backNone) m (sit (.br backNone) grpP) grpP frag0) ∧ (∃ u, (sit (.br backNone) grpP).leadsTo u grpP hdr0) ∧ grpP.f1 = none) ∧
    (grp0.split.length < 64 ∧ grp0.freeEntry = some 0) ∧
    ((∃ u, (sit (.ret ret0) grpR).leadsTo u grpR hdr0) ∧ frag0.mask ≠ 0) := by
  refine ⟨fun i h => ⟨all_issue [Instr.bra back, .call back, .rcv back] (by decide) i h, leads_of _ _ _ ?_⟩, leads_of _ _ _ (by decide),
    ⟨sit_any _ _ _ rfl (by decide), leads_of _ _ _ (by decide), rfl⟩, ⟨by decide, rfl⟩, leads_of _ _ _ (by decide), by decide⟩
  revert i; decide

/-- A second fragment, spilled and eligible, for YIELD. -/
def grpY : Grp := { grp0 with split := [(3, ⟨0, .spilled { frag0 with mask := 0xFF#32 }⟩)] , f0 := some { frag0 with mask := 0xFFFFFF00#32 } }

/-- FragmentSettings: SETVIEW at the highest word that is legal, and YIELD with and without another fragment. -/
theorem witness_FragmentSettings :
    (∀ i ∈ [Instr.nop z0, .bkoff z0, .bkoffClr z0, .yield z0, .setview ⟨[], 7, 2, 7⟩, .setview ⟨[], 0, 2, 1⟩], ∀ m, Issues i m (sit i grp0) grp0 frag0) ∧
    (∀ m, Issues (.setview ⟨[], 7, 2, 7⟩) m (sit (.setview ⟨[], 7, 2, 7⟩) { grp0 with s := [(2, 0xFFFFFF#32)] }) { grp0 with s := [(2, 0xFFFFFF#32)] } frag0) ∧
    (({ grp0 with s := [(2, 0xFFFFFF#32)] } : Grp).scalar 2).toNat < 2 ^ 24 ∧
    (∀ m, Issues (.yield z0) m (sit (.yield z0) grpY) grpY { frag0 with mask := 0xFFFFFF00#32 }) ∧
    (let t := (sit (.yield z0) grpY).finish grpY
     (t.eligible (t.grp 0)).isSome = true ∧ ((t.grp 0).frag 0).isSome = true) := by
  refine ⟨fun i h => all_issue _ ?_ i h, sit_any _ _ _ rfl (by decide), by decide, sit_any _ _ _ rfl (by decide), by decide⟩
  decide

def code0 : Code := ⟨[], 0xFFFF⟩

/-- A group with a deferred fault and one with a raised one. -/
def entry0 : ReplayEntry := ⟨[0], hdr0, 0, 1, 0, 0x10, none, none, 1, 0, posAt hdr0, 0, 0, [], 0, 0, 0, 0, false, [], 0⟩
def raise0 : Raise := ⟨0x0B, 0, 0, 1, 1, hdr0, hdr0, false, 0, none, false⟩
def grpD : Grp := { grp0 with f0 := none, deferred := [entry0] }
def grpE : Grp := { grp0 with raised := [raise0] }

/-- TrapEntry. -/
theorem witness_TrapEntry :
    (∀ m, Issues (.trap code0) m (sit (.trap code0) grp0) grp0 frag0) ∧ (∀ m, Issues (.bkpt code0) m (sit (.bkpt code0) grp0) grp0 frag0) ∧
    (Tab.find (bench grpE).groups 0 = some grpE ∧ grpE.raised ≠ [] ∧ grpE.escalated = false ∧ grpE.life.onCore = true) ∧
    (Tab.find (bench grpD).groups 0 = some grpD ∧ grpD.raised = [] ∧ grpD.deferred ≠ [] ∧ grpD.escalated = false ∧ grpD.life.onCore = true
      ∧ (bench grpD).canIssue grpD = false) :=
  ⟨sit_any _ _ _ rfl (by decide), sit_any _ _ _ rfl (by decide), ⟨rfl, by decide, rfl, rfl⟩, rfl, rfl, by decide, rfl, rfl, by decide⟩

/-- TrapTaken: with an in-group handler and without one. -/
theorem witness_TrapTaken :
    ∀ g ∈ [grp0, { grp0 with tvec := 0x10200, tframe := 0x10400 }], Tab.find (bench g).groups 0 = some g ∧ g.deferred = [] ∧ g.inBody = false ∧ g.cstepOp = none
      ∧ (∀ p, p ∈ g.allFrags → p.2.arriving = false) ∧ ((bench g).coreAt g.core).perc = none := by
  intro g h
  rcases List.mem_cons.mp h with rfl | h
  · exact ⟨rfl, rfl, rfl, by decide, by decide, rfl⟩
  · rcases List.mem_cons.mp h with rfl | h
    · exact ⟨rfl, rfl, rfl, by decide, by decide, rfl⟩
    · cases h

/-- The bench's group in user mode. -/
def grpU : Grp := { grp0 with sup := false }

/-- IssueTraps: an ILLEGAL word, an ILLEGAL prefix, a branch that is not its clause's last word, and a privileged word in user mode. -/
theorem witness_IssueTraps :
    (∀ x : WrSr, ∃ act body, ∀ s, exec (.wrsr x) s = issue (.wrsr x) s act body) ∧
    (∀ x : Br, ∃ act body, ∀ s, exec (.bra x) s = issue (.bra x) s act body) ∧
    issueIllegal (.wrsr ⟨[], 4, 1, 0x101⟩) grp0 frag0 = some none ∧ issueIllegal (.wrsr ⟨[.prio 3], 4, 0, 0x100⟩) grp0 frag0 = some (some 0) ∧
    (issueIllegal (.bra back) grp0 frag0 = none ∧ instrEndsClause (.bra back) = true) ∧
    (issueIllegal (.wrsr ⟨[], 4, 0, 0x100⟩) grpU frag0 = none ∧ instrEndsClause (.wrsr ⟨[], 4, 0, 0x100⟩) = false
      ∧ privBlocked (.wrsr ⟨[], 4, 0, 0x100⟩) grpU = true) :=
  ⟨fun x => ⟨_, _, fun s => (show exec (.wrsr x) s = execWrsr x s from rfl).trans (by unfold execWrsr issueF; rfl)⟩,
    fun x => ⟨_, _, fun s => (show exec (.bra x) s = execBra x s from rfl).trans (by unfold execBra; rfl)⟩, by decide, by decide, ⟨by decide, by decide⟩, by decide, by decide, by decide⟩

/-- A handler's group with a frame that holds no replay entry, one that holds none of its fragments in another slot. -/
def frame0 : Frame := ⟨5, 0xFFFFFFFF, 0, 0, some { frag0 with pos := posAt hdr0 }, none, hdr0, hdr0, [], []⟩
def grpH : Grp := { grp0 with inHandler := true, frame := some frame0, frameKept := true }

/-- TrapReturn. -/
theorem witness_TrapReturn :
    ((∀ m, Issues (.tret z0) m (sit (.tret z0) grp0) grp0 frag0) ∧ grp0.inHandler = false) ∧
    ((∀ m, Issues (.tret z0) m (sit (.tret z0) grpH) grpH frag0) ∧ grpH.inHandler = true ∧ grpH.frag (1 - 0) = none ∧ grpH.split = [] ∧ frag0.mask = grpH.gmask
      ∧ grpH.replies = 0 ∧ (((sit (.tret z0) grpH).frameNow 0).1.map (fun fr => grpH.replayRoom fr.replay)) = some true) ∧
    (Tab.find (bench grpH).groups 0 = some grpH ∧ grpH.cap.body = false ∧ frame0.replay = []) :=
  ⟨⟨sit_any _ _ _ rfl (by decide), rfl⟩, ⟨sit_any _ _ _ rfl (by decide), rfl, rfl, rfl, rfl, rfl, by decide⟩, rfl, rfl, rfl⟩

/-- The bench's core holds no L1 line and no context tracks writes. -/
theorem bench_plain (i : Instr) (g : Grp) (h : ((sit i g).chain g.ctx) = [1]) : (sit i g).plainL1 0 g.ctx := by
  refine ⟨fun l hl => absurd hl (by simp [sit, bench, State.coreAt, State.loadTerkor, Tab.findD, Tab.find, Tab.put, State.reset, coreInit]), fun c hc => ?_⟩
  rw [h] at hc
  rw [List.mem_singleton.mp hc]
  rfl

/-- A barrier object at window address 0x10, two arrivals due in its phase 0; scalar 2 holds its address, scalar 4 its address in phase 1. -/
def grpB : Grp := { grp0 with s := [(2, 0x10#32)] }
def wp0 : Wp := ⟨[], 0, 0⟩

/-- A group with one load outstanding on path ld. -/
def grpL : Grp := { grp0 with paths := [(0, 1#8)] }

/-- A group whose timeline 7 is complete to 5; scalar pair 2 holds 5 and pair 4 holds 6. -/
def grpT : Grp := { grp0 with tlc := [(7, 5#64)], tln := [(7, 5#64)], s := [(2, 5#32), (4, 6#32)] }

/-- A group whose scalar pair 2 is a block's address; scalars 4 and 6 hold 0 and 1. -/
def grpC : Grp := { grp0 with s := [(2, 0x10100#32), (6, 1#32)] }

/-- FencesAndWaits: each wait met and not met, at the first value where it is. -/
theorem witness_FencesAndWaits :
    (∀ i ∈ [Instr.fence ⟨[], 3, 5⟩, .fence ⟨[], 1, 0⟩], (∀ m, Issues i m (sit i grp0) grp0 frag0) ∧ (sit i grp0).plainL1 grp0.core grp0.ctx) ∧
    ((∀ m, Issues (.waitp wp0) m (sit (.waitp wp0) grp0) grp0 frag0) ∧ grp0.pathVal (PathK.ofNum 0) ≤ 0) ∧
    ((∀ m, Issues (.waitp wp0) m (sit (.waitp wp0) grpL) grpL frag0) ∧ 0 < grpL.pathVal (PathK.ofNum 0)) ∧
    (∀ q : BitVec 1, (∀ m, Issues (.waitb ⟨[], 7, 2, q⟩) m (sit (.waitb ⟨[], 7, 2, q⟩) grpB) grpB frag0)
      ∧ (sit (.waitb ⟨[], 7, 2, q⟩) grpB).winLoc grpB (grpB.scalar 2) = some (0, 16) ∧ (grpB.scalar 2).toNat % 16 = 0
      ∧ (sit (.waitb ⟨[], 7, 2, q⟩) grpB).objPhase 0 16 = false ∧ (sit (.waitb ⟨[], 7, 2, q⟩) grpB).plainL1 grpB.core grpB.ctx) ∧
    (∀ n ∈ [(2 : BitVec 7), 4], (∀ m, Issues (.waittl ⟨[], 7, n, 1, 7⟩) m (sit (.waittl ⟨[], 7, n, 1, 7⟩) grpT) grpT frag0)
      ∧ (sit (.waittl ⟨[], 7, n, 1, 7⟩) grpT).plainL1 grpT.core grpT.ctx) ∧
    (grpT.scalar 3 ++ grpT.scalar 2 : Dword) ≤ grpT.tlDone 7 ∧ grpT.tlDone 7 < (grpT.scalar 5 ++ grpT.scalar 4 : Dword) ∧
    (∀ n ∈ [(4 : BitVec 7), 6], (∀ m, Issues (.waitc ⟨[], 7, 2, n⟩) m (sit (.waitc ⟨[], 7, 2, n⟩) grpC) grpC frag0)
      ∧ (match (sit (.waitc ⟨[], 7, 2, n⟩) grpC).translate 0 1 true (grpC.scalar 3 ++ grpC.scalar 2) .read with
          | .ok r => let v := (sit (.waitc ⟨[], 7, 2, n⟩) grpC).xCommit 0 r
            (match v.translate 0 1 true (grpC.scalar 3 ++ grpC.scalar 2) .read with | .ok q => !q.void | .error _ => false)
              && decide (v.homeDword r.pa = 0)
          | .error _ => false) = true) ∧
    grpC.scalar 4 = 0 ∧ grpC.scalar 6 = 1 := by
  have hq : ∀ q : BitVec 1, ready (.waitb ⟨[], 7, 2, q⟩) 1#32 (sit (.waitb ⟨[], 7, 2, q⟩) grpB) grpB frag0 = true
      ∧ (sit (.waitb ⟨[], 7, 2, q⟩) grpB).winLoc grpB (grpB.scalar 2) = some (0, 16) ∧ (sit (.waitb ⟨[], 7, 2, q⟩) grpB).objPhase 0 16 = false := by decide
  refine ⟨fun i h => ⟨all_issue [Instr.fence ⟨[], 3, 5⟩, .fence ⟨[], 1, 0⟩] (by decide) i h, bench_plain i grp0 rfl⟩, ⟨sit_any _ _ _ rfl (by decide), by decide⟩,
    ⟨sit_any _ _ _ rfl (by decide), by decide⟩, fun q => ⟨sit_any _ _ _ rfl (hq q).1, (hq q).2.1, by decide, (hq q).2.2, bench_plain _ grpB rfl⟩, fun n h => ⟨?_, bench_plain _ grpT rfl⟩,
    by decide, by decide, fun n h => ?_, rfl, rfl⟩
  · rcases List.mem_cons.mp h with rfl | h
    · exact sit_any _ _ _ rfl (by decide)
    · rcases List.mem_cons.mp h with rfl | h
      · exact sit_any _ _ _ rfl (by decide)
      · cases h
  · rcases List.mem_cons.mp h with rfl | h
    · exact ⟨sit_any _ _ _ rfl (by decide), by decide⟩
    · rcases List.mem_cons.mp h with rfl | h
      · exact ⟨sit_any _ _ _ rfl (by decide), by decide⟩
      · cases h

end Sys2Proof.Tests
end

