-- ==== Sys2Proof/Tests/WitCaps.lean ====
section
/-! SUPPORT. States and operands that meet the hypotheses of the claims about capsules, service calls, parking and launches by a group. -/
namespace Sys2Proof.Tests
set_option Elab.async false
open Sys2Proof.Machine

/-- The machine with a capsule record at 0x10100: byte 4 of its lock word as given, held by group 0 or by none, its code at the bench's header. -/
def capMem (b : Byte) (held : Bool) (s : State) : State :=
  let m := Sparse.set (Sparse.set s.mem 0x10104 b) 0x1011A 1
  { s with mem := if held then Sparse.set (Sparse.set m 0x10102 0x01) 0x10103 0x80 else m }

def rcd0 : Dword := 0x10100
def grpCb : Grp := { grp0 with s := [(2, 0x10100#32)], adopt := 1000 }
def grpIn (st : CapSt) (body : Bool) (rcd : Dword) : Grp := { grp0 with
  s := [(370, 0x10200#32)], cap := { capInit with rcd := rcd, st := st, body := body } }

theorem any_plain (s : State) (c x : Nat) (h1 : (s.coreAt c).l1 = []) (h2 : s.chain x = [x]) (h3 : (s.ctxAt x).dirtyMap = none) : s.plainL1 c x := by
  refine ⟨fun l hl => ?_, fun y hy => ?_⟩
  · rw [h1] at hl; cases hl
  · rw [h2] at hy; rw [List.mem_singleton.mp hy]; exact h3

/-- What `State.plainL1` asks, as a test. -/
def plainTest (s : State) (c x : Nat) : Bool :=
  (s.coreAt c).l1.all (fun l => decide (l.ctx ≠ x) || (s.l1Fresh c l && decide (l.va % 128 = 0))) && (s.chain x).all (fun y => (s.ctxAt y).dirtyMap.isNone)

theorem plain_of (s : State) (c x : Nat) (h : plainTest s c x = true) : s.plainL1 c x := by
  simp only [plainTest, Bool.and_eq_true, List.all_eq_true, Bool.or_eq_true, decide_eq_true_eq, Option.isNone_iff_eq_none] at h
  exact ⟨fun l hl hx => (h.1 l hl).resolve_left (fun n => n hx), h.2⟩

/-- A block of `n` bytes at `a` is read under the group's translation, and the core's lines stand as `State.plainL1` asks after it. -/
def blockTest (s : State) (g : Grp) (a : Dword) (n : Nat) : Bool :=
  match s.translate g.core g.ctx g.sup a .read with
  | .ok r => !r.void && plainTest ((s.xCommit g.core r).readGlobal ((g.how s.iss.pc).on r.path) (va48 a) r.pa n).2 g.core g.ctx
  | .error _ => false

/-- CAPB at a record whose lock is free, held, descheduled, and descheduled with the delay over. -/
def grpD0 (d0 : Bool) : Grp := if d0 then { grpCb with adopt := 0 } else grpCb
def sitB (b : Byte) (d0 : Bool) : State := capMem b false (sit (.capb xn0) (grpD0 d0))

/-- What CapsuleBegins and ControlFormsComplete ask of the translation and the record, as a test; `r.pa` is the record's address. -/
def capTest (b : Byte) (d0 : Bool) (p : State → Nat → Bool) : Bool :=
  match (sitB b d0).translate 0 1 true rcd0 .atomic with
  | .error _ => false
  | .ok r =>
    let v := ((sitB b d0).xCommit 0 r).capFlush (grpD0 d0) rcd0
    !r.void && !v.capbPoison (grpD0 d0) r.pa && v.capValid r.pa && !lwFail (v.lock r.pa) && decide (r.pa % 256 = 0) && p v r.pa

/-- CapsuleBegins and ControlFormsComplete. -/
theorem witness_CapsuleBegins :
    (∀ b d0, (∀ m, Issues (.capb xn0) m (sitB b d0) (grpD0 d0) frag0)) ∧ (∀ d0, (grpD0 d0).cap.st = .idle ∧ (grpD0 d0).f1 = none ∧ (grpD0 d0).split = []) ∧
    (grpCb.scalar 3 ++ grpCb.scalar 2 = rcd0 ∧ grpCb.upred 7 = true) ∧
    capTest 0x40 false (fun v pa => !lwActive (v.lock pa)
      && (match (v.testAll true grpCb [v.capEntry pa 0, v.capExit pa] none).1 with | (false, none) => true | _ => false)
      && leads v grpCb (v.capEntry pa 0) && leads v grpCb (v.capExit pa)) = true ∧
    capTest 0x42 false (fun v pa => lwActive (v.lock pa) && !lwDesched (v.lock pa)) = true ∧
    capTest 0x46 false (fun v pa => lwActive (v.lock pa) && lwDesched (v.lock pa) && !v.adoptDue (grpD0 false) pa) = true ∧
    capTest 0x46 true (fun v pa => lwActive (v.lock pa) && lwDesched (v.lock pa) && v.adoptDue (grpD0 true) pa
      && (match (v.testAll true (grpD0 true) [v.capEntry pa (v.homeWord (pa + 8)), v.capExit pa] none).1 with | (false, none) => true | _ => false)) = true ∧
    (∀ m, Issues (.capb ⟨[], 0, 2⟩) m (sit (.capb ⟨[], 0, 2⟩) grpCb) grpCb frag0) := by
  have r : ∀ b d0, ready (.capb xn0) 1#32 (sitB b d0) (grpD0 d0) frag0 = true := fun b d0 => by cases d0 <;> rfl
  exact ⟨fun b d0 => any_issues _ _ _ _ (by cases d0 <;> rfl) (by cases d0 <;> rfl) (r b d0), fun d0 => by cases d0 <;> exact ⟨rfl, rfl, rfl⟩, ⟨by decide, by decide⟩,
    by decide +kernel, by decide +kernel, by decide +kernel, by decide +kernel, sit_any _ _ _ rfl (by decide)⟩

/-- A group in a body of the record, and one whose record's address does not translate. -/
def grpHold : Grp := grpIn .hold true rcd0
def grpLost : Grp := grpIn .hold true 0x90000000
def cst0 (n : BitVec 1) : Cst := ⟨[], if n = 1#1 then 2 else 0, 0, n⟩
def sitI (i : Instr) (g : Grp) (held : Bool) : State := capMem 0x42 held (sit i g)
def opCst (n : BitVec 1) : Op := { op1 with instr := .cstep (cst0 n) }
where op1 : Op := {
  instr := .cstep (cst0 0), words := [], pc := hdr0, slot := 0, kind := 2, m := 1, todo := 1, passed := true, flag := none, path := none, base := 0
  slots := [[0], []], lines := [], reads := [], locs := [], locs2 := [], n := 0, obj := none, rel := false, landed := 0, view := ⟨0, 0, 0⟩, ord := 0
  body := true, after := [], fm := BitVec.allOnes 32 }
def grpCm : Grp := { grpHold with ops := [(0, opCst 0)], opNext := 1 }
def benchCm (held : Bool) : State := capMem 0x42 held (bench grpCm)

/-- CapsuleStepsAndEnds and ControlFormsComplete: CSTEP and CAPE outside a body and in one, with and without a store; the record held or not, and not translated. -/
theorem witness_CapsuleStepsAndEnds :
    (∀ i ∈ [Instr.cstep (cst0 0), .cape z0, .cres z0], Tab.find (sit i grp0).groups (sit i grp0).iss.g = some grp0 ∧ grp0.frag (sit i grp0).iss.slot = some frag0
      ∧ instrIllegal i = none) ∧ grp0.inBody = false ∧ grp0.cap.st = .idle ∧
    (∀ n, (∀ m, Issues (.cstep (cst0 n)) m (sitI (.cstep (cst0 n)) grpHold true) grpHold frag0)
      ∧ (sitI (.cstep (cst0 n)) grpHold true).capPa grpHold = some 0x10100 ∧ (sitI (.cstep (cst0 n)) grpHold true).memPoisoned 0x10100 16 = false
      ∧ (sitI (.cstep (cst0 n)) grpHold true).plainL1 0 1) ∧ grpHold.inBody = true ∧ grpHold.inHandler = false ∧
    (grpHold.scalar 371 ++ grpHold.scalar 370 = (0x10200 : Dword)
      ∧ (match (sitI (.cstep (cst0 1)) grpHold true).translate 0 1 true (0x10200 : Dword) .write with | .ok r => !r.void | .error _ => false) = true) ∧
    (∀ h, (benchCm h).hasOp 0 0 grpCm (opCst 0) ∧ (benchCm h).capPa grpCm = some 0x10100 ∧ (benchCm h).memPoisoned 0x10100 16 = false
      ∧ grpCm.holds ((benchCm h).lock 0x10100) = h ∧ (benchCm h).homeWord (0x10100 + 8) = grpCm.cap.step) ∧
    (∀ h, (∀ m, Issues (.cape z0) m (sitI (.cape z0) grpHold h) grpHold frag0)
      ∧ (sitI (.cape z0) grpHold h).capPa grpHold = some 0x10100
      ∧ grpHold.holds ((sitI (.cape z0) grpHold h).lock 0x10100) = h ∧ (sitI (.cape z0) grpHold h).homeWord (0x10100 + 8) = grpHold.cap.step
      ∧ (sitI (.cape z0) grpHold h).memPoisoned 0x10100 16 = false ∧ (sitI (.cape z0) grpHold h).memPoisoned (0x10100 + 0x70) 8 = false
      ∧ (sitI (.cape z0) grpHold h).plainL1 0 1) ∧
    ((∀ m, Issues (.cape z0) m (sit (.cape z0) grpLost) grpLost frag0) ∧ (sit (.cape z0) grpLost).capPa grpLost = none) := by
  have rc : ∀ n : BitVec 1, ready (.cstep (cst0 n)) 1#32 (sitI (.cstep (cst0 n)) grpHold true) grpHold frag0 = true
      ∧ (sitI (.cstep (cst0 n)) grpHold true).capPa grpHold = some 0x10100 ∧ (sitI (.cstep (cst0 n)) grpHold true).memPoisoned 0x10100 16 = false := by decide
  have bc : ∀ h, (benchCm h).capPa grpCm = some 0x10100 ∧ (benchCm h).memPoisoned 0x10100 16 = false
      ∧ grpCm.holds ((benchCm h).lock 0x10100) = h ∧ (benchCm h).homeWord (0x10100 + 8) = grpCm.cap.step := by decide
  have ce : ∀ h, ready (.cape z0) 1#32 (sitI (.cape z0) grpHold h) grpHold frag0 = true
      ∧ (sitI (.cape z0) grpHold h).capPa grpHold = some 0x10100
      ∧ grpHold.holds ((sitI (.cape z0) grpHold h).lock 0x10100) = h ∧ (sitI (.cape z0) grpHold h).homeWord (0x10100 + 8) = grpHold.cap.step
      ∧ (sitI (.cape z0) grpHold h).memPoisoned 0x10100 16 = false ∧ (sitI (.cape z0) grpHold h).memPoisoned (0x10100 + 0x70) 8 = false := by decide
  refine ⟨fun i h => ⟨rfl, rfl, ?_⟩, rfl, rfl, fun n => ⟨any_issues _ _ _ _ rfl rfl (rc n).1, (rc n).2.1, (rc n).2.2, any_plain _ _ _ rfl rfl rfl⟩, rfl, rfl,
    ⟨by decide, by decide⟩, fun h => ⟨by cases h <;> exact ⟨rfl, rfl⟩, bc h⟩,
    fun h => ⟨any_issues _ _ _ _ (by cases h <;> rfl) (by cases h <;> rfl) (ce h).1, (ce h).2.1, (ce h).2.2.1, (ce h).2.2.2.1, (ce h).2.2.2.2.1, (ce h).2.2.2.2.2,
      any_plain _ _ _ (by cases h <;> rfl) (by cases h <;> rfl) (by cases h <;> rfl)⟩, ⟨sit_any _ _ _ rfl (by decide), by decide +kernel⟩⟩
  revert i; decide

/-- A group that waits on the lock, and a displaced owner. -/
def fragLk : Frag := { frag0 with wait := .lock rcd0 }
def grpLk : Grp := { grpCb with f0 := some fragLk }
def grpDis : Grp := { grpIn .displaced false rcd0 with adopt := 0 }

/-- The bench with the words of CAPB in its clause. -/
def benchCapb : State := { State.reset.loadTerkor (encode (.capb xn0)) with agenda := [], groups := [(0, grpLk)] }

/-- CapsuleOutcomes: CRES displaced, and in each outcome; a waiting CAPB whose lock is free; an owner that may adopt again. -/
theorem witness_CapsuleOutcomes :
    (∀ c ∈ [(CapSt.displaced, false), (.doneOwn, false), (.delivered, false), (.failed, false)],
      (∀ m, Issues (.cres z0) m (sit (.cres z0) (grpIn c.1 c.2 rcd0)) (grpIn c.1 c.2 rcd0) frag0) ∧ (sit (.cres z0) (grpIn c.1 c.2 rcd0)).plainL1 0 1) ∧
    (grpLk.cap.st ≠ .displaced ∧ grpLk.f0 = some fragLk ∧ (capMem 0x40 false (bench grpLk)).lockOpen grpLk rcd0 = true) ∧
    (match ((capMem 0x40 false benchCapb).setGrp 0 (grpLk.setFrag 0 (some { fragLk with wait := .none }))).turnOf 0 0 with
      | .run (.capb x) _ => decide (x = xn0) | _ => false) = true ∧
    (let s := capMem 0x46 false (bench grpDis)
     grpDis.cap.st = .displaced ∧ s.capPa grpDis = some 0x10100 ∧ grpDis.inHandler = false ∧ grpDis.escalated = false ∧ grpDis.life = .resident
      ∧ lwActive (s.lock 0x10100) = true ∧ lwDesched (s.lock 0x10100) = true ∧ lwFail (s.lock 0x10100) = false ∧ s.adoptDue grpDis 0x10100 = true
      ∧ lwGen (s.lock 0x10100) = grpDis.cap.gen) := by
  have r : [(CapSt.displaced, false), (.doneOwn, false), (.delivered, false), (.failed, false)].all
      (fun c => ready (.cres z0) 1#32 (sit (.cres z0) (grpIn c.1 c.2 rcd0)) (grpIn c.1 c.2 rcd0) frag0) = true := by decide
  refine ⟨fun c h => ⟨sit_any _ _ _ rfl (List.all_eq_true.mp r c h), any_plain _ _ _ rfl rfl rfl⟩, ⟨by decide, rfl, by decide⟩, by decide +kernel,
    rfl, by decide, rfl, rfl, rfl, by decide, by decide, by decide, by decide, by decide⟩

end Sys2Proof.Tests
end

