-- ==== Sys2Proof/Tests/WitCmd.lean ====
section
/-! SUPPORT. States and operands that meet the hypotheses of the claims about device commands, records and the service round. -/
namespace Sys2Proof.Tests
set_option Elab.async false
open Sys2Proof.Machine

/-- A command block, and an accepted command of context 0 from the physical function's page. -/
def blockC (code flags target : Nat) (p : List Byte) : List Byte :=
  leBytes 2 code ++ leBytes 2 flags ++ leBytes 2 target ++ List.replicate 10 0 ++ p ++ List.replicate (112 - p.length) 0
def cmdC (code flags target : Nat) (p : List Byte) : Cmd := ⟨blockC code flags target p, 0, none, some 384, some 0, [0], 0, 0, false, [], [], 0⟩
def begun (c : Cmd) : Cmd := { c with begun := true }

/-- A child of context 0, and the machine with it and a command. -/
def ctxC (st : CtxSt) : Ctx := { ctxInit with st := st, depth := 1 }
def benchD (c : Cmd) (k : Ctx) : State := { resetT with ctxs := [(0, { ctxRoot with root := 0x30000 }), (1, k)], cmds := [(0, c)] }

/-- What `State.cmdIs` asks, with the command new or begun. -/
def cmdTest (c : Cmd) (k : Ctx) (code : Nat) : Bool := decide (c.code = code) && (benchD c k).cmdReady c

theorem cmd_is (c : Cmd) (k : Ctx) (code : Nat) (h : cmdTest c k code = true) : (benchD c k).cmdIs 0 c code := by
  simp only [cmdTest, Bool.and_eq_true, decide_eq_true_eq] at h
  exact ⟨rfl, h.1, h.2⟩

/-- A group with a block address in scalar pair 2. -/
def dcmd0 : Cmd := { cmdC 1 0 0 [] with accepted := none, src := some (0, 1, 0x10100, none), vf := none }

/-- CommandTraffic and ControlFormsComplete: DCMD, a go word of the last function, a journal entry in order and one with no code, a command's end. -/
theorem witness_CommandTraffic :
    (∀ m, Issues (.dcmd xn0) m (sit (.dcmd xn0) grpCb) grpCb frag0) ∧ (∀ m, Issues (.dcmd ⟨[], 0, 2⟩) m (sit (.dcmd ⟨[], 0, 2⟩) grpCb) grpCb frag0) ∧
    blockTest (sit (.dcmd xn0) grpCb) grpCb rcd0 128 = true ∧
    rcd0.toNat % 128 = 0 ∧ ((384 : Nat) ≤ 384 ∧ State.reset.pkg.boot = .ready ∧ ({ State.reset.pkg with boot := .failed } : Pkg).boot = .failed) ∧
    (let s : State := { bench grp0 with cmds := [(0, dcmd0)] }
     Tab.find s.cmds 0 = some dcmd0 ∧ dcmd0.accepted = none ∧ s.svcDown 0 = false ∧ s.runs dcmd0.issuer = true ∧ s.svcNext dcmd0.die dcmd0.issuer = true) ∧
    ((cmdC 0x12 0 0 []).code = 0x12 ∧ (cmdC 0 0 0 []).code = 0 ∧ (cmdC 0x11 0 0 []).code = 0x11) ∧
    (({ bench grp0 with cmds := [] } : State).fwFault 1 true 0x10100 128 .write).isNone = false := by
  refine ⟨sit_any _ _ _ rfl (by decide), sit_any _ _ _ rfl (by decide), by decide +kernel, by decide, ⟨by decide, rfl, rfl⟩, ⟨rfl, rfl, by decide, by decide, by decide⟩, by decide, ?_⟩
  decide +kernel

/-- ContextCommands: CREATE; DESTROY and REVOKE of a child, new and begun; frames to wipe. -/
theorem witness_ContextCommands :
    (let c := cmdC 0x01 0 0 []
     (benchD c (ctxC .frozen)).cmdIs 0 c 0x01 ∧ c.clean 0 [(0x10, 8), (0x18, 2), (0x1C, 4)] = true ∧ c.f 0x10 8 % 4096 = 0
      ∧ (benchD c (ctxC .frozen)).worldOk 0 (c.f 0x18 2) = true ∧ c.target = 0 ∧ (benchD c (ctxC .frozen)).freeId = some 2 ∧ ((benchD c (ctxC .frozen)).ctxAt 0).depth < 4) ∧
    (∀ code ∈ [0x02, 0x0C], cmdTest (cmdC code 0 1 []) (ctxC .frozen) code = true ∧ cmdTest (begun (cmdC code 0 1 [])) (ctxC .frozen) code = true) ∧
    ((cmdC 0x02 0 1 []).clean 0 [] = true ∧ (benchD (cmdC 0x02 0 1 []) (ctxC .frozen)).isChild 0 1 = true
      ∧ (benchD (cmdC 0x02 0 1 []) (ctxC .frozen)).childrenOf 1 = [] ∧ (benchD (cmdC 0x02 0 1 []) (ctxC .frozen)).quiet ((benchD (cmdC 0x02 0 1 []) (ctxC .frozen)).subtree 1) = true) ∧
    ((ctxC .frozen).part = none) ∧
    (let s : State := { benchD (cmdC 0x02 0 1 []) { ctxC .frozen with mapBase := 0x50000, mapCount := 1 } with mem := tables ++ [(0x50000, 0x0F), (0x50002, 0x20)] }
     s.mapFrames 1 = [0x200000]) := by
  refine ⟨⟨cmd_is _ _ _ (by decide), by decide, by decide, by decide, by decide, by decide +kernel, by decide⟩, by decide, ⟨by decide, by decide, by decide, by decide⟩, rfl, by decide +kernel⟩

/-- GRANT_MEM with all four of its flags; GRANT_CORE within and beyond; the others. -/
def gm0 : Cmd := cmdC 0x04 0xF 1 (leBytes 8 0x40000 ++ leBytes 4 1 ++ leBytes 4 0 ++ leBytes 8 0x1000 ++ leBytes 8 8 ++ leBytes 8 0x200000 ++ leBytes 4 1)
def gc0 (share : Nat) : Cmd := cmdC 0x03 0 1 (leBytes 8 1 ++ leBytes 8 share)
def gq0 : Cmd := cmdC 0x05 3 1 (leBytes 8 0x40000 ++ leBytes 4 65536)
def gl0 : Cmd := cmdC 0x06 0 1 (leBytes 2 0xFFFF)
def sh0 : Cmd := cmdC 0x07 3 1 (leBytes 8 0x1000 ++ leBytes 1 16 ++ leBytes 1 0 ++ leBytes 2 127 ++ leBytes 4 0 ++ leBytes 8 8 ++ leBytes 8 16 ++ leBytes 8 0)

/-- GrantCommands: shares at 2^32 and beyond it (beside a second child), and each other command in order, at its limits. -/
theorem witness_GrantCommands :
    (∀ v ∈ [0, 2 ^ 32], cmdTest (gc0 v) (ctxC .frozen) 0x03 = true ∧ (gc0 v).clean 0 [(0x10, 16)] = true ∧ (gc0 v).f 0x10 8 < 2 ^ 48 ∧ (gc0 v).f 0x18 8 = v) ∧
    (let s : State := { benchD (gc0 (2 ^ 32)) (ctxC .frozen) with
        ctxs := [(0, { ctxRoot with root := 0x30000 }), (1, ctxC .frozen), (2, { ctxC .frozen with share := 1 })] }
     s.isChild 0 1 = true ∧ 2 ^ 32 < ((s.childrenOf 0).filter (fun o => decide (o ≠ 1))).foldl (fun a o => a + (s.ctxAt o).share) (2 ^ 32)) ∧
    (cmdTest gm0 (ctxC .frozen) 0x04 = true ∧ gm0.clean 0xF [(0x10, 12), (0x20, 28)] = true ∧ (benchD gm0 (ctxC .frozen)).isChild 0 1 = true ∧ gm0.flags = 15
      ∧ gm0.f 0x20 8 % 4096 = 0 ∧ gm0.f 0x28 8 % 8 = 0 ∧ gm0.f 0x30 8 % 2 ^ 21 = 0 ∧ gm0.f 0x10 8 % 8 = 0
      ∧ (benchD gm0 (ctxC .frozen)).contiguous 0 (gm0.f 0x10 8) (8 * gm0.f 0x18 4) = some (0x40000, true)
      ∧ ((benchD gm0 (ctxC .frozen)).grantMemory gm0 0x40000).joining 1 = some []) ∧
    (cmdTest gq0 (ctxC .frozen) 0x05 = true ∧ gq0.clean 3 [(0x10, 12), (0x20, 8)] = true ∧ gq0.f 0x10 8 % 64 = 0 ∧ 1 ≤ gq0.f 0x18 4 ∧ gq0.f 0x18 4 + 0 ≤ 65536) ∧
    (cmdTest gl0 (ctxC .frozen) 0x06 = true ∧ gl0.clean 0 [(0x10, 2), (0x18, 24)] = true) ∧
    (cmdTest sh0 (ctxC .frozen) 0x07 = true ∧ sh0.clean 3 [(0x10, 9), (0x1A, 2), (0x20, 64)] = true ∧ sh0.flags = 3 ∧ sh0.f 0x10 8 % 64 = 0 ∧ sh0.f 0x18 1 = 16
      ∧ sh0.f 0x1A 2 = 127 ∧ sh0.f 0x20 8 % 8 = 0 ∧ sh0.f 0x28 8 = 16 ∧ sh0.f 0x30 8 % 4 = 0 ∧ sh0.f 0x58 8 % 64 = 0 ∧ sh0.f 0x38 8 % 2 ^ 14 = 0
      ∧ sh0.f 0x40 8 % 2 ^ 16 = 0) := by
  refine ⟨?_, ?_, ?_, ?_, ?_, ?_⟩ <;> decide +kernel

/-- An image of nothing, whose bytes are none. -/
def image0 : Image := ⟨0, 1, 0, [], [], [], [], [], [], [], [], [], []⟩
def cp10 : Cmd := cmdC 0x0A 1 1 (leBytes 8 0x40000 ++ leBytes 8 0x1000)
def rs0 : Cmd := cmdC 0x0B 0 1 (leBytes 8 0x40000)
def benchIm (im : Image) : State := { benchD rs0 (ctxC .frozen) with pkg := { (benchD rs0 (ctxC .frozen)).pkg with images := [(3, im)] } }
def moved0 : Moved := ⟨0, 0, 0, 1, 1, clustersOf 0, clustersOf 0⟩

/-- StoppingAndImages: FREEZE new and begun, THAW with save areas that map and that do not; CHECKPOINT, whose image is of one size or the other; RESTORE of an
image that is covered and of one that is not. -/
theorem witness_StoppingAndImages :
    (cmdTest (cmdC 0x08 0 1 []) (ctxC .active) 0x08 = true ∧ (cmdC 0x08 0 1 []).clean 0 [] = true ∧ (benchD (cmdC 0x08 0 1 []) (ctxC .active)).isChild 0 1 = true) ∧
    (cmdTest (begun (cmdC 0x08 0 1 [])) (ctxC .frozen) 0x08 = true ∧ (benchD (begun (cmdC 0x08 0 1 [])) (ctxC .frozen)).quiet [1] = true
      ∧ (benchD (begun (cmdC 0x08 0 1 [])) (ctxC .frozen)).drainedPorts [1] = true
      ∧ ∀ p, p ∈ (benchD (begun (cmdC 0x08 0 1 [])) (ctxC .frozen)).cmds → p.2.begun = true → p.2.src ≠ none → p.2.issuer ∉ [1]) ∧
    (cmdTest (cmdC 0x09 0 1 []) (ctxC .frozen) 0x09 = true ∧ (benchD (cmdC 0x09 0 1 []) (ctxC .frozen)).saveOk 1 (ctxC .frozen).clMask = true
      ∧ (benchD (cmdC 0x09 0 1 []) { ctxC .frozen with clMask := 1 }).saveOk 1 1 = false) ∧
    (cmdTest cp10 (ctxC .frozen) 0x0A = true ∧ cp10.clean 1 [(0x10, 16), (0x20, 8)] = true ∧ cp10.f 0x10 8 % 4096 = 0 ∧ (benchD cp10 (ctxC .frozen)).worldMay cp10 = true
      ∧ (benchD cp10 (ctxC .frozen)).settled ((benchD cp10 (ctxC .frozen)).subtree 1) = true) ∧
    (cmdTest rs0 (ctxC .frozen) 0x0B = true ∧ rs0.clean 0 [(0x10, 8)] = true ∧ (benchIm image0).covers moved0 image0 = true
      ∧ (benchIm { image0 with groups := [(0, grp0)] }).covers moved0 { image0 with groups := [(0, grp0)] } = false) := by
  refine ⟨?_, ?_, ?_, ?_, ?_⟩ <;> decide +kernel

/-- FirmwareRounds: an error fence under way, its engines quiet. -/
theorem witness_FirmwareRounds_fence (w : FenceWhy) :
    let s := benchD (cmdC 1 0 0 []) { ctxC .fenced with errFence := some w }
    (s.ctxAt 1).errFence = some w ∧ (s.ctxAt 1).st = .fenced ∧ s.quiet [1] = true ∧ s.subtree 1 = [1] := ⟨rfl, rfl, rfl, by rfl⟩

theorem witness_StoppingAndImages_sizes (s : State) (c : Cmd) : c.f 0x18 8 < (s.takeImage c.target).size ∨ (s.takeImage c.target).size ≤ c.f 0x18 8 :=
  Nat.lt_or_ge _ _

theorem witness_StoppingAndImages_at (im : Image) (h : im.size = 0) : (benchIm im).imageAt 0 0x40000 = some (3, im) := by
  have r : (benchIm im).fwRead 0 true 0x40000 0 = some [] := rfl
  have e : (benchIm im).pkg.images = [(3, im)] := rfl
  have b : imageBytes 3 0 = [] := rfl
  simp only [State.imageAt, e, List.find?, h, r, b, decide_true]

def ds0 : Cmd := cmdC 0x0D 0 1 (leBytes 8 0 ++ leBytes 4 4096 ++ leBytes 4 0 ++ leBytes 8 0x40000)
def qy0 (t : Nat) : Cmd := cmdC 0x0E 0 t (leBytes 8 0x40000)
def gb0 (f n : Nat) : Cmd := cmdC 0x11 f 1 (leBytes 8 0x200000 ++ leBytes 4 n)

/-- ScansAndBumps. -/
theorem witness_ScansAndBumps :
    (cmdTest ds0 { ctxC .frozen with dirtyMap := some 0x60000 } 0x0D = true ∧ ds0.clean 0 [(0x10, 12), (0x20, 16)] = true ∧ ds0.f 0x18 4 = 4096
      ∧ ((benchD ds0 { ctxC .frozen with dirtyMap := some 0x60000 }).harvest 0 0x60000 0 2).isSome = true) ∧
    (∀ t ∈ [0, 1], cmdTest (qy0 t) (ctxC .fenced) 0x0E = true ∧ (qy0 t).clean 0 [(0x10, 8)] = true) ∧
    ((benchD (qy0 1) (ctxC .fenced)).fwWrite 0 true 0x40000 ((benchD (qy0 1) (ctxC .fenced)).queryBytes 1)).isSome = true ∧
    (∀ v ∈ [(0, 1), (0, 2 ^ 20), (1, 0)], cmdTest (gb0 v.1 v.2) (ctxC .active) 0x11 = true ∧ (gb0 v.1 v.2).clean 1 [(0x10, 12)] = true
      ∧ cmdTest (begun (gb0 v.1 v.2)) (ctxC .active) 0x11 = true ∧ (benchD (gb0 0 1) (ctxC .active)).accessesDone (begun (gb0 v.1 v.2)) = true) ∧
    (∀ b, b < 4 → (State.reset.dieAt b).regionGen = (State.reset.dieAt 0).regionGen) := by
  refine ⟨?_, ?_, ?_, ?_, ?_⟩ <;> decide +kernel

def bv0 (f fn : Nat) : Cmd := cmdC 0x0F f 1 (leBytes 2 fn)
def bp0 (f : Nat) : Cmd := cmdC 0x10 f 1 [15]
def part15 (x : Option Nat) : Partition := ⟨0, 0, [], 1, x⟩
def benchPt (f : Nat) (k : Ctx) (x : Option Nat) : State :=
  { benchD (bp0 f) k with pkg := { (benchD (bp0 f) k).pkg with partitions := [(15, part15 x)] } }
def ctxPt : Ctx := { ctxC .frozen with part := some 15 }

/-- BindCommands. -/
theorem witness_BindCommands :
    (∀ f ∈ [0, 1], cmdTest (bv0 f 383) (ctxC .active) 0x0F = true ∧ (bv0 f 383).clean 1 [(0x10, 2)] = true ∧ (benchD (bv0 f 383) (ctxC .active)).live 1 = true
      ∧ (benchD (bv0 f 383) (ctxC .active)).holdsVf 0 383 = true ∧ (benchD (bv0 f 383) (ctxC .active)).holdsVf 1 383 = false) ∧
    ((bp0 0).clean 3 [(0x10, 1)] = true ∧ (bp0 0).flags = 0 ∧ (bp0 0).f 0x10 1 = 15 ∧ (benchPt 0 (ctxC .frozen) none).idleCtx 1 = true ∧ cmdTest (bp0 0) (ctxC .frozen) 0x10 = true
      ∧ (benchPt 0 (ctxC .frozen) none).mapWithin 1 (part15 none) = true ∧ ((benchPt 0 (ctxC .frozen) none).ctxAt 1).clMask &&& ~~~(part15 none).clMask = 0) ∧
    (∀ f ∈ [1, 2], (bp0 f).clean 3 [(0x10, 1)] = true ∧ (bp0 f).flags = f ∧ (benchPt f ctxPt (some 1)).idleCtx 1 = true ∧ ((benchPt f ctxPt (some 1)).ctxAt 1).part = some 15
      ∧ cmdTest (bp0 f) ctxPt 0x10 = true ∧ cmdTest (begun (bp0 f)) ctxPt 0x10 = true ∧ (benchPt f ctxPt (some 1)).quiet [1] = true) := by
  refine ⟨?_, ?_, ?_⟩ <;> decide +kernel

/-- A record of class MEM about a group, and context 0 with a handler queue of 16 slots at 0x40000. -/
def rcd1 (dest : Nat) : Rcd := { rcdInit with cause := 0x10, subj := .group 0, dest := dest }
def ctxHq : Ctx := { ctxRoot with root := 0x30000, ring := 0x40000, lgsz := 4, mask := 127, replies := 0x48000, notify := 0x4C000 }
def benchRc (k : Ctx) (rs : List Rcd) (m : Sparse 8) : State := { resetT with mem := tables ++ m, ctxs := [(0, k), (1, ctxC .active)], records := rs }

/-- FirmwareRounds: what has waited 30 us exactly; a command with one copy; the throttle's two bounds; a record with room, and replies of 1, 2 and 3. -/
theorem witness_FirmwareRounds :
    (let s : State := { State.reset.modDie 0 (fun d => { d with clock := 30000 }) with
        records := [rcd1 0], cmds := [(0, { cmdC 1 0 0 [] with accepted := none })] }
     s.svcDown 0 = false ∧ (s.dieAt 0).calls.length = 0 ∧ s.records[0]? = some (rcd1 0) ∧ (rcd1 0).die = 0 ∧ s.lateIn 0 (rcd1 0).since = true
      ∧ s.recordBehind 0 (rcd1 0) = false ∧ s.cmdWaits 0 { cmdC 1 0 0 [] with accepted := none } = true ∧ s.lateIn 0 (cmdC 1 0 0 []).since = true) ∧
    ((benchD (cmdC 1 0 0 []) (ctxC .active)).svcDown 1 = false ∧ (cmdC 1 0 0 []).dies.length < 2 ∧ 1 ∉ (cmdC 1 0 0 []).dies) ∧
    ((64 * 2 < 129 ∧ 48 * 256 < 48 * 256 + 1) ∧ ((128 : Nat) ≤ 64 * 2 ∨ (32 * 256 : Nat) < 32 * 256) ∧ ((129 : Nat) ≤ 64 * 2 ∨ (32 * 256 - 1 : Nat) < 32 * 256)) ∧
    (let s := benchRc ctxHq [rcd1 0] []
     s.records[0]? = some (rcd1 0) ∧ s.svcDown (rcd1 0).die = false ∧ s.recordBehind 0 (rcd1 0) = false ∧ s.svcNext (rcd1 0).die (rcd1 0).ctx = true ∧ ctxHq.mask.getLsbD (rcd1 0).cls.bit = true ∧ ctxHq.posted.length < 2 ^ ctxHq.lgsz ∧ ctxHq.backlog = []
      ∧ (match ({ s with records := [] } : State).ringPut 0 0x40000 64 (fun n => (Tab.find ctxHq.posted n).isSome) (rcd1 0).bytes with | some (some _) => true | _ => false) = true) := by
  refine ⟨⟨by decide, by decide, rfl, rfl, by decide, by decide, by decide, by decide⟩, ⟨by decide, by decide, by decide⟩, by decide, rfl, by decide, by decide, by decide,
    by decide, by decide, rfl, by decide +kernel⟩

end Sys2Proof.Tests
end

