-- ==== Sys2Proof/Tests/WitDev.lean ====
section
/-! SUPPORT. States and operands that meet the hypotheses of the claims about service calls, launches, queues, scheduling and pre-emption. -/
namespace Sys2Proof.Tests
set_option Elab.async false
open Sys2Proof.Machine

def svc0 : SvcD := ⟨[], 124, 1⟩
def fragSv (w : Wait) : Frag := { frag0 with wait := w }
def grpSv (w : Wait) : Grp := { grp0 with f0 := some (fragSv w) }

/-- A call of group 0, as it stands in a ring and as it is served. -/
def call0 (imm : BitVec 24) : CallEntry := ⟨0, imm, 1, 0, 0, 0, 0, 0, 1, 0, 0, hdr0, 1, 0, List.replicate 32 [0, 0, 0, 0], [4, 5, 6, 7], true, false⟩

/-- The bench with calls in die 0's ring and at its service core. -/
def benchSv (i : Instr) (g : Grp) (n : Nat) : State := (sit i g).modDie 0 (fun d => { d with calls := List.replicate n (call0 1) })
def benchRp (imm : BitVec 24) (gs : Tab Grp) : State := { (bench grp0).modDie 0 (fun d => { d with serving := [call0 imm] }) with groups := gs }

/-- ServiceCalls and ControlFormsComplete: a full ring of 256 calls of the context, one of 255, the reply there. -/
theorem witness_ServiceCalls :
    (Tab.find (bench (grpSv (.service 0))).groups 0 = some (grpSv (.service 0)) ∧ (grpSv (.service 0)).frag 0 = some (fragSv (.service 0))
      ∧ (grpSv (.service 0)).mayIssue (fragSv (.service 0)) = true ∧ (bench (grpSv (.service 0))).plainL1 0 1) ∧
    (∀ n ∈ [255, 256], Issues (.svcD svc0) frag0.mask (benchSv (.svcD svc0) grp0 n) grp0 frag0 ∧ (benchSv (.svcD svc0) grp0 n).plainL1 0 1
      ∧ coreDie 0 < (benchSv (.svcD svc0) grp0 n).dies.length
      ∧ Issues (.svcC svc0) frag0.mask (benchSv (.svcC svc0) grp0 n) grp0 frag0 ∧ (benchSv (.svcC svc0) grp0 n).plainL1 0 1) ∧
    (benchSv (.svcD svc0) grp0 255).ringFull 0 1 = false ∧ (benchSv (.svcD svc0) grp0 256).ringFull 0 1 = true := by
  exact ⟨⟨rfl, rfl, by decide, any_plain _ _ _ rfl rfl rfl⟩, fun n _ => ⟨any_issues _ _ _ _ rfl rfl rfl _, any_plain _ _ _ rfl rfl rfl, (by decide : 0 < 4),
    any_issues _ _ _ _ rfl rfl rfl _, any_plain _ _ _ rfl rfl rfl⟩, by decide +kernel, by decide +kernel⟩

/-- ServiceSteps: a request to serve; replies to a call, to a control call, to one whose caller is gone. -/
theorem witness_ServiceSteps :
    (0 < ((bench grp0).modDie 0 (fun d => { d with calls := [call0 1] })).dies.length
      ∧ ((bench grp0).modDie 0 (fun d => { d with calls := [call0 1] })).svcDown 0 = false
      ∧ (((bench grp0).modDie 0 (fun d => { d with calls := [call0 1] })).dieAt 0).calls = [call0 1]
      ∧ ((bench grp0).modDie 0 (fun d => { d with calls := [call0 1] })).callHandler (call0 1) = none
      ∧ ((bench grp0).modDie 0 (fun d => { d with calls := [call0 1] })).svcNext 0 (call0 1).ctx = true) ∧
    ((benchRp 1 [(0, grpSv (.service 1))]).callOf 0 1 = some (.die 0, call0 1) ∧ (call0 1).control = false ∧ (call0 1).lines.Nodup
      ∧ (∀ ln, ln ∈ (call0 1).lines → ln < (grpSv (.service 1)).nlines) ∧ (call0 1).n < 2 ^ 64
      ∧ (grpSv (.service 1)).canLand (call0 1).lines = true) ∧
    ((benchRp 1 []).callOf 0 1 = some (.die 0, call0 1) ∧ Tab.find (benchRp 1 []).groups 0 = none) ∧
    ((benchRp 0x800000 [(0, grp0)]).callOf 0 1 = some (.die 0, call0 0x800000) ∧ (call0 0x800000).control = true ∧ (call0 0x800000).lost = false) :=
  ⟨⟨by decide, by decide, rfl, by decide, by decide⟩, ⟨rfl, by decide, by decide, by decide, by decide, by decide⟩, ⟨rfl, rfl⟩, rfl, by decide, rfl⟩

/-- A group that waits, with a parking delay of 0; one that is parked and may go on; one that has nothing left. -/
def grpPk : Grp := { grp0 with life := .waiting, parkns := 0, f0 := some { frag0 with wait := .path .ld 0 }, paths := [(0, 1#8)] }
def grpRt : Grp := { grp0 with life := .parked }
def grpGone : Grp := { grp0 with f0 := none }

/-- ParkingAndRetiring. -/
theorem witness_ParkingAndRetiring :
    ((bench grpPk).parkDue grpPk = true ∧ grpPk.cap.body = false ∧ grpPk.cstepOp = none ∧ grpPk.atService = false) ∧
    ((bench grpRt).returnDue grpRt = true ∧ (∀ p, p ∈ grpRt.allFrags → ∀ a q m, p.2.wait ≠ .regx a q m) ∧ 0 ∉ ((bench grpRt).roomOf 0 1).slots) ∧
    (grpGone.f0 = none ∧ grpGone.f1 = none ∧ grpGone.split = [] ∧ (∀ i, i < 12 → grpGone.flagVal i = 0) ∧ (∀ i, i < 4 → Sparse.get grpGone.paths i = 0)
      ∧ grpGone.deferred = [] ∧ grpGone.raised = [] ∧ grpGone.preQueue = [] ∧ grpGone.frame = none ∧ grpGone.escalated = false ∧ grpGone.life.onCore = true
      ∧ ∀ l, Tab.find (bench grpGone).launches grpGone.launch = some l → l.r.tG = true → grpGone.team = 0 → grpGone.froze.1 = true) := by
  refine ⟨⟨by decide, rfl, by decide, by decide⟩, ⟨by decide, fun p hp a q m => ?_, by decide⟩, rfl, rfl, rfl, by decide, by decide, rfl, rfl, rfl, rfl, rfl, rfl, fun l h ht => ?_⟩
  · have e : grpRt.allFrags.all (fun p => decide (p.2.wait = .none)) = true := by decide
    have w := of_decide_eq_true (List.all_eq_true.mp e p hp)
    rw [w]; intro h; cases h
  · have e : Tab.find (bench grpGone).launches grpGone.launch = some { loadLaunch with codeMark := 0 } := rfl
    rw [e] at h
    rw [← Option.some.inj h] at ht
    cases ht

/-- A group that launches, with scalar pair 2 at a record, and one with four launches pending. -/
def pend0 : PendingLaunch := ⟨0, 1, 0, true, List.replicate 64 0, 1, 0, none, 0, 0, 0, 128, true⟩
def grpLa (n : Nat) : Grp := { grp0 with s := [(2, 0x10100#32)], pend := List.replicate n pend0 }

/-- LaunchIssue and ControlFormsComplete. -/
theorem witness_LaunchIssue :
    (∀ n ∈ [3, 4], ∀ m, Issues (.launch xn0) m (sit (.launch xn0) (grpLa n)) (grpLa n) frag0) ∧ (grpLa 3).pend.length < 4 ∧ 4 ≤ (grpLa 4).pend.length ∧
    (∀ m, Issues (.launch ⟨[], 0, 2⟩) m (sit (.launch ⟨[], 0, 2⟩) (grpLa 0)) (grpLa 0) frag0) ∧
    blockTest (sit (.launch xn0) (grpLa 3)) (grpLa 3) 0x10100 64 = true := by
  have r : [3, 4].all (fun n => ready (.launch xn0) 1#32 (sit (.launch xn0) (grpLa n)) (grpLa n) frag0) = true := by decide
  exact ⟨fun n h => sit_any _ _ _ rfl (List.all_eq_true.mp r n h), by decide, by decide, sit_any _ _ _ rfl (by decide), by decide +kernel⟩

/-- A record in order: one team of 32 lanes, one compute group of 8 lines, 16 scalars, 1 KiB of window. -/
def rec0 : List Byte := leBytes 64 0x4000000000000410000100002000000000000000000001000100000001000000000000000000000000000000000000000000010000
def benchLa : State := bench { grpLa 0 with pend := [{ pend0 with rcd := rec0 }] }
def over0 : Launch := { loadLaunch with done := 1 }
def acc0 : Accepting := ⟨0, 0, true, none, none, 0, none, 0, 128, true, none⟩

/-- LaunchSteps: a record that is accepted, a launch made of it, one whose work is over, and a completion block of context 0. -/
theorem witness_LaunchSteps :
    (leastBy (fun p => if (benchLa.dieAt 0).rr < p.1 then p.1 else p.1 + 2 ^ 64) ((benchLa.pendHeads 0).filter (fun p => benchLa.pendReady p.2)) = some (0, { pend0 with rcd := rec0 })
      ∧ benchLa.procFree 0 = true ∧ (readRecord rec0).valid = true ∧ benchLa.poolFits 1 (({ pend0 with rcd := rec0 } : PendingLaunch).lower (readRecord rec0)) = true) ∧
    ((readRecord rec0).valid = true ∧ acc0.privOk = true ∧ benchLa.grantOk 0 (readRecord rec0) = true ∧ acc0.queue = none ∧ acc0.absolute = none
      ∧ (benchLa.preloadWords 0 0 (readRecord rec0) 0 (readRecord rec0).npre).1 = some []) ∧
    (∀ s : State, s.launchOver 0 { over0 with r := { over0.r with gx := 0 } } = true ∧ s.earlierOpen over0 = false) ∧
    ((0x20000 : Dword) ≠ 0 ∧ (match resetT.walkVa 0 0 true 0x20000 .atomic with
      | .ok r => !r.void && r.tr.dsets.isEmpty && decide (r.pa = 0x20000) | .error _ => false) = true
      ∧ ∀ c, c ∈ resetT.chain 0 → (resetT.ctxAt c).dirtyMap = none) :=
  ⟨⟨by decide +kernel, by decide +kernel, by decide +kernel, by decide +kernel⟩, ⟨by decide +kernel, rfl, by decide +kernel, rfl, rfl, by decide +kernel⟩, fun _ => ⟨rfl, rfl⟩, by decide +kernel, by decide +kernel, by decide +kernel⟩

end Sys2Proof.Tests
end

