-- ==== Sys2Proof/Tests/WitLanes.lean ====
section
/-! SUPPORT. Every lane, compare and scalar instruction, and every word that leaves an operation outstanding, has a state and operands that
meet the hypotheses of its claim. -/
namespace Sys2Proof.Tests
set_option Elab.async false
open Sys2Proof.Machine

def intIs : List Instr :=
  [.iadd v3, .isub v3, .imul v3, .imulh v3, .imulhu v3, .imad v3, .imin v3, .imax v3, .umin v3, .umax v3, .iabs v2, .ineg v2, .iand v3,
   .ior v3, .ixor v3, .inot v2, .ishl v3, .ishr v3, .isra v3, .irot v3, .iclz v2, .ipopc v2, .ibrev v2, .ibfx v3, .ubfx v3, .ibfi v3]
  ++ [.idot4 v3, .isad v3, .iaddsat v3, .isubsat v3, .iadd ⟨[.prio 1, .subab 16 383], 0, 127, 0, 0⟩, .iadd ⟨[.himm 0xF, .himm 0], 7, 0, 127, 0⟩]

def floatIs : List Instr :=
  [.fadd v3, .fsub v3, .fmul v3, .ffma v3, .fmin v3, .fmax v3, .fabs v2, .fneg v2, .ffloor v2, .fceil v2, .ftrunc v2, .frint v2, .fclass v2,
   .fscale v3, .hadd2 v3, .hmul2 v3, .hfma2 v3, .hmin2 v3, .hmax2 v3, .badd2 v3, .bmul2 v3, .bfma2 v3, .bmin2 v3, .bmax2 v3]
  ++ [.pack v3, .ffma ⟨[.mod 0x1C], 7, 4, 4, 4⟩]

def moveIs : List Instr :=
  [.mov ⟨[], 7, 4, 8⟩, .sel v3, .getl v3, .setl v3, .shfl v3, .vote v2, .p2v ⟨[], 7, 4⟩, .mov ⟨[.himm 1], 3, 4, 0⟩]

theorem int_ready : intIs.all (fun i => ready i 1#32 (sit i grp0) grp0 frag0) = true := by decide
theorem float_ready : floatIs.all (fun i => ready i 1#32 (sit i grp0) grp0 frag0) = true := by decide
theorem move_ready : moveIs.all (fun i => ready i 1#32 (sit i grp0) grp0 frag0) = true := by decide

/-- LaneResults. -/
theorem witness_LaneResults :
    (∀ i ∈ intIs, ∃ u, intRule i = some u ∧ Issues i (u.act grp0 frag0) (sit i grp0) grp0 frag0) ∧
    (∀ i ∈ floatIs, ∃ u, floatRule i = some u ∧ Issues i (u.act grp0 frag0) (sit i grp0) grp0 frag0) ∧
    (∀ i ∈ moveIs, ∃ u, moveRule i = some u ∧ Issues i (u.act grp0 frag0) (sit i grp0) grp0 frag0 ∧ grp0.canLand [grp0.vline u.d] = true) := by
  refine ⟨fun i h => ?_, fun i h => ?_, fun i h => ?_⟩
  · have r := all_issue intIs int_ready i h
    have e : (intRule i).isSome = true := List.all_eq_true.mp (show intIs.all (fun i => (intRule i).isSome) = true by decide) i h
    obtain ⟨u, hu⟩ := Option.isSome_iff_exists.mp e
    exact ⟨u, hu, r _⟩
  · have r := all_issue floatIs float_ready i h
    have e : (floatRule i).isSome = true := List.all_eq_true.mp (show floatIs.all (fun i => (floatRule i).isSome) = true by decide) i h
    obtain ⟨u, hu⟩ := Option.isSome_iff_exists.mp e
    exact ⟨u, hu, r _⟩
  · have r := all_issue moveIs move_ready i h
    have e : (moveRule i).isSome = true := List.all_eq_true.mp (show moveIs.all (fun i => (moveRule i).isSome) = true by decide) i h
    obtain ⟨u, hu⟩ := Option.isSome_iff_exists.mp e
    exact ⟨u, hu, r _, rfl⟩

def efIs : List Instr := [.cvtefF8a v3, .cvtefF8b v3, .cvtefF4 v3, .cvtefH16 v3, .cvtefB16 v3, .cvtefI8 v3]
theorem ef_ready : efIs.all (fun i => ready i 1#32 (sit i grp0) grp0 frag0) = true := by decide

def wideIs : List Instr := [.redux v2, .redux ⟨[.mod 0x1F], 7, 4, 6⟩, .redux ⟨[.mod 0x06], 0, 4, 6⟩, .iaddw v3, .imadw v3, .cvt ⟨[], 7, 4, 6, 0, 15⟩, .cvt ⟨[], 7, 4, 6, 1, 0⟩]
theorem wide_ready : wideIs.all (fun i => ready i 1#32 (sit i grp0) grp0 frag0) = true := by decide

/-- WideAndReducedResults: every REDUX width and function admitted, both pair forms, CVT with and without a pair, and error feedback. -/
theorem witness_WideAndReducedResults :
    (∀ i ∈ wideIs, ∀ m, Issues i m (sit i grp0) grp0 frag0) ∧
    (∀ i ∈ efIs, ∃ x e, feedbackRule i = some (x, e) ∧ ∀ m, Issues i m (sit i grp0) grp0 frag0) := by
  refine ⟨fun i h m => all_issue wideIs wide_ready i h m, fun i h => ?_⟩
  have e : (feedbackRule i).isSome = true := List.all_eq_true.mp (show efIs.all (fun i => (feedbackRule i).isSome) = true by decide) i h
  obtain ⟨u, hu⟩ := Option.isSome_iff_exists.mp e
  exact ⟨u.1, u.2, hu, all_issue efIs ef_ready i h⟩

def cmpIs : List Instr :=
  [.icmpEq cm, .icmpNe cm, .icmpLt cm, .icmpLe cm, .icmpGt cm, .icmpGe cm, .icmpLtu cm, .icmpLeu cm, .icmpGtu cm, .icmpGeu cm, .fcmpEq cm,
   .fcmpNe cm, .fcmpLt cm, .fcmpLe cm, .fcmpGt cm, .fcmpGe cm, .fcmpUn cm, .fcmpOr cm, .icmpEq ⟨[], 4, 7, 6, 4, 5⟩]
def scmpIs : List Instr := [.scmpEq cm, .scmpNe cm, .scmpLt cm, .scmpLtu cm]
def scalarIs : List Instr :=
  [.sadd s3, .ssub s3, .smul s3, .smulh s3, .sand s3, .sor s3, .sxor s3, .sshl s3, .sshr s3, .ssra s3, .smin s3, .smax s3, .sfadd s3,
   .sfmul s3, .sffma s3, .smovw ⟨[], 7, 383, 256⟩, .sadd ⟨[], 0, 4, 6, 8⟩]
def predIs : List Instr :=
  [.plop ⟨[], 7, 3, 1, 2, 7, 0x80⟩, .plop ⟨[], 7, 7, 1, 2, 7, 0x80⟩, .v2p ⟨[], 7, 4, 6⟩, .rdsr ⟨[], 7, 4, 0, 0, 0⟩, .rdsr ⟨[], 7, 4, 1, 1, 0x100⟩,
   .rdsr ⟨[], 7, 5, 1, 0, 0x11⟩, .wrsr ⟨[], 4, 1, 0x100⟩, .wrsr ⟨[], 4, 0, 0x12⟩, .wrsr ⟨[], 4, 0, 0x14⟩, .rdtime ⟨[], 7, 4⟩, .rdtime ⟨[], 0, 4⟩]
theorem cmp_ready : (cmpIs ++ scmpIs).all (fun i => ready i 1#32 (sit i grp0) grp0 frag0) = true := by decide
theorem scalar_ready : scalarIs.all (fun i => ready i 1#32 (sit i grp0) grp0 frag0) = true := by decide
theorem pred_ready : predIs.all (fun i => ready i 1#32 (sit i grp0) grp0 frag0) = true := by decide

/-- ComparesAndScalars: a scalar operation with its guard true and with it false. -/
theorem witness_ComparesAndScalars :
    (∀ i ∈ cmpIs, ∃ u, compareRule i = some u ∧ Issues i frag0.mask (sit i grp0) grp0 frag0) ∧
    (∀ i ∈ scmpIs, ∃ u, scalarCompareRule i = some u ∧ Issues i frag0.mask (sit i grp0) grp0 frag0) ∧
    (∀ i ∈ scalarIs, ∃ u, scalarRule i = some u ∧ Issues i (grp0.guarded frag0 u.k) (sit i grp0) grp0 frag0) ∧
    (∀ i ∈ predIs, ∀ m, Issues i m (sit i grp0) grp0 frag0) ∧ grp0.upred 7 = true ∧ grp0.upred 0 = false := by
  refine ⟨fun i h => ?_, fun i h => ?_, fun i h => ?_, fun i h m => all_issue predIs pred_ready i h m, by decide, by decide⟩
  · have e : (compareRule i).isSome = true := List.all_eq_true.mp (show cmpIs.all (fun i => (compareRule i).isSome) = true by decide) i h
    obtain ⟨u, hu⟩ := Option.isSome_iff_exists.mp e
    exact ⟨u, hu, all_issue _ cmp_ready i (List.mem_append_left _ h) _⟩
  · have e : (scalarCompareRule i).isSome = true := List.all_eq_true.mp (show scmpIs.all (fun i => (scalarCompareRule i).isSome) = true by decide) i h
    obtain ⟨u, hu⟩ := Option.isSome_iff_exists.mp e
    exact ⟨u, hu, all_issue _ cmp_ready i (List.mem_append_right _ h) _⟩
  · have e : (scalarRule i).isSome = true := List.all_eq_true.mp (show scalarIs.all (fun i => (scalarRule i).isSome) = true by decide) i h
    obtain ⟨u, hu⟩ := Option.isSome_iff_exists.mp e
    exact ⟨u, hu, all_issue _ scalar_ready i h _⟩

def opIs : List Instr :=
  [.ldW v3, .ldD v3, .ldQ v3, .ldN v3, .stW v3, .stD v3, .stQ v3, .stN v3, .ldl v3, .stl v3, .ldw v3, .sld s3, .sst s3, .satom s3,
   .pref ⟨[], 7, 6, 8⟩, .cwb ⟨[], 7, 6, 8⟩, .cinv ⟨[], 7, 6, 8⟩, .cinvP ⟨[], 7, 6, 8⟩]
  ++ [.atom v3, .atomr v3, .atoml v3, .cas v3, .casl v3, .tex ⟨[], 7, 4, 8, 2⟩, .tld ⟨[], 0, 4, 8, 2⟩, .frcp v2, .frsq v2, .fsqrt v2, .fex2 v2,
   .flg2 v2, .fsin v2, .fcos v2, .ftanh v2, .ldW ⟨[.mod 0x200, .himm 4], 7, 4, 6, 8⟩]
theorem op_ready : opIs.all (fun i => ready i 1#32 (sit i grp0) grp0 frag0) = true := by decide

/-- The bench with a stack region for its context (17 R359). -/
def stackBench (i : Instr) : State := (sit i grp0).setCtx 1 { (sit i grp0).ctxAt 1 with stackBase := 0x40000 }

/-- AccessIssue: every instruction of `opRule`, LDK and STK under a context with a stack region. -/
theorem witness_AccessIssue :
    (∀ i ∈ opIs, ∃ u, opRule i = some u ∧ Issues i (u.act grp0 frag0) (sit i grp0) grp0 frag0) ∧
    (∀ i ∈ [Instr.ldk ⟨[], 7, 4⟩, .stk ⟨[.himm 2044], 7, 4⟩], ∃ u, opRule i = some u ∧
      Issues i (u.act grp0 frag0) (stackBench i) grp0 frag0 ∧ ((stackBench i).ctxAt grp0.ctx).stackBase ≠ 0) ∧
    (∃ i, i ∈ opIs ∧ grp0.upred ((opRule i).getD ⟨fun _ _ => 0, 0, 0, fun _ => 0, fun _ _ => [], fun _ => 0⟩).k = false) := by
  refine ⟨fun i h => ?_, fun i h => ?_, ⟨.tld ⟨[], 0, 4, 8, 2⟩, by decide, by decide⟩⟩
  · have e : (opRule i).isSome = true := List.all_eq_true.mp (show opIs.all (fun i => (opRule i).isSome) = true by decide) i h
    obtain ⟨u, hu⟩ := Option.isSome_iff_exists.mp e
    exact ⟨u, hu, all_issue _ op_ready i h _⟩
  · rcases List.mem_cons.mp h with rfl | h
    · exact ⟨_, rfl, ready_issues _ _ _ _ _ rfl rfl (by decide), by decide⟩
    · rcases List.mem_cons.mp h with rfl | h
      · exact ⟨_, rfl, ready_issues _ _ _ _ _ rfl rfl (by decide), by decide⟩
      · cases h

end Sys2Proof.Tests
end

