-- ==== Sys2Proof/Tests/WitSync.lean ====
section
/-! SUPPORT. States and operands that meet the hypotheses of the claims about arrivals, numbers, register budgets, roasts and matrix issue. -/
namespace Sys2Proof.Tests
set_option Elab.async false
open Sys2Proof.Machine

def arr0 : Arr := ⟨[], 7, 2, 1, 63, 4⟩
def tl63 : Tli := ⟨[], 7, 63, 3⟩
def pst0 : Pst := ⟨[], 7, 0, 2, 15⟩

/-- Timeline 3 one short of its end. -/
def grpN : Grp := { grp0 with tlc := [(3, 0xFFFFFFFFFFFFFFFF#64)], tln := [(3, 0xFFFFFFFFFFFFFFFF#64)] }

/-- A load is open, so that TLINC's numbers are not complete at once. -/
def op0 (i : Instr) : Op := {
  instr := i, words := encode i, pc := hdr0, slot := 0, kind := 0, m := 1, todo := 1, passed := true, flag := some 0, path := pathOf i, base := 0x10100
  slots := [List.replicate 32 0], lines := [4], reads := [], locs := [(0, .mem 0x10100 [0x10100])], locs2 := [], n := 0, obj := none, rel := false, landed := 0
  view := ⟨0, 0, 0⟩, ord := 0, body := false, after := [], fm := BitVec.allOnes 32 }
def grpO (i : Instr) : Grp := { grp0 with ops := [(0, op0 i)], opNext := 1, flags := [(0, 1#6)], paths := match pathOf i with | some p => [(p.num, 1#8)] | none => [] }

/-- ArrivalsAndNumbers: with the guard true and false; 64 numbers that fit and one that does not; an access open and none. -/
theorem witness_ArrivalsAndNumbers :
    ((∀ m, Issues (.arrv arr0) m (sit (.arrv arr0) grpB) grpB frag0) ∧ (sit (.arrv arr0) grpB).winLoc grpB (grpB.scalar 2) = some (0, 16)) ∧
    (∀ i ∈ [Instr.arrv { arr0 with k := 0 }, .tlinc { tl63 with k := 0 }, .tlinc tl63, .pset pst0, .pset { pst0 with k := 0 }], ∀ m, Issues i m (sit i grp0) grp0 frag0) ∧
    ((grp0.tlLast 3).toNat + 64 < 2 ^ 64 ∧ grp0.openAccesses = [] ∧ grp0.tlDone 3 = grp0.tlLast 3) ∧
    ((∀ m, Issues (.tlinc tl63) m (sit (.tlinc tl63) (grpO (.ldW v3))) (grpO (.ldW v3)) frag0) ∧ (grpO (.ldW v3)).openAccesses ≠ []) ∧
    ((∀ m, Issues (.tlinc { tl63 with c := 0 }) m (sit (.tlinc { tl63 with c := 0 }) grpN) grpN frag0) ∧ 2 ^ 64 ≤ (grpN.tlLast 3).toNat + 1) :=
  ⟨⟨sit_any _ _ _ rfl (by decide), by decide⟩, all_issue _ (by decide), ⟨by decide, by decide, by decide⟩, ⟨sit_any _ _ _ rfl (by decide), by decide⟩,
    sit_any _ _ _ rfl (by decide), by decide⟩

/-- REGX of a compute group to `n` lines of eight. -/
def rgx (n : BitVec 7) : Rgx := ⟨[], 7, 2, 2, n⟩
def grpX (lines : Nat) (w : Wait) (overs : Bool) : Grp :=
  { grpB with nlines := lines, role := 1, overs := overs, f0 := some { frag0 with wait := w } }
def fragX (w : Wait) : Frag := { frag0 with wait := w }

/-- The bench with barrier object 0x10 in phase 1. -/
def benchX (n : BitVec 7) (g : Grp) : State := { sit (.regx (rgx n)) g with
  cores := Tab.put (sit (.regx (rgx n)) g).cores 0 { (sit (.regx (rgx n)) g).coreAt 0 with win := [(16, 1#8)], pools := [⟨0, 0, [64, 64, 64, 64, 64, 64, 64, 64], []⟩] } }

/-- The same pool with group 0 first among those that wait for lines. -/
def benchG : State := (benchX 16 (grpX 64 (.grow 128) false)).setPool 0 ⟨0, 0, [8, 8, 8, 8, 8, 8, 8, 8], [0]⟩

/-- BudgetExchange: it arrives; the phase over, the budget falls, stays, grows with and without residency; the grown group goes on; a grow is met. -/
theorem witness_BudgetExchange :
    (∀ m, Issues (.regx { rgx 16 with k := 0 }) m (sit (.regx { rgx 16 with k := 0 }) grpB) grpB frag0) ∧
    ((∀ m, Issues (.regx (rgx 16)) m (sit (.regx (rgx 16)) (grpX 64 .none false)) (grpX 64 .none false) frag0)
      ∧ (sit (.regx (rgx 16)) (grpX 64 .none false)).winLoc (grpX 64 .none false) 0x10 = some (0, 16)) ∧
    (∀ c ∈ [(8, false), (16, false), (32, false), (32, true)], let g := grpX 128 (.regx 0x10 true (8 * c.1)) c.2
      let s := sit (.regx (rgx (BitVec.ofNat 7 c.1))) g
      ready (.regx (rgx (BitVec.ofNat 7 c.1))) 1#32 s g (fragX (.regx 0x10 true (8 * c.1))) = true ∧ s.winLoc g 0x10 = some (0, 16) ∧ s.objPhase 0 16 ≠ true) ∧
    (8 * 8 < (grpX 128 .none false).nlines ∧ 8 * 16 = (grpX 128 .none false).nlines ∧ (grpX 128 .none false).nlines < 8 * 32) ∧
    (∀ m, Issues (.regx (rgx 16)) m (sit (.regx (rgx 16)) (grpX 128 (.grow 128) false)) (grpX 128 (.grow 128) false) (fragX (.grow 128))) ∧
    (let g := grpX 64 (.grow 128) false
     Tab.find benchG.groups 0 = some g ∧ g.f0 = some (fragX (.grow 128)) ∧ g.nlines < 128 ∧ (benchG.poolOf g).grows = [0] ∧ benchG.shrinkDue g = false
      ∧ coverBanks (benchG.poolOf g).free (linesByBank g.slot g.nlines 128) = true) :=
  ⟨sit_any _ _ _ rfl (by decide), ⟨sit_any _ _ _ rfl (by decide), by decide⟩, by decide, by decide, sit_any _ _ _ rfl (by decide),
    rfl, rfl, by decide, by decide, by decide, by decide⟩

/-- A launch with template levels, its grid roast open, and the prologue team's one or two groups. -/
def launchG (n : Nat) (tT : Bool) : Launch := { loadLaunch with r := { loadLaunch.r with tG := true, tT := tT, nC := n }, roast := some 0 }
def roast0 : Roast := ⟨0, false, [], [], [], none⟩
def benchF (i : Instr) (g : Grp) (l : Launch) : State := { sit i g with launches := [(0, l)], roasts := [(0, roast0)], nextRoast := 1 }
def fragF : Frag := { frag0 with wait := .freeze }

theorem bench_plainF (i : Instr) (g : Grp) (l : Launch) (h : (benchF i g l).chain g.ctx = [1]) : (benchF i g l).plainL1 0 g.ctx := by
  refine ⟨fun l hl => absurd hl (by simp [benchF, sit, bench, State.coreAt, State.loadTerkor, Tab.findD, Tab.find, Tab.put, State.reset, coreInit]), fun c hc => ?_⟩
  rw [h] at hc
  rw [List.mem_singleton.mp hc]
  rfl

/-- Freezing and ControlFormsComplete: the stall over; the first of two groups and the last; a group that stands open; the seal; FREEZE.T. -/
theorem witness_Freezing :
    ((∀ m, Issues (.freezeG z0) m (sit (.freezeG z0) { grp0 with f0 := some fragF }) { grp0 with f0 := some fragF } fragF) ∧ grp0.stalled = false) ∧
    (∀ n ∈ [1, 2], (∀ m, Issues (.freezeG z0) m (benchF (.freezeG z0) grp0 (launchG n false)) grp0 frag0)
      ∧ Freezes (benchF (.freezeG z0) grp0 (launchG n false)) grp0 frag0 (launchG n false) false
      ∧ (benchF (.freezeG z0) grp0 (launchG n false)).plainL1 grp0.core grp0.ctx) ∧
    (∀ r, (Tab.put roast0.parts grp0.idx r).length = 1) ∧
    ((∀ m, Issues (.freezeG z0) m (benchF (.freezeG z0) (grpO (.ldW v3)) (launchG 1 false)) (grpO (.ldW v3)) frag0) ∧ (grpO (.ldW v3)).drained = false
      ∧ grp0.froze = (false, false)) ∧
    Tab.find (benchF (.freezeG z0) grp0 (launchG 1 false)).roasts 0 = some roast0 ∧
    ((∀ m, Issues (.freezeT z0) m (benchF (.freezeT z0) grp0 (launchG 1 true)) grp0 frag0)
      ∧ Freezes (benchF (.freezeT z0) grp0 (launchG 1 true)) grp0 frag0 (launchG 1 true) true) := by
  refine ⟨⟨sit_any _ _ _ rfl (by decide), rfl⟩, fun n h => ?_, fun _ => rfl, ⟨any_issues _ _ _ _ rfl rfl (by decide), by decide, rfl⟩, rfl,
    any_issues _ _ _ _ rfl rfl (by decide), rfl, rfl, rfl, rfl, rfl, by decide, by decide, by decide, rfl, by decide, by decide⟩
  rcases List.mem_cons.mp h with rfl | h
  · exact ⟨any_issues _ _ _ _ rfl rfl (by decide), ⟨rfl, rfl, rfl, rfl, rfl, by decide, by decide, by decide, rfl, by decide, by decide⟩, bench_plainF _ _ _ rfl⟩
  · rcases List.mem_cons.mp h with rfl | h
    · exact ⟨any_issues _ _ _ _ rfl rfl (by decide), ⟨rfl, rfl, rfl, rfl, rfl, by decide, by decide, by decide, rfl, by decide, by decide⟩, bench_plainF _ _ _ rfl⟩
    · cases h

end Sys2Proof.Tests
end

