-- ==== Sys2Proof/Tests/WitMem.lean ====
section
/-! SUPPORT. States and operands that meet the hypotheses of the claims about accesses, the dray, the matrix unit and percolation. -/
namespace Sys2Proof.Tests
set_option Elab.async false
open Sys2Proof.Machine

/-- The bench with operation 0 of its group. -/
def benchO (i : Instr) (o : Op) : State := bench { grpO i with ops := [(0, o)] }

/-- What `State.due` asks of all owed lanes, as a test. -/
def dueTest (i : Instr) (o : Op) (m : BitVec 32) : Bool :=
  let g : Grp := { grpO i with ops := [(0, o)] }
  (benchO i o).performable g 0 o (o.lanesOfEvent m) && (decide (o.owed &&& ~~~(o.lanesOfEvent m) ≠ 0) || g.pathFirst 0)
    && (decide (o.lanesOfEvent m ≠ 0) || decide (o.owed = 0)) && ((benchO i o).sentOf 0 g 0 o).isEmpty

theorem due_of (i : Instr) (o : Op) (m : BitVec 32) (h : dueTest i o m = true) : (benchO i o).due 0 0 m { grpO i with ops := [(0, o)] } o := by
  simp only [dueTest, Bool.and_eq_true, Bool.or_eq_true, decide_eq_true_eq, List.isEmpty_iff] at h
  exact ⟨⟨rfl, rfl⟩, h.1.1.1, h.1.1.2, h.1.2, h.2⟩

/-- All owed lanes, and some of them. -/
def masks : List (BitVec 32) := [BitVec.allOnes 32, 1#32]

/-- An operation whose one lane is at a window byte. -/
def opW (i : Instr) : Op := { op0 i with locs := [(0, .win 0 16)] }

theorem op_nodup (i : Instr) : (op0 i).lines.Nodup := by
  show [4].Nodup
  decide

def sfuIs : List Instr := [.frcp v2, .frsq v2, .fsqrt v2, .fex2 v2, .flg2 v2, .fsin v2, .fcos v2, .ftanh v2]
def texIs : List Instr := [.tex ⟨[], 7, 4, 8, 2⟩, .tld ⟨[], 7, 4, 8, 2⟩]

/-- An LDW with the lanes `m` to land. -/
def opLdw (m : BitVec 32) : Op := { op0 (.ldw v3) with todo := m, obj := some (0, 16), locs2 := [(0, .win 0 64)] }
def grpLdw (m : BitVec 32) : Grp := { grpO (.ldw v3) with ops := [(0, opLdw m)] }

/-- UnitCompletions: the eight special functions, with all owed lanes and with a part of them. -/
theorem witness_UnitCompletions_sfu : ∀ i ∈ sfuIs, ∃ u, sfuRule (op0 i).instr = some u ∧ (benchO i (op0 i)).hasOp 0 0 { grpO i with ops := [(0, op0 i)] } (op0 i)
    ∧ ({ grpO i with ops := [(0, op0 i)] } : Grp).canLand (op0 i).lines = true ∧ (grpO i).raised = [] ∧ (op0 i).owed &&& 1 ≠ 0 := by
  have land : ∀ i ∈ sfuIs, ({ grpO i with ops := [(0, op0 i)] } : Grp).canLand (op0 i).lines = true := by decide
  intro i h
  have e : (sfuRule i).isSome = true := List.all_eq_true.mp (show sfuIs.all (fun i => (sfuRule i).isSome) = true by decide) i h
  obtain ⟨u, hu⟩ := Option.isSome_iff_exists.mp e
  exact ⟨u, hu, ⟨rfl, rfl⟩, land i h, rfl, show (1#32 &&& ~~~0#32) &&& 1#32 ≠ 0 by decide⟩

theorem witness_UnitCompletions_part : ({ op0 (.frcp v2) with todo := 3 } : Op).owed &&& ~~~1#32 ≠ 0 ∧ (op0 (.frcp v2)).owed &&& ~~~1#32 = 0 := by decide

set_option maxRecDepth 100000 in
/-- UnitCompletions: an LDW's last lane and one before it; its words are not poisoned. -/
theorem witness_UnitCompletions_ldw :
    ∀ m ∈ [(1 : BitVec 32), 3], (benchO (.ldw v3) (opLdw m)).due 0 0 (BitVec.twoPow 32 0) (grpLdw m) (opLdw m) ∧ (opLdw m).owed.getLsbD 0 = true
      ∧ (benchO (.ldw v3) (opLdw m)).objBusy (grpLdw m) 0 0 16 = false
      ∧ (opLdw m).locs2.find? (fun q => decide (q.1 = 0)) = some (0, .win 0 64) ∧ (opLdw m).obj = some (0, 16)
      ∧ (((benchO (.ldw v3) (opLdw m)).readWords ((benchO (.ldw v3) (opLdw m)).howOf (grpLdw m) (opLdw m)) 0x10100 (.mem 0x10100 [0x10100]) 16).1.all (fun w => !w.2)) = true := by
  have t : ∀ m ∈ [(1 : BitVec 32), 3], dueTest (.ldw v3) (opLdw m) (BitVec.twoPow 32 0) = true ∧ (opLdw m).owed.getLsbD 0 = true
      ∧ (benchO (.ldw v3) (opLdw m)).objBusy (grpLdw m) 0 0 16 = false
      ∧ (((benchO (.ldw v3) (opLdw m)).readWords ((benchO (.ldw v3) (opLdw m)).howOf (grpLdw m) (opLdw m)) 0x10100 (.mem 0x10100 [0x10100]) 16).1.all (fun w => !w.2)) = true := by
    intro m h
    rcases List.mem_cons.mp h with rfl | h
    · decide +kernel
    · rcases List.mem_cons.mp h with rfl | h
      · decide +kernel
      · cases h
  intro m h
  exact ⟨due_of _ _ _ (t m h).1, (t m h).2.1, (t m h).2.2.1, rfl, rfl, (t m h).2.2.2⟩

/-- A sampler operation all of whose texels are the border's. -/
def opT (i : Instr) : Op := { op0 i with locs := [] }

/-- UnitCompletions: TEX and TLD. -/
theorem witness_UnitCompletions_tex : ∀ i ∈ texIs, (benchO i (opT i)).due 0 0 1 { grpO i with ops := [(0, opT i)] } (opT i)
    ∧ (opT i).path = some .smp ∧ (opT i).lines.Nodup := by
  intro i h
  exact ⟨due_of i _ _ (List.all_eq_true.mp (show texIs.all (fun i => dueTest i (opT i) 1) = true by decide) i h),
    of_decide_eq_true (List.all_eq_true.mp (show texIs.all (fun i => decide ((opT i).path = some .smp)) = true by decide) i h), op_nodup i⟩

theorem benchO_plain (i : Instr) (o : Op) : (benchO i o).plainL1 0 1 := by
  refine ⟨fun l hl => absurd hl (by simp [benchO, bench, State.coreAt, State.loadTerkor, Tab.findD, Tab.find, Tab.put, State.reset, coreInit]), fun c hc => ?_⟩
  rw [show (benchO i o).chain 1 = [1] from rfl] at hc
  rw [List.mem_singleton.mp hc]
  rfl

/-- ReadAfterWrite and LineOperations: a narrow access and one at the owner, up to a line's last byte; a line that is held. -/
def how0 (narrow owner : Bool) : How := ⟨0, 1, true, narrow, owner, 0, hdr0, []⟩
def line0 : L1Line := ⟨1, 0x10100, 0x10100, 0, 1, 0, 0, 0, false, hdr0, [0x10100]⟩
def benchL : State := { bench grp0 with cores := Tab.put (bench grp0).cores 0 { (bench grp0).coreAt 0 with l1 := [line0] } }

theorem benchL_plain : benchL.plainL1 0 1 := by
  refine ⟨fun l hl _ => ?_, fun c hc => ?_⟩
  · have e : (benchL.coreAt 0).l1 = [line0] := rfl
    rw [e] at hl
    rw [List.mem_singleton.mp hl]
    exact ⟨by decide, rfl⟩
  · rw [show benchL.chain 1 = [1] from rfl] at hc
    rw [List.mem_singleton.mp hc]
    rfl

theorem witness_ReadAfterWrite :
    (∀ o, benchL.plainL1 (how0 (!o) o).core (how0 (!o) o).ctx ∧ ((how0 (!o) o).narrow = true → (how0 (!o) o).owner = false)) ∧
    0x1017F % 128 + 1 ≤ 128 ∧ ([1] : List Byte) ≠ [] ∧ 0x1017F % 128 + ([1] : List Byte).length ≤ 128 ∧
    benchL.l1Find 0 1 0x1017F = some line0 ∧ (∀ j, j < 1 → benchL.l2Held (0x1017F + j) = false) := by
  refine ⟨fun o => ⟨benchL_plain, ?_⟩, by decide, by decide, by decide, rfl, by decide⟩
  cases o <;> decide

theorem witness_LineOperations :
    (benchL.plainL1 0 1 ∧ 0 < 4 ∧ 0x1017C % 128 + 4 ≤ 128 ∧ ∀ l, benchL.l1Find 0 1 0x1017C = some l → l.pa = 0x1017C / 128 * 128) ∧
    ((4 : Nat) ≠ 5 ∧ benchL.l1Find 0 1 0x10100 = some line0) := by
  refine ⟨⟨benchL_plain, by decide, by decide, fun l h => ?_⟩, by decide, rfl⟩
  rw [show benchL.l1Find 0 1 0x1017C = some line0 from rfl] at h
  rw [← Option.some.inj h]
  rfl

def loadIs : List Instr := [.ldW v3, .ldD v3, .ldQ v3, .ldN v3, .ldk ⟨[], 7, 4⟩, .pref ⟨[], 7, 6, 8⟩]
def storeIs : List Instr := [.stW v3, .stD v3, .stQ v3, .stN v3, .stk ⟨[], 7, 4⟩, .cwb ⟨[], 7, 6, 8⟩, .cinv ⟨[], 7, 6, 8⟩, .cinvP ⟨[], 7, 6, 8⟩]
def atomIs : List Instr := [.atom v3, .atomr v3, .cas v3]
def opS (i : Instr) : Op := { op0 i with kind := 2, lines := [], slots := [[0x10100], [0], [0], [7]] }

/-- An operation of two lanes, so that lane 0 alone is not its last. -/
def opTwo (i : Instr) : Op := { op0 i with todo := 3, m := 3, locs := [(0, .mem 0x10100 [0x10100]), (1, .mem 0x10200 [0x10200])] }

/-- LoadCompletion: vector and scalar loads that are due, all lanes and one of two. -/
theorem witness_LoadCompletion :
    (∀ i ∈ loadIs, (benchO i (op0 i)).due 0 0 1 { grpO i with ops := [(0, op0 i)] } (op0 i) ∧ (op0 i).lines.Nodup) ∧
    ((benchO (.ldW v3) (opTwo (.ldW v3))).due 0 0 1 { grpO (.ldW v3) with ops := [(0, opTwo (.ldW v3))] } (opTwo (.ldW v3))
      ∧ (opTwo (.ldW v3)).owed &&& ~~~((opTwo (.ldW v3)).lanesOfEvent 1) ≠ 0) ∧
    (let i := Instr.sld s3
     (benchO i (opS i)).due 0 0 1 { grpO i with ops := [(0, opS i)] } (opS i) ∧ (opS i).todo ≠ 0
      ∧ ((((benchO i (opS i)).countHits ((benchO i (opS i)).howOf { grpO i with ops := [(0, opS i)] } (opS i)) (opS i)
          ((benchO i (opS i)).opAddr { grpO i with ops := [(0, opS i)] } (opS i)) (opS i).locs).readLanes
          ((benchO i (opS i)).howOf { grpO i with ops := [(0, opS i)] } (opS i)) ((benchO i (opS i)).opAddr { grpO i with ops := [(0, opS i)] } (opS i))
          (opS i).locs 4).1.map (fun v => v.2.length)) = [1]) := by
  refine ⟨fun i h => ⟨due_of i _ _ ?_, op_nodup i⟩, ⟨due_of _ _ _ (by decide), by decide⟩, due_of _ _ _ (by decide), by decide, by decide⟩
  revert i; decide

/-- StorePerformed. -/
theorem witness_StorePerformed :
    (∀ i ∈ storeIs, (benchO i (op0 i)).due 0 0 1 { grpO i with ops := [(0, op0 i)] } (op0 i)) ∧
    ((benchO (.stW v3) (opTwo (.stW v3))).due 0 0 1 { grpO (.stW v3) with ops := [(0, opTwo (.stW v3))] } (opTwo (.stW v3))) ∧
    ((benchO (.sst s3) (opS (.sst s3))).due 0 0 1 { grpO (.sst s3) with ops := [(0, opS (.sst s3))] } (opS (.sst s3)) ∧ (opS (.sst s3)).todo ≠ 0) := by
  refine ⟨fun i h => due_of i _ _ ?_, due_of _ _ _ (by decide), due_of _ _ _ (by decide), by decide⟩
  revert i; decide

/-- AtomicPerformed: global, window and scalar atomics. -/
theorem witness_AtomicPerformed :
    (∀ i ∈ atomIs, (benchO i (op0 i)).due 0 0 ((op0 i).upward 1) { grpO i with ops := [(0, op0 i)] } (op0 i) ∧ (op0 i).lines.Nodup) ∧
    (∀ i ∈ [Instr.atoml v3, .casl v3], (benchO i (opW i)).due 0 0 ((opW i).upward 1) { grpO i with ops := [(0, opW i)] } (opW i)) ∧
    (let i := Instr.satom s3
     (benchO i (opS i)).due 0 0 ((opS i).upward (opS i).owed) { grpO i with ops := [(0, opS i)] } (opS i) ∧ (opS i).kind = 2 ∧ (opS i).todo ≠ 0
      ∧ ((benchO i (opS i)).atomLanes ((benchO i (opS i)).howOf { grpO i with ops := [(0, opS i)] } (opS i))
          ((benchO i (opS i)).opAddr { grpO i with ops := [(0, opS i)] } (opS i)) (opS i) (opS i).locs).1.map (fun v => v.2.length) = [1]) := by
  refine ⟨fun i h => ⟨due_of i _ _ ?_, op_nodup i⟩, fun i h => due_of i _ _ ?_, due_of _ _ _ (by decide), rfl, by decide, by decide⟩
  · revert i; decide
  · revert i; decide

/-- An object with one arrival due, no byte announced, and one with a second arrival due. -/
def benchA : State := { bench grp0 with cores := Tab.put (bench grp0).cores 0 { (bench grp0).coreAt 0 with win := [(16, 2#8)] } }

/-- WindowsAndBarriers: LDL, STL; an arrival on its own core, on another, and its step there; the phase's end and what is short of it. -/
theorem witness_WindowsAndBarriers :
    (∀ i ∈ [Instr.ldl v3, .stl v3], (benchO i (opW i)).due 0 0 1 { grpO i with ops := [(0, opW i)] } (opW i) ∧ (opW i).lines.Nodup) ∧
    (∀ c ∈ [0, 1], let o : Op := { op0 (.arrv arr0) with lines := [], locs := [(0, .win c 16)] }
      dueTest (.arrv arr0) o 1 = true ∧ ({ grpO (.arrv arr0) with ops := [(0, o)] } : Grp).ops.any (fun p => decide (p.1 < 0) && isAccess p.2.instr) = false
        ∧ (0, 0) ∉ (benchO (.arrv arr0) o).barriers) ∧
    ((let o : Op := { op0 (.arrv arr0) with lines := [], locs := [(0, .win 1 16)] }
      let s : State := { benchO (.arrv arr0) o with barriers := [(0, 0)] }
      s.hasOp 0 0 { grpO (.arrv arr0) with ops := [(0, o)] } o ∧ s.barriers[0]? = some (0, 0)) ∧
    benchA.objLeft 0 16 - 1 = 0 ∧ benchA.objWord 0 16 2 = benchA.objWord 0 16 3 + 0 ∧ benchA.objLeft 0 16 - 0 ≠ 0 ∧
    ((bench grp0).objLeft 0 16 = 0 ∧ (bench grp0).objWord 0 16 2 + BitVec.ofNat 32 0 = (bench grp0).objWord 0 16 3)) := by
  refine ⟨fun i h => ⟨due_of i _ _ ?_, op_nodup i⟩, by decide, ⟨⟨rfl, rfl⟩, rfl⟩, by decide, by decide, by decide, by decide, by decide⟩
  revert i; decide

end Sys2Proof.Tests
end

