-- ==== Sys2Proof/Tests/WitPkg.lean ====
section
/-! SUPPORT. States and operands that meet the hypotheses of the claims about the package, its links and the machine as a whole. -/
namespace Sys2Proof.Tests
set_option Elab.async false
open Sys2Proof.Machine

/-- A port in a state, at flit 5, with two flits that wait for their acknowledgement. -/
def port0 (st : PortSt) (n : Nat) : Port := { portInit with st := st, rxSeq := 5, sent := [(7, 0), (8, n)] }
def benchP (st : PortSt) (n : Nat) : State := State.reset.setPort 0 (port0 st n)
def key0 : List Byte := List.replicate 32 7

/-- TrustSteps: the firmware runs and context 0 is alone; both moves of the life cycle; keys, a session and an IDE stream. -/
theorem witness_TrustSteps :
    (State.reset.pkg.boot = .ready ∧ (State.reset.ctxs.all (fun c => decide (c.1 = 0) || decide (c.2.st = .free))) = true
      ∧ State.reset.pkg.lifeCycle = .deployed ∧ ({ State.reset.pkg with lifeCycle := .manufacture } : Pkg).lifeCycle = .manufacture) ∧
    (key0.length = 32 ∧ ((benchP .keying 0).portAt 0).st = .keying ∧ (15 : Nat) < 16) ∧
    (∀ n ∈ [0, 8, 16, 19], (n ≤ 8 ∨ 16 ≤ n ∧ n < 20) ∧ (Tab.find [(n, key0)] n) ≠ none ∧ n ∉ ([] : List Nat)) ∧
    (∀ st ∈ [PortSt.up, PortSt.retrain], (((benchP st 0).portAt 0).st = .up ∨ ((benchP st 0).portAt 0).st = .retrain)) := by
  refine ⟨?_, ?_, ?_, ?_⟩ <;> decide

/-- TimeAndErrors: both messages, both ends of the offset's step, SRC 4 and 5, and each place that an error may name. -/
theorem witness_TimeAndErrors :
    ((1 : Nat) ≤ 3 ∧ ({ State.reset.pkg with src := 4 } : Pkg).src = 4 ∧ (1000000 : Int) < 1000001 ∧ (1000000 : Int) ≤ 1000000) ∧
    (State.reset.pkg.lock ≠ true ∧ State.reset.pkg.ofs < 100) ∧
    ((((0x40000000#32).extractLsb' 28 3).toNat ≤ 4) ∧ 4 < ((0x50000000#32).extractLsb' 28 3).toNat) ∧
    ((3 : Nat) < State.reset.dies.length ∧ 14 < (State.reset.dieAt 3).limits.1) ∧
    (reachOf 0 0x10000 = .dram ∧ State.reset.homeDie 0x10000 < State.reset.dies.length) ∧
    (Tab.find (bench grp0).groups 0 = some grp0 ∧ 255 < grp0.nlines) ∧
    ((benchD (cmdC 0 0 0 []) (ctxC .active)).live 1 = true ∧ 1 ∈ (benchD (cmdC 0 0 0 []) (ctxC .active)).subtree 1) := by
  refine ⟨?_, ?_, ?_, ?_, ?_, ?_, ?_⟩ <;> decide +kernel

/-- TimeAndErrors: the partition of channel 127, bound to context 1. -/
theorem witness_TimeAndErrors_channel :
    let q : Partition := { part15 (some 1) with channels := [127] }
    ([(15, q)] : Tab Partition).find? (fun e => e.2.channels.contains 127) = some (15, q) ∧ q.ctx = some 1 ∧ (127 : Nat) < 128 := ⟨by decide, rfl, by decide⟩

/-- An ingress window of context 0 with its ring of two entries at 0x40000, empty and full. -/
def ing0 : Ingress := { ingressInit with en := true, lwin := 12, lgsz := 1, ring := 0x40000 }
def benchI (m : Sparse 8) : State := { State.reset with mem := m, pkg := { State.reset.pkg with ingress := List.replicate 16 ing0 } }
def ringFullMem : Sparse 8 := [(0x40000, 2)]

theorem ring_reads (m : Sparse 8) (h : m = [] ∨ m = ringFullMem) :
    (∃ wi, (benchI m).ringRead 0 0x40000 8 = .ok wi ∧ leNat wi = (if m = [] then 0 else 2)) ∧ (∃ ri, (benchI m).ringRead 0 0x40008 8 = .ok ri ∧ leNat ri = 0) := by
  rcases h with rfl | rfl
  · exact ⟨⟨List.replicate 8 0, by rfl, by decide⟩, ⟨List.replicate 8 0, by rfl, by decide⟩⟩
  · exact ⟨⟨2 :: List.replicate 7 0, by rfl, by decide⟩, ⟨List.replicate 8 0, by rfl, by decide⟩⟩

/-- HostAndIngress: context 0's BAR 2 at its last bytes, the last control word, ICTL and SCTL on both sides, a ring with and without room. -/
theorem witness_HostAndIngress :
    (State.reset.bar2 384 (2 ^ 38 - 8) 8 = true ∧ State.reset.physFault (State.reset.fnCtx 384) false (physPieces (2 ^ 38 - 8) 8) = none
      ∧ (State.reset.physRead (State.reset.fnCtx 384) 0 (physPieces (2 ^ 38 - 8) 8)).2.2 = false) ∧
    ((2 ^ 38 - 8) % 64 + 8 ≤ 64 ∧ worldAllows 0 (State.reset.frameWorld (2 ^ 38 - 8)) false = true) ∧
    (State.reset.physFault (State.reset.fnCtx 384) true (physPieces 0x40 1) = none ∧ (State.reset.physWrite (State.reset.fnCtx 384) 0 (physPieces 0x40 1) [1] false).2 = false
      ∧ State.reset.l2Held 0x40 = false ∧ (State.reset.ctxAt 0).dirtyMap = none) ∧
    ((0x7C : Nat) % 4 = 0 ∧ (0x7C : Nat) < 0x80 ∧ (384 : Nat) ≤ 384) ∧
    ((((0x1001#32).extractLsb' 12 12).toNat ≤ ((0x1001#32).extractLsb' 0 12).toNat) ∧ ((0x2001#32).extractLsb' 0 12).toNat < ((0x2001#32).extractLsb' 12 12).toNat) ∧
    (((0x3F#32).extractLsb' 0 2).toNat = 3 ∧ ((0x3E#32).extractLsb' 0 2).toNat ≠ 3) ∧
    (15 < (benchI []).pkg.ingress.length ∧ ((benchI []).ingressAt 15).en = true ∧ 4095 + ([1] : List Byte).length ≤ 2 ^ ((benchI []).ingressAt 15).lwin) := by
  refine ⟨?_, ?_, ?_, ?_, ?_, ?_, ?_⟩ <;> decide +kernel

theorem witness_HostAndIngress_read : State.reset.physAt 0 (2 ^ 38 - 8) false = .ok ⟨2 ^ 38 - 8, true, true, false, [], .none⟩ := by rfl
theorem witness_HostAndIngress_write : State.reset.physAt 0 0x40 true = .ok ⟨0x40, true, true, false, [], .none⟩ := by rfl

theorem entry_len (t : Nat) : (ingressEntry ing0 [1] t).length = 80 := by simp [ingressEntry, leBytes_length]
theorem entry_write (t : Nat) : (benchI []).ringWrite 0 0x40080 (ingressEntry ing0 [1] t) = .ok ((benchI []).physWrite 0 1 (physPieces 0x40080 80) (ingressEntry ing0 [1] t) false).1 := by
  simp only [State.ringWrite, entry_len]
  rw [show (benchI []).physFault 0 true (physPieces 0x40080 80) = none from rfl]
  rfl
theorem count_write (t : Nat) : (((benchI []).physWrite 0 1 (physPieces 0x40080 80) (ingressEntry ing0 [1] t) false).1.ringWrite 0 0x40000 (leBytes 8 1)).isOk = true := by rfl
theorem part_taken (t : Nat) : ∃ u, (benchI []).ingressPart 0 [1] t = .ok u := by
  simp only [State.ingressPart]
  rw [show (benchI []).ringRead ((benchI []).ingressAt 0).ctx ((benchI []).ingressAt 0).ring 8 = .ok (List.replicate 8 0) from rfl,
    show (benchI []).ringRead ((benchI []).ingressAt 0).ctx (((benchI []).ingressAt 0).ring + 8) 8 = .ok (List.replicate 8 0) from rfl]
  simp only
  rw [if_neg (by decide)]
  rw [show (benchI []).ringWrite ((benchI []).ingressAt 0).ctx (((benchI []).ingressAt 0).ring + 128 + 128 * (leNat (List.replicate 8 0) % 2 ^ ((benchI []).ingressAt 0).lgsz)) (ingressEntry ((benchI []).ingressAt 0) [1] t) = _ from entry_write t]
  simp only
  match e : ((benchI []).physWrite 0 1 (physPieces 0x40080 80) (ingressEntry ing0 [1] t) false).1.ringWrite 0 0x40000 (leBytes 8 1), count_write t with
  | .ok u, _ =>
    exact ⟨_, rfl⟩

/-- Every time takes a part into the empty ring. -/
theorem witness_HostAndIngress_parts (time : Nat) : ∃ t, (benchI []).ingressParts 0 (cutParts 0 [1]) time = .ok t := by
  obtain ⟨u, h⟩ := part_taken time
  exact ⟨u, by simp only [show cutParts 0 [1] = [[1]] from rfl, State.ingressParts, h]⟩

/-- LinkSteps: each state of a port; a flit in order, one far away, one that waits and may go again, one that went eight times. -/
theorem witness_LinkSteps :
    (0 < (benchP .up 0).pkg.ports.length ∧ ((benchP .up 0).portAt 0).st = .up ∧ 5 = ((benchP .up 0).portAt 0).rxSeq ∧ ((benchP .up 0).portAt 0).rxNext = none) ∧
    (518 ≠ ((benchP .up 0).portAt 0).rxSeq ∧ 512 < seqDist 518 5) ∧
    (((benchP .up 7).portAt 0).sent.findIdx? (fun f => decide (f.1 = 8)) = some 1 ∧ (∀ f, f ∈ ((benchP .up 7).portAt 0).sent.drop 1 → f.2 < 8)
      ∧ ((benchP .up 8).portAt 0).sent.findIdx? (fun f => decide (f.1 = 7)) = some 0 ∧ (∃ f, f ∈ ((benchP .up 8).portAt 0).sent.drop 0 ∧ 8 ≤ f.2)
      ∧ ((benchP .up 8).portAt 0).sent = (7, 0) :: [(8, 8)]) ∧
    (∀ st ∈ [PortSt.down, .training, .retrain], ((benchP st 0).portAt 0).st = st) := by
  refine ⟨?_, ?_, ⟨?_, ?_, ?_, ⟨(8, 8), ?_⟩, ?_⟩, ?_⟩ <;> decide

/-- A line of pooled memory, and a group whose load of remote memory waits for its answer. -/
def pool0 : Nat := 2 ^ 44
def benchW : State := { State.reset with l2 := [{ pa := pool0, data := 5, dirty := 1, stamp := 0 }] }
def far0 : Nat := 2 ^ 46
def opFar : Op := { op0 (.ldW v3) with locs := [(0, .mem far0 [far0])], kind := 2 }
def benchFar : State := bench { grp0 with ops := [(0, opFar)] }

/-- RemoteSteps: the last bytes of a line of DRAM, with and without a world that may read; a request with no route; a withdrawn range here and there; a pooled line. -/
theorem witness_RemoteSteps :
    (reachOf 0 0x1007C = .dram ∧ 0x1007C % 128 + 4 ≤ 128 ∧ State.reset.isWithdrawn 0x1007C = false ∧ worldAllows 0 (State.reset.frameWorld 0x1007C) false = true
      ∧ worldAllows 3 ((bench grp0).frameWorld 0x1007C) false = false ∧ State.reset.memPoisoned 0x1007C 4 = false) ∧
    (reachOf 0 far0 = .remote 1) ∧
    (reachOf 0 pool0 = .pooled 0 ∧ (benchW.l2Find (pool0 / 128 * 128)).isSome = true) ∧
    ((3 : Nat) < State.reset.pkg.cxlUp.length ∧ State.reset.pkg.cxlUp.getD 3 true = true) := by
  refine ⟨?_, ?_, ?_, ?_⟩ <;> decide

theorem witness_RemoteSteps_route : (benchFar.sentAll.filter (fun r => match reachOf benchFar.pkg.id r.pa with
      | .remote pk => (benchFar.portFor r.ctx pk r.pa).isNone | _ => false))[0]? = some ⟨0, 0, 0, 1, far0, false⟩ := by decide

/-- An add behind its HIMM, placed where the machine fetches, and the machine as its turn begins. -/
def addWords : List Word := encode (.iadd ⟨[.himm 5], 7, 4, 6, 0⟩)
def stepAt : State := State.reset.loadTerkor addWords
def stepGrp : Grp := { loadGrp with launch := 0 }
def stepFrag : Frag := { fragAt (BitVec.ofNat 64 loadAt) (BitVec.allOnes 32) with pos := ⟨BitVec.ofNat 64 loadAt, 1, 0#4, 1#4, false⟩ }
def stepS0 : State := { stepAt with agenda := [], iss := { issNone with pc := wordAddr stepFrag.pos.hdr 1, start := wordAddr stepFrag.pos.hdr 1, after := stepFrag.pos } }
def stepHead : Header := ⟨0, 0, 1, 1, false⟩

/-- StepRunsInstruction: an instruction of two words, last of its clause, to be fetched. -/
theorem witness_StepRunsInstruction :
    stepAt.agenda = [.issue 0 0] ∧ Tab.find stepAt.groups 0 = some stepGrp ∧ stepGrp.frag 0 = some stepFrag ∧ stepGrp.mayIssue stepFrag = true ∧ stepFrag.arriving = false
      ∧ stepFrag.served = false ∧ stepFrag.pos.hdr.extractLsb' 0 2 = 0#2
      ∧ stepFrag.pos.next ≠ 0 ∧ (∃ t u, stepS0.clauseLen stepGrp stepFrag.pos.hdr = .ok (some stepHead, t) ∧ t.wordsAt stepGrp stepFrag.pos.hdr 1 addWords u)
      ∧ decode addWords = .ok (.iadd ⟨[.himm 5], 7, 4, 6, 0⟩, []) ∧ 1 + addWords.length - 1 = stepHead.len.toNat + 1 :=
  ⟨rfl, rfl, rfl, by decide, rfl, rfl, by decide, by decide, ⟨_, _, rfl, _, rfl, _, rfl, rfl⟩, rfl, rfl⟩

/-- A fragment at that clause's header. -/
def headFrag : Frag := fragAt (BitVec.ofNat 64 loadAt) (BitVec.allOnes 32)

theorem witness_StepRunsInstruction_header : headFrag.pos.next = 0 ∧ headFrag.served = false ∧ headFrag.pos.hdr.extractLsb' 0 2 = 0#2 ∧ ({ stepGrp with f0 := some headFrag } : Grp).mayIssue headFrag = true
    ∧ (∃ t, ({ stepAt with agenda := [] } : State).clauseLen { stepGrp with f0 := some headFrag } headFrag.pos.hdr = .ok (some stepHead, t))
    ∧ (stepHead.setA.toNat < 12 ∧ stepHead.setB.toNat < 12) ∧ (∀ i, i < 12 → stepHead.wait.getLsbD i = false) :=
  ⟨rfl, rfl, by decide, by decide, ⟨_, rfl⟩, by decide, by decide⟩

/-- StepRunsInstruction: what a fetch that hits the cached entry reads. -/
theorem witness_StepRunsInstruction_fetch : ∃ r, stepAt.translate 0 1 true 0x10004 .fetch = .ok r ∧ (stepAt.xCommit 0 r).oldWords 0 r.pa = [] := ⟨_, rfl, by decide⟩

/-- StepRunsInstruction: a hart at a custom-0 word, and a step of the device. -/
theorem witness_StepRunsInstruction_hart : ((State.reset.loadHart (encode (.gspawn ⟨1, 2⟩))).hartWord 0 0) = some (.gspawn ⟨1, 2⟩) := by decide

/-- StepRunsInstruction: a quarter whose two groups stand at a lane instruction and at another one, with both to pick, one of them, and none. -/
def benchCk : State :=
  let s := { State.reset.loadTerkor (encode (.iadd v3)) with agenda := [] }
  let other : Dword := 0x10100
  let hdr := encodeHeader ⟨0, 0, 1, 0, false⟩
  let f := fragAt other (BitVec.allOnes 32)
  { s with
    mem := Sparse.setList s.mem 0x10100 ((hdr :: encode (.nop z0)).flatMap (fun (x : Word) => leBytes 4 x.toNat))
    groups := [(0, grp0), (1, { grp0 with slot := 1, f0 := some { f with pos := ⟨other, 1, 0#4, 1#4, false⟩ } })] }

theorem witness_StepRunsInstruction_clock : benchCk.clockPicks 0 0 [] = [(0, 0), (1, 0)] ∧ benchCk.clockPicks 0 0 [(0, 0)] = [(1, 0)] ∧ benchCk.clockPicks 0 1 [] = [] := by
  decide +kernel

theorem witness_StepRunsInstruction_event : instrWord (.correctedError 0 0) = none := by rfl

theorem witness_MemoryStaysCanonical : State.reset.memOk ∧ resetT.memOk ∧ (∃ t, step State.reset = .next t) :=
  ⟨by rfl, by rfl, ⟨_, rfl⟩⟩

theorem witness_RoundTrip : instrWord (.iadd ⟨[.himm 5], 7, 4, 6, 0⟩) ≠ none := by decide

end Sys2Proof.Tests
end

