-- ==== Sys2Proof/Tests/WitSched.lean ====
section
/-! SUPPORT. States and operands that meet the hypotheses of the claims about dispatch, queues, pacing, pre-emption and caches. -/
namespace Sys2Proof.Tests
set_option Elab.async false
open Sys2Proof.Machine

/-- A launch of one team that is still to come, with its skips, and one of a team placed on core 0. -/
def launchN (skips : Nat) (wkib : Nat) : Launch := { loadLaunch with next := 0, skips := skips, r := { loadLaunch.r with wkib := wkib } }
def launchP : Launch := { loadLaunch with teams := [(0, ⟨0, [0], [(0, 0, 0)], [], [], none⟩)] }
def benchN (l : Launch) (gs : Tab Grp) : State := { bench grp0 with launches := [(0, l)], groups := gs }

/-- TeamAdmission: a team that fits, one that does not at its 63rd and at its 64th skip, a group created. -/
theorem witness_TeamAdmission :
    ((3 : Nat) < 4 ∧ (11 : Nat) < 12 ∧ (benchN (launchN 0 1) []).comesBackTo 0 = false) ∧ ((benchN (launchN 0 1) []).tryAdmit 0 0 (launchN 0 1)).isSome = true ∧
    (((benchN (launchN 62 2000) []).tryAdmit 0 0 (launchN 62 2000)).isNone = true ∧ (launchN 62 2000).skips < 63
      ∧ ((benchN (launchN 63 2000) []).tryAdmit 0 0 (launchN 63 2000)).isNone = true ∧ 63 ≤ (launchN 63 2000).skips) ∧
    (Tab.find (benchN launchP []).launches 0 = some launchP ∧ (Tab.find launchP.teams 0).bind (fun t => t.places[0]?) = some (0, 0, 0)) :=
  ⟨⟨by decide, by decide, by decide +kernel⟩, by decide +kernel, ⟨by decide +kernel, by decide, by decide +kernel, by decide⟩, rfl, by decide⟩

/-- Context 0 with one queue: its descriptor at 0x20000, a ring of 16 at 0x40000, one record in it. -/
def benchQu : State := { resetT with
  mem := [(0x20002, 0x04), (0x20008, 0x04), (0x20009, 0x80), (0x20010, 1)] ++ tables
  ctxs := [(0, { ctxRoot with root := 0x30000, qtab := 0x20000, qcount := 1 })] }
def slot0 : QSlot := { slotInit with st := .bound, desc := 0x20000, write := 1, inFlight := 15 }
def benchSl : State := benchQu.setSlot 0 0 slot0

/-- QueueSteps: a doorbell page's word, for a queue that holds a slot and one that holds none; a fetch at the limit of 15 in flight. -/
theorem witness_QueueSteps :
    (benchQu.bellCtx (2 ^ 52) = some 0 ∧ 0 < (benchQu.ctxAt 0).qcount ∧ (benchQu.ctxAt 0).st = .active
      ∧ (match benchQu.walkVa (benchQu.bellDie 0) 0 true (BitVec.ofNat 64 ((benchQu.ctxAt 0).qtab + 64 * 0)) .write with
          | .ok r => !r.void && decide (r.pa = 0x20000) && ((benchQu.traced r.tr).checkQueue (benchQu.bellDie 0) 0 0 r.pa).1 | .error _ => false) = true
      ∧ benchQu.slotOf 0 0 = none ∧ (benchQu.slotAt 0 0).st = .free ∧ benchSl.slotOf 0 0 = some (0, 0)) ∧
    (benchSl.slotAt 0 0 = slot0 ∧ benchSl.runs 0 = true ∧ benchSl.qRead slot0.desc ≠ slot0.write ∧ qEn (benchSl.qctl slot0.desc) = true
      ∧ (benchSl.checkQueue 0 0 0 slot0.desc).1 = true ∧ slot0.inFlight ≤ slot0.flim ∧ qSer (benchSl.qctl slot0.desc) = false ∧ benchSl.procFree 0 = true
      ∧ benchSl.storageReady 0 true (readRecord (List.replicate 64 0)) = true ∧ (∀ p, p ∈ slot0.seen → benchSl.codeLog.length ≤ p.2)
      ∧ (match benchSl.walkVa 0 0 true (benchSl.ringVa slot0.desc 0) .read with | .ok w => !w.void | .error _ => false) = true) :=
  ⟨⟨by decide +kernel, by decide, by decide, by decide +kernel, by decide +kernel, by decide, by decide +kernel⟩, by decide, by decide, by decide +kernel, by decide +kernel,
    by decide +kernel, by decide, by decide +kernel, by decide, by decide +kernel, by decide +kernel, by decide +kernel⟩

/-- A launch whose slice of 500 us has just run out, alone and beside another context's launch that fits nowhere else. -/
def launchS (c : Nat) : Launch := { loadLaunch with ctx := c, sliceAt := some 0, r := { loadLaunch.r with cls := 1 } }
def benchPs (ls : Tab Launch) : State := { (bench grp0).modDie 0 (fun d => { d with clock := 500000, starts := [(0, 0)] }) with launches := ls }

/-- PacingAndSlices. -/
theorem witness_PacingAndSlices :
    (0 < (benchPs [(0, launchS 1)]).dies.length ∧ ((benchPs [(0, launchS 1)]).launches.map (fun p => p.1)).Nodup) ∧
    (∃ l, l ∈ (benchPs [(0, { launchS 1 with held := true })]).launches ∧ l.2.die = 0 ∧ l.2.held = true ∧ 0 + 40000 ≤ ((benchPs []).dieAt 0).clock) ∧
    (Tab.find (benchPs [(0, launchS 1)]).launches 0 = some (launchS 1) ∧ (launchS 1).sliceAt = some 0 ∧ (launchS 1).r.cls ≠ 2 ∧ (launchS 1).st = .running
      ∧ 0 + 1000 * ((benchPs []).dieAt 0).slices.1 ≤ ((benchPs []).dieAt 0).clock) :=
  ⟨⟨by decide, by decide⟩, ⟨(0, { launchS 1 with held := true }), by simp [benchPs], rfl, rfl, by decide⟩, rfl, rfl, by decide, rfl, by decide⟩

/-- A pre-empted launch whose group is on core 0; one with nothing anywhere. -/
def launchPre : Launch := { launchP with st := .preempted }

/-- Preemption: a save area that no map leads to. -/
theorem witness_Preemption_save : ∃ e, (benchN launchP []).physNest 1 0 true = .error e ∧ e.tr = .none ∧ ((benchN launchP []).ctxAt 1).errFence = none := by
  refine ⟨_, rfl, rfl, rfl⟩

/-- Preemption. -/
theorem witness_Preemption :
    (Tab.find (benchN launchP []).launches 0 = some launchP ∧ launchP.st = .running) ∧
    (Tab.find (benchN launchPre [(0, grp0)]).launches 0 = some launchPre ∧ launchPre.st = .preempted ∧ (benchN launchPre [(0, grp0)]).coreHas 0 0 = true) ∧
    (grp0.raised = [] ∧ grp0.cap.body = false ∧ grp0.cstepOp = none ∧ ∀ p, p ∈ grp0.ops → ∀ x, p.2.instr ≠ .perc x) ∧
    (let s : State := { benchN { launchPre with teams := [] } [] with cores := [] }
     s.runs 1 = true ∧ s.coresOf 0 = [] ∧ s.yieldsTo 0 { launchPre with teams := [] } = false ∧ launchPre.pace ≠ 2
      ∧ (∀ c, c ∈ launchPre.calls → c ∉ s.openCalls 0) ∧ Tab.find s.launches 0 = some { launchPre with teams := [] }) :=
  ⟨⟨rfl, rfl⟩, ⟨rfl, rfl, by decide⟩, ⟨rfl, rfl, by decide, fun p h => by cases h⟩, by decide, by decide, by decide, by decide, by decide, rfl⟩

/-- Core 0 with the throttle on: hits above, within and below its thresholds; off. -/
def coreTh (ten : Bool) (hits level : Nat) : Core := { coreInit with ten := ten, vhits := hits, level := level }
def benchTh (k : Core) : State := { bench grp0 with cores := [(0, k)] }

/-- The bench with an LD.W next, on a core whose throttle lets no load through. -/
def benchLd : State :=
  let s := { State.reset.loadTerkor (encode (.ldW v3)) with agenda := [], groups := [(0, grp0)] }
  s.setCore 0 { s.coreAt 0 with ten := true, level := 0 }

/-- The core's one line leaves first, whatever the sets are. -/
theorem line0_first : (benchL.coreAt 0).evictFirst line0 = true := by
  rw [show benchL.coreAt 0 = { (bench grp0).coreAt 0 with l1 := [line0] } from rfl]
  simp [Core.evictFirst]

/-- TimingAndCaches: the thresholds' own values and one beyond; a throttled group; a line to fill; a line to write back. -/
theorem witness_TimingAndCaches :
    ((coreTh true 257 32).thi < (coreTh true 257 32).vhits ∧ (coreTh true 256 32).vhits ≤ (coreTh true 256 32).thi ∧ (coreTh true 64 4).tlo ≤ (coreTh true 64 4).vhits
      ∧ (coreTh true 63 4).vhits < (coreTh true 63 4).tlo ∧ 32 ∈ [32, 24, 16, 8, 4] ∧ 4 ∈ [32, 24, 16, 8, 4]) ∧
    ((bench grp0).issuer 0 0 grp0).isSome = true ∧ 255 < grp0.nlines ∧
    (match benchLd.turnOf 0 0 with | .run i t => isGlobalLoad i && t.throttled (t.grp 0) | _ => false) = true ∧
    ((benchL.coreAt 0).l1[0]? = some line0 ∧ line0.held = false ∧ (benchL.coreAt 0).evictFirst line0 = true ∧ benchL.plainL1 0 line0.ctx) :=
  ⟨by decide, by decide, by decide, by decide +kernel, rfl, rfl, line0_first, benchL_plain⟩

/-- A hart in machine mode with x5 = 0x20000, a spawn block there or zeros, x6 = 1. -/
def hart0 : Hart := { hartInit with x := [(5, 0x20000#64), (6, 1#64)] }
def benchHt : State := { State.reset.setHart 0 0 hart0 with iss := { issNone with words := [0] } }

/-- ServiceCoreWords: an aligned block that hardware reaches and one that is not aligned; a counter reached and not; a window that is found; a block that is invalid. -/
theorem witness_ServiceCoreWords :
    (benchHt.iss.words = [0] ∧ (benchHt.hartAt 0 0).mode ≠ 0 ∧ ((benchHt.hartAt 0 0).get 5).toNat % 256 = 0 ∧ benchHt.hartReach ((benchHt.hartAt 0 0).get 5) = true
      ∧ ((benchHt.hartAt 0 0).get 6).toNat % 256 ≠ 0) ∧
    (((benchHt.hartAt 0 0).get 0).toNat ≤ benchHt.homeDword 0x20000 ∧ benchHt.homeDword 0x20000 < ((benchHt.hartAt 0 0).get 6).toNat) ∧
    ((benchHt.hartAt 0 0).vstart = 0 ∧ benchHt.spawnOk 0 (List.replicate 256 0) = false) :=
  ⟨⟨rfl, by decide, by decide, by decide, by decide⟩, ⟨by decide, by decide⟩, rfl, by decide +kernel⟩

/-- A spawn block for context 1 and core 0: one group of 32 lanes. -/
def block0 : List Byte := leBytes 256 0x40000000000004100001000020000000000000000000000000000000010000000000010000
def benchSp (st : CtxSt) : State := let s := { bench grp0 with groups := [], launches := [] }; s.setCtx 1 { s.ctxAt 1 with st := st }

/-- ServiceCoreWords: a valid block whose team fits, and one whose context does not run. -/
theorem witness_ServiceCoreWords_spawn :
    (benchSp .active).spawnOk 0 block0 = true ∧ ((benchSp .active).spawnFit 0 1 0 (spawnRecord block0)).isSome = true ∧
    (benchSp .frozen).spawnOk 0 block0 = true ∧ ((benchSp .frozen).spawnFit 0 1 0 (spawnRecord block0)).isNone = true := by decide +kernel

end Sys2Proof.Tests
end

