-- ==== Sys2Proof/Tests/WitUnits.lean ====
section
/-! SUPPORT. States and operands that meet the hypotheses of the claims about fault points, the matrix unit, percolation and copies. -/
namespace Sys2Proof.Tests
set_option Elab.async false
open Sys2Proof.Machine

/-- A load short of its fault point whose one lane is at 0x10100, and one whose lane is misaligned. -/
def opF (a : Dword) : Op := { op0 (.ldW v3) with passed := false, locs := [], base := a }
def grpFp (a : Dword) : Grp := { grpO (.ldW v3) with ops := [(0, opF a)] }
def benchFp (a : Dword) : State := bench (grpFp a)

/-- A copy of 512 bytes from 0x10200 to window byte 0x20, its page translated or not. -/
def cp0 : Cp := ⟨[], 7, 2, 0, 0, 1, 0, 0⟩
def copy0 (upto : Nat) : Copy := {
  g := 0, ctx := 1, launch := 0, sup := true, fidx := 0, team := 0, instr := .cpy cp0, pc := hdr0, block := [0x10200, 0, 0x80, 512], flag := some 0
  tl := some (1, 1), obj := none, idx := [], pages := if upto = 0 then [] else [(0x10, 0x10000, false, [0x10000])], upto := upto, landed := [], count := 0
  faulted := false, after := 0, quarter := 0, nested := false, away := false }
def benchC (c : Copy) : State := { bench grp0 with cores := Tab.put (bench grp0).cores 0 { (bench grp0).coreAt 0 with copies := [(0, c)], copyNext := 1 } }

set_option maxRecDepth 100000 in
/-- FaultPoint: a lane whose check passes, one whose check fails, and a copy's page. -/
theorem witness_FaultPoint :
    (∀ a, (benchFp a).hasOp 0 0 (grpFp a) (opF a)) ∧ (grpFp 0).raised = [] ∧ (grpFp 0).escalated = false ∧ (opF 0).rel = false
      ∧ (∀ a ∈ [(0x10100 : Dword), 0x10101], (benchFp a).sameAddrs (grpFp a) 0 (opF a) = false) ∧ (grpFp 0).defer = false ∧ (opF 0).kind ≠ 2 ∧
    (((benchFp 0x10100).checkLanes (grpFp 0x10100) (opF 0x10100) (opF 0x10100).doLanes ⟨[], [], []⟩).1.faults = []
      ∧ ((benchFp 0x10100).checkLanes (grpFp 0x10100) (opF 0x10100) (opF 0x10100).doLanes ⟨[], [], []⟩).1.locs = [(0, .mem 0x10100 [0x10100])]) ∧
    (((benchFp 0x10101).checkLanes (grpFp 0x10101) (opF 0x10101) (opF 0x10101).doLanes ⟨[], [], []⟩).1.locs = []
      ∧ ((benchFp 0x10101).checkLanes (grpFp 0x10101) (opF 0x10101) (opF 0x10101).doLanes ⟨[], [], []⟩).1.faults.map (fun e => e.cause) = [0x09]) ∧
    (Tab.find ((benchC (copy0 0)).coreAt 0).copies 0 = some (copy0 0) ∧ (benchC (copy0 0)).copyHeld (copy0 0) = false ∧ (copy0 0).faulted = false
      ∧ (copy0 0).upto < (copy0 0).total ∧ (copy0 0).pages = []
      ∧ (match (benchC (copy0 0)).translate 0 1 true ((copy0 0).far 0) .read with | .ok r => !r.void | .error _ => false) = true) :=
  ⟨fun _ => ⟨rfl, rfl⟩, rfl, rfl, rfl, List.forall_mem_cons.mpr ⟨by decide, List.forall_mem_cons.mpr ⟨by decide, fun _ h => nomatch h⟩⟩, rfl, by decide, ⟨by decide, by decide⟩, ⟨by decide, by decide⟩, rfl, by decide, rfl, by decide, rfl, by decide⟩

/-- A window operand's descriptor in scalars 0 and 1: base 0x40, rows one after the other. -/
def grpM : Grp := { grp0 with s := [(0, 0x40#32)] }
def mm0 : Mm := ⟨[], 7, 1, 0, 0x40, 0x40⟩
def mmT : Mm := ⟨[], 7, 1, 0, 0, 1⟩
def loop0 (sp : BitVec 1) : Mm := ⟨[.himm (sp ++ 0#7 ++ 3#20)], 7, 1, 0, 0x40, 0x40⟩
def matIs : List Instr := [.mma mmT, .mma mm0, .mzero ⟨[], 7, 8⟩, .mldt ⟨[], 7, 0, 0x40⟩, .mstt ⟨[], 7, 0, 0x40⟩, .scalc ⟨[], 7, 8, 9, 4⟩, .mtrn ⟨[], 7, 0, 1⟩]

/-- The bench with 8 KiB of local window and an operand header at window byte 0x40 for format 0: of seed 0, or none. -/
def benchH (ok : Bool) (i : Instr) : State := { sit i grpM with
  cores := Tab.put (sit i grpM).cores 0 { (sit i grpM).coreAt 0 with
    ranges := [⟨1, 0, 0, 0, 8192, [], 0, 0⟩], win := if ok then [(0x44, 1#8), (0x49, 1#8), (0x4A, 0xED#8), (0x4B, 0x5E#8)] else [] } }

/-- What MatrixIssue asks of window operands, as a test. -/
def windowsTest (s : State) (g : Grp) (us : List WinUse) : Bool :=
  us.all (fun (u : WinUse) => !u.w.illegal u.comp && decide (u.w.base.toNat % 16 = 0) && (s.stepsUnmapped g u 0 u.steps).isNone)

theorem windows_of (s : State) (g : Grp) (us : List WinUse) (h : windowsTest s g us = true) : windowsOk s g us := by
  intro u hu
  have r := List.all_eq_true.mp h u hu
  simp only [Bool.and_eq_true, Bool.not_eq_true', decide_eq_true_eq, Option.isNone_iff_eq_none] at r
  exact ⟨r.1.1, r.1.2, r.2⟩

/-- The matrix instructions of `matrixRule` with window operands that pass. -/
theorem mat_ready : matIs.all (fun i => ready i 1#32 (benchH true i) grpM frag0) = true := by decide
theorem mat_windows : matIs.all (fun i => match matrixRule i with
    | some u => windowsTest (benchH true i) grpM (u.us grpM) | none => false) = true := by decide +kernel

/-- MatrixIssue: every direct instruction; MMAS with a good header and a bad one; MLOOP of both kinds; guards that fail. -/
theorem witness_MatrixIssue :
    (∀ i ∈ matIs, ∃ u, matrixRule i = some u ∧ (∀ m, Issues i m (benchH true i) grpM frag0) ∧ windowsOk (benchH true i) grpM (u.us grpM)) ∧
    (∀ b, (∀ m, Issues (.mmas mm0) m (benchH b (.mmas mm0)) grpM frag0)
      ∧ windowsOk (benchH b (.mmas mm0)) grpM (winUses grpM mm0.y true 1 .read ++ winUses grpM mm0.z false 1 .read)
      ∧ sparseOk mm0.f ((benchH b (.mmas mm0)).headerAt grpM (sparseBase grpM mm0.y)) = b) ∧
    (∀ sp, (∀ m, Issues (.mloop (loop0 sp)) m (benchH true (.mloop (loop0 sp))) grpM frag0) ∧ mloopHimm (loop0 sp).pf = some (decide (sp = 1#1), 3)
      ∧ windowsOk (benchH true (.mloop (loop0 sp))) grpM (winUses grpM (loop0 sp).y (decide (sp = 1#1)) 3 .read ++ winUses grpM (loop0 sp).z false 3 .read)
      ∧ sparseOk (loop0 sp).f ((benchH true (.mloop (loop0 sp))).headerAt grpM (sparseBase grpM (loop0 sp).y)) = true) ∧
    grpM.upred 7 = true ∧ grpM.upred 0 = false := by
  have rb : ∀ b, ready (.mmas mm0) 1#32 (benchH b (.mmas mm0)) grpM frag0 = true
      ∧ sparseOk mm0.f ((benchH b (.mmas mm0)).headerAt grpM (sparseBase grpM mm0.y)) = b := by decide
  have wb : ∀ b, windowsTest (benchH b (.mmas mm0)) grpM (winUses grpM mm0.y true 1 .read ++ winUses grpM mm0.z false 1 .read) = true := by decide +kernel
  have rl : ∀ sp, ready (.mloop (loop0 sp)) 1#32 (benchH true (.mloop (loop0 sp))) grpM frag0 = true
      ∧ mloopHimm (loop0 sp).pf = some (decide (sp = 1#1), 3)
      ∧ sparseOk (loop0 sp).f ((benchH true (.mloop (loop0 sp))).headerAt grpM (sparseBase grpM (loop0 sp).y)) = true := by decide
  have wl : ∀ sp : BitVec 1, windowsTest (benchH true (.mloop (loop0 sp))) grpM
      (winUses grpM (loop0 sp).y (decide (sp = 1#1)) 3 .read ++ winUses grpM (loop0 sp).z false 3 .read) = true := by decide +kernel
  refine ⟨fun i h => ?_, fun b => ⟨any_issues _ _ _ _ rfl rfl (rb b).1, windows_of _ _ _ (wb b), (rb b).2⟩,
    fun sp => ⟨any_issues _ _ _ _ rfl rfl (rl sp).1, (rl sp).2.1, windows_of _ _ _ (wl sp), (rl sp).2.2⟩, by decide, by decide⟩
  have w := List.all_eq_true.mp mat_windows i h
  cases e : matrixRule i with
  | none => rw [e] at w; cases w
  | some u => rw [e] at w; exact ⟨u, rfl, any_issues _ _ _ _ rfl rfl (List.all_eq_true.mp mat_ready i h), windows_of _ _ _ w⟩

/-- A direct operation at the head of quarter 0's queue; a loop of quarter 0; the unit busy with each. -/
def opMat (i : Instr) : Op := { op0 i with kind := 2, path := none, lines := List.range 32, reads := (List.range 32).map (fun n => n + 32), locs := [], slots := [] }
def loopE : Loop := ⟨0, 0, 0, 0, 2, false, 1, 0⟩
def unitE (isLoop : Bool) : UnitOp := ⟨0, 0, isLoop, 0, [], [], []⟩
def benchQ (i : Instr) (k : Core → Core) : State := { benchO i (opMat i) with cores := Tab.put (benchO i (opMat i)).cores 0 (k ((benchO i (opMat i)).coreAt 0)) }
def coreD (k : Core) : Core := { k with mq := [[(0, 0)], [], [], []] }
def coreL (k : Core) : Core := { k with loops := [loopE] }
def coreU (b : Bool) (k : Core) : Core := { k with loops := [loopE], unit := some (unitE b) }
def coreW (k : Core) : Core := { k with lq := [loopE] }
def grpQ (i : Instr) : Grp := { grpO i with ops := [(0, opMat i)] }

/-- MatrixOperations. -/
theorem witness_MatrixOperations :
    ((opMat (.mma mmT)).lines.length = 32 ∧ (opMat (.mtrn ⟨[], 7, 0, 1⟩)).reads.length = 32
      ∧ ((bench grp0).operandRows grp0 (opMat (.mma mmT)) (mFmt 0).a 0 0 0 0 none).1.length = 32
      ∧ ((bench grp0).operandRows grp0 (opMat (.mma mmT)) (mFmt 0).b 0 1 1 0 none).1.length = 32) ∧
    (let s := benchQ (.mma mmT) coreD
     (s.coreAt 0).unit = none ∧ s.nextQuarter (s.coreAt 0) = some 0 ∧ s.readyDirect (s.coreAt 0) 0 = some (0, 0) ∧ s.readyLoop (s.coreAt 0) 0 = none) ∧
    (let s := benchQ (.mloop (loop0 0)) coreL
     (s.coreAt 0).unit = none ∧ s.nextQuarter (s.coreAt 0) = some 0 ∧ s.readyDirect (s.coreAt 0) 0 = none ∧ s.readyLoop (s.coreAt 0) 0 = some loopE) ∧
    (let s := benchQ (.mloop (loop0 0)) (coreU true)
     (s.coreAt 0).unit = some (unitE true) ∧ (unitE true).win = []
      ∧ (s.coreAt 0).loops.find? (fun e => decide (e.g = 0) && decide (e.op = 0)) = some loopE ∧ loopE.step + 1 ≠ loopE.count) ∧
    (let s := benchQ (.mma mmT) (coreU false)
     (s.coreAt 0).unit = some (unitE false) ∧ (unitE false).win = [] ∧ (unitE false).quarter ≠ 4 ∧ (unitE false).isLoop = false
      ∧ ∀ p, p ∈ (grpQ (.mma mmT)).ops → ∀ x, p.2.instr ≠ .setl x) ∧
    (∀ i k, (benchQ i k).hasOp 0 0 (grpQ i) (opMat i)) ∧
    (let s := benchQ (.mloop (loop0 0)) coreW
     (s.coreAt 0).lq = [loopE] ∧ loopE ∉ ([] : List Loop) ∧ (∀ e, e ∈ (s.coreAt 0).loops → e.quarter ≠ loopE.quarter) ∧ (s.grp 0).percBefore 0 = true) :=
  ⟨⟨rfl, rfl, by decide, by decide⟩, ⟨rfl, by decide, by decide, by decide⟩, ⟨rfl, by decide, by decide, by decide⟩, ⟨rfl, rfl, by decide, by decide⟩,
    ⟨rfl, rfl, by decide, rfl, fun p h x => by rw [List.mem_singleton.mp h]; exact fun e => nomatch e⟩, fun _ _ => ⟨rfl, rfl⟩, rfl, by decide, by decide, by decide⟩

/-- A percolation run of mode 3 on 32 by 32 tiles; scalar 2 holds its cap. -/
def prc0 : Prc := ⟨[], 7, 0, 0, 3, 2⟩
def grpPc (n : Word) : Grp := { grp0 with s := [(2, n)] }
def opPc : Op := { opMat (.perc prc0) with kind := 1, lines := List.range 64, reads := List.range 64 }
def run0 (nan : Bool) : Perc := ⟨0, 0, if nan then List.replicate 16 0 else (List.replicate 14 0) ++ [0x7FC00000#32, 0], 1, 1, 0, 0⟩
def grpRun (bad : Bool) : Grp := { grpO (.perc prc0) with ops := [(0, opPc)], poison := if bad then [0] else [] }
def benchRun (k : Core → Core) (bad : Bool) : State :=
  { bench (grpRun bad) with cores := Tab.put (bench (grpRun bad)).cores 0 (k ((bench (grpRun bad)).coreAt 0)) }

def coreQd (k : Core) : Core := { k with percq := [run0 false] }
def corePc (k : Core) : Core := { k with perc := some (run0 false) }

/-- Percolation: caps 0, 1, 65535 and 65536. -/
theorem witness_Percolation_issue :
    (∀ n ∈ [(0#32), 1, 65535, 65536], ∀ m, Issues (.perc prc0) m (sit (.perc prc0) (grpPc n)) (grpPc n) frag0) ∧
    ((grpPc 0).scalar 2).toNat = 0 ∧ ((grpPc 1).scalar 2).toNat = 1 ∧ ((grpPc 65535).scalar 2).toNat = 65535 ∧ 65535 < ((grpPc 65536).scalar 2).toNat := by
  have r : [(0#32), 1, 65535, 65536].all (fun n => ready (.perc prc0) 1#32 (sit (.perc prc0) (grpPc n)) (grpPc n) frag0) = true := by decide
  exact ⟨fun n h => sit_any _ _ _ rfl (List.all_eq_true.mp r n h), by decide, by decide, by decide, by decide⟩

/-- Percolation: a run that starts. -/
theorem witness_Percolation_start : ((benchRun coreQd false).coreAt 0).perc = none ∧ ((benchRun coreQd false).coreAt 0).percq = [run0 false]
    ∧ run0 false ∉ ([] : List Perc) ∧ ((benchRun coreQd false).grp 0).matrixFirst 0 = true :=
  ⟨rfl, rfl, by decide, by decide⟩

/-- Percolation: an iteration whose tile is poisoned, so that it diverges, and one that reads none. -/
theorem witness_Percolation_iteration : ((benchRun corePc true).coreAt 0).perc = some (run0 false) ∧ (benchRun corePc true).hasOp 0 0 (grpRun true) opPc
    ∧ (grpRun true).matrixFirst 0 = true ∧ prc0.m ≠ 0#3 ∧ (run0 false).left = 0 ∧ ((benchRun corePc true).coreAt 0).unit = none :=
  ⟨rfl, ⟨rfl, rfl⟩, by decide, by decide, rfl, rfl⟩

theorem witness_Percolation_poison : opPc.lines.any (fun l => (benchRun corePc true).linePoisoned (grpRun true) l) = true
    ∧ opPc.lines.any (fun l => (benchRun corePc false).linePoisoned (grpRun false) l) = false := by decide +kernel

/-- The blocks of the copies: scalars 8 to 11, and 8 to 15. -/
def grpCp (size : Word) : Grp := { grp0 with s := [(8, 0x10200#32), (10, 0x80#32), (11, size)] }
def grpCpT : Grp := { grp0 with s := [(8, 0x10200#32), (10, 0x80#32), (11, 64#32), (12, 4#32), (13, 64#32), (14, 64#32)] }
def grpCpX : Grp := { grp0 with s := [(8, 0x10200#32), (10, 0x80#32), (11, 64#32), (12, 1#32), (13, 0x100#32), (14, 64#32)] }
def cpI : Cp := ⟨[], 7, 8, 0, 0, 1, 1, 0⟩
def cpN : Cp := ⟨[], 0, 8, 0, 0, 1, 0, 0⟩

/-- The dray with a copy queued, and with one that has its page and one unit left, or two. -/
def benchDq : State := { bench grp0 with cores := Tab.put (bench grp0).cores 0 { (bench grp0).coreAt 0 with dq := [[copy0 0], [], [], []] } }
def copyEnd (n : Nat) : Copy := { copy0 32 with landed := (List.range n).map (fun i => 8 * i), count := 8 * n }

/-- The block that CopyIssue names. -/
def blockOf (g : Grp) (n : Nat) : List Word := (List.range n).map (fun j => g.scalar (cpI.n.toNat + j))

/-- CopyIssue: each form in order, with a guard that fails, and a size that is ILLEGAL. -/
theorem witness_CopyIssue :
    ((∀ m, Issues (.cpy cpI) m (sit (.cpy cpI) (grpCp 512)) (grpCp 512) frag0)
      ∧ ((sit (.cpy cpI) (grpCp 512)).copyCheck (grpCp 512) (.cpy cpI) (blockOf (grpCp 512) 4) none (some 1)).isNone = true) ∧
    ((∀ m, Issues (.cpyt cpI) m (sit (.cpyt cpI) grpCpT) grpCpT frag0)
      ∧ ((sit (.cpyt cpI) grpCpT).copyCheck grpCpT (.cpyt cpI) (blockOf grpCpT 8) none (some 1)).isNone = true) ∧
    ((∀ m, Issues (.cpyx cpI) m (sit (.cpyx cpI) grpCpX) grpCpX frag0)
      ∧ ((sit (.cpyx cpI) grpCpX).copyCheck grpCpX (.cpyx cpI) (blockOf grpCpX 8) none (some 1)).isNone = true) ∧
    ((∀ m, Issues (.cpy cpN) m (sit (.cpy cpN) (grpCp 512)) (grpCp 512) frag0) ∧ (grpCp 512).upred 0 = false ∧ (grpCp 512).upred 7 = true) ∧
    ((∀ m, Issues (.cpy cpI) m (sit (.cpy cpI) (grpCp 511)) (grpCp 511) frag0)
      ∧ (sit (.cpy cpI) (grpCp 511)).copyCheck (grpCp 511) (.cpy cpI) (blockOf (grpCp 511) 4) none (some 1) = some .illegal) ∧
    ((sit (.cpy cpI) (grpCp 512)).plainL1 (grpCp 512).core (grpCp 512).ctx ∧ (sit (.cpyt cpI) grpCpT).plainL1 grpCpT.core grpCpT.ctx
      ∧ (sit (.cpyx cpI) grpCpX).plainL1 grpCpX.core grpCpX.ctx) :=
  ⟨⟨sit_any _ _ _ rfl (by decide), by decide⟩, ⟨sit_any _ _ _ rfl (by decide), by decide⟩, ⟨sit_any _ _ _ rfl (by decide), by decide⟩,
    ⟨sit_any _ _ _ rfl (by decide), by decide, by decide⟩, ⟨sit_any _ _ _ rfl (by decide), by decide⟩,
    bench_plain _ (grpCp 512) rfl, bench_plain _ grpCpT rfl, bench_plain _ grpCpX rfl⟩

/-- The dray with a copy that a pre-emption has stopped. -/
def benchAgain : State := benchC { copyEnd 1 with away := true }

/-- DraySteps: a copy to accept, and one to take up again; a copy's second but last unit and its last one. -/
theorem witness_DraySteps :
    (((List.range 4).map (fun i => ((benchDq.coreAt 0).dlast + 1 + i) % 4)).find? (fun q => (benchDq.nextCopy 0 q).isSome) = some 0
      ∧ benchDq.nextCopy 0 0 = some (.queued (copy0 0)) ∧ (Tab.find benchDq.launches (copy0 0).launch).isSome = true
      ∧ ((benchDq.coreAt 0).copies.filter (fun p => !p.2.away)).length < 16 ∧ (copy0 0).total ≠ 0) ∧
    (((List.range 4).map (fun i => ((benchAgain.coreAt 0).dlast + 1 + i) % 4)).find? (fun q => (benchAgain.nextCopy 0 q).isSome) = some 0
      ∧ benchAgain.nextCopy 0 0 = some (.again 0 { copyEnd 1 with away := true }) ∧ (Tab.find benchAgain.launches (copyEnd 1).launch).isSome = true
      ∧ ((benchAgain.coreAt 0).copies.filter (fun p => !p.2.away)).length < 16) ∧
    (∀ n, Tab.find ((benchC (copyEnd n)).coreAt 0).copies 0 = some (copyEnd n)) ∧
    ([2, 3].all (fun n => !(benchC (copyEnd n)).copyHeld (copyEnd n) && decide (8 * n + ((copyEnd n).unit (8 * n)).length ≤ (copyEnd n).upto)
      && unitStarts (copyEnd n).instr (copyEnd n).block (copyEnd n).idx (8 * n) && !(copyEnd n).landed.contains (8 * n)
      && (benchC (copyEnd n)).copyMay 0 (copyEnd n) && ((benchC (copyEnd n)).copyPort 0 (copyEnd n) (8 * n)).isNone)) = true ∧
    (copyEnd 2).count + ((copyEnd 2).unit 16).length ≠ (copyEnd 2).total ∧ (copyEnd 3).count + ((copyEnd 3).unit 24).length = (copyEnd 3).total :=
  ⟨⟨by decide, by decide, by decide, by decide, by decide⟩, ⟨by decide, by decide, by decide, by decide⟩, fun _ => rfl, by decide, by decide, by decide⟩

/-- LaneResults: a SETL of a line that a direct matrix instruction uses. -/
theorem witness_LaneResults_held : (moveRule (.setl v3)).isSome = true ∧ (∀ m, Issues (.setl v3) m (sit (.setl v3) (grpQ (.mma mmT))) (grpQ (.mma mmT)) frag0)
    ∧ (grpQ (.mma mmT)).canLand [(grpQ (.mma mmT)).vline v3.d.toNat] = false :=
  ⟨rfl, sit_any _ _ _ rfl (by decide), by decide⟩

end Sys2Proof.Tests
end

section
/-! PROOF. Lane, compare and scalar instructions (04 R93 to R121; 01 R27 to R30): each follows the row that the claims' tables give it. -/
namespace Sys2Proof.Machine

/-- An instruction whose meaning, whatever the state, is a change of its group completes with that change. -/
theorem completes_of_issueF {i : Instr} {act : Grp → Frag → BitVec 32} {fn : State → Grp → Frag → Grp} {s : State} {g : Grp} {f : Frag}
    {effect : Grp → Grp → Prop} (hx : ∀ s, exec i s = issueF i s act fn) (h : Issues i (act g f) s g f) (he : effect g (fn s g f)) :
    Completes i s g effect :=
  issueF_complete act fn (hx s) h he

/-! ### Instructions that write one register -/

/-- The instruction `i` does in every state what the rule `u` says: it writes the rule's result in the rule's lanes, all else as it was. -/
def FollowsLaneRule (i : Instr) (u : LaneRule) : Prop :=
  ∀ (s : State) (g : Grp) (f : Frag), Issues i (u.act g f) s g f → Completes i s g (fun g h => g.writesV h u.d (u.mask g f) (u.r s g f))

/-- A binary lane form follows the rule of its word function. -/
theorem follows_ruleV3 {i : Instr} {x : V3} {b32 : Bool} {fn fn' : Word → Word → Word → Word} (hf : ∀ a b d, fn a b d = fn' a b d)
    (hx : ∀ s, exec i s = issueLane3 i x b32 fn s) : FollowsLaneRule i (ruleV3 x b32 fn') :=
  fun s _ _ h => lane3_rule (hx s) (funext fun a => funext fun b => funext (hf a b)) h

/-- A unary lane form follows the rule of its word function. -/
theorem follows_ruleV2 {i : Instr} {x : V2} {fn fn' : Word → Word} (hf : ∀ a, fn a = fn' a)
    (hx : ∀ s, exec i s = issueLane2 i x fn s) : FollowsLaneRule i (ruleV2 x fn') :=
  fun s _ _ h => lane2_rule (hx s) (funext hf) h

/-- The integer instructions of 04 R97 to R99 follow their rules. -/
theorem follows_intRule {i : Instr} {u : LaneRule} (hu : intRule i = some u) : FollowsLaneRule i u := by
  cases i with
  | iadd x => cases hu; exact follows_ruleV3 (fun a b _ => word_add a b) (fun _ => rfl)
  | isub x => cases hu; exact follows_ruleV3 (fun a b _ => word_sub a b) (fun _ => rfl)
  | imul x => cases hu; exact follows_ruleV3 (fun a b _ => word_mul a b) (fun _ => rfl)
  | imulh x => cases hu; exact follows_ruleV3 (fun a b _ => word_mulhs a b) (fun _ => rfl)
  | imulhu x => cases hu; exact follows_ruleV3 (fun a b _ => word_mulhu a b) (fun _ => rfl)
  | imad x => cases hu; exact follows_ruleV3 word_mad (fun _ => rfl)
  | imin x => cases hu; exact follows_ruleV3 (fun a b _ => word_smin a b) (fun _ => rfl)
  | imax x => cases hu; exact follows_ruleV3 (fun a b _ => word_smax a b) (fun _ => rfl)
  | umin x => cases hu; exact follows_ruleV3 (fun a b _ => word_umin a b) (fun _ => rfl)
  | umax x => cases hu; exact follows_ruleV3 (fun a b _ => word_umax a b) (fun _ => rfl)
  | iabs x => cases hu; exact follows_ruleV2 word_abs (fun _ => rfl)
  | ineg x => cases hu; exact follows_ruleV2 word_neg (fun _ => rfl)
  | iand x => cases hu; exact follows_ruleV3 (fun _ _ _ => rfl) (fun _ => rfl)
  | ior x => cases hu; exact follows_ruleV3 (fun _ _ _ => rfl) (fun _ => rfl)
  | ixor x => cases hu; exact follows_ruleV3 (fun _ _ _ => rfl) (fun _ => rfl)
  | inot x => cases hu; exact follows_ruleV2 word_not (fun _ => rfl)
  | ishl x => cases hu; exact follows_ruleV3 (fun a b _ => word_shl a b) (fun _ => rfl)
  | ishr x => cases hu; exact follows_ruleV3 (fun a b _ => word_shr a b) (fun _ => rfl)
  | isra x => cases hu; exact follows_ruleV3 (fun a b _ => word_sra a b) (fun _ => rfl)
  | irot x => cases hu; exact follows_ruleV3 (fun a b _ => word_rot a b) (fun _ => rfl)
  | iclz x => cases hu; exact follows_ruleV2 (fun a => congrArg _ (word_clz a)) (fun _ => rfl)
  | ipopc x => cases hu; exact follows_ruleV2 (fun a => congrArg _ (word_popc a)) (fun _ => rfl)
  | ibrev x => cases hu; exact follows_ruleV2 word_rev (fun _ => rfl)
  | ibfx x => cases hu; exact follows_ruleV3 (fun a b _ => word_ibfx a b) (fun _ => rfl)
  | ubfx x => cases hu; exact follows_ruleV3 (fun a b _ => word_ubfx a b) (fun _ => rfl)
  | ibfi x => cases hu; exact follows_ruleV3 word_ibfi (fun _ => rfl)
  | idot4 x => cases hu; exact follows_ruleV3 word_idot4 (fun _ => rfl)
  | isad x => cases hu; exact follows_ruleV3 word_isad (fun _ => rfl)
  | iaddsat x => cases hu; exact follows_ruleV3 (fun _ _ _ => word_sat _) (fun _ => rfl)
  | isubsat x => cases hu; exact follows_ruleV3 (fun _ _ _ => word_sat _) (fun _ => rfl)
  | _ => cases hu

/-- A packed 16-bit form follows the rule of its operation on each half. -/
theorem follows_halves {i : Instr} {x : V3} {fn : FpMod → Nat → Nat → Nat → Nat}
    (hx : ∀ s, exec i s = issueLane3 i x false (packed2 (fn (fpMod x.pf))) s) : FollowsLaneRule i (halves x fn) :=
  follows_ruleV3 (packed2_halves _) hx

/-- The floating-point and packing instructions of 04 R100 to R105 and R108 follow their rules. -/
theorem follows_floatRule {i : Instr} {u : LaneRule} (hu : floatRule i = some u) : FollowsLaneRule i u := by
  cases i with
  | fadd x => cases hu; exact follows_ruleV3 (fun _ _ _ => rfl) (fun _ => rfl)
  | fsub x => cases hu; exact follows_ruleV3 (fun _ _ _ => rfl) (fun _ => rfl)
  | fmul x => cases hu; exact follows_ruleV3 (fun _ _ _ => rfl) (fun _ => rfl)
  | ffma x => cases hu; exact follows_ruleV3 (fun _ _ _ => rfl) (fun _ => rfl)
  | fmin x => cases hu; exact follows_ruleV3 (fun _ _ _ => rfl) (fun _ => rfl)
  | fmax x => cases hu; exact follows_ruleV3 (fun _ _ _ => rfl) (fun _ => rfl)
  | fabs x => cases hu; exact follows_ruleV2 (fun _ => rfl) (fun _ => rfl)
  | fneg x => cases hu; exact follows_ruleV2 (fun _ => rfl) (fun _ => rfl)
  | ffloor x => cases hu; exact follows_ruleV2 (fun _ => rfl) (fun _ => rfl)
  | fceil x => cases hu; exact follows_ruleV2 (fun _ => rfl) (fun _ => rfl)
  | ftrunc x => cases hu; exact follows_ruleV2 (fun _ => rfl) (fun _ => rfl)
  | frint x => cases hu; exact follows_ruleV2 (fun _ => rfl) (fun _ => rfl)
  | fclass x => cases hu; exact follows_ruleV2 (fun _ => rfl) (fun _ => rfl)
  | fscale x => cases hu; exact follows_ruleV3 (fun _ _ _ => rfl) (fun _ => rfl)
  | hadd2 x => cases hu; exact follows_halves (fun _ => rfl)
  | hmul2 x => cases hu; exact follows_halves (fun _ => rfl)
  | hfma2 x => cases hu; exact follows_halves (fun _ => rfl)
  | hmin2 x => cases hu; exact follows_halves (fun _ => rfl)
  | hmax2 x => cases hu; exact follows_halves (fun _ => rfl)
  | badd2 x => cases hu; exact follows_halves (fun _ => rfl)
  | bmul2 x => cases hu; exact follows_halves (fun _ => rfl)
  | bfma2 x => cases hu; exact follows_halves (fun _ => rfl)
  | bmin2 x => cases hu; exact follows_halves (fun _ => rfl)
  | bmax2 x => cases hu; exact follows_halves (fun _ => rfl)
  | pack x => cases hu; exact follows_ruleV3 packWord_bytes (fun _ => rfl)
  | _ => cases hu

/-- An instruction whose meaning is one write of a register follows the rule that has its lanes and its words. -/
theorem follows_setV {i : Instr} {u : LaneRule} {r : State → Grp → Frag → Nat → Word} (hr : ∀ s g f l, r s g f l = u.r s g f l)
    (hx : ∀ s, exec i s = issueF i s u.act (fun s g f => g.setV u.d (u.mask g f) (r s g f))) : FollowsLaneRule i u :=
  fun s g f h => completes_of_issueF hx h (writesV_of _ _ _ _ _ (funext (hr s g f)))

/-- P2V gathers a lane's eight predicates in its word (04 R112). -/
theorem p2v_word (g : Grp) (l : Nat) :
    maskOf ((List.range 8).filter (fun i => (g.pred i).getLsbD l)) = maskWhere (fun i => decide (i < 8) && (g.pred i).getLsbD l) := by
  have first8 : List.range 8 = (List.range 32).filter (fun i => decide (i < 8)) := rfl
  rw [first8, List.filter_filter]
  simp only [maskWhere, Bool.and_comm]

/-- The moves and exchanges of 04 R112 to R117 follow their rules, but SETL, whose result may be held. -/
theorem follows_moveRule {i : Instr} {u : LaneRule} (hu : moveRule i = some u) (hi : ∀ x, i ≠ .setl x) : FollowsLaneRule i u := by
  cases i with
  | mov x => cases hu; exact follows_setV (fun _ _ _ _ => rfl) (fun _ => rfl)
  | sel x => cases hu; exact follows_setV (fun _ _ _ _ => rfl) (fun _ => rfl)
  | getl x => cases hu; exact follows_setV (fun _ _ _ _ => rfl) (fun _ => rfl)
  | setl x => exact absurd rfl (hi x)
  | shfl x => cases hu; exact follows_setV (fun _ g _ _ => apply_ite (g.opA x.pf x.a) _ _ _) (fun _ => rfl)
  | vote x => cases hu; exact follows_setV (fun _ _ _ _ => voteValue_eq _ _ _ _ _) (fun _ => rfl)
  | p2v x => cases hu; exact follows_setV (fun _ g _ l => p2v_word g l) (fun _ => rfl)
  | _ => cases hu

/-- SETL writes its rule's result where the line is free, and holds it as an operation where a direct matrix instruction uses the line. -/
theorem exec_setl {x : V3} {u : LaneRule} (hu : moveRule (.setl x) = some u) (s : State) :
    exec (.setl x) s = issue (.setl x) s u.act (fun s g f =>
      if g.canLand [g.vline u.d] then s.finish (g.setV u.d (u.mask g f) (u.r s g f))
      else s.finish (g.addOp (mkOp s g f (.setl x) 0 (u.mask g f) 0 [capture (u.mask g f) (u.r s g f)]))) := by
  cases hu; rfl

/-- A SETL whose line no direct matrix instruction uses writes it (04 R114). -/
theorem setl_lands {x : V3} {u : LaneRule} {s : State} {g : Grp} {f : Frag} (hu : moveRule (.setl x) = some u)
    (h : Issues (.setl x) (u.act g f) s g f) (hc : g.canLand [g.vline u.d] = true) :
    Completes (.setl x) s g (fun g h => g.writesV h u.d (u.mask g f) (u.r s g f)) :=
  goesOn_of u.act _ (exec_setl hu s) h _ (if_pos hc) (Grp.writesV_setV _ _ _ _)

/-- A SETL of a line that a direct matrix instruction uses holds its result in an outstanding operation (08 R219). -/
theorem setl_held {x : V3} {u : LaneRule} {s : State} {g : Grp} {f : Frag} (hu : moveRule (.setl x) = some u)
    (h : Issues (.setl x) (u.act g f) s g f) (hc : g.canLand [g.vline u.d] = false) :
    Completes (.setl x) s g (fun g h =>
      ∃ o, g.opBegins h o ∧ o.instr = .setl x ∧ o.m = u.mask g f ∧ o.lines = [g.vline u.d] ∧ o.slots = [caught (u.mask g f) (u.r s g f)]) := by
  have hd : u.d = x.d.toNat := by cases hu; rfl
  refine goesOn_of u.act _ (exec_setl hu s) h _ (if_neg (Bool.eq_false_iff.mp hc)) ⟨_, Grp.addOp_begins _ _, rfl, rfl, ?_, rfl⟩
  rw [hd]; rfl

/-- Settles O1: every rule of the three tables is followed, by cases on the instruction; SETL by whether its line is free. -/
theorem laneResults : Obligations.LaneResults := by
  refine ⟨fun i u s g f hu => follows_intRule hu s g f, fun i u s g f hu => follows_floatRule hu s g f, fun i u s g f hu h hc => ?_,
    fun x u s g f => setl_held⟩
  by_cases hi : ∃ x, i = .setl x
  · obtain ⟨x, rfl⟩ := hi
    exact setl_lands hu h (hc ⟨x, rfl⟩)
  · exact follows_moveRule hu (fun x e => hi ⟨x, e⟩) s g f h

/-! ### REDUX, pairs and conversions -/

/-- Only the words of a register's 32 lanes count in what a write of it leaves. -/
theorem Grp.writesV_congr {g h : Grp} {d : Nat} {m : BitVec 32} {r r' : Nat → Word} (hw : g.writesV h d m r) (hr : ∀ l, l < 32 → r l = r' l) :
    g.writesV h d m r' :=
  let ⟨only, word⟩ := hw
  ⟨only, fun n l hl => hr l hl ▸ word n l hl⟩

/-- REDUX's tree over a lane's segment (04 R118): for FADD the loop of pairs, and for every other mode, whose operation is associative, the
segment's lanes of M combined from the lowest on. -/
theorem reduxTree_segment (md n : Nat) (hmd : md < 8) (m : BitVec 32) (a : Nat → Word) (l : Nat) (hl : l < 32) :
    (reduxTree md n m a (l - l % 2 ^ n)).getD 0 =
      if md = 7 then (pairTree faddRne (fun k => if m.getLsbD k then some (a k) else none) n (l - l % 2 ^ n)).getD 0
      else foldLanes (reduxRule md) a ((List.range 32).filter (inSegment m (2 ^ n) l)) := by
  rw [reduxTree_pairs]
  split
  case isTrue h7 => rw [h7, reduxOp_fadd]
  case isFalse h7 => rw [pairTree_fold _ (reduxOp_assoc md h7 hmd), joined_filter, segment_list m n l hl, reduxOp_rule md h7 hmd]

/-- REDUX writes each lane of M its segment's lanes of M, combined (04 R118). -/
theorem redux_completes {x : V2} {s : State} {g : Grp} {f : Frag} (h : Issues (.redux x) (f.mask &&& g.pred x.g.toNat) s g f) :
    Completes (.redux x) s g (fun g h => g.writesV h x.d.toNat (f.mask &&& g.pred x.g.toNat) (fun l =>
      let m := f.mask &&& g.pred x.g.toNat
      let w := laneSeg x.pf
      if laneMode x.pf = 7 then
        (pairTree faddRne (fun k => if m.getLsbD k then some (g.opA x.pf x.a k) else none) w.log2 (l - l % w)).getD 0
      else foldLanes (reduxRule (laneMode x.pf)) (g.opA x.pf x.a) ((List.range 32).filter (inSegment m w l)))) := by
  refine completes_of_issueF (fun _ => rfl) h (Grp.writesV_congr (Grp.writesV_setV _ _ _ _) fun l hl => ?_)
  simp only [laneSeg, Nat.log2_two_pow]
  exact reduxTree_segment (laneMode x.pf) _ (BitVec.isLt _) _ _ l hl

/-- A product added to a pair of words is a sum of numbers modulo 2^64 (00 R5). -/
theorem ofInt_add_pair (p : Int) (hi lo : Word) :
    BitVec.ofInt 64 p + pair hi lo = BitVec.ofInt 64 (p + (hi.toNat * 2 ^ 32 + lo.toNat : Nat)) := by
  rw [BitVec.ofInt_add, BitVec.ofInt_natCast, ← pair_toNat, BitVec.ofNat_toNat, BitVec.setWidth_eq]

/-- IADDW writes the sum of two pairs (04 R99). -/
theorem iaddw_completes {x : V3} {s : State} {g : Grp} {f : Frag} (h : Issues (.iaddw x) (f.mask &&& g.pred x.g.toNat) s g f) :
    Completes (.iaddw x) s g (fun g h => g.writesVPair h x.d.toNat (f.mask &&& g.pred x.g.toNat) (fun l =>
      BitVec.ofNat 64 ((g.opA64 x.pf x.a l).toNat + (g.opB64 x.pf x.b l).toNat))) :=
  completes_of_issueF (fun _ => rfl) h (writesVPair_of _ _ _ _ _ (funext fun _ => BitVec.add_def _ _))

/-- IMADW writes a signed product added to the pair that stood there (04 R99). -/
theorem imadw_completes {x : V3} {s : State} {g : Grp} {f : Frag} (h : Issues (.imadw x) (f.mask &&& g.pred x.g.toNat) s g f) :
    Completes (.imadw x) s g (fun g h => g.writesVPair h x.d.toNat (f.mask &&& g.pred x.g.toNat) (fun l =>
      BitVec.ofInt 64 ((g.opA x.pf x.a l).toInt * (g.opB x.pf x.b false l).toInt
        + ((g.vreg (x.d.toNat + 1) l).toNat * 2 ^ 32 + (g.vreg x.d.toNat l).toNat : Nat)))) :=
  completes_of_issueF (fun _ => rfl) h (writesVPair_of _ _ _ _ _ (funext fun _ => ofInt_add_pair _ _ _))

/-- CVT writes a pair for the destination I64 and one register for every other (04 R106). -/
theorem cvt_completes {x : Cvt} {s : State} {g : Grp} {f : Frag} (h : Issues (.cvt x) (f.mask &&& g.pred x.g.toNat) s g f) :
    Completes (.cvt x) s g (fun g h =>
      let r (l : Nat) : Dword := convert (cvSrc x.s) (cvDst x.f) (fpMod x.pf) (g.opA x.pf x.a l)
      if cvDst x.f = .int 64 then g.writesVPair h x.d.toNat (f.mask &&& g.pred x.g.toNat) r
      else g.writesV h x.d.toNat (f.mask &&& g.pred x.g.toNat) (fun l => (r l).setWidth 32)) := by
  refine completes_of_issueF (fun _ => rfl) h ?_
  simp only
  generalize cvDst x.f = c
  cases c with
  | int w =>
    by_cases hw : w = 64
    · subst hw; exact Grp.writesVPair_setVPair _ _ _ _
    · simp only [hw, CvDst.int.injEq, if_false]; exact Grp.writesV_setV _ _ _ _
  | flt t => exact Grp.writesV_setV _ _ _ _
  | e8 => exact Grp.writesV_setV _ _ _ _
  | uint w => exact Grp.writesV_setV _ _ _ _

/-- Error feedback: every CVTEF follows its format (04 R83, R107). -/
theorem feedback_completes {i : Instr} {x : V3} {e : EfFmt} {s : State} {g : Grp} {f : Frag} (hu : feedbackRule i = some (x, e))
    (h : Issues i (f.mask &&& g.pred x.g.toNat) s g f) :
    Completes i s g (fun g h => g.onlyLines h ∧ ∀ n l, l < 32 → h.word n l =
      let r := errorFeedback e (fpMod x.pf) (g.opA x.pf x.a l) (g.vreg x.b.toNat l)
      let m := (f.mask &&& g.pred x.g.toNat).getLsbD l
      if n = g.vline x.b.toNat ∧ m = true then r.2
      else if n = g.vline x.d.toNat ∧ m = true then
        BitVec.ofNat 32 (r.1 % 2 ^ e.bits * 2 ^ (32 - e.bits) + (g.vreg x.d.toNat l).toNat / 2 ^ e.bits)
      else g.word n l) := by
  cases i with
  | cvtefF8a x => cases hu; exact feedback_rule rfl (by decide) h
  | cvtefF8b x => cases hu; exact feedback_rule rfl (by decide) h
  | cvtefF4 x => cases hu; exact feedback_rule rfl (by decide) h
  | cvtefH16 x => cases hu; exact feedback_rule rfl (by decide) h
  | cvtefB16 x => cases hu; exact feedback_rule rfl (by decide) h
  | cvtefI8 x => cases hu; exact feedback_rule rfl (by decide) h
  | _ => cases hu

/-- Settles O2: REDUX by its tree over a segment, the pairs and CVT by the write of a pair, CVTEF by its table. -/
theorem wideAndReducedResults : Obligations.WideAndReducedResults :=
  ⟨fun _ _ _ _ => redux_completes, ⟨fun _ _ _ _ => iaddw_completes, fun _ _ _ _ => imadw_completes⟩,
    fun _ _ _ _ => cvt_completes, fun _ _ _ _ _ _ => feedback_completes⟩

/-! ### Compares -/

/-- What a lane compare leaves (04 R109; 02 R53): in each lane of the fragment both predicates by the combining type, p2 after p1. -/
def comparesLanes (x : Cmp) (b : Bool) (c : Word → Word → Bool) (f : Frag) (g h : Grp) : Prop :=
  h = { g with p := h.p } ∧ ∀ n l, l < 32 → (h.pred n).getLsbD l =
    let r := c (g.opA x.pf x.a l) (g.opB x.pf x.b b l)
    if n = 7 then true
    else if n = x.q.toNat then combined x.c.toNat false (f.mask.getLsbD l) ((g.pred n).getLsbD l) r
    else if n = x.p.toNat then combined x.c.toNat true (f.mask.getLsbD l) ((g.pred n).getLsbD l) r
    else (g.pred n).getLsbD l

/-- A lane compare leaves what its comparison says. -/
theorem lane_compares {i : Instr} {x : Cmp} {b : Bool} {c c' : Word → Word → Bool} {s : State} {g : Grp} {f : Frag}
    (hc : ∀ a b, c' a b = c a b) (hx : ∀ s, exec i s = issueCmp i x b c' s) (h : Issues i f.mask s g f) :
    Completes i s g (comparesLanes x b c f) :=
  cmp_rule (hx s) (funext fun a => funext (hc a)) h

theorem decide_word_eq (a b : Word) : decide (a = b) = decide (a.toNat = b.toNat) := by
  rw [decide_eq_decide, BitVec.toNat_inj]

theorem decide_word_ne (a b : Word) : decide (a ≠ b) = !decide (a.toNat = b.toNat) := by
  rw [decide_not, decide_word_eq]

/-- Signed `≤` is the opposite of signed `<` the other way round. -/
theorem decide_int_le (a b : Int) : decide (a ≤ b) = !decide (b < a) := by
  rw [← decide_not, decide_eq_decide, Int.not_lt]

theorem decide_word_le (a b : Word) : decide (a ≤ b) = !decide (b.toNat < a.toNat) := by
  rw [← decide_not, decide_eq_decide, Nat.not_lt, BitVec.le_def]

/-- FCMP.NE's test is the opposite of FCMP.EQ's (04 R109). -/
theorem or_or_decide_not (a b : Bool) (p : Prop) [Decidable p] : (a || b || decide (¬p)) = !(!a && !b && decide p) := by
  rw [decide_not, Bool.not_and, Bool.not_and, Bool.not_not, Bool.not_not]

/-- Every lane compare leaves what its row of the comparison table says (04 R109). -/
theorem compareRule_completes {i : Instr} {x : Cmp} {b : Bool} {c : Word → Word → Bool} {s : State} {g : Grp} {f : Frag}
    (hu : compareRule i = some (x, b, c)) (h : Issues i f.mask s g f) : Completes i s g (comparesLanes x b c f) := by
  cases i with
  | icmpEq x => cases hu; exact lane_compares decide_word_eq (fun _ => rfl) h
  | icmpNe x => cases hu; exact lane_compares decide_word_ne (fun _ => rfl) h
  | icmpLt x => cases hu; exact lane_compares (fun _ _ => rfl) (fun _ => rfl) h
  | icmpLe x => cases hu; exact lane_compares (fun a b => decide_int_le a.toInt b.toInt) (fun _ => rfl) h
  | icmpGt x => cases hu; exact lane_compares (fun _ _ => rfl) (fun _ => rfl) h
  | icmpGe x => cases hu; exact lane_compares (fun a b => decide_int_le b.toInt a.toInt) (fun _ => rfl) h
  | icmpLtu x => cases hu; exact lane_compares (fun _ _ => rfl) (fun _ => rfl) h
  | icmpLeu x => cases hu; exact lane_compares decide_word_le (fun _ => rfl) h
  | icmpGtu x => cases hu; exact lane_compares (fun _ _ => rfl) (fun _ => rfl) h
  | icmpGeu x => cases hu; exact lane_compares (fun a b => decide_word_le b a) (fun _ => rfl) h
  | fcmpEq x => cases hu; exact lane_compares (fun _ _ => rfl) (fun _ => rfl) h
  | fcmpNe x => cases hu; exact lane_compares (fun _ _ => or_or_decide_not _ _ _) (fun _ => rfl) h
  | fcmpLt x => cases hu; exact lane_compares (fun _ _ => rfl) (fun _ => rfl) h
  | fcmpLe x => cases hu; exact lane_compares (fun _ _ => rfl) (fun _ => rfl) h
  | fcmpGt x => cases hu; exact lane_compares (fun _ _ => rfl) (fun _ => rfl) h
  | fcmpGe x => cases hu; exact lane_compares (fun _ _ => rfl) (fun _ => rfl) h
  | fcmpUn x => cases hu; exact lane_compares (fun _ _ => rfl) (fun _ => rfl) h
  | fcmpOr x => cases hu; exact lane_compares (fun _ _ => (Bool.not_or _ _).symm) (fun _ => rfl) h
  | _ => cases hu

/-- What a scalar compare leaves (04 R110; 02 R53): once, whatever the mask, both uniform predicates by the combining type, p2 after p1. -/
def comparesScalars (x : Cmp) (c : Word → Word → Bool) (g h : Grp) : Prop :=
  h = { g with k := h.k } ∧ ∀ n, n < 8 → h.upred n =
    let r := c (g.sclOpA x.pf x.a) (g.sclOpB x.pf x.b false)
    if n = 7 then true
    else if n = x.q.toNat then combined x.c.toNat false true (g.upred n) r
    else if n = x.p.toNat then combined x.c.toNat true true (g.upred n) r
    else g.upred n

/-- A scalar compare leaves what its comparison says. -/
theorem scalar_compares {i : Instr} {x : Cmp} {c c' : Word → Word → Bool} {s : State} {g : Grp} {f : Frag}
    (hc : ∀ a b, c' a b = c a b) (hx : ∀ s, exec i s = issueScmp i x c' s) (h : Issues i f.mask s g f) :
    Completes i s g (comparesScalars x c) :=
  scmp_rule (hx s) (funext fun a => funext (hc a)) h

/-- Every scalar compare leaves what its row of the comparison table says (04 R110). -/
theorem scalarCompareRule_completes {i : Instr} {x : Cmp} {c : Word → Word → Bool} {s : State} {g : Grp} {f : Frag}
    (hu : scalarCompareRule i = some (x, c)) (h : Issues i f.mask s g f) : Completes i s g (comparesScalars x c) := by
  cases i with
  | scmpEq x => cases hu; exact scalar_compares decide_word_eq (fun _ => rfl) h
  | scmpNe x => cases hu; exact scalar_compares decide_word_ne (fun _ => rfl) h
  | scmpLt x => cases hu; exact scalar_compares (fun _ _ => rfl) (fun _ => rfl) h
  | scmpLtu x => cases hu; exact scalar_compares (fun _ _ => rfl) (fun _ => rfl) h
  | _ => cases hu

/-! ### The scalar unit -/

/-- The instruction `i` does in every state what the rule `u` says: where its guard holds it writes the rule's scalar, and nothing else changes. -/
def FollowsScalarRule (i : Instr) (u : ScalarRule) : Prop :=
  ∀ (s : State) (g : Grp) (f : Frag), Issues i (g.guarded f u.k) s g f →
    Completes i s g (fun g h => if g.upred u.k.toNat then g.writesS h u.d (u.r g) else h = g)

/-- A scalar operation follows the rule of its word function. -/
theorem follows_ruleS3 {i : Instr} {x : S3} {b32 : Bool} {fn fn' : Word → Word → Word → Word} (hf : ∀ a b d, fn a b d = fn' a b d)
    (hx : ∀ s, exec i s = issueS3 i x b32 fn s) : FollowsScalarRule i (ruleS3 x b32 fn') :=
  fun s _ _ h => scalar_rule (hx s) (funext fun a => funext fun b => funext (hf a b)) h

/-- SMOVW copies one scalar where its guard holds (04 R120). -/
theorem follows_smovw (x : Smw) : FollowsScalarRule (.smovw x) ⟨x.k, x.d.toNat, fun g => g.scalar x.a.toNat⟩ := by
  intro s g f h
  refine completes_of_issueF (fun _ => rfl) h ?_
  split
  · exact Grp.writesS_setScalar _ _ _
  · rfl

/-- The scalar unit follows its rules (04 R119, R120). -/
theorem follows_scalarRule {i : Instr} {u : ScalarRule} (hu : scalarRule i = some u) : FollowsScalarRule i u := by
  cases i with
  | sadd x => cases hu; exact follows_ruleS3 (fun a b _ => word_add a b) (fun _ => rfl)
  | ssub x => cases hu; exact follows_ruleS3 (fun a b _ => word_sub a b) (fun _ => rfl)
  | smul x => cases hu; exact follows_ruleS3 (fun a b _ => word_mul a b) (fun _ => rfl)
  | smulh x => cases hu; exact follows_ruleS3 (fun a b _ => word_mulhs a b) (fun _ => rfl)
  | sand x => cases hu; exact follows_ruleS3 (fun _ _ _ => rfl) (fun _ => rfl)
  | sor x => cases hu; exact follows_ruleS3 (fun _ _ _ => rfl) (fun _ => rfl)
  | sxor x => cases hu; exact follows_ruleS3 (fun _ _ _ => rfl) (fun _ => rfl)
  | sshl x => cases hu; exact follows_ruleS3 (fun a b _ => word_shl a b) (fun _ => rfl)
  | sshr x => cases hu; exact follows_ruleS3 (fun a b _ => word_shr a b) (fun _ => rfl)
  | ssra x => cases hu; exact follows_ruleS3 (fun a b _ => word_sra a b) (fun _ => rfl)
  | smin x => cases hu; exact follows_ruleS3 (fun a b _ => word_smin a b) (fun _ => rfl)
  | smax x => cases hu; exact follows_ruleS3 (fun a b _ => word_smax a b) (fun _ => rfl)
  | sfadd x => cases hu; exact follows_ruleS3 (fun _ _ _ => rfl) (fun _ => rfl)
  | sfmul x => cases hu; exact follows_ruleS3 (fun _ _ _ => rfl) (fun _ => rfl)
  | sffma x => cases hu; exact follows_ruleS3 (fun _ _ _ => rfl) (fun _ => rfl)
  | smovw x => cases hu; exact follows_smovw x
  | _ => cases hu

/-! ### Predicates -/

/-- PLOP writes one predicate in the lanes of M from three predicates as they stood, and p7 stays ones (04 R111). -/
theorem plop_completes {x : Plop} {s : State} {g : Grp} {f : Frag} (h : Issues (.plop x) (f.mask &&& g.pred x.g.toNat) s g f) :
    Completes (.plop x) s g (fun g h => h = { g with p := h.p } ∧ ∀ n l, l < 32 → (h.pred n).getLsbD l =
      let bit (p : BitVec 3) : Nat := if (g.pred p.toNat).getLsbD l then 1 else 0
      if n ≠ 7 ∧ n = x.p.toNat ∧ (f.mask &&& g.pred x.g.toNat).getLsbD l = true then x.l.getLsbD (4 * bit x.a + 2 * bit x.b + bit x.c)
      else (g.pred n).getLsbD l) := by
  refine completes_of_issueF (fun _ => rfl) h ⟨Grp.setPred_only _ _ _, fun n l hl => ?_⟩
  simp only [Grp.pred_setPred]
  by_cases h7 : n = 7
  · simp only [h7, Grp.pred, if_true, ne_eq, not_true_eq_false, false_and, if_false]
  · by_cases hp : n = x.p.toNat
    · rw [if_neg h7, if_pos hp, masked_bit _ _ _ _ hl, maskWhere_getLsbD, decide_eq_true hl, Bool.true_and, ← hp]
      simp only [ne_eq, h7, not_false_eq_true, true_and]
      rfl
    · simp only [h7, hp, if_false, false_and, and_false]

/-- V2P writes the predicates p0 to p6 in the lanes of M whose mask operand names them (04 R112). -/
theorem v2p_completes {x : Src} {s : State} {g : Grp} {f : Frag} (h : Issues (.v2p x) (f.mask &&& g.pred x.g.toNat) s g f) :
    Completes (.v2p x) s g (fun g h => h = { g with p := h.p } ∧ ∀ n l, l < 32 → (h.pred n).getLsbD l =
      if n < 7 ∧ (f.mask &&& g.pred x.g.toNat).getLsbD l = true ∧ (g.opB x.pf x.b false l).getLsbD n = true then
        (g.opA x.pf x.a l).getLsbD n
      else (g.pred n).getLsbD l) := by
  refine completes_of_issueF (fun _ => rfl) h ⟨(setPred_fold _ _ 0 7 (Nat.le_refl 7)).2, fun n l hl => ?_⟩
  simp only [(setPred_fold _ _ n 7 (Nat.le_refl 7)).1]
  by_cases hn : n < 7
  · rw [if_pos hn, masked_bit _ _ _ _ hl, maskWhere_getLsbD, maskWhere_getLsbD, decide_eq_true hl, Bool.true_and, Bool.true_and]
    simp only [hn, true_and, Bool.and_eq_true]
    rfl
  · rw [if_neg hn, if_neg (fun e => hn e.1)]

/-! ### Special registers -/

/-- RDSR (01 R29): the scalar form writes one scalar, or a pair, with what the lowest active lane reads; the other form writes a register. -/
theorem rdsr_completes {x : RdSr} {s : State} {g : Grp} {f : Frag} (h : Issues (.rdsr x) f.mask s g f) :
    Completes (.rdsr x) s g (fun g h =>
      let v (n l : Nat) : Word := s.sr g f s.iss.slot n l
      if x.e = 1#1 then
        g.onlyScalars h ∧ ∀ k, h.scalar k =
          if x.w = 1#1 ∧ k = x.d.toNat + 1 then v (x.n.toNat + 1) (lowestLane f.mask)
          else if k = x.d.toNat then v x.n.toNat (lowestLane f.mask) else g.scalar k
      else g.writesV h x.d.toNat (f.mask &&& g.pred x.g.toNat) (v x.n.toNat)) := by
  refine completes_of_issueF (fun _ => rfl) h ?_
  by_cases he : x.e = 1#1
  · by_cases hw : x.w = 1#1
    · simp only [he, hw, if_true, true_and]
      exact ⟨rfl, fun k => by rw [Grp.scalar_setScalar, Grp.scalar_setScalar]⟩
    · simp only [he, hw, if_true, if_false, false_and]
      exact Grp.writesS_setScalar _ _ _
  · simp only [he, if_false]
    exact Grp.writesV_setV _ _ _ _

/-- The writable special registers take a write and the others discard it (01 R27, R30). -/
theorem writeSr_eq_srWritten (g : Grp) (n : Nat) (v : Word) : g.writeSr n v = srWritten g n v := by
  unfold Grp.writeSr
  split
  · rfl
  · rfl
  · simp [srWritten, pair, Grp.lo32_hi32]
  · simp [srWritten, pair, Grp.lo32_hi32]
  case h_5 h12 h14 h100 h101 => simp only [srWritten, if_neg h12, if_neg h14, if_neg h100, if_neg h101]

/-- WRSR writes one special register, or two that follow each other, from scalars (01 R30). -/
theorem wrsr_completes {x : WrSr} {s : State} {g : Grp} {f : Frag} (h : Issues (.wrsr x) f.mask s g f) :
    Completes (.wrsr x) s g (fun g h =>
      let t := srWritten g x.n.toNat (g.scalar x.d.toNat)
      h = if x.w = 1#1 then srWritten t (x.n.toNat + 1) (g.scalar (x.d.toNat + 1)) else t) := by
  refine completes_of_issueF (fun _ => rfl) h ?_
  simp only [writeSr_eq_srWritten]

theorem Grp.scalar_setScalarPair (g : Grp) (d n : Nat) (v : Dword) :
    (g.setScalarPair d v).scalar n = if n = d + 1 then hi32 v else if n = d then lo32 v else g.scalar n := by
  unfold Grp.setScalarPair
  rw [Grp.scalar_setScalar, Grp.scalar_setScalar]

theorem lo32_ofNat (t : Nat) : lo32 (BitVec.ofNat 64 t) = BitVec.ofNat 32 (t % 2 ^ 64) := by
  apply BitVec.eq_of_toNat_eq
  simp [lo32]

theorem hi32_ofNat (t : Nat) : hi32 (BitVec.ofNat 64 t) = BitVec.ofNat 32 (t % 2 ^ 64 / 2 ^ 32) := by
  apply BitVec.eq_of_toNat_eq
  simp [hi32, BitVec.extractLsb'_toNat, Nat.shiftRight_eq_div_pow]

/-- RDTIME writes both halves of the clock modulo 2^64 where its guard holds (04 R121). -/
theorem rdtime_completes {x : Sd} {s : State} {g : Grp} {f : Frag} (h : Issues (.rdtime x) (g.guarded f x.k) s g f) :
    Completes (.rdtime x) s g (fun g h =>
      let t := s.clockOf g.core % 2 ^ 64
      if g.upred x.k.toNat then
        g.onlyScalars h ∧ ∀ n, h.scalar n =
          if n = x.d.toNat + 1 then BitVec.ofNat 32 (t / 2 ^ 32)
          else if n = x.d.toNat then BitVec.ofNat 32 t else g.scalar n
      else h = g) := by
  refine completes_of_issueF (fun _ => rfl) h ?_
  split
  · exact ⟨rfl, fun n => by rw [Grp.scalar_setScalarPair, lo32_ofNat, hi32_ofNat]⟩
  · rfl

/-- Settles O3: compares and the scalar unit by their tables, the predicate and special register words one by one. -/
theorem comparesAndScalars : Obligations.ComparesAndScalars :=
  ⟨fun _ _ _ _ _ _ _ => compareRule_completes, fun _ _ _ _ _ _ => scalarCompareRule_completes,
    fun _ _ s g f hu => follows_scalarRule hu s g f,
    ⟨fun _ _ _ _ => plop_completes, fun _ _ _ _ => v2p_completes⟩,
    fun _ _ _ _ => rdsr_completes, fun _ _ _ _ => wrsr_completes, fun _ _ _ _ => rdtime_completes⟩

end Sys2Proof.Machine
end

section
/-! PROOF. Taking a trap (05 R136, R142, R143): the software traps at issue, and the steps that take raised and deferred faults' traps. -/
namespace Sys2Proof.Machine

/-! ### Software traps -/

/-- TRAP takes the software trap of cause SWTRAP with its code (05 R136). -/
theorem trap_takes_softTrap {x : Code} {s : State} {g : Grp} {f : Frag} (h : Issues (.trap x) 0 s g f) :
    exec (.trap x) s = .next (s.softTrap g f 0x05 x.c) :=
  issue_runs (fun _ _ => 0) (fun s g f => s.softTrap g f 0x05 x.c) h

/-- BKPT takes the software trap of cause BREAK with its code (05 R136). -/
theorem bkpt_takes_softTrap {x : Code} {s : State} {g : Grp} {f : Frag} (h : Issues (.bkpt x) 0 s g f) :
    exec (.bkpt x) s = .next (s.softTrap g f 0x06 x.c) :=
  issue_runs (fun _ _ => 0) (fun s g f => s.softTrap g f 0x06 x.c) h

/-! ### Traps of raised and deferred faults -/

section
variable {s : State} {gid : Nat} {g : Grp}

/-- The trap of the raised faults is taken once the group is on its core and has not escalated (05 R142). -/
theorem trapEntry_takes (hg : Tab.find s.groups gid = some g) (hr : g.raised ≠ []) (he : g.escalated = false) (hl : g.life.onCore = true) :
    exec (.trapEntry gid) s = .next (s.takeTrap gid g.raised []) := by
  have due : ¬(g.raised.isEmpty || g.escalated || !g.life.onCore) = true := by
    simp only [List.isEmpty_eq_false_iff.mpr hr, he, hl, Bool.or_false, Bool.not_true, Bool.false_eq_true, not_false_eq_true]
  show execTrapEntry gid s = _
  unfold execTrapEntry
  simp only [State.grp_of_find hg, if_neg due]

/-- The trap of the deferred faults, with none raised, is taken once no fragment can issue or the replay queue holds eight (05 R143). -/
theorem deferredTrapTaken_takes (hg : Tab.find s.groups gid = some g) (hr : g.raised = []) (hd : g.deferred ≠ []) (he : g.escalated = false)
    (hl : g.life.onCore = true) (hq : s.canIssue g = false ∨ 8 ≤ g.deferred.length + g.unpassed.length) :
    exec (.deferredTrapTaken gid) s = .next (s.takeTrap gid [] []) := by
  have free : ¬(g.deferred.isEmpty || !g.raised.isEmpty || g.escalated || !g.life.onCore) = true := by
    simp only [List.isEmpty_eq_false_iff.mpr hd, hr, he, hl, List.isEmpty_nil, Bool.or_false, Bool.not_true, Bool.false_eq_true, not_false_eq_true]
  have due : (!s.canIssue g || decide (8 ≤ g.deferred.length + g.unpassed.length)) = true := by
    rcases hq with hq | hq
    · rw [hq, Bool.not_false, Bool.true_or]
    · rw [decide_eq_true hq, Bool.or_true]
  show execDeferredTrapTaken gid s = _
  unfold execDeferredTrapTaken
  simp only [State.grp_of_find hg, if_neg free, if_pos due]

end

/-- Settles O9: the two software traps at issue, and the two steps that take the trap of faults. -/
theorem trapEntry : Obligations.TrapEntry :=
  ⟨⟨fun _ _ _ _ => trap_takes_softTrap, fun _ _ _ _ => bkpt_takes_softTrap⟩,
    fun _ _ _ => trapEntry_takes, fun _ _ _ => deferredTrapTaken_takes⟩

end Sys2Proof.Machine
end

section
/-! PROOF. Decoding the words of an instruction gives it back (02 R39, R47 to R58; 18 R383): its own word, its prefix words, and then both. -/
namespace Sys2Proof

/-! ### An instruction's own word -/

/-- The instructions of the service cores (18 R383): custom-0 words, which `candService` reads. -/
def Instr.isService (i : Instr) : Bool :=
  match i with
  | .gspawn _ | .gjoin _ | .vlt _ | .vstT _ => true
  | _ => false

/-- Every field of a Terkor instruction stands at the place of its opcode's row at which the decoder takes it (R52, R55). -/
theorem candTerkor_instrWord {i : Instr} {w : Word} (h : instrWord i = some w) (hs : i.isService = false) : candTerkor i.pf w = i := by
  cases i with
  | gspawn | gjoin | vlt | vstT => exact absurd hs (by simp [Instr.isService])
  | _ =>
    simp only [instrWord, Option.some.injEq, reduceCtorEq] at h
    all_goals
      subst h
      simp -index only [Instr.pf, candTerkor, candRow0, candRow1, candRow2, candRow3, candRow4, candRow5, candRow6, candRow7, candRow8,
        candRow9, candRow10, candRow11,
        encZ, encV3, encV2, encMv, encDst, encSrc, encSrc1, encRdSr, encWrSr, encPlop, encCvt, encCmp, encTx, encS3, encSd, encSmw, encBr,
        encRet, encXn, encEx, encCode, encSvcD, encSvcC, encSv, encTli, encFen, encWp, encArr, encWb, encWtl, encWc, encRgx, encMm, encMz,
        encMt, encSc, encPrc, encPst, encCp, encCst, encCk, encZone,
        decZ, decV3, decV2, decMv, decDst, decSrc, decRdSr, decWrSr, decPlop, decCvt, decCmp, decTx, decS3, decSd, decSmw, decBr,
        decRet, decXn, decEx, decCode, decSvcD, decSv, decTli, decFen, decWp, decArr, decWb, decWtl, decWc, decRgx, decMm, decMz,
        decMt, decSc, decPrc, decPst, decCp, decCst,
        BitVec.extractLsb'_append_eq_of_le, BitVec.extractLsb'_append_eq_of_add_le, BitVec.extractLsb'_eq_self, BitVec.getLsbD_append,
        BitVec.reduceGetLsb, BitVec.reduceExtractLsb', BitVec.reduceToNat, Nat.reduceLeDiff, Nat.reduceLT, Nat.reduceSub, Nat.reduceAdd,
        Nat.le_refl, Bool.false_eq_true, reduceIte]

theorem candService_instrWord {i : Instr} {w : Word} (h : instrWord i = some w) (hs : i.isService = true) : candService w = some i := by
  cases i with
  | gspawn | gjoin | vlt | vstT =>
    simp only [instrWord, Option.some.injEq] at h
    subst h
    simp -index only [candService, BitVec.extractLsb'_append_eq_of_le, BitVec.extractLsb'_append_eq_of_add_le, BitVec.extractLsb'_eq_self,
      BitVec.reduceToNat, Nat.reduceLeDiff, Nat.reduceSub, Nat.reduceAdd, Nat.le_refl]
  | _ => exact absurd hs (by simp [Instr.isService])

/-- A custom-0 word with bits [31:25] 0 has opcode 0x00 or 0x01, but the low bits of NOP and bits [13:12] of MOV are 0 (R55; 18 R383). -/
theorem instrWord_candTerkor_custom0 {w : Word} (hop : w.extractLsb' 25 7 = 0#7) (hlow : w.extractLsb' 0 7 = 11#7)
    (h3 : w.extractLsb' 12 2 ≠ 0#2 ∨ w.extractLsb' 24 1 = 0#1) : instrWord (candTerkor [] w) ≠ some w := by
  have hrow : (w.extractLsb' 28 4).toNat = 0 ∧ (w.extractLsb' 24 4).toNat = (w.extractLsb' 24 1).toNat := by
    have := congrArg BitVec.toNat hop
    simp only [BitVec.extractLsb'_toNat, Nat.shiftRight_eq_div_pow, BitVec.toNat_ofNat] at this ⊢
    omega
  obtain ⟨hi, hlo⟩ := hrow
  intro h
  rcases Nat.lt_or_ge 0 (w.extractLsb' 24 1).toNat with h1 | h0
  · have hn : candTerkor [] w = .mov (decMv [] w) := by
      simp only [candTerkor, candRow0, hi, hlo, show (w.extractLsb' 24 1).toNat = 1 by omega]
    have hz : w.extractLsb' 12 2 = 0#2 := by
      rw [hn] at h
      rw [← Option.some.inj h]
      simp -index only [encMv, BitVec.extractLsb'_append_eq_of_le, BitVec.extractLsb'_append_eq_of_add_le, BitVec.reduceExtractLsb',
        Nat.reduceLeDiff, Nat.reduceSub, Nat.reduceAdd, Nat.le_refl]
    rcases h3 with h3 | h3
    · exact h3 hz
    · rw [h3] at h1
      exact absurd h1 (by decide)
  · have hn : candTerkor [] w = .nop (decZ [] w) := by
      simp only [candTerkor, candRow0, hi, hlo, show (w.extractLsb' 24 1).toNat = 0 by omega]
    rw [hn] at h
    rw [← Option.some.inj h] at hlow
    exact absurd (show (0#32).extractLsb' 0 7 = 11#7 from hlow) (by decide)

/-- No word of the service cores is a Terkor instruction's. -/
theorem instrWord_candTerkor_service {i : Instr} {w : Word} (h : instrWord i = some w) (hs : i.isService = true) :
    instrWord (candTerkor [] w) ≠ some w := by
  cases i with
  | gspawn | gjoin | vlt | vstT =>
    simp only [instrWord, Option.some.injEq] at h
    subst h
    apply instrWord_candTerkor_custom0
    all_goals
      simp -index only [BitVec.extractLsb'_append_eq_of_le, BitVec.extractLsb'_append_eq_of_add_le, BitVec.reduceExtractLsb', BitVec.reduceEq,
        Nat.reduceLeDiff, Nat.reduceSub, Nat.reduceAdd, Nat.le_refl, ne_eq, not_false_eq_true, true_or, or_true]
  | _ => exact absurd hs (by simp [Instr.isService])

theorem pf_of_isService {i : Instr} (hs : i.isService = true) : i.pf = [] := by
  cases i with
  | gspawn | gjoin | vlt | vstT => rfl
  | _ => exact absurd hs (by simp [Instr.isService])

theorem decodeInstrWord_instrWord {i : Instr} {w : Word} (h : instrWord i = some w) : decodeInstrWord i.pf w = some i := by
  unfold decodeInstrWord
  cases hs : i.isService with
  | false => rw [candTerkor_instrWord h hs, if_pos h]
  | true =>
    rw [pf_of_isService hs, if_neg (instrWord_candTerkor_service h hs), if_pos rfl, decodeService, candService_instrWord h hs]
    exact if_pos h

/-- The opcodes of the table lie below 0xC0, and custom-0 words have class 0 (R39, R55). -/
theorem wordClass_instrWord {i : Instr} {w : Word} (h : instrWord i = some w) : wordClass w = .instr := by
  cases i
  all_goals simp only [instrWord, Option.some.injEq, reduceCtorEq] at h
  all_goals
    subst h
    simp -index only [wordClass,
        encZ, encV3, encV2, encMv, encDst, encSrc, encSrc1, encRdSr, encWrSr, encPlop, encCvt, encCmp, encTx, encS3, encSd, encSmw, encBr,
        encRet, encXn, encEx, encCode, encSvcD, encSvcC, encSv, encTli, encFen, encWp, encArr, encWb, encWtl, encWc, encRgx, encMm, encMz,
        encMt, encSc, encPrc, encPst, encCp, encCst, encCk, encZone,
        BitVec.extractLsb'_append_eq_of_le,
        BitVec.reduceExtractLsb', BitVec.reduceToNat, Nat.reduceLeDiff, Nat.reduceLT, Nat.reduceSub, Nat.reduceAdd,
        reduceIte]

/-! ### Prefix words -/

theorem candPf_encodePf (p : Pf) : candPf (encodePf p) = some p := by
  cases p
  all_goals
    simp -index only [candPf, encodePf, wordClass, BitVec.extractLsb'_append_eq_of_le, BitVec.extractLsb'_append_eq_of_add_le,
      BitVec.extractLsb'_eq_self, BitVec.reduceExtractLsb', BitVec.reduceToNat, Nat.reduceLeDiff, Nat.reduceLT, Nat.reduceEqDiff,
      Nat.reduceSub, Nat.reduceAdd, Nat.le_refl, reduceIte, reduceCtorEq]

theorem decodePf_encodePf (p : Pf) : decodePf (encodePf p) = some p := by
  simp only [decodePf, candPf_encodePf, if_true]

/-- A prefix word is a hint or a HIMM (R39, R48, R50). -/
theorem wordClass_encodePf (p : Pf) : wordClass (encodePf p) = .hint ∨ wordClass (encodePf p) = .himm := by
  cases p
  all_goals
    simp -index only [encodePf, wordClass, BitVec.extractLsb'_append_eq_of_le, BitVec.reduceExtractLsb', BitVec.reduceToNat,
      Nat.reduceLeDiff, Nat.reduceLT, Nat.reduceEqDiff, Nat.reduceSub, Nat.reduceAdd, Nat.le_refl, reduceIte, reduceCtorEq, or_true, true_or]

/-- Prefix words are read in fetch order, up to the instruction word (R47). -/
theorem decodeFrom_prefixes (qs ps : List Pf) (ws : List Word) : decodeFrom qs (ps.map encodePf ++ ws) = decodeFrom (qs ++ ps) ws := by
  induction ps generalizing qs with
  | nil => rw [List.append_nil]; rfl
  | cons p ps ih =>
    have step : decodeFrom qs (encodePf p :: (ps.map encodePf ++ ws)) = decodeFrom (qs ++ [p]) (ps.map encodePf ++ ws) := by
      rcases wordClass_encodePf p with hc | hc <;> simp only [decodeFrom, hc, decodePf_encodePf]
    rw [List.map_cons, List.cons_append, step, ih, List.append_assoc, List.singleton_append]

theorem decodeFrom_instrWord {i : Instr} {w : Word} (r : List Word) (h : instrWord i = some w) : decodeFrom i.pf (w :: r) = .ok (i, r) := by
  simp only [decodeFrom, wordClass_instrWord h, decodeInstrWord_instrWord h]

/-- Settles O59: the prefix words are read one after the other, and the instruction's own word then gives it back with them. -/
theorem roundTrip : Obligations.RoundTrip := by
  intro i w r h
  have words : encode i ++ r = i.pf.map encodePf ++ w :: r := by
    simp only [encode, h, List.append_assoc, List.singleton_append]
  rw [words, decode, decodeFrom_prefixes, List.nil_append, decodeFrom_instrWord r h]

end Sys2Proof
end

section
/-! PROOF. The tier 1 claims: words written out from the encodings (02 R52 to R54), the state after a reset (22 R437, R445), and what a step of the
machine runs (02 R40 to R47; 05 R138; 11 R266). -/
namespace Sys2Proof.Machine

/-- Settles O60: the decoder evaluated on the words. -/
theorem decodedWords : Obligations.DecodedWords := by
  unfold Obligations.DecodedWords
  refine ⟨?_, ?_, ?_, ?_, ?_, ?_⟩ <;> rfl

/-! ### The state after a reset -/

theorem ctxAt_reset_root : State.reset.ctxAt 0 = ctxRoot := rfl

theorem ctxAt_reset_other (x : Nat) (hx : x ≠ 0) : State.reset.ctxAt x = ctxInit := by
  show Tab.findD [(0, ctxRoot)] x ctxInit = ctxInit
  rw [Tab.findD, Tab.find, if_neg (Ne.symm hx)]; rfl

/-- Context 0 has every cluster (21 R413). -/
theorem ctxRoot_clMask : ∀ c, c < 48 → ctxRoot.clMask.getLsbD c = true := by decide

/-- Every place of a list of one value has it, and so has every place past its end. -/
theorem getD_replicate_self {α : Type} (x : α) (r n : Nat) : (List.replicate r x)[n]?.getD x = x := by
  rw [List.getElem?_replicate]
  split
  · rfl
  · rfl

theorem dieAt_reset (d : Nat) : State.reset.dieAt d = dieInit := getD_replicate_self dieInit 4 d

theorem slotAt_reset (d n : Nat) : State.reset.slotAt d n = slotInit := by
  rw [State.slotAt, dieAt_reset]
  exact getD_replicate_self slotInit 24 n

theorem portAt_reset (p : Nat) : State.reset.portAt p = portInit := getD_replicate_self portInit 16 p

/-- Settles O57: each part of the state after a reset, read off its value. -/
theorem resetState : Obligations.ResetState := by
  refine ⟨reset_memOk, fun _ => rfl, rfl, rfl, rfl, rfl, rfl, rfl, rfl, rfl, ?_, rfl, rfl, ctxRoot_clMask, rfl, ?_, ?_, rfl, rfl, fun _ => ⟨rfl, rfl⟩⟩
  · intro x hx
    rw [ctxAt_reset_other x hx]; rfl
  · intro d n _ _
    rw [slotAt_reset]; exact ⟨rfl, rfl, rfl⟩
  · intro p _
    rw [portAt_reset]; rfl

/-! ### Fetching an instruction's words -/

theorem decodeFrom_nil (pf : List Pf) : decodeFrom pf [] = .error .truncated := rfl

/-- The fetch of a body's words stops at the instruction that they decode to (R45, R47): `acc` are the words read so far, of which `pf` are the prefixes. -/
theorem fetchBody_of_wordsAt {g : Grp} {hdr : Dword} {len : Nat} {i : Instr} (hi : instrIsService i = false) (ws : List Word) :
    ∀ (acc : List Word) (pf : List Pf) (n fuel : Nat) (s u : State), s.wordsAt g hdr n ws u → decodeFrom pf ws = .ok (i, []) →
      (∀ l, decode (acc ++ l) = decodeFrom pf l) → n + ws.length - 1 ≤ len → ws.length ≤ fuel →
      s.fetchBody g hdr len n fuel acc none = (.words i (acc ++ ws) (n + ws.length - 1), u) := by
  induction ws with
  | nil => intro acc pf n fuel s u _ hd; cases hd
  | cons w r ih =>
    intro acc pf n fuel s u hw hd hacc hlen hfuel
    obtain ⟨t, hf, hr⟩ := hw
    obtain ⟨fuel, rfl⟩ : ∃ k, fuel = k + 1 := ⟨fuel - 1, by simp only [List.length_cons] at hfuel; omega⟩
    simp only [List.length_cons] at hlen hfuel
    have hin : ¬ len < n := by omega
    have hlast : decode (acc ++ [w]) = decodeFrom pf [w] := hacc [w]
    simp only [State.fetchBody, if_neg hin, hf]
    simp only [decodeFrom] at hd hlast
    cases hc : wordClass w with
    | header | reserved => simp only [hc] at hd; cases hd
    | instr =>
      simp only [hc] at hd hlast ⊢
      cases hx : decodeInstrWord pf w with
      | none => simp only [hx] at hd; cases hd
      | some j =>
        simp only [hx] at hd hlast
        cases hd
        cases hr
        simp only [hlast, hi, Bool.false_eq_true, if_false, List.length_cons, List.length_nil, Nat.zero_add, Nat.add_sub_cancel]
    | hint | himm =>
      simp only [hc] at hd ⊢
      cases hp : decodePf w with
      | none => simp only [hp] at hd; cases hd
      | some p =>
        simp only [hp] at hd
        have hr1 : 1 ≤ r.length := by
          cases r with
          | nil => rw [decodeFrom_nil] at hd; cases hd
          | cons => simp only [List.length_cons]; omega
        have hmore : ∀ l, decode (acc ++ [w] ++ l) = decodeFrom (pf ++ [p]) l := by
          intro l
          rw [List.append_assoc, hacc]
          simp only [List.singleton_append, decodeFrom, hc, hp]
        have hnext := ih (acc ++ [w]) (pf ++ [p]) (n + 1) fuel t u hr hd hmore (by omega) (by omega)
        rw [if_neg (show ¬ n = len by omega)]
        simp only [Option.isNone_some, Bool.false_eq_true, if_false, hnext, List.append_assoc, List.singleton_append, List.length_cons]
        rw [show n + 1 + r.length - 1 = n + (r.length + 1) - 1 by omega]

/-! ### Turns of a fragment -/

/-- The bits of a header's setA or setB that name a flag or none are no other value (R43). -/
theorem flagField_ok {x : BitVec 4} (h : x.toNat < 12 ∨ x = 15#4) : (decide (12 ≤ x.toNat) && decide (x.toNat ≤ 14)) = false := by
  rcases h with h | rfl
  · rw [decide_eq_false (by omega), Bool.false_and]
  · rfl

section
variable {s t u : State} {gid slot : Nat} {r : List Turn} {g : Grp} {f : Frag}

theorem step_issue (ha : s.agenda = .issue gid slot :: r) : step s = runIssue gid slot { s with agenda := r } := by
  simp only [step, ha, runTurn]

/-- The turn of a fragment inside a clause is the instruction that the words at its position decode to (R42, R47). -/
theorem turnOf_words {hd : Header} {i : Instr} {ws : List Word} (hg : Tab.find s.groups gid = some g) (hf : g.frag slot = some f)
    (hm : g.mayIssue f = true) (hs : f.served = false) (hr : f.arriving = false) (hn : f.pos.next ≠ 0) (hal : f.pos.hdr.extractLsb' 0 2 = 0#2)
    (hc : ({ s with iss := { issNone with
      both := s.iss.both, g := gid, slot := slot, pc := wordAddr f.pos.hdr f.pos.next, start := wordAddr f.pos.hdr f.pos.next
      after := f.pos } } : State).clauseLen g f.pos.hdr = .ok (some hd, t))
    (hw : t.wordsAt g f.pos.hdr f.pos.next ws u) (hd' : decode ws = .ok (i, [])) (hi : instrIsService i = false)
    (hl : f.pos.next + ws.length - 1 ≤ hd.len.toNat + 1) :
    s.turnOf gid slot = .run i { u with iss := { issNone with
      both := s.iss.both, g := gid, slot := slot, pc := wordAddr f.pos.hdr (f.pos.next + ws.length - 1), words := ws, start := wordAddr f.pos.hdr f.pos.next
      last := decide (f.pos.next + ws.length - 1 = hd.len.toNat + 1),
      after := if f.pos.next + ws.length - 1 = hd.len.toNat + 1 then posAt (wordAddr f.pos.hdr (f.pos.next + ws.length - 1 + 1))
        else { f.pos with next := f.pos.next + ws.length - 1 + 1 } } } := by
  have hfuel : ws.length ≤ 17 := by have := hd.len.isLt; omega
  have hbody := fetchBody_of_wordsAt hi ws [] [] f.pos.next 17 t u hw hd' (fun _ => rfl) hl hfuel
  simp only [State.turnOf, hg, hf, hm, hs, hr, if_neg hn, hal, Bool.not_true, Bool.false_eq_true, if_false, ne_eq, not_true_eq_false, hc, hbody,
    List.nil_append, decide_eq_true_eq]

/-- The turn of a fragment at a header whose wait mask is met takes its fields (R42, R43, R45). -/
theorem turnOf_header {hd : Header} (hg : Tab.find s.groups gid = some g) (hf : g.frag slot = some f)
    (hm : g.mayIssue f = true) (hs : f.served = false) (hr : f.arriving = false) (hn : f.pos.next = 0) (hal : f.pos.hdr.extractLsb' 0 2 = 0#2)
    (hc : ({ s with iss := { issNone with both := s.iss.both, g := gid, slot := slot, pc := f.pos.hdr, start := f.pos.hdr, after := f.pos } } : State).clauseLen
      g f.pos.hdr = .ok (some hd, t))
    (hw : ∀ i, i < 12 → hd.wait.getLsbD i = true → g.flagVal i = 0) (ha : hd.setA.toNat < 12 ∨ hd.setA = 15#4) (hb : hd.setB.toNat < 12 ∨ hd.setB = 15#4) :
    s.turnOf gid slot = .done (t.setGrp gid (g.setFrag slot (some { f with pos := ⟨f.pos.hdr, 1, hd.setA, hd.setB, hd.y⟩, wait := .none }))) := by
  have hmet : t.waitMet g (.flags hd.wait) = true := by
    simp only [State.waitMet, List.all_eq_true, List.mem_range, Bool.or_eq_true, Bool.not_eq_true', decide_eq_true_eq]
    intro i hi
    cases hb : hd.wait.getLsbD i with
    | false => exact Or.inl rfl
    | true => exact Or.inr (hw i hi hb)
  have henter : s.enterClause gid slot g f =
      t.setGrp gid (g.setFrag slot (some { f with pos := ⟨f.pos.hdr, 1, hd.setA, hd.setB, hd.y⟩, wait := .none })) := by
    simp only [State.enterClause, hal, ne_eq, not_true_eq_false, if_false, hc, flagField_ok ha, flagField_ok hb, Bool.or_false, Bool.false_eq_true, hmet, if_true]
  simp only [State.turnOf, hg, hf, hm, hs, hr, if_pos hn, Bool.not_true, Bool.false_eq_true, if_false, henter]

end

/-! ### The turns of the agenda -/

/-- A fetch of a word that no write has replaced gives the word in memory (R40, R41). -/
theorem fetchWord_current {s : State} {g : Grp} {va : Dword} {r : XOk} (ht : s.translate g.core g.ctx g.sup va .fetch = .ok r)
    (ho : (s.xCommit g.core r).oldWords g.launch r.pa = []) :
    s.fetchWord g va = .ok (BitVec.ofNat 32 ((s.xCommit g.core r).homeWord r.pa), s.xCommit g.core r) := by
  simp only [State.fetchWord, ht, State.fetchWordPa, ho]

theorem step_event {s : State} {r : List Turn} {i : Instr} (ha : s.agenda = .event i :: r) (hi : instrWord i = none) :
    step s = match exec i { s with agenda := r } with
      | .next u => .next (u.fileLanded { s with agenda := r }).settle
      | o => o := by
  simp only [step, ha, runTurn, hi, Option.isSome_none, Bool.false_eq_true, if_false] <;> rfl

theorem step_hart {s : State} {d n : Nat} {r : List Turn} {i : Instr} (ha : s.agenda = .hart d n :: r) (hw : s.hartWord d n = some i) :
    step s = match exec i { s with agenda := r, iss := { issNone with pc := (s.hartAt d n).pc, words := encode i, die := d, hart := n } } with
      | .next u => .next { u.settle with iss := issNone }
      | o => o := by
  have hw' : ({ s with agenda := r } : State).hartWord d n = some i := hw
  simp only [step, ha, runTurn, hw']
  rfl

theorem step_hartBase {s t : State} {d n : Nat} {r : List Turn} (ha : s.agenda = .hart d n :: r) (hw : s.hartWord d n = none)
    (hc : s.hartCustom d n = false) (ht : ({ s with agenda := r } : State).hartBase d n = some t) : step s = .next t.settle := by
  have hw' : ({ s with agenda := r } : State).hartWord d n = none := hw
  have hc' : ({ s with agenda := r } : State).hartCustom d n = false := hc
  simp only [step, ha, runTurn, hw', hc', ht, Bool.false_eq_true, if_false]

/-- A clock of a quarter (11 R266) issues nothing, the one fragment it picks, or the two, one after the other. -/
theorem step_clock {s : State} {c q : Nat} {busy : List (Nat × Nat)} {r : List Turn} (ha : s.agenda = .clock c q busy :: r) :
    let picks := ({ s with agenda := r } : State).clockPicks c q busy
    (picks = [] → step s = .next ({ s with agenda := r } : State).settle) ∧
    (∀ a, picks = [a] → step s = step { s with agenda := .issue a.1 a.2 :: r }) ∧
    (∀ a b, picks = [a, b] → a.1 ≠ b.1 → step s = match step { s with agenda := .issue a.1 a.2 :: r } with
      | .next t => step { t with agenda := .issue b.1 b.2 :: t.agenda }
      | o => o) := by
  have hrun : step s = runClock c q busy { s with agenda := r } := by simp only [step, ha, runTurn]
  simp only [runClock] at hrun
  refine ⟨fun h => ?_, fun a h => ?_, fun a b h hne => ?_⟩
  · simp only [hrun, h]
  · simp only [hrun, h]; rfl
  · simp only [hrun, h, if_neg hne]; rfl

/-- Settles O56: what each kind of turn comes to. -/
theorem stepRunsInstruction : Obligations.StepRunsInstruction := by
  refine ⟨?_, fun _ _ _ _ => fetchWord_current, ?_, fun _ _ _ _ _ => step_hart, fun _ _ _ _ _ => step_hartBase, fun _ _ _ => step_event,
    fun _ _ _ _ _ => step_clock, ?_, ?_⟩
  · intro s t u gid slot r g f hd i ws ha hg hf hm hs hr hn hal s0 n hc hw hd' hi hl v
    rw [step_issue ha, runIssue, turnOf_words (s := { s with agenda := r }) hg hf hm hs hr hn hal hc hw hd' hi hl]
    have hgrp : ({ s with agenda := r } : State).grp gid = g := State.grp_of_find (s := { s with agenda := r }) hg
    simp only [hgrp, hf, Option.getD_some]
    rfl
  · intro s t gid slot r g f hd ha hg hf hm hs hr hn hal hc hw hA hB
    rw [step_issue ha, runIssue, turnOf_header (s := { s with agenda := r }) hg hf hm hs hr hn hal hc hw hA hB]
  · intro s r ns ha
    simp only [step, ha, runTurn]
  · intro s ha
    simp only [step, ha]

end Sys2Proof.Machine
end

section
/-! SUPPORT. The operations of core memory (07 R180 to R203, R211; 17 R357 to R368) touch memory, its caches and copies, windows and the count of free values
alone, and keep system physical memory in its canonical form: one lemma per operation. -/
namespace Sys2Proof.Machine

/-- `t` is `s` but for memory with its poison and copies, the cores, the dies' translation caches and the count of free values; and memory stays in its
canonical form. -/
structure State.MemStep (s t : State) : Prop where
  frame : t = { s with freeCtr := t.freeCtr, mem := t.mem, memPoison := t.memPoison, codeLog := t.codeLog, l2 := t.l2, dir := t.dir, cores := t.cores, dies := t.dies }
  canon : s.memOk → t.memOk

namespace State.MemStep

variable {s t u : State}

theorem refl (s : State) : s.MemStep s := ⟨rfl, id⟩

theorem trans (a : s.MemStep t) (b : t.MemStep u) : s.MemStep u :=
  ⟨by rw [b.frame, a.frame], fun h => b.canon (a.canon h)⟩

theorem groups (h : s.MemStep t) : t.groups = s.groups := by rw [h.frame]
theorem ctxs (h : s.MemStep t) : t.ctxs = s.ctxs := by rw [h.frame]
theorem iss (h : s.MemStep t) : t.iss = s.iss := by rw [h.frame]

theorem grp (h : s.MemStep t) (n : Nat) : t.grp n = s.grp n := by rw [State.grp, h.groups]; rfl

theorem hasOp (h : s.MemStep t) {gid n : Nat} {g : Grp} {o : Op} (ho : s.hasOp gid n g o) : t.hasOp gid n g o := by
  unfold State.hasOp; rw [h.groups]; exact ho

/-- A change beside memory. -/
theorem beside
    (f : t = { s with freeCtr := t.freeCtr, memPoison := t.memPoison, codeLog := t.codeLog, l2 := t.l2, dir := t.dir, cores := t.cores, dies := t.dies }) :
    s.MemStep t :=
  have hm : t.mem = s.mem := by rw [f]
  ⟨by rw [hm]; exact f, State.memOk_of_mem hm⟩

theorem foldl {α : Type} {f : State → α → State} (hf : ∀ (s : State) x, s.MemStep (f s x)) (xs : List α) (s : State) : s.MemStep (xs.foldl f s) := by
  induction xs generalizing s with
  | nil => exact refl s
  | cons x r ih => exact (hf s x).trans (ih _)

/-- A fold that carries a result beside the state. -/
theorem foldl_snd {α β : Type} {f : β × State → α → β × State} (hf : ∀ (p : β × State) x, p.2.MemStep (f p x).2) (xs : List α) (p : β × State) :
    p.2.MemStep (xs.foldl f p).2 := by
  induction xs generalizing p with
  | nil => exact refl p.2
  | cons x r ih => exact (hf p x).trans (ih _)

end State.MemStep

open State (MemStep)

theorem State.modCore_memStep (s : State) (c : Nat) (f : Core → Core) : s.MemStep (s.modCore c f) := .beside rfl
theorem State.setCore_memStep (s : State) (c : Nat) (k : Core) : s.MemStep (s.setCore c k) := .beside rfl
theorem State.modDie_memStep (s : State) (d : Nat) (f : Die → Die) : s.MemStep (s.modDie d f) := .beside rfl
theorem State.useFree_memStep (s : State) (n : Nat) : s.MemStep (s.useFree n) := .beside rfl

/-! ### Memory at its home -/

theorem State.memWrite_memStep (s : State) (pa : Nat) (bs : List Byte) : s.MemStep (s.memWrite pa bs) :=
  ⟨by rw [State.memWrite_only], s.memWrite_memOk pa bs⟩

theorem State.homeWrite_memStep (s : State) (pa : Nat) (bs : List Byte) (o : Bool) : s.MemStep (s.homeWrite pa bs o) :=
  ⟨by rw [State.homeWrite_only], s.homeWrite_memOk pa bs o⟩

theorem State.homeSetDword_memStep (s : State) (pa v : Nat) : s.MemStep (s.homeSetDword pa v) := s.homeWrite_memStep _ _ _
theorem State.homeSetWord_memStep (s : State) (pa v : Nat) : s.MemStep (s.homeSetWord pa v) := s.homeWrite_memStep _ _ _
theorem State.poisonMem_memStep (s : State) (pa : Nat) : s.MemStep (s.poisonMem pa) := .beside rfl

theorem State.l2Touch_memStep (s : State) (pa : Nat) : s.MemStep (s.l2Touch pa) := by
  unfold State.l2Touch; split
  · exact .beside rfl
  · exact .refl s

theorem State.l2Refresh_memStep (s : State) (pa : Nat) (bs : List Byte) : s.MemStep (s.l2Refresh pa bs) := by
  unfold State.l2Refresh; split
  · exact .refl s
  · exact .beside rfl

theorem State.l2Clean_memStep (s : State) (pa : Nat) (inv : Bool) : s.MemStep (s.l2Clean pa inv) := by
  unfold State.l2Clean; split
  · exact .refl s
  · refine (MemStep.foldl (fun u i => ?_) (List.range 128) s).trans (.beside rfl)
    split
    · exact u.memWrite_memStep _ _
    · exact .refl u

/-! ### Translations and dirty bitmaps -/

theorem State.setDs_memStep (s : State) (ds : List DSet) : s.MemStep (s.setDs ds) := by
  induction ds generalizing s with
  | nil => exact .refl s
  | cons d r ih => exact ((s.homeSetDword_memStep _ _).trans (.beside rfl)).trans (ih _)

theorem State.traced_memStep (s : State) (tr : XTrace) : s.MemStep (s.traced tr) := (s.setDs_memStep _).trans (State.useFree_memStep _ _)

theorem State.fillEntry_memStep (s : State) (core : Nat) (e : Option TEntry) : s.MemStep (s.fillEntry core e) := by
  unfold State.fillEntry; split
  · exact .refl s
  · exact (s.modCore_memStep _ _).trans (State.modDie_memStep _ _ _)

theorem State.xCommit_memStep (s : State) (core : Nat) (r : XOk) : s.MemStep (s.xCommit core r) :=
  (s.traced_memStep _).trans (State.fillEntry_memStep _ _ _)

theorem State.markPage_memStep (s : State) (c a : Nat) : s.MemStep (s.markPage c a) := by
  unfold State.markPage; split
  · exact .refl s
  · dsimp only
    split
    · exact s.traced_memStep _
    · split
      · exact s.traced_memStep _
      · exact (s.traced_memStep _).trans (State.homeSetDword_memStep _ _ _)

theorem State.trackPath_memStep (s : State) (ch path : List Nat) : s.MemStep (s.trackPath ch path) := .foldl (fun u _ => u.markPage_memStep _ _) _ s

/-! ### L1 -/

theorem State.l1Put_memStep (s : State) (core : Nat) (l : L1Line) : s.MemStep (s.l1Put core l) := s.modCore_memStep _ _
theorem State.l1Drop_memStep (s : State) (core x va : Nat) : s.MemStep (s.l1Drop core x va) := s.modCore_memStep _ _

theorem State.putWord8_memStep (s : State) (pa : Nat) (l : L1Line) (i : Nat) : s.MemStep (s.putWord8 pa l i) := by
  unfold State.putWord8
  dsimp only
  split
  · exact .refl s
  · have written : s.MemStep (if l.dirty.extractLsb' (8 * i) 8 = 0xFF#8 then s.homeWrite (pa + 8 * i) (leBytes 8 (l.data.extractLsb' (64 * i) 64).toNat) false
        else (List.range 8).foldl (fun u j => if (l.dirty.extractLsb' (8 * i) 8).getLsbD j then
          u.homeWrite (pa + 8 * i + j) [(leBytes 8 (l.data.extractLsb' (64 * i) 64).toNat).getD j 0] false else u) s) := by
      split
      · exact s.homeWrite_memStep _ _ _
      · refine .foldl (fun u j => ?_) _ s
        split
        · exact u.homeWrite_memStep _ _ _
        · exact .refl u
    split
    · exact written.trans (State.poisonMem_memStep _ _)
    · exact written

theorem State.putDirty_memStep (s : State) (l : L1Line) : s.MemStep (s.putDirty l) := by
  unfold State.putDirty; split
  · exact .refl s
  · exact (MemStep.foldl (fun u i => u.putWord8_memStep _ _ i) _ s).trans (State.trackPath_memStep _ _ _)

theorem State.writeBackLine_memStep {s t : State} {core : Nat} {sup : Bool} {l : L1Line} (e : s.writeBackLine core sup l = .ok t) : s.MemStep t := by
  unfold State.writeBackLine at e
  split at e
  · cases e; exact s.putDirty_memStep l
  · split at e
    · cases e
    · cases e
      split
      · exact s.xCommit_memStep _ _
      · exact (s.xCommit_memStep _ _).trans (State.putDirty_memStep _ _)

theorem State.holdLine_memStep (s : State) (core : Nat) (l : L1Line) (e : XFault) : s.MemStep (s.holdLine core l e) :=
  (s.traced_memStep _).trans (State.l1Put_memStep _ _ _)

theorem State.writeBackAll_memStep (s : State) (core x : Nat) (sup keep : Bool) (ls : List L1Line) (bad : Option (XFault × L1Line)) :
    s.MemStep (s.writeBackAll core x sup keep ls bad).1 := by
  induction ls generalizing s bad with
  | nil => exact .refl s
  | cons l rest ih =>
    unfold State.writeBackAll
    split
    · exact ih s bad
    · split
      · rename_i t e
        refine ((State.writeBackLine_memStep e).trans ?_).trans (ih _ _)
        split
        · exact t.l1Put_memStep _ _
        · exact t.l1Drop_memStep _ _ _
      · exact (s.holdLine_memStep _ _ _).trans (ih _ _)

theorem State.releaseL1_memStep (s : State) (core x : Nat) (sup : Bool) : s.MemStep (s.releaseL1 core x sup).1 := s.writeBackAll_memStep _ _ _ _ _ _
theorem State.acquireL1_memStep (s : State) (core x : Nat) (sup : Bool) : s.MemStep (s.acquireL1 core x sup) := s.writeBackAll_memStep _ _ _ _ _ _

theorem State.l1Lookup_memStep (s : State) (core x va : Nat) (sup : Bool) : s.MemStep (s.l1Lookup core x va sup).2 := by
  unfold State.l1Lookup; split
  · exact .refl s
  · split
    · exact .refl s
    · split
      · rename_i t e
        exact (State.writeBackLine_memStep e).trans (t.l1Drop_memStep _ _ _)
      · exact s.holdLine_memStep _ _ _

/-! ### Accesses -/

theorem State.readGlobal_memStep (s : State) (h : How) (va pa n : Nat) : s.MemStep (s.readGlobal h va pa n).2 := by
  have look := s.l1Lookup_memStep h.core h.ctx va h.sup
  unfold State.readGlobal
  dsimp only
  generalize s.l1Lookup h.core h.ctx va h.sup = r at look ⊢
  split
  · split
    · dsimp only
      split
      · exact look.trans (State.l1Drop_memStep _ _ _ _)
      · split
        · exact look.trans (State.l1Put_memStep _ _ _)
        · exact look
    · dsimp only
      split
      · exact look.trans (State.l2Touch_memStep _ _)
      · exact (look.trans (State.l2Touch_memStep _ _)).trans (State.l1Put_memStep _ _ _)
  · have home : s.MemStep (if h.owner then r.2.l2Refresh pa ((if h.owner then r.2 else r.2.l2Touch pa).readHome h.owner pa n) else r.2.l2Touch pa) := by
      split
      · exact look.trans (State.l2Refresh_memStep _ _ _)
      · exact look.trans (State.l2Touch_memStep _ _)
    dsimp only
    split
    · exact home.trans (State.l1Put_memStep _ _ _)
    · exact home

theorem State.putHome_memStep (s : State) (h : How) (pa : Nat) (bs : List Byte) : s.MemStep (s.putHome h pa bs) :=
  (s.homeWrite_memStep _ _ _).trans (State.trackPath_memStep _ _ _)

theorem State.writeGlobal_memStep (s : State) (h : How) (va pa : Nat) (bs : List Byte) : s.MemStep (s.writeGlobal h va pa bs) := by
  have look := s.l1Lookup_memStep h.core h.ctx va h.sup
  unfold State.writeGlobal
  dsimp only
  generalize s.l1Lookup h.core h.ctx va h.sup = r at look ⊢
  generalize (if h.narrow then r.2.polOf h va r.1 else 2) = pol
  split
  · refine look.trans (MemStep.trans ?_ (State.putHome_memStep _ _ _ _))
    split
    · exact State.l1Put_memStep _ _ _
    · exact .refl _
  · split
    · refine look.trans (MemStep.trans ?_ (State.putHome_memStep _ _ _ _))
      split
      · exact (State.putDirty_memStep _ _).trans (State.l1Drop_memStep _ _ _ _)
      · exact .refl _
    · split
      · exact look.trans (State.l1Put_memStep _ _ _)
      · exact (look.trans (State.l2Touch_memStep _ _)).trans (State.l1Put_memStep _ _ _)

theorem State.cleanWord_memStep (s : State) (h : How) (va pa : Nat) : s.MemStep (s.cleanWord h va pa) := by
  unfold State.cleanWord
  dsimp only
  split
  · split
    · exact s.l1Put_memStep _ _
    · exact (s.l1Put_memStep _ _).trans (.beside rfl)
  · exact .beside rfl

theorem State.flushLine_memStep (s : State) (h : How) (va : Nat) : s.MemStep (s.flushLine h va) := by
  have look := s.l1Lookup_memStep h.core h.ctx va h.sup
  unfold State.flushLine
  generalize s.l1Lookup h.core h.ctx va h.sup = r at look ⊢
  split
  · split
    · exact look
    · exact (look.trans (State.putDirty_memStep _ _)).trans (State.l1Drop_memStep _ _ _ _)
  · exact look

theorem State.rmwGlobal_memStep (s : State) (h : How) (va pa n : Nat) (f : List Byte → Option (List Byte)) : s.MemStep (s.rmwGlobal h va pa n f).2 := by
  have flushed : s.MemStep (if h.narrow then s else s.flushLine h va) := by
    split
    · exact .refl s
    · exact s.flushLine_memStep _ _
  unfold State.rmwGlobal
  dsimp only
  generalize (if h.narrow then s else s.flushLine h va) = t at flushed ⊢
  have read := flushed.trans (t.readGlobal_memStep { h with pol := 0 } va pa n)
  split
  · exact read
  · split
    · exact read
    · exact read.trans (State.writeGlobal_memStep _ _ _ _ _)

/-! ### Windows and barrier objects -/

theorem State.winWrite_memStep (s : State) (core key : Nat) (bs : List Byte) : s.MemStep (s.winWrite core key bs) := by
  unfold State.winWrite; split
  · exact .refl s
  · exact s.modCore_memStep _ _

theorem State.poisonWin_memStep (s : State) (core key : Nat) : s.MemStep (s.poisonWin core key) := s.modCore_memStep _ _

theorem State.objSet_memStep (s : State) (core key i : Nat) (w : Word) : s.MemStep (s.objSet core key i w) := s.winWrite_memStep _ _ _

theorem State.objCheck_memStep (s : State) (core key : Nat) : s.MemStep (s.objCheck core key) := by
  unfold State.objCheck; split
  · exact ((s.objSet_memStep _ _ _ _).trans (State.objSet_memStep _ _ _ _ _)).trans (State.objSet_memStep _ _ _ _ _)
  · exact .refl s

theorem State.objArrive_memStep (s : State) (core key : Nat) (due : Word) (arr : Nat) : s.MemStep (s.objArrive core key due arr) := by
  unfold State.objArrive
  dsimp only
  refine MemStep.trans ?_ ((State.objSet_memStep _ _ _ _ _).trans (State.objCheck_memStep _ _ _))
  have announced : s.MemStep (if due = 0 then s else s.objSet core key 3 (s.objWord core key 3 + due)) := by
    split
    · exact .refl s
    · exact s.objSet_memStep _ _ _ _
  split
  · exact announced.trans (State.objSet_memStep _ _ _ _ _)
  · exact announced

theorem State.objLand_memStep (s : State) (core key n : Nat) : s.MemStep (s.objLand core key n) :=
  (s.objSet_memStep _ _ _ _).trans (State.objCheck_memStep _ _ _)

/-! ### The lanes of an operation -/

theorem State.readLoc_memStep (s : State) (h : How) (va : Nat) (l : Loc) (n : Nat) : s.MemStep (s.readLoc h va l n).2 := by
  cases l with
  | mem pa path => exact s.readGlobal_memStep _ _ _ _
  | void | dead | win => exact .refl s

theorem State.readWords_memStep (s : State) (h : How) (va : Nat) (l : Loc) (n : Nat) : s.MemStep (s.readWords h va l n).2 := by
  unfold State.readWords
  dsimp only
  refine MemStep.foldl_snd (fun p i => ?_) _ ([], s)
  exact (p.2.readLoc_memStep _ _ _ _ :)

theorem State.readLanes_memStep (s : State) (h : How) (addr : Nat → Dword) (locs : List (Nat × Loc)) (n : Nat) : s.MemStep (s.readLanes h addr locs n).2 := by
  induction locs generalizing s with
  | nil => exact .refl s
  | cons p r ih => exact (s.readWords_memStep _ _ _ _).trans (ih _)

theorem State.countHits_memStep (s : State) (h : How) (o : Op) (addr : Nat → Dword) (locs : List (Nat × Loc)) : s.MemStep (s.countHits h o addr locs) := by
  unfold State.countHits; split
  · exact .refl s
  · dsimp only
    split
    · exact .refl s
    · exact s.setCore_memStep _ _

theorem State.writeLoc_memStep (s : State) (h : How) (va : Nat) (l : Loc) (bs : List Byte) : s.MemStep (s.writeLoc h va l bs) := by
  cases l with
  | mem pa path => exact s.writeGlobal_memStep _ _ _ _
  | win c k => exact s.winWrite_memStep _ _ _
  | void | dead => exact .refl s

theorem State.cleanLanes_memStep (s : State) (h : How) (addr : Nat → Dword) (n : Nat) (locs : List (Nat × Loc)) : s.MemStep (s.cleanLanes h addr n locs) := by
  unfold State.cleanLanes
  refine MemStep.trans ?_ (.foldl (fun u c => u.modCore_memStep _ _) _ _)
  refine .foldl (fun u w => ?_) _ s
  split
  · exact u.cleanWord_memStep _ _ _
  · exact .refl u

theorem State.storeLanes_memStep (s : State) (h : How) (addr : Nat → Dword) (o : Op) (slot : Nat) (locs : List (Nat × Loc)) :
    s.MemStep (s.storeLanes h addr o slot locs) := by
  have stored : s.MemStep (locs.foldl (fun (u : State) p =>
      u.writeLoc h (va48 (addr p.1)) p.2 (o.dataBytes slot (accBytes o.instr) (if o.kind = 2 then 0 else p.1))) s) :=
    .foldl (fun u p => u.writeLoc_memStep _ _ _ _) _ s
  unfold State.storeLanes
  dsimp only
  generalize locs.foldl _ s = t at stored ⊢
  split
  · exact stored
  · exact stored.trans (State.cleanLanes_memStep _ _ _ _ _)

theorem State.atomLane_memStep (s : State) (h : How) (va : Nat) (l : Loc) (f : Word → Option Word) : s.MemStep (s.atomLane h va l f).2 := by
  cases l with
  | mem pa path => exact s.rmwGlobal_memStep _ _ _ _ _
  | void | dead => exact .refl s
  | win c k =>
    unfold State.atomLane
    dsimp only
    split
    · exact .refl s
    · split
      · exact show s.MemStep (s.winWrite c k (leBytes 4 _)) from s.winWrite_memStep c k _
      · exact .refl s

theorem State.atomLanes_memStep (s : State) (h : How) (addr : Nat → Dword) (o : Op) (locs : List (Nat × Loc)) : s.MemStep (s.atomLanes h addr o locs).2 := by
  induction locs generalizing s with
  | nil => exact .refl s
  | cons p r ih => exact (s.atomLane_memStep _ _ _ _).trans (ih _)

theorem State.maintLine_memStep (s : State) (h : How) (va pa sc : Nat) (inv : Bool) : s.MemStep (s.maintLine h va pa sc inv) := by
  have line : s.MemStep (match s.l1Find h.core h.ctx va with
    | none => s
    | some l =>
      match s.writeBackLine h.core h.sup l with
      | .ok u => if inv then u.l1Drop h.core h.ctx va else u.l1Put h.core { l with dirty := 0, held := false }
      | .error e => s.holdLine h.core l e) := by
    split
    · exact .refl s
    · split
      · rename_i u e
        refine (State.writeBackLine_memStep e).trans ?_
        split
        · exact u.l1Drop_memStep _ _ _
        · exact u.l1Put_memStep _ _
      · exact s.holdLine_memStep _ _ _
  unfold State.maintLine
  dsimp only
  split
  · exact line.trans (State.l2Clean_memStep _ _ _)
  · exact line

theorem State.maintPhys_memStep (s : State) (h : How) (pa sc : Nat) : s.MemStep (s.maintPhys h pa sc) := by
  have lines : s.MemStep (((s.coreAt h.core).l1.filter (fun l => decide (l.pa = pa / 128 * 128))).foldl (fun (u : State) l =>
      match u.writeBackLine h.core h.sup l with
      | .ok v => v.l1Drop h.core l.ctx l.va
      | .error e => u.holdLine h.core l e) s) := by
    refine .foldl (fun u l => ?_) _ s
    split
    · rename_i v e
      exact (State.writeBackLine_memStep e).trans (v.l1Drop_memStep _ _ _)
    · exact u.holdLine_memStep _ _ _
  unfold State.maintPhys
  dsimp only
  split
  · exact lines.trans (State.l2Clean_memStep _ _ _)
  · exact lines

theorem State.maintLanes_memStep (s : State) (h : How) (addr : Nat → Dword) (i : Instr) (locs : List (Nat × Loc)) : s.MemStep (s.maintLanes h addr i locs) := by
  unfold State.maintLanes; split
  · exact .refl s
  · refine .foldl (fun u p => ?_) _ s
    split
    · split
      · exact u.maintLine_memStep _ _ _ _ _
      · exact u.maintLine_memStep _ _ _ _ _
      · exact u.maintPhys_memStep _ _ _
    · exact .refl u

end Sys2Proof.Machine
end

section
/-! PROOF. The issue of loads, stores, atomics, prefetches, maintenance, sampler and special-function words (01 R23, R24; 05 R141, R147; 07 R176, R183): each
leaves the operation of its row in the claims' table outstanding. -/
namespace Sys2Proof.Machine

theorem opRule_starts {i : Instr} {u : OpRule} {s : State} {g : Grp} {f : Frag} (hu : opRule i = some u) (h : Issues i (u.act g f) s g f)
    (hst : (∃ x, i = .ldk x ∨ i = .stk x) → (s.ctxAt g.ctx).stackBase ≠ 0) : Completes i s g (opStarts i s f u) := by
  cases i with
  | ldW x | ldD x | ldQ x | ldN x => cases hu; exact mem_starts _ x.g x.a [] (Grp.pairBase x.b) s g f rfl h rfl
  | stW x | stN x => cases hu; exact mem_starts _ x.g x.a [x.d.toNat] (Grp.pairBase x.b) s g f rfl h rfl
  | stD x => cases hu; exact mem_starts _ x.g x.a (upFrom x.d.toNat 2) (Grp.pairBase x.b) s g f rfl h rfl
  | stQ x => cases hu; exact mem_starts _ x.g x.a (upFrom x.d.toNat 4) (Grp.pairBase x.b) s g f rfl h rfl
  | ldl x => cases hu; exact mem_starts _ x.g x.a [] (Grp.winBase x.b) s g f rfl h rfl
  | stl x => cases hu; exact mem_starts _ x.g x.a [x.d.toNat] (Grp.winBase x.b) s g f rfl h rfl
  | ldw x => cases hu; exact ldw_starts x s g f h
  | ldk x => cases hu; exact stack_starts _ x (fun _ _ => []) _ s g f rfl h rfl (hst ⟨x, .inl rfl⟩) rfl
  | stk x =>
    cases hu
    exact stack_starts _ x (fun g m => [capture m (g.vreg x.d.toNat)]) _ s g f rfl h rfl (hst ⟨x, .inr rfl⟩) rfl
  | sld x => cases hu; exact scalarMem_starts _ x false s g f rfl h rfl
  | sst x | satom x => cases hu; exact scalarMem_starts _ x true s g f rfl h rfl
  | pref x | cwb x | cinv x | cinvP x => cases hu; exact mem_starts _ x.g x.a [] (Grp.pairBase x.b) s g f rfl h rfl
  | atom x | atomr x => cases hu; exact mem_starts _ x.g x.a [x.d.toNat] (Grp.pairBase x.b) s g f rfl h rfl
  | atoml x => cases hu; exact mem_starts _ x.g x.a [x.d.toNat] (Grp.winBase x.b) s g f rfl h rfl
  | cas x => cases hu; exact mem_starts _ x.g x.a (upFrom x.d.toNat 2) (Grp.pairBase x.b) s g f rfl h rfl
  | casl x => cases hu; exact mem_starts _ x.g x.a (upFrom x.d.toNat 2) (Grp.winBase x.b) s g f rfl h rfl
  | tex x | tld x => cases hu; exact tex_starts _ x s g f rfl h rfl
  | frcp x | frsq x | fsqrt x | fex2 x | flg2 x | fsin x | fcos x | ftanh x => cases hu; exact sfu_starts _ x s g f rfl h rfl
  | _ => cases hu

/-- Settles O4: row by row of the table of operations. -/
theorem accessIssue : Obligations.AccessIssue := fun _ _ _ _ _ => opRule_starts

end Sys2Proof.Machine
end

section
/-! PROOF. Special functions, LDW lanes and sampler operations land (04 R104; 07 R189, R204 to R207), and how words land in register lines (07 R183, R211). -/
namespace Sys2Proof.Machine
open State (MemStep)

/-! ### Words that land -/

theorem maskOf_getLsbD_contains (ls : List Nat) (l : Nat) (hl : l < 32) : (maskOf ls).getLsbD l = ls.contains l := by
  rw [maskOf, maskOf_getLsbD ls 0 l hl]
  simp

/-- Word `i` of lane `l` among the words read. -/
def laneWord (vs : List (Nat × List (Word × Bool))) (i l : Nat) : Word × Bool :=
  match vs.find? (fun v => decide (v.1 = l)) with
  | some v => v.2.getD i (0, false)
  | none => (0, false)

/-- The landing of one register line: line `p.1` gets word `p.2` of each lane read. -/
def Grp.landLine (vs : List (Nat × List (Word × Bool))) (k : Grp) (p : Nat × Nat) : Grp :=
  let h := k.writeLine p.1 (maskOf (vs.map (fun v => v.1))) (fun l => (laneWord vs p.2 l).1)
  if vs.any (fun v => (v.2.getD p.2 (0, false)).2) then h.poisonLine p.1 else h

theorem Grp.landWords_eq (g : Grp) (lines : List Nat) (vs : List (Nat × List (Word × Bool))) :
    g.landWords lines vs = lines.zipIdx.foldl (Grp.landLine vs) g := rfl

theorem Grp.landLine_only (g : Grp) (vs : List (Nat × List (Word × Bool))) (p : Nat × Nat) : g.onlyLines (g.landLine vs p) := by
  unfold Grp.landLine
  dsimp only
  split
  · exact Grp.onlyLines_trans (Grp.writeLine_only _ _ _ _) rfl
  · exact Grp.writeLine_only _ _ _ _

theorem Grp.landLine_word (g : Grp) (vs : List (Nat × List (Word × Bool))) (p : Nat × Nat) (n l : Nat) (hl : l < 32) :
    (g.landLine vs p).word n l =
      if n = p.1 then ((vs.find? (fun v => decide (v.1 = l))).map (fun v => (v.2.getD p.2 (0, false)).1)).getD (g.word n l) else g.word n l := by
  have poison : (g.landLine vs p).word n l = (g.writeLine p.1 (maskOf (vs.map (fun v => v.1))) (fun l => (laneWord vs p.2 l).1)).word n l := by
    unfold Grp.landLine
    dsimp only
    split <;> rfl
  rw [poison, Grp.word_writeLine _ _ _ _ _ _ hl, maskOf_getLsbD_contains _ _ hl]
  by_cases hn : n = p.1
  · cases hf : vs.find? (fun v => decide (v.1 = l)) with
    | none =>
      have out : (vs.map (fun v => v.1)).contains l = false := by
        simp only [List.find?_eq_none, decide_eq_true_eq] at hf
        simpa using fun ws h => hf _ h rfl
      simp only [out, Bool.false_eq_true, and_false, if_false, Option.map_none, Option.getD_none, ite_self]
    | some v =>
      have inside : (vs.map (fun v => v.1)).contains l = true := by
        have hv := List.find?_some hf
        simp only [decide_eq_true_eq] at hv
        exact List.contains_iff_mem.mpr (List.mem_map.mpr ⟨v, List.mem_of_find?_eq_some hf, hv⟩)
      simp only [inside, hn, laneWord, hf, and_self, if_true, Option.map_some, Option.getD_some]
  · simp only [hn, false_and, if_false]

/-- What the register lines of a load get, line by line. -/
theorem Grp.landLines_word (vs : List (Nat × List (Word × Bool))) (n l : Nat) (hl : l < 32) (ps : List (Nat × Nat)) (hp : (ps.map Prod.fst).Nodup) (g : Grp) :
    (ps.foldl (Grp.landLine vs) g).word n l = (match ps.find? (fun (p : Nat × Nat) => decide (p.1 = n)), vs.find? (fun (v : Nat × List (Word × Bool)) => decide (v.1 = l)) with
      | some (_, i), some (_, ws) => some (ws.getD i (0, false)).1
      | _, _ => none).getD (g.word n l) := by
  induction ps generalizing g with
  | nil => rfl
  | cons p r ih =>
    simp only [List.map_cons, List.nodup_cons] at hp
    obtain ⟨hnew, hrest⟩ := hp
    rw [List.foldl_cons, ih hrest, Grp.landLine_word _ _ _ _ _ hl]
    by_cases hn : p.1 = n
    · have out : r.find? (fun p => decide (p.1 = n)) = none := by
        simp only [List.find?_eq_none, decide_eq_true_eq]
        exact fun q hq e => hnew (List.mem_map.mpr ⟨q, hq, by rw [e, hn]⟩)
      rw [out, List.find?_cons_of_pos (by simpa using hn)]
      simp only [hn, if_true]
      cases vs.find? (fun v => decide (v.1 = l)) <;> rfl
    · rw [List.find?_cons_of_neg (by simpa using hn), if_neg (Ne.symm hn)]

/-- A load's words land in its lines, and in no other register (07 R183). -/
theorem Grp.landed_landWords (g : Grp) (lines : List Nat) (vs : List (Nat × List (Word × Bool))) (hn : lines.Nodup) :
    g.landed (g.landWords lines vs) (landing lines vs) := by
  refine ⟨?_, fun n l hl => ?_⟩
  · rw [Grp.landWords_eq]
    generalize lines.zipIdx = ps
    induction ps generalizing g with
    | nil => rfl
    | cons p r ih => exact Grp.onlyLines_trans (g.landLine_only vs p) (ih _)
  · rw [Grp.landWords_eq, Grp.landLines_word vs n l hl lines.zipIdx (by rw [List.zipIdx_map_fst]; exact hn)]
    rfl

theorem Grp.landWords_ops (g : Grp) (lines : List Nat) (vs : List (Nat × List (Word × Bool))) : (g.landWords lines vs).ops = g.ops := by
  rw [Grp.landWords_eq]
  generalize lines.zipIdx = ps
  induction ps generalizing g with
  | nil => rfl
  | cons p r ih => exact (ih _).trans (Grp.onlyLines_ops (g.landLine_only vs p))

/-! ### Special functions -/

/-- A special function's result is the rounded value of its captured operand (03 R77, R85, R86; 04 R100, R104). -/
theorem sfuRule_value {i : Instr} {x : V2} {fn : FpMod → Fv → Fv} {rne : Bool} (h : sfuRule i = some (x, fn, rne)) : isSfu i = true ∧ ∀ a,
    sfuValue i a = (let c := fpMod x.pf
      BitVec.ofNat 32 (Ff.f32.round (if rne then { c with rm := .rne } else c) (fn c (Ff.f32.opnd c a.toNat)))) := by
  cases i with
  | frcp | frsq | fsqrt | fex2 | flg2 | fsin | fcos | ftanh => cases h; exact ⟨rfl, fun _ => rfl⟩
  | _ => cases h

theorem sfuCompletion_lands {s : State} {gid n : Nat} {m : BitVec 32} {g : Grp} {o : Op} {x : V2} {fn : FpMod → Fv → Fv} {rne : Bool}
    (ho : s.hasOp gid n g o) (hr : sfuRule o.instr = some (x, fn, rne)) (hl : g.canLand o.lines = true) (hg : g.raised = [])
    (hm : o.owed &&& m ≠ 0 ∨ o.owed = 0) :
    ∃ t k, exec (.sfuCompletion gid ⟨n, m⟩) s = .next t ∧ s.lanesEnd t gid n o (o.owed &&& m) k
      ∧ g.landed k (fun ln l => if ln = o.lines.headD 0 ∧ (o.owed &&& m).getLsbD l = true then
          let c := fpMod x.pf
          some (BitVec.ofNat 32 (Ff.f32.round (if rne then { c with rm := .rne } else c) (fn c (Ff.f32.opnd c (o.slotAt 0 l).toNat))))
        else none) := by
  obtain ⟨hs, hv⟩ := sfuRule_value hr
  let write (k : Grp) : Grp := k.writeLine (o.lines.headD 0) (o.owed &&& m) (fun l => sfuValue o.instr (o.slotAt 0 l))
  have due : (!isSfu o.instr || !g.canLand o.lines || !g.raised.isEmpty || (decide (o.owed &&& m = 0) && decide (o.owed ≠ 0))) = false := by
    simp only [hs, hl, hg, List.isEmpty_nil, Bool.not_true, Bool.false_or, Bool.and_eq_false_iff, decide_eq_false_iff_not, Classical.not_not]
    exact hm
  have run : exec (.sfuCompletion gid ⟨n, m⟩) s = .next (s.lanesDone gid n o (o.owed &&& m) write) := by
    show execSfuCompletion gid ⟨n, m⟩ s = _
    rw [execSfuCompletion, withOp_of ho]
    simp only [due, Bool.false_eq_true, if_false]
    rfl
  refine ⟨_, write g, run, lanesDone_ends ho _ _ (Grp.onlyLines_ops (Grp.writeLine_only _ _ _ _)), Grp.writeLine_only _ _ _ _, fun ln l hl => ?_⟩
  rw [Grp.word_writeLine _ _ _ _ _ _ hl]
  by_cases hc : ln = o.lines.headD 0 ∧ (o.owed &&& m).getLsbD l = true
  · simp only [if_pos hc, hv, Option.getD_some]
  · simp only [if_neg hc, Option.getD_none]

/-! ### LDW -/

theorem lanesOfEvent_owed {o : Op} {lane : Nat} (h : o.owed.getLsbD lane = true) : o.lanesOfEvent (BitVec.twoPow 32 lane) ≠ 0 := by
  have hlane : lane < 32 := BitVec.lt_of_getLsbD h
  have owed : o.owed ≠ 0 := fun e => by rw [e] at h; simp at h
  have one : o.owed &&& BitVec.twoPow 32 lane ≠ 0 := by
    intro e
    have bit := congrArg (fun v => v.getLsbD lane) e
    simp only [BitVec.getLsbD_and, h, BitVec.getLsbD_twoPow, hlane, decide_true, Bool.true_and] at bit
    exact absurd bit (by simp)
  unfold Op.lanesOfEvent
  split
  · exact owed
  · split
    · exact owed
    · exact one

/-- Words read without poison poison nothing (07 R211). -/
theorem getD_unpoisoned {ws : List (Word × Bool)} (h : ws.all (fun w => !w.2) = true) (i : Nat) : (ws.getD i (0, false)).2 = false := by
  rw [List.getD_eq_getElem?_getD]
  cases hi : ws[i]? with
  | none => rfl
  | some w => simpa using List.all_eq_true.mp h w (List.mem_of_getElem? hi)

theorem ldwLaneLanding_lands {s : State} {gid n lane c k c2 k2 l2 : Nat} {g : Grp} {o : Op} {x : V3} (hd : s.due gid n (BitVec.twoPow 32 lane) g o)
    (hi : o.instr = .ldw x) (hobj : o.obj = some (c, k)) (hl : o.owed.getLsbD lane = true) (hb : s.objBusy g o.ord c k = false)
    (hw : o.locs2.find? (fun q => decide (q.1 = lane)) = some (l2, .win c2 k2)) :
    let ls := o.locs.filter (fun q => decide (q.1 = lane))
    let r := (s.countHits (s.howOf g o) o (s.opAddr g o) ls).readWords (s.howOf g o) (va48 (s.opAddr g o lane)) ((ls.map (fun q => q.2)).headD .void) 16
    r.1.all (fun w => !w.2) = true →
    let u := (r.2.winWrite c2 k2 (r.1.flatMap (fun w => leBytes 4 w.1.toNat))).objLand c k 16
    ∃ t, exec (.ldwLaneLanding gid n lane) s = .next t ∧ u.lanesEnd t gid n o (BitVec.twoPow 32 lane) g := by
  intro ls r clean u
  have touched : s.MemStep u := ((s.countHits_memStep _ _ _ _).trans (State.readWords_memStep _ _ _ _ _)).trans
    ((State.winWrite_memStep _ _ _ _).trans (State.objLand_memStep _ _ _ _))
  have land : s.ldwLand gid n lane g o c k c2 k2 = u.lanesDone gid n o (BitVec.twoPow 32 lane) id := by
    simp only [r, ls] at clean
    unfold State.ldwLand
    simp only [getD_unpoisoned clean, Bool.false_eq_true, if_false]
    rfl
  refine ⟨_, ?_, lanesDone_ends (touched.hasOp hd.1) _ id rfl⟩
  show execLdwLaneLanding gid n lane s = _
  rw [execLdwLaneLanding, withOp_of hd.1]
  simp only [hi, hobj, hb, Bool.false_eq_true, if_false]
  rw [withDue_of hd]
  simp only [hw, if_neg (lanesOfEvent_owed hl), land]

/-! ### The sampler -/

theorem State.readTexels_memStep (s : State) (h : How) (t : TexDesc) (ts : List (Option Texel)) (locs : List Loc) : s.MemStep (s.readTexels h t ts locs).2 := by
  induction ts generalizing s locs with
  | nil => exact .refl s
  | cons p r ih =>
    cases p with
    | none => exact ih s locs
    | some p => exact (s.readLoc_memStep _ _ _ _).trans (ih _ _)

theorem State.texResults_memStep (s : State) (h : How) (o : Op) (t : TexDesc) (ls : List Nat) : s.MemStep (s.texResults h o t ls).2 := by
  induction ls generalizing s with
  | nil => exact .refl s
  | cons l r ih =>
    unfold State.texResults
    split
    · exact ih s
    · exact (s.readTexels_memStep _ _ _ _).trans (ih _)

theorem samplerCompletion_lands {s : State} {gid n : Nat} {m : BitVec 32} {g : Grp} {o : Op} (hd : s.due gid n m g o) (hp : o.path = some .smp)
    (hn : o.lines.Nodup) :
    let now := o.lanesOfEvent m
    let r := s.texResults (g.how o.pc) o (texDesc o.texBlock) (lanesOf now)
    ∃ t k, exec (.samplerCompletion gid ⟨n, m⟩) s = .next t ∧ r.2.lanesEnd t gid n o now k ∧ g.landed k (landing o.lines r.1) := by
  intro now r
  have touched : s.MemStep r.2 := s.texResults_memStep _ _ _ _
  refine ⟨_, g.landWords o.lines r.1, ?_, lanesDone_ends (touched.hasOp hd.1) _ (fun k => k.landWords o.lines r.1) (g.landWords_ops _ _),
    g.landed_landWords _ _ hn⟩
  show execSamplerCompletion gid ⟨n, m⟩ s = _
  rw [execSamplerCompletion, withOp_of hd.1]
  simp only [hp, ne_eq, not_true_eq_false, if_false]
  rw [withDue_of hd]

/-- Settles O5: the three units that complete operations. -/
theorem unitCompletions : Obligations.UnitCompletions :=
  ⟨fun _ _ _ _ _ _ _ _ _ => sfuCompletion_lands, fun _ _ _ _ _ _ _ _ _ _ _ _ => ldwLaneLanding_lands, fun _ _ _ _ _ _ => samplerCompletion_lands⟩

end Sys2Proof.Machine
end

section
/-! PROOF. What NOP, BKOFF, BKOFF.CLR, SETVIEW and YIELD do to their fragment (02 R55; 05 R134, R135; 06 R156). -/
namespace Sys2Proof.Machine

theorem nop_completes {x : Z} {s : State} {g : Grp} {f : Frag} (h : Issues (.nop x) 0 s g f) : Completes (.nop x) s g (fun k h => h = k) :=
  goesOn_of (fun _ _ => 0) (fun s g _ => s.finish g) rfl h g rfl rfl

theorem Grp.setBko_of {g : Grp} {slot n : Nat} {d : Bool} {f : Frag} (hf : g.frag slot = some f) :
    g.setBko slot n d = g.setFrag slot (some { f with bko := n, delayed := d }) := by
  simp only [Grp.setBko, hf]

theorem bkoff_completes {x : Z} {s : State} {g : Grp} {f : Frag} (h : Issues (.bkoff x) 0 s g f) :
    Completes (.bkoff x) s g (fun k h => h = k.setFrag s.iss.slot (some { f with bko := min (f.bko + 1) 8, delayed := true })) :=
  completes_of_issueF (fun _ => rfl) h (Grp.setBko_of h.frag)

theorem bkoffClr_completes {x : Z} {s : State} {g : Grp} {f : Frag} (h : Issues (.bkoffClr x) 0 s g f) :
    Completes (.bkoffClr x) s g (fun k h => h = k.setFrag s.iss.slot (some { f with bko := 0, delayed := false })) :=
  completes_of_issueF (fun _ => rfl) h (Grp.setBko_of h.frag)

/-! ### SETVIEW -/

/-- The byte of a word from bit `i` on. -/
theorem extractByte_eq (w : Word) (i : Nat) : w.extractLsb' i 8 = BitVec.ofNat 8 (w.toNat / 2 ^ i) :=
  BitVec.eq_of_toNat_eq (by simp only [BitVec.extractLsb'_toNat, BitVec.toNat_ofNat, Nat.shiftRight_eq_div_pow])

theorem extractTop_eq_zero {w : Word} (h : w.toNat < 2 ^ 24) : w.extractLsb' 24 8 = 0#8 := by
  rw [extractByte_eq, Nat.div_eq_of_lt h]

theorem setview_completes {x : Sv} {s : State} {g : Grp} {f : Frag} (h : Issues (.setview x) (g.guarded f x.k) s g f)
    (hw : g.upred x.k.toNat = true → (g.scalar x.n.toNat).toNat < 2 ^ 24) :
    Completes (.setview x) s g (fun k h =>
      let w := (k.scalar x.n.toNat).toNat
      h = if k.upred x.k.toNat then { k with view :=
        ⟨if x.e.getLsbD 0 then BitVec.ofNat 8 w else k.view.v, if x.e.getLsbD 1 then BitVec.ofNat 8 (w / 2 ^ 8) else k.view.t,
         if x.e.getLsbD 2 then BitVec.ofNat 8 (w / 2 ^ 16) else k.view.a⟩ } else k) := by
  have run : exec (.setview x) s = execSetview x s := rfl
  rw [execSetview] at run
  by_cases hk : g.upred x.k.toNat = true
  · refine goesOn_of _ _ run h _ (by rw [if_pos hk]; exact if_neg (Classical.not_not.mpr (extractTop_eq_zero (hw hk)))) ?_
    simp only [if_pos hk, extractByte_eq, Nat.pow_zero, Nat.div_one]
  · exact goesOn_of _ _ run h g (if_neg hk) (by simp only [if_neg hk])

/-! ### YIELD -/

/-- A spilled fragment that comes in where one stands: that one goes into its entry, as the newest (01 R21). -/
theorem Grp.bring_of {g : Grp} {n i : Nat} {f k : Frag} (hk : g.frag n = some k) : g.bring n i f =
    { g.setFrag n (some f) with split := Tab.put g.split i ⟨g.orderNext, .spilled { k with starved := false }⟩, orderNext := g.orderNext + 1 } := by
  have kept : (g.setFrag n (some f)).split = g.split ∧ (g.setFrag n (some f)).orderNext = g.orderNext := by
    unfold Grp.setFrag; split <;> exact ⟨rfl, rfl⟩
  simp only [Grp.bring, hk, kept]

section
variable {x : Z} {s : State} {g : Grp} {f : Frag}

theorem yield_runs (h : Issues (.yield x) 0 s g f) : exec (.yield x) s = .next (
    let t := s.finish g
    match (t.grp s.iss.g).frag s.iss.slot with
    | some k => if k.mask &&& f.mask = 0 then t else t.yieldSwap s.iss.g s.iss.slot
    | none => t) := by
  show execYield x s = _
  rw [execYield, issue_runs _ _ h] <;> rfl

/-- A fragment that does not stay, or behind which no spilled one is eligible, goes on. -/
theorem yield_stays (h : Issues (.yield x) 0 s g f) (hn : ¬(∃ k, ((s.finish g).grp s.iss.g).frag s.iss.slot = some k ∧ k.mask &&& f.mask ≠ 0)
    ∨ (s.finish g).eligible ((s.finish g).grp s.iss.g) = none) : exec (.yield x) s = .next (s.finish g) := by
  rw [yield_runs h]
  dsimp only
  cases hk : ((s.finish g).grp s.iss.g).frag s.iss.slot with
  | none => rfl
  | some k =>
    rcases hn with hn | hn
    · have empty : k.mask &&& f.mask = 0 := Classical.not_not.mp fun e => hn ⟨k, hk, e⟩
      simp only [if_pos empty]
    · simp only [State.yieldSwap, hk, hn, ite_self]

/-- An eligible spilled fragment, the oldest, takes the slot of one that stays (01 R21; 05 R134). -/
theorem yield_swaps {k r : Frag} {e : Nat} (h : Issues (.yield x) 0 s g f) (hk : ((s.finish g).grp s.iss.g).frag s.iss.slot = some k)
    (hm : k.mask &&& f.mask ≠ 0) (he : (s.finish g).eligible ((s.finish g).grp s.iss.g) = some (e, r)) :
    let t := s.finish g
    let h := t.grp s.iss.g
    exec (.yield x) s = .next (t.setGrp s.iss.g { h.setFrag s.iss.slot (some r) with
      split := Tab.put h.split e ⟨h.orderNext, .spilled { k with starved := false }⟩, orderNext := h.orderNext + 1 }) := by
  rw [yield_runs h]
  simp only [hk, if_neg hm, State.yieldSwap, he, Grp.bring_of hk]

end

/-- Settles O8: each of the five words. -/
theorem fragmentSettings : Obligations.FragmentSettings :=
  ⟨⟨fun _ _ _ _ => nop_completes, fun _ _ _ _ => bkoff_completes, fun _ _ _ _ => bkoffClr_completes, fun _ _ _ _ => setview_completes⟩,
    fun _ _ _ _ h => ⟨yield_stays h, fun _ _ _ hk hm he => yield_swaps h hk hm he⟩⟩

end Sys2Proof.Machine
end

section
/-! PROOF. TRET, and what resuming from a frame gives back (05 R148, R150; 13 R318). -/
namespace Sys2Proof.Machine

section
variable {x : Z} {s : State} {g : Grp} {f : Frag}

theorem tret_outside_traps (h : Issues (.tret x) 0 s g f) (hg : g.inHandler = false) : exec (.tret x) s = .next (s.trapHere 0x01 0) := by
  show execTret x s = _
  rw [execTret, issue_runs _ _ h]
  simp only [hg, Bool.not_false, Bool.true_or, if_true]

theorem tret_resumes {fr : Frame} {u : State} (h : Issues (.tret x) 0 s g f) (hg : g.inHandler = true) (ho : g.frag (1 - s.iss.slot) = none)
    (hs : g.split = []) (hm : f.mask = g.gmask) (hr : g.replies = 0) (hf : s.frameNow s.iss.g = (some fr, u)) (hq : g.replayRoom fr.replay = true) :
    exec (.tret x) s = .next ((if fr.replay.any (fun e => decide (0x10 ≤ e.cause)) then u.acquireL1 g.core g.ctx g.sup else u).resume s.iss.g fr) := by
  show execTret x s = _
  rw [execTret, issue_runs _ _ h]
  simp [hg, ho, hs, hm, hf, hr, hq]

end

/-! ### Resuming -/

theorem State.modGrp_setGrp (s : State) (n : Nat) (g : Grp) (f : Grp → Grp) : (s.setGrp n g).modGrp n f = (s.setGrp n g).setGrp n (f g) :=
  State.modGrp_of_find f (by simp)

/-- A group outside a capsule body has no check to pass as it returns (14 R334). -/
theorem State.capReturn_outside {s : State} {gid : Nat} (h : (s.grp gid).cap.body = false) : s.capReturn gid = (s, true) := by
  simp only [State.capReturn, h, Bool.not_false, if_true]

/-- With no replay entry there is nothing to check, to re-inject or to form. -/
theorem State.resume_bare {s : State} {gid : Nat} {g k : Grp} {fr : Frame} (hg : Tab.find s.groups gid = some g) (hb : k.cap.body = false)
    (hr : fr.replay = []) (hk : k = { g with
      f0 := fr.f0, f1 := fr.f1, split := fr.split, exited := fr.exited, inHandler := false, escalated := false, frame := none, frameKept := false }) :
    s.resume gid fr = ((s.setGrp gid k).setGrp gid k).setGrp gid k := by
  have back : (s.setGrp gid k).capReturn gid = (s.setGrp gid k, true) := by
    refine State.capReturn_outside ?_
    rw [State.grp_setGrp, if_pos rfl]
    exact hb
  have lost : bodyHeld [] = none := rfl
  have done : (s.setGrp gid k).modGrp gid (fun h => { h with f0 := fr.f0 }) = (s.setGrp gid k).setGrp gid k := by
    rw [State.modGrp_setGrp, hk]
  generalize hf : fr.f0 = v at hk done
  cases v <;>
    simp only [State.resume, State.grp_of_find hg, hr, ← hk, hf, lost, back, if_true, State.reinjectAll, State.replayTraps, contLanes,
      List.foldl_nil, Grp.formHeld, done, State.modGrp_setGrp]

theorem resume_gives_back {s : State} {gid : Nat} {g : Grp} {fr : Frame} (hg : Tab.find s.groups gid = some g) (hb : g.cap.body = false)
    (hr : fr.replay = []) : ∃ t, s.resume gid fr = t ∧ s.onlyGroup t gid ∧ Tab.find t.groups gid = some { g with
      f0 := fr.f0, f1 := fr.f1, split := fr.split, exited := fr.exited, inHandler := false, escalated := false, frame := none, frameKept := false } := by
  refine ⟨_, State.resume_bare hg (by exact hb) hr rfl, ⟨rfl, fun n hn => ?_⟩, by simp⟩
  simp only [State.setGrp_groups, Tab.find_put_other hn]

/-- Settles O12, by the cases of TRET's check and the resumption of a frame with nothing to re-inject. -/
theorem trapReturn : Obligations.TrapReturn :=
  ⟨fun _ _ _ _ h => ⟨tret_outside_traps h, fun _ _ hg ho hs hm hr hf hq => tret_resumes h hg ho hs hm hr hf hq⟩,
    fun _ _ _ _ hg hb hr => resume_gives_back hg hb hr⟩

end Sys2Proof.Machine
end

section
/-! SUPPORT. The bytes that the write-back of an L1 line brings home (07 R182), and what the release and acquire steps of a context on its core
do (07 R197), where no line has to be translated again and no context tracks its writes. -/
namespace Sys2Proof.Machine

/-! ### Bytes of words and lines -/

theorem leBytes_getD (n v j : Nat) (h : j < n) : (leBytes n v).getD j 0 = BitVec.ofNat 8 (v / 256 ^ j) := by
  induction n generalizing v j with
  | zero => omega
  | succ n ih =>
    cases j with
    | zero => simp [leBytes]
    | succ j => rw [leBytes, List.getD_cons_succ, ih _ _ (by omega), Nat.div_div_eq_div_mul, Nat.pow_succ, Nat.mul_comm]

/-- Byte `j` of a line is byte `j % 8` of its 8-byte word. -/
theorem leBytes_lineWord (x : BitVec 1024) (i j : Nat) (h : j < 8) :
    (leBytes 8 (x.extractLsb' (64 * i) 64).toNat).getD j 0 = lineByte x (8 * i + j) := by
  rw [leBytes_getD _ _ _ h]
  refine BitVec.eq_of_getLsbD_eq fun k hk => ?_
  simp only [lineByte, BitVec.getLsbD_extractLsb', BitVec.getLsbD_ofNat, show 256 ^ j = 2 ^ (8 * j) by rw [Nat.pow_mul],
    Nat.testBit_div_two_pow, BitVec.testBit_toNat, show k + 8 * j < 64 by omega, hk, decide_true, Bool.true_and]
  congr 1
  omega

/-! ### What a write at the home slice changes -/

/-- `t` is `s` but for memory and what stands beside it at the home slices. -/
def State.onlyHome (s t : State) : Prop :=
  t = { s with mem := t.mem, memPoison := t.memPoison, codeLog := t.codeLog, dir := t.dir, l2 := t.l2 }

theorem State.onlyHome.trans {s t u : State} (a : s.onlyHome t) (b : t.onlyHome u) : s.onlyHome u := by
  unfold State.onlyHome at *; rw [b, a]

theorem State.homeWrite_onlyHome (s : State) (pa : Nat) (bs : List Byte) (o : Bool) : s.onlyHome (s.homeWrite pa bs o) := s.homeWrite_only pa bs o

theorem State.onlyHome.l2Held {s t : State} (h : s.onlyHome t) (a : Nat) : t.l2Held a = s.l2Held a := by
  unfold State.onlyHome at h; rw [h]; rfl

/-- `t` is `s` with bytes `v j` at `pa + j` for the `j` of `d`, of which those that an L2 copy stands before may stay in the copy. -/
structure State.Puts (s t : State) (pa : Nat) (d : Nat → Prop) (v : Nat → Byte) : Prop where
  frame : s.onlyHome t
  miss : ∀ a, (∀ j, d j → pa + j ≠ a) → Sparse.get t.mem a = Sparse.get s.mem a
  some : ∀ j, d j → Sparse.get t.mem (pa + j) = v j ∨ Sparse.get t.mem (pa + j) = Sparse.get s.mem (pa + j)
  hit : (∀ m, m < 128 → s.l2Held (pa + m) = false) → ∀ j, d j → Sparse.get t.mem (pa + j) = v j

namespace State.Puts

variable {s t u : State} {pa : Nat} {d e : Nat → Prop} {v : Nat → Byte}

theorem none (s : State) (pa : Nat) (v : Nat → Byte) : s.Puts s pa (fun _ => False) v :=
  ⟨rfl, fun _ _ => rfl, fun _ h => h.elim, fun _ _ h => h.elim⟩

/-- A place that no byte of `d` stands at. -/
theorem miss_at (h : s.Puts t pa d v) {j : Nat} (hj : ¬ d j) : Sparse.get t.mem (pa + j) = Sparse.get s.mem (pa + j) :=
  h.miss _ fun _ hk e => hj (Nat.add_left_cancel e ▸ hk)

theorem trans (a : s.Puts t pa d v) (b : t.Puts u pa e v) : s.Puts u pa (fun j => d j ∨ e j) v := by
  refine ⟨a.frame.trans b.frame, fun x h => ?_, fun j h => ?_, fun hh j h => ?_⟩
  · rw [b.miss x fun j k => h j (.inr k), a.miss x fun j k => h j (.inl k)]
  · by_cases k : e j
    · rcases b.some j k with r | r
      · exact .inl r
      · rw [r]
        by_cases q : d j
        · exact a.some j q
        · exact .inr (a.miss_at q)
    · rw [b.miss_at k]
      exact a.some j (h.resolve_right k)
  · by_cases k : e j
    · exact b.hit (fun m hm => by rw [a.frame.l2Held, hh m hm]) j k
    · rw [b.miss_at k]
      exact a.hit hh j (h.resolve_right k)

/-- A change beside memory. -/
theorem beside (a : s.Puts t pa d v) (h : t.onlyHome u) (hm : u.mem = t.mem) : s.Puts u pa d v :=
  ⟨a.frame.trans h, by rw [hm]; exact a.miss, by rw [hm]; exact a.some, by rw [hm]; exact a.hit⟩

end State.Puts

theorem State.homeWrite_get (s : State) (pa : Nat) (bs : List Byte) (o : Bool) (a : Nat) :
    Sparse.get (s.homeWrite pa bs o).mem a = Sparse.get s.mem a
      ∨ Sparse.get (s.homeWrite pa bs o).mem a = if pa ≤ a ∧ a < pa + bs.length then bs.getD (a - pa) 0 else Sparse.get s.mem a := by
  rcases s.homeWrite_mem pa bs o with h | h <;> rw [h]
  · exact .inl rfl
  · exact .inr Sparse.get_setList

/-- A write at the home slice of bytes within a line. -/
theorem State.homeWrite_puts (s : State) (pa k : Nat) (bs : List Byte) (v : Nat → Byte) (hk : k < 128) (hv : ∀ j, j < bs.length → bs.getD j 0 = v (k + j)) :
    s.Puts (s.homeWrite (pa + k) bs false) pa (fun j => k ≤ j ∧ j < k + bs.length) v := by
  refine ⟨s.homeWrite_onlyHome _ _ _, fun a h => ?_, fun j h => ?_, fun hh j h => ?_⟩
  · have out : ¬ (pa + k ≤ a ∧ a < pa + k + bs.length) := fun q => h (a - pa) (by omega) (by omega)
    rcases s.homeWrite_get (pa + k) bs false a with e | e
    · exact e
    · rw [e, if_neg out]
  · have inside : pa + k ≤ pa + j ∧ pa + j < pa + k + bs.length := by omega
    rcases s.homeWrite_get (pa + k) bs false (pa + j) with e | e
    · exact .inr e
    · left
      rw [e, if_pos inside, show pa + j - (pa + k) = j - k by omega, hv _ (by omega), show k + (j - k) = j by omega]
  · rw [s.homeWrite_here _ _ _ (hh k hk), State.memWrite_get, if_pos (by omega), show pa + j - (pa + k) = j - k by omega, hv _ (by omega),
      show k + (j - k) = j by omega]

/-! ### The write-back of a line -/

/-- A relation between states, with the bytes of a line that are written on the way, which holds over the writes that a write-back of line `l` is made of. -/
structure LineWrites (l : L1Line) (R : State → State → (Nat → Prop) → Prop) : Prop where
  none : ∀ s, R s s (fun _ => False)
  trans : ∀ {s t u d e}, R s t d → R t u e → R s u (fun j => d j ∨ e j)
  write : ∀ s k (bs : List Byte), k < 128 → k + bs.length ≤ 128 → (∀ j, j < bs.length → bs.getD j 0 = lineByte l.data (k + j)) →
    R s (s.homeWrite (l.pa + k) bs false) (fun j => k ≤ j ∧ j < k + bs.length)
  poison : ∀ {s t d} a, R s t d → R s (t.poisonMem a) d

namespace LineWrites

variable {l : L1Line} {R : State → State → (Nat → Prop) → Prop} {s t : State} {d e : Nat → Prop}

theorem congr (a : R s t d) (h : ∀ j, d j ↔ e j) : R s t e := by
  have : d = e := funext fun j => propext (h j)
  exact this ▸ a

theorem foldl (r : LineWrites l R) {f : State → Nat → State} {w : Nat → Nat → Prop} {n : Nat} (hf : ∀ s i, i < n → R s (f s i) (w i)) (s : State) :
    R s ((List.range n).foldl f s) (fun j => ∃ i, i < n ∧ w i j) := by
  induction n with
  | zero => exact congr (R := R) (r.none s) fun j => by simp
  | succ n ih =>
    rw [List.range_succ, List.foldl_append]
    refine congr (R := R) (r.trans (ih fun s i hi => hf s i (by omega)) (hf _ n (by omega))) fun j => ⟨?_, ?_⟩
    · rintro (⟨i, hi, hw⟩ | hw)
      · exact ⟨i, by omega, hw⟩
      · exact ⟨n, by omega, hw⟩
    · rintro ⟨i, hi, hw⟩
      by_cases k : i = n
      · exact .inr (k ▸ hw)
      · exact .inl ⟨i, by omega, hw⟩

theorem putWord8 (r : LineWrites l R) (s : State) (i : Nat) (hi : i < 16) :
    R s (s.putWord8 l.pa l i) (fun j => 8 * i ≤ j ∧ j < 8 * i + 8 ∧ l.dirty.getLsbD j = true) := by
  have len : (leBytes 8 (l.data.extractLsb' (64 * i) 64).toNat).length = 8 := leBytes_length
  have bit : ∀ j, j < 8 → (l.dirty.extractLsb' (8 * i) 8).getLsbD j = l.dirty.getLsbD (8 * i + j) := fun j hj => by
    rw [BitVec.getLsbD_extractLsb', decide_eq_true hj, Bool.true_and]
  unfold State.putWord8
  dsimp only
  split
  · rename_i h0
    refine congr (R := R) (r.none s) fun j => ⟨False.elim, fun ⟨a, b, c⟩ => ?_⟩
    have := bit (j - 8 * i) (by omega)
    rw [h0, show 8 * i + (j - 8 * i) = j by omega, c] at this
    simp at this
  · have written : R s (if l.dirty.extractLsb' (8 * i) 8 = 0xFF#8 then s.homeWrite (l.pa + 8 * i) (leBytes 8 (l.data.extractLsb' (64 * i) 64).toNat) false
        else (List.range 8).foldl (fun u j => if (l.dirty.extractLsb' (8 * i) 8).getLsbD j then
          u.homeWrite (l.pa + 8 * i + j) [(leBytes 8 (l.data.extractLsb' (64 * i) 64).toNat).getD j 0] false else u) s)
        (fun j => 8 * i ≤ j ∧ j < 8 * i + 8 ∧ l.dirty.getLsbD j = true) := by
      split
      · rename_i hf
        refine congr (R := R) (r.write s (8 * i) _ (by omega) (by omega) fun j hj => leBytes_lineWord _ _ _ (by omega)) fun j => ?_
        rw [len]
        refine ⟨fun ⟨a, b⟩ => ⟨a, b, ?_⟩, fun ⟨a, b, _⟩ => ⟨a, b⟩⟩
        have := bit (j - 8 * i) (by omega)
        rw [hf, show 8 * i + (j - 8 * i) = j by omega] at this
        rw [← this]
        have hj : j - 8 * i < 8 := by omega
        generalize j - 8 * i = n at hj
        revert n; decide
      · refine congr (R := R) (r.foldl (w := fun k j => j = 8 * i + k ∧ l.dirty.getLsbD j = true) (fun u k hk => ?_) s) fun j => ?_
        · split
          · rename_i hd
            rw [bit k hk] at hd
            rw [Nat.add_assoc]
            refine congr (R := R) (r.write u (8 * i + k) _ (by omega) (by simp; omega) fun j hj => ?_) fun j => ?_
            · obtain rfl : j = 0 := by simpa using hj
              exact leBytes_lineWord _ _ _ hk
            · simp only [List.length_singleton]
              exact ⟨fun h => by obtain rfl : j = 8 * i + k := by omega
                                 exact ⟨rfl, hd⟩, fun h => by omega⟩
          · rename_i hd
            rw [bit k hk] at hd
            exact congr (R := R) (r.none u) fun j => ⟨False.elim, fun h => hd (h.1 ▸ h.2)⟩
        · exact ⟨fun ⟨k, hk, e, hd⟩ => ⟨by omega, by omega, hd⟩, fun ⟨a, b, hd⟩ => ⟨j - 8 * i, by omega, by omega, hd⟩⟩
    split
    · exact r.poison _ written
    · exact written

/-- Over the dirty bytes of a line that is written back, where its writes are not tracked. -/
theorem putDirty (r : LineWrites l R) (s : State) (h : ((List.range 16).foldl (fun u i => u.putWord8 l.pa l i) s).trackPath (s.chain l.ctx) l.path
      = (List.range 16).foldl (fun u i => u.putWord8 l.pa l i) s) : R s (s.putDirty l) l.dirtyAt := by
  unfold State.putDirty
  split
  · rename_i h0
    exact congr (R := R) (r.none s) fun j => ⟨False.elim, fun ⟨_, b⟩ => by simp [h0] at b⟩
  · rw [h]
    exact congr (R := R) (r.foldl (fun u i hi => r.putWord8 u i hi) s) fun j =>
      ⟨fun ⟨i, hi, a, b, c⟩ => ⟨by omega, c⟩, fun ⟨a, b⟩ => ⟨j / 8, by omega, by omega, by omega, b⟩⟩

end LineWrites

theorem puts_lineWrites (l : L1Line) : LineWrites l (fun s t d => s.Puts t l.pa d (lineByte l.data)) where
  none s := .none s _ _
  trans a b := a.trans b
  write s k bs hk _ hv := s.homeWrite_puts l.pa k bs _ hk hv
  poison _ a := a.beside rfl rfl

/-- Tracking a write in contexts of which none tracks changes nothing. -/
theorem State.trackPath_off (s : State) (ch path : List Nat) (h : ∀ c ∈ ch, (s.ctxAt c).dirtyMap = none) : s.trackPath ch path = s := by
  have off : ∀ ps : List (Nat × Nat), (∀ p ∈ ps, (s.ctxAt p.1).dirtyMap = none) → ps.foldl (fun t p => State.markPage t p.1 p.2) s = s := by
    intro ps
    induction ps with
    | nil => intro _; rfl
    | cons p r ih =>
      intro hp
      have here : s.markPage p.1 p.2 = s := by simp only [State.markPage, hp p List.mem_cons_self]
      rw [List.foldl_cons, here]
      exact ih fun q hq => hp q (List.mem_cons_of_mem _ hq)
  exact off _ fun p hp => h _ (List.of_mem_zip hp).1

theorem State.onlyHome.ctxAt {s t : State} (h : s.onlyHome t) (c : Nat) : t.ctxAt c = s.ctxAt c := by
  unfold State.onlyHome at h; rw [h]; rfl

/-- The write-back of a line is not tracked where no context of the chain tracks. -/
theorem State.putWords_untracked (s : State) (l : L1Line) (h : ∀ c ∈ s.chain l.ctx, (s.ctxAt c).dirtyMap = none) :
    ((List.range 16).foldl (fun u i => u.putWord8 l.pa l i) s).trackPath (s.chain l.ctx) l.path = (List.range 16).foldl (fun u i => u.putWord8 l.pa l i) s := by
  have lines := (puts_lineWrites l).foldl (fun u i hi => (puts_lineWrites l).putWord8 u i hi) s (n := 16)
  exact State.trackPath_off _ _ _ fun c hc => by rw [lines.frame.ctxAt]; exact h c hc

theorem State.putDirty_puts (s : State) (l : L1Line) (h : ∀ c ∈ s.chain l.ctx, (s.ctxAt c).dirtyMap = none) :
    s.Puts (s.putDirty l) l.pa l.dirtyAt (lineByte l.data) := (puts_lineWrites l).putDirty s (s.putWords_untracked l h)

/-! ### The write-back of the lines of a context -/

/-- A line's write-back, after which the core keeps it clean or drops it. -/
def State.cleansLine (s : State) (core : Nat) (keep : Bool) (l : L1Line) : State :=
  if keep then (s.putDirty l).l1Put core { l with dirty := 0, held := false } else (s.putDirty l).l1Drop core l.ctx l.va

/-- What the write-back of the lines `ls` of context `x`, with or without keeping them, makes of `s`. -/
structure State.Cleaned (s t : State) (core x : Nat) (keep : Bool) (ls : List L1Line) : Prop where
  frame : t = { s with cores := t.cores, mem := t.mem, memPoison := t.memPoison, codeLog := t.codeLog, dir := t.dir, l2 := t.l2 }
  miss : ∀ a, (∀ l ∈ ls, ∀ j, l.dirtyAt j → l.pa + j ≠ a) → Sparse.get t.mem a = Sparse.get s.mem a
  stays : ∀ a v, (∀ l ∈ ls, ∀ j, l.dirtyAt j → l.pa + j = a → lineByte l.data j = v) → Sparse.get s.mem a = v → Sparse.get t.mem a = v
  hit : ∀ l ∈ ls, ∀ j, l.dirtyAt j → (∀ m, m < 128 → s.l2Held (l.pa + m) = false) →
    (∀ k ∈ ls, ∀ m, k.dirtyAt m → k.pa + m = l.pa + j → lineByte k.data m = lineByte l.data j) → Sparse.get t.mem (l.pa + j) = lineByte l.data j
  others : ∀ c, c ≠ core → t.coreAt c = s.coreAt c
  own : t.coreAt core = { s.coreAt core with l1 := (t.coreAt core).l1 }
  apart : ∀ l, l.ctx ≠ x → (l ∈ (t.coreAt core).l1 ↔ l ∈ (s.coreAt core).l1)
  left : ∀ o ∈ (t.coreAt core).l1, o.ctx = x →
    (keep = true ∧ o.dirty = 0 ∧ ∃ l ∈ ls, o.va = l.va ∧ o.stamp = l.stamp) ∨ (o ∈ (s.coreAt core).l1 ∧ ∀ l ∈ ls, l.va ≠ o.va)

namespace State.Cleaned

variable {s t u : State} {core x : Nat} {keep : Bool} {ls : List L1Line}

theorem nil (s : State) (core x : Nat) (keep : Bool) : s.Cleaned s core x keep [] :=
  ⟨rfl, fun _ _ => rfl, fun _ _ _ h => h, fun _ h => absurd h List.not_mem_nil, fun _ _ => rfl, rfl, fun _ _ => .rfl,
    fun _ h _ => .inr ⟨h, fun _ h => absurd h List.not_mem_nil⟩⟩

theorem l2Held (h : s.Cleaned t core x keep ls) (a : Nat) : t.l2Held a = s.l2Held a := by rw [h.frame]; rfl
theorem ctxAt (h : s.Cleaned t core x keep ls) (c : Nat) : t.ctxAt c = s.ctxAt c := by rw [h.frame]; rfl
theorem chain (h : s.Cleaned t core x keep ls) (c : Nat) : t.chain c = s.chain c := by rw [h.frame]; rfl
theorem l1Fresh (h : s.Cleaned t core x keep ls) (l : L1Line) : t.l1Fresh core l = s.l1Fresh core l := by rw [h.frame]; rfl

theorem trans {l : L1Line} (a : s.Cleaned t core x keep [l]) (b : t.Cleaned u core x keep ls) : s.Cleaned u core x keep (l :: ls) where
  frame := by rw [b.frame, a.frame]
  miss k h := by rw [b.miss k fun o ho => h o (.tail _ ho), a.miss k fun o ho => h o (by simp_all)]
  stays k v h hs := b.stays k v (fun o ho => h o (.tail _ ho)) (a.stays k v (fun o ho => h o (by simp_all)) hs)
  hit o ho j hj hh hk := by
    rcases List.mem_cons.mp ho with rfl | ho
    · refine b.stays _ _ (fun k hk' m hm e => hk k (.tail _ hk') m hm e) ?_
      exact a.hit o (by simp) j hj hh fun k hk' => hk k (by simp_all)
    · exact b.hit o ho j hj (fun m hm => by rw [a.l2Held, hh m hm]) fun k hk' => hk k (.tail _ hk')
  others c hc := by rw [b.others c hc, a.others c hc]
  own := by rw [b.own, a.own]
  apart o ho := (b.apart o ho).trans (a.apart o ho)
  left o ho hx := by
    rcases b.left o ho hx with ⟨hk, hd, k, hm, hv⟩ | ⟨hm, hv⟩
    · exact .inl ⟨hk, hd, k, .tail _ hm, hv⟩
    · rcases a.left o hm hx with ⟨hk, hd, k, hm, hw⟩ | ⟨hm, hw⟩
      · exact .inl ⟨hk, hd, k, by simp_all, hw⟩
      · exact .inr ⟨hm, fun k hk => (List.mem_cons.mp hk).elim (fun e => hw k (by simp [e])) (hv k)⟩

end State.Cleaned

theorem State.onlyHome.coreAt {s t : State} (h : s.onlyHome t) (c : Nat) : t.coreAt c = s.coreAt c := by
  unfold State.onlyHome at h; rw [h]; rfl

/-- The lines of a core after the write-back of `l`. -/
def linesAfter (keep : Bool) (l : L1Line) (ls : List L1Line) : List L1Line :=
  (if keep then [{ l with dirty := 0, held := false }] else []) ++ ls.filter (fun o => !(decide (o.ctx = l.ctx) && decide (o.va = l.va)))

theorem State.cleansLine_cleaned (s : State) (core : Nat) (keep : Bool) (l : L1Line) (hva : l.va % 128 = 0)
    (h : ∀ c ∈ s.chain l.ctx, (s.ctxAt c).dirtyMap = none) : s.Cleaned (s.cleansLine core keep l) core l.ctx keep [l] := by
  have put := s.putDirty_puts l h
  have line : l.va / 128 * 128 = l.va := by omega
  have shape : ∃ f, s.cleansLine core keep l = (s.putDirty l).modCore core f ∧ ∀ k : Core, f k = { k with l1 := linesAfter keep l k.l1 } := by
    unfold State.cleansLine State.l1Put State.l1Drop
    cases keep
    · exact ⟨_, if_neg (by decide), fun k => by rw [line]; rfl⟩
    · exact ⟨_, if_pos rfl, fun k => rfl⟩
  obtain ⟨f, ht, hf⟩ := shape
  have here : (s.cleansLine core keep l).coreAt core = f (s.coreAt core) := by
    rw [ht, State.coreAt_modCore, if_pos rfl, put.frame.coreAt]
  have mem : (s.cleansLine core keep l).mem = (s.putDirty l).mem := by rw [ht]; rfl
  refine ⟨?_, fun a ha => ?_, fun a v ha hs => ?_, fun o ho j hj hh _ => ?_, fun c hc => ?_, ?_, fun o ho => ?_, fun o ho hx => ?_⟩
  · rw [ht]
    have fr := put.frame
    unfold State.onlyHome at fr
    generalize s.putDirty l = t at fr ⊢
    rw [fr]; rfl
  · rw [mem]; exact put.miss a fun j hj => ha l (by simp) j hj
  · rw [mem]
    by_cases k : ∃ j, l.dirtyAt j ∧ l.pa + j = a
    · obtain ⟨j, hj, rfl⟩ := k
      rcases put.some j hj with e | e
      · rw [e, ha l (by simp) j hj rfl]
      · rw [e, hs]
    · rw [put.miss a fun j hj e => k ⟨j, hj, e⟩, hs]
  · obtain rfl : o = l := by simpa using ho
    rw [mem]; exact put.hit hh j hj
  · rw [ht, State.coreAt_modCore, if_neg hc, put.frame.coreAt]
  · rw [here, hf]
  · rw [here, hf]
    cases keep <;> simp only [linesAfter, List.mem_append, List.mem_filter, if_true, Bool.false_eq_true, if_false, List.mem_singleton, List.not_mem_nil, false_or]
    · simp [ho]
    · refine ⟨fun h => h.elim (fun e => absurd (by rw [e]) ho) (·.1), fun h => .inr ⟨h, by simp [ho]⟩⟩
  · rw [here, hf] at ho
    rcases List.mem_append.mp ho with ho | ho
    · cases keep with
      | false => simp at ho
      | true =>
        obtain rfl : o = _ := by simpa using ho
        exact .inl ⟨rfl, rfl, l, by simp, rfl, rfl⟩
    · obtain ⟨hm, hv⟩ := List.mem_filter.mp ho
      refine .inr ⟨hm, fun k hk e => ?_⟩
      obtain rfl : k = l := by simpa using hk
      simp [hx, e] at hv

/-- Lines that need no translation to be written back, of a context of which no chain member tracks. -/
def State.plainLines (s : State) (core x : Nat) (ls : List L1Line) : Prop :=
  (∀ l ∈ ls, l.ctx = x → s.l1Fresh core l = true ∧ l.va % 128 = 0) ∧ ∀ c ∈ s.chain x, (s.ctxAt c).dirtyMap = none

theorem State.writeBackAll_cleans (s : State) (core x : Nat) (sup keep : Bool) (ls : List L1Line) (h : s.plainLines core x ls) :
    ∃ t, s.writeBackAll core x sup keep ls none = (t, none) ∧ s.Cleaned t core x keep (ls.filter (fun l => decide (l.ctx = x))) := by
  induction ls generalizing s with
  | nil => exact ⟨s, rfl, .nil s core x keep⟩
  | cons l r ih =>
    obtain ⟨hl, hc⟩ := h
    by_cases hx : l.ctx = x
    · subst hx
      obtain ⟨fresh, hva⟩ := hl l (by simp) rfl
      have one := s.cleansLine_cleaned core keep l hva hc
      obtain ⟨t, ht, c⟩ := ih (s.cleansLine core keep l)
        ⟨fun k hk hx => by rw [one.l1Fresh]; exact hl k (.tail _ hk) hx, fun c hc' => by rw [one.ctxAt]; exact hc c (one.chain _ ▸ hc')⟩
      refine ⟨t, ?_, ?_⟩
      · rw [State.writeBackAll, if_neg (Classical.not_not.mpr rfl), State.writeBackLine, if_pos (.inr fresh)]
        exact ht
      · rw [List.filter_cons_of_pos (by simp)]
        exact one.trans c
    · obtain ⟨t, ht, c⟩ := ih s ⟨fun k hk => hl k (.tail _ hk), hc⟩
      refine ⟨t, ?_, ?_⟩
      · rw [State.writeBackAll, if_pos hx]; exact ht
      · rwa [List.filter_cons_of_neg (by simpa using hx)]

/-! ### The release step and the acquire step of a context on its core -/

section
variable {s : State} {core x : Nat}

/-- A write-back that takes every dirty line of the context brings the context's dirty bytes home. -/
theorem State.Cleaned.wroteBack {t : State} {keep : Bool} {ls : List L1Line} (h : s.Cleaned t core x keep ls)
    (hin : ∀ l ∈ ls, l ∈ (s.coreAt core).l1 ∧ l.ctx = x) (hall : ∀ l ∈ (s.coreAt core).l1, l.ctx = x → l.dirty ≠ 0 → l ∈ ls) : s.wroteBack t core x := by
  have dirty : ∀ {l : L1Line} {j}, l.dirtyAt j → l.dirty ≠ 0 := fun hj e => by simp [e, L1Line.dirtyAt] at hj
  refine ⟨h.frame, fun a ha => h.miss a fun l hl => ha l (hin l hl).1 (hin l hl).2, fun l j hl hx hj hh ha => ?_, h.others, h.own, h.apart⟩
  exact h.hit l (hall l hl hx (dirty hj)) j hj hh fun k hk m hm => ha k m (hin k hk).1 (hin k hk).2 hm

theorem State.plainL1.lines (h : s.plainL1 core x) {ls : List L1Line} (hl : ∀ l ∈ ls, l ∈ (s.coreAt core).l1) : s.plainLines core x ls :=
  ⟨fun l hm hx => h.1 l (hl l hm) hx, h.2⟩

theorem mem_dirtyLines {ls : List L1Line} {l : L1Line} :
    l ∈ (ls.filter (fun l => decide (l.dirty ≠ 0))).filter (fun l => decide (l.ctx = x)) ↔ l ∈ ls ∧ l.dirty ≠ 0 ∧ l.ctx = x := by
  simp only [List.mem_filter, decide_eq_true_eq, and_assoc]

theorem State.releaseL1_cleans (h : s.plainL1 core x) (sup : Bool) : ∃ t, s.releaseL1 core x sup = (t, none)
    ∧ s.wroteBack t core x ∧ (∀ l ∈ (t.coreAt core).l1, l.ctx = x → l.dirty = 0) ∧ t.plainL1 core x := by
  obtain ⟨t, ht, c⟩ := s.writeBackAll_cleans core x sup true ((s.coreAt core).l1.filter (fun l => decide (l.dirty ≠ 0)))
    (h.lines fun l hl => (List.mem_filter.mp hl).1)
  refine ⟨t, ht, c.wroteBack (fun l hl => ?_) fun l hl hx hd => mem_dirtyLines.mpr ⟨hl, hd, hx⟩, fun o ho hx => ?_, fun o ho hx => ?_, fun k hk => ?_⟩
  · obtain ⟨hm, _, hx⟩ := mem_dirtyLines.mp hl
    exact ⟨hm, hx⟩
  · rcases c.left o ho hx with ⟨_, hd, _⟩ | ⟨hm, hv⟩
    · exact hd
    · exact Classical.byContradiction fun hd => hv o (mem_dirtyLines.mpr ⟨hm, hd, hx⟩) rfl
  · rw [c.l1Fresh]
    rcases c.left o ho hx with ⟨_, _, l, hl, hva, hst⟩ | ⟨hm, _⟩
    · obtain ⟨hl, _, hlx⟩ := mem_dirtyLines.mp hl
      obtain ⟨fresh, hm⟩ := h.1 l hl hlx
      unfold State.l1Fresh at *
      rw [hva, hst, hx, ← hlx]
      exact ⟨fresh, hm⟩
    · exact h.1 o hm hx
  · rw [c.ctxAt]; exact h.2 k (c.chain x ▸ hk)

theorem State.acquireL1_cleans (h : s.plainL1 core x) (sup : Bool) :
    s.wroteBack (s.acquireL1 core x sup) core x ∧ ∀ l ∈ ((s.acquireL1 core x sup).coreAt core).l1, l.ctx ≠ x := by
  obtain ⟨t, ht, c⟩ := s.writeBackAll_cleans core x sup false (s.coreAt core).l1 (h.lines fun l hl => hl)
  have here : s.acquireL1 core x sup = t := by rw [State.acquireL1, ht]
  rw [here]
  refine ⟨c.wroteBack (fun l hl => by simpa using hl) fun l hl hx _ => by simp [hl, hx], fun o ho hx => ?_⟩
  rcases c.left o ho hx with ⟨hk, _⟩ | ⟨hm, hv⟩
  · cases hk
  · exact hv o (by simp [hm, hx]) rfl

end

/-! ### The same steps of a group, at a scope -/

section
variable {s : State} {g : Grp} {sc : Nat}

theorem State.released_memStep {t : State} (h : s.released t g sc) (c : s.memOk → t.memOk) : s.MemStep t := by
  unfold State.released State.wroteBack at h
  split at h
  · obtain ⟨⟨fr, _⟩, _⟩ := h
    exact ⟨by rw [fr], c⟩
  · exact h ▸ .refl s

/-- The release step of an instruction's issue, where no line is denied: what follows it runs on the released state. -/
theorem State.withRelease_of (h : s.plainL1 g.core g.ctx) (sc : Nat) :
    ∃ r, s.released r g sc ∧ s.MemStep r ∧ r.plainL1 g.core g.ctx ∧ ∀ k : State → State, s.withRelease g sc k = k r := by
  by_cases hw : s.wide g sc = true
  · obtain ⟨t, ht, hb, hd, hp⟩ := State.releaseL1_cleans h g.sup
    have step : s.MemStep t := by have := s.releaseL1_memStep g.core g.ctx g.sup; rwa [ht] at this
    refine ⟨t, ?_, step, hp, ?_⟩
    · rw [State.released, if_pos hw]; exact ⟨hb, hd⟩
    · intro k; simp only [State.withRelease, hw, Bool.not_true, Bool.false_eq_true, if_false, ht]
  · rw [Bool.not_eq_true] at hw
    exact ⟨s, by rw [State.released, hw]; rfl, .refl s, h, fun k => by simp only [State.withRelease, hw, Bool.not_false, if_true]⟩

theorem State.acquire_of {gid : Nat} (hg : Tab.find s.groups gid = some g) (h : s.plainL1 g.core g.ctx) (sc : Nat) :
    s.acquired (s.acquire gid sc) g sc ∧ s.MemStep (s.acquire gid sc) := by
  unfold State.acquire State.acquired
  rw [State.grp_of_find hg]
  dsimp only
  cases hw : s.wide g sc with
  | true => exact ⟨State.acquireL1_cleans h g.sup, s.acquireL1_memStep _ _ _⟩
  | false => exact ⟨rfl, .refl s⟩

end

end Sys2Proof.Machine
end

section
/-! PROOF. FENCE and the wait instructions (07 R184, R197, R203; 12 R287; 18 R381). -/
namespace Sys2Proof.Machine

open State (MemStep)

section
variable {i : Instr} {s : State} {g : Grp} {f : Frag}

/-- An instruction that changes the machine to `u` and lets its fragment go on with group `k`. -/
theorem completesAfter_of {change : State → Prop} {effect : Grp → Grp → Prop} (act : Grp → Frag → BitVec 32) (body : State → Grp → Frag → State)
    (hx : exec i s = issue i s act body) (h : Issues i (act g f) s g f) (u : State) (k : Grp) (hb : body s g f = u.finish k) (hi : u.iss = s.iss)
    (hc : change u) (he : effect g k) : CompletesAfter i s g change effect :=
  ⟨_, u, k, by rw [hx, issue_runs act body h, hb], hc, hi, finish_goesOn u _, he⟩

theorem Issues.found {m : BitVec 32} (h : Issues i m s g f) : Tab.find s.groups s.iss.g = some g := h.1

theorem State.waitHere_of (hg : Tab.find s.groups s.iss.g = some g) (hf : g.frag s.iss.slot = some f) (w : Wait) :
    s.waitHere w = s.setGrp s.iss.g (g.setFrag s.iss.slot (some { f with wait := w, starved := false, loadFree := false })) := by
  simp only [State.waitHere, State.modGrp_of_find _ hg, hf]

/-! ### The shared end of the waits -/

theorem State.waitOr_waits {w : Wait} {sc : Option Nat} (hg : Tab.find s.groups s.iss.g = some g) (hf : g.frag s.iss.slot = some f)
    (hw : s.waitMet g w = false) :
    s.waitOr g w sc = s.setGrp s.iss.g (g.setFrag s.iss.slot (some { f with wait := w, starved := false, loadFree := false })) := by
  simp only [State.waitOr, hw, Bool.false_eq_true, if_false, State.waitHere_of hg hf]

theorem State.waitOr_met {w : Wait} (hg : Tab.find s.groups s.iss.g = some g) (hw : s.waitMet g w = true) : s.waitOr g w none = s.finish g := by
  simp only [State.waitOr, hw, if_true, State.grp_of_find hg]

/-- A group that has acquired goes on. -/
theorem State.acquire_goesOn {t : State} (ht : t = s.acquire s.iss.g n) (hg : Tab.find s.groups s.iss.g = some g) (hp : s.plainL1 g.core g.ctx) :
    s.acquired t g n ∧ t.iss = s.iss ∧ t.finish (t.grp s.iss.g) = t.finish g := by
  obtain ⟨ha, hm⟩ := State.acquire_of hg hp n
  rw [← ht] at ha hm
  exact ⟨ha, hm.iss, by rw [hm.grp, State.grp_of_find hg]⟩

theorem State.waitOr_acquires {w : Wait} {n : Nat} (hg : Tab.find s.groups s.iss.g = some g) (hw : s.waitMet g w = true) (hp : s.plainL1 g.core g.ctx) :
    ∃ u, s.waitOr g w (some n) = u.finish g ∧ u.iss = s.iss ∧ s.acquired u g n := by
  obtain ⟨ha, hi, hf⟩ := State.acquire_goesOn (n := n) rfl hg hp
  refine ⟨s.acquire s.iss.g n, ?_, hi, ha⟩
  simp only [State.waitOr, hw, if_true]
  exact hf

end

/-! ### FENCE -/

theorem fence_completes {x : Fen} {s : State} {g : Grp} {f : Frag} (h : Issues (.fence x) 0 s g f) (hp : s.plainL1 g.core g.ctx) :
    CompletesAfter (.fence x) s g (fun u =>
      ∃ r, (if x.k.getLsbD 1 then s.released r g x.s.toNat else r = s) ∧ (if x.k.getLsbD 0 then r.acquired u g x.s.toNat else u = r)) (fun k h => h = k) := by
  obtain ⟨r, hr, hm, hq, hk⟩ : ∃ r, (if x.k.getLsbD 1 then s.released r g x.s.toNat else r = s) ∧ s.MemStep r ∧ r.plainL1 g.core g.ctx
      ∧ ∀ k : State → State, (if x.k.getLsbD 1 then s.withRelease g x.s.toNat k else k s) = k r := by
    cases x.k.getLsbD 1 with
    | true =>
      exact State.withRelease_of hp x.s.toNat
    | false => exact ⟨s, rfl, .refl s, hp, fun k => rfl⟩
  have hg : Tab.find r.groups r.iss.g = some g := by rw [hm.groups, hm.iss]; exact h.found
  obtain ⟨u, hu, hi, hf⟩ : ∃ u, (if x.k.getLsbD 0 then r.acquired u g x.s.toNat else u = r) ∧ u.iss = s.iss
      ∧ (let u := if x.k.getLsbD 0 then r.acquire s.iss.g x.s.toNat else r; u.finish (u.grp s.iss.g)) = u.finish g := by
    rw [← hm.iss]
    cases x.k.getLsbD 0 with
    | true =>
      obtain ⟨ha, hi, hf⟩ := State.acquire_goesOn (n := x.s.toNat) rfl hg hq
      exact ⟨_, ha, hi, hf⟩
    | false => exact ⟨r, rfl, rfl, by simp only [Bool.false_eq_true, if_false, State.grp_of_find hg]⟩
  have run : exec (.fence x) s = execFence x s := rfl
  rw [execFence] at run
  exact completesAfter_of _ _ run h u g ((hk _).trans hf) hi ⟨r, hr, hu⟩ rfl

/-! ### WAITP, WAITB and WAITTL -/

section
variable {s : State} {g : Grp} {f : Frag}

theorem waits_of {i : Instr} {w : Wait} (act : Grp → Frag → BitVec 32) (body : State → Grp → Frag → State) (hx : exec i s = issue i s act body)
    (h : Issues i (act g f) s g f) (hb : body s g f = s.setGrp s.iss.g (g.setFrag s.iss.slot (some { f with wait := w, starved := false, loadFree := false }))) :
    Waits i s g f w := by
  rw [Waits, hx, issue_runs act body h, hb]

theorem waitp_goesOn {x : Wp} (h : Issues (.waitp x) 0 s g f) :
    let p := PathK.ofNum x.p.toNat
    (g.pathVal p ≤ x.n.toNat → Completes (.waitp x) s g (fun k h => h = k)) ∧
    (x.n.toNat < g.pathVal p → Waits (.waitp x) s g f (.path p x.n.toNat)) := by
  have run : exec (.waitp x) s = execWaitp x s := rfl
  rw [execWaitp] at run
  refine ⟨fun hn => goesOn_of _ _ run h g (State.waitOr_met h.found ?_) rfl, fun hn => waits_of _ _ run h (State.waitOr_waits h.found h.frag ?_)⟩
  · exact decide_eq_true hn
  · exact decide_eq_false (by simpa using hn)

theorem State.withObject_of {a : Word} {c key : Nat} (hl : s.winLoc g a = some (c, key)) (ha : a.toNat % 16 = 0) (k : State → Nat → Nat → State) :
    s.withObject g a k = k s c key := by
  simp only [State.withObject, hl, ha, ne_eq, not_true_eq_false, if_false]

theorem waitb_goesOn {x : Wb} (h : Issues (.waitb x) (g.guarded f x.k) s g f) :
    (g.upred x.k.toNat = false → Completes (.waitb x) s g (fun k h => h = k)) ∧
    (g.upred x.k.toNat = true → ∀ c key, s.winLoc g (g.scalar x.n.toNat) = some (c, key) → (g.scalar x.n.toNat).toNat % 16 = 0 →
      (s.objPhase c key ≠ decide (x.q = 1#1) → s.plainL1 g.core g.ctx →
        CompletesAfter (.waitb x) s g (fun u => s.acquired u g (objScope key)) (fun k h => h = k)) ∧
      (s.objPhase c key = decide (x.q = 1#1) → Waits (.waitb x) s g f (.barrier (g.scalar x.n.toNat) (decide (x.q = 1#1))))) := by
  have run : exec (.waitb x) s = execWaitb x s := rfl
  rw [execWaitb] at run
  refine ⟨fun hk => goesOn_of _ _ run h g (if_neg (by simp [hk])) rfl, fun hk c key hl ha => ?_⟩
  have word : instrWait g (.waitb x) = .barrier (g.scalar x.n.toNat) (decide (x.q = 1#1)) := if_pos hk
  have met : s.waitMet g (.barrier (g.scalar x.n.toNat) (decide (x.q = 1#1))) = decide (s.objPhase c key ≠ decide (x.q = 1#1)) := by
    simp only [State.waitMet, hl]
  have body : ∀ k, (if g.upred x.k.toNat then s.withObject g (g.scalar x.n.toNat) k else s.finish g) = k s c key := fun k => by
    rw [if_pos hk, State.withObject_of hl ha]
  refine ⟨fun hq hp => ?_, fun hq => waits_of _ _ run h ((body _).trans ?_)⟩
  · obtain ⟨u, hu, hi, hc⟩ := State.waitOr_acquires (n := objScope key) h.found (met.trans (decide_eq_true hq)) hp
    exact completesAfter_of _ _ run h u g ((body _).trans (by rw [word]; exact hu)) hi hc rfl
  · rw [word]
    exact State.waitOr_waits h.found h.frag (met.trans (by simp [hq]))

theorem waittl_goesOn {x : Wtl} (h : Issues (.waittl x) (g.guarded f x.k) s g f) :
    let n := g.scalar (x.n.toNat + 1) ++ g.scalar x.n.toNat
    (g.upred x.k.toNat = false → Completes (.waittl x) s g (fun k h => h = k)) ∧
    (g.upred x.k.toNat = true → n ≤ g.tlDone x.i.toNat → s.plainL1 g.core g.ctx →
      CompletesAfter (.waittl x) s g (fun u => s.acquired u g x.s.toNat) (fun k h => h = k)) ∧
    (g.upred x.k.toNat = true → g.tlDone x.i.toNat < n → Waits (.waittl x) s g f (.timeline x.i.toNat n)) := by
  intro n
  have run : exec (.waittl x) s = execWaittl x s := rfl
  rw [execWaittl] at run
  refine ⟨fun hk => goesOn_of _ _ run h g (if_neg (by simp [hk])) rfl, fun hk hn hp => ?_, fun hk hn => waits_of _ _ run h ((if_pos hk).trans ?_)⟩
  · have word : instrWait g (.waittl x) = .timeline x.i.toNat n := if_pos hk
    obtain ⟨u, hu, hi, hc⟩ := State.waitOr_acquires (w := .timeline x.i.toNat n) (n := x.s.toNat) h.found (decide_eq_true hn) hp
    exact completesAfter_of _ _ run h u g ((if_pos hk).trans (by rw [word]; exact hu)) hi hc rfl
  · rw [show instrWait g (.waittl x) = .timeline x.i.toNat n from if_pos hk]
    exact State.waitOr_waits h.found h.frag (decide_eq_false (BitVec.not_le.mpr hn))

/-! ### WAITC -/

theorem waitc_goesOn {x : Wc} {r q : XOk} (h : Issues (.waitc x) (g.guarded f x.k) s g f) :
    let a := g.scalar (x.n.toNat + 1) ++ g.scalar x.n.toNat
    let n := g.scalar (x.m.toNat + 1) ++ g.scalar x.m.toNat
    let v := s.xCommit g.core r
    (g.upred x.k.toNat = false → Completes (.waitc x) s g (fun k h => h = k)) ∧
    (g.upred x.k.toNat = true → a.toNat % 16 = 0 → s.translate g.core g.ctx g.sup a .read = .ok r → v.translate g.core g.ctx g.sup a .read = .ok q →
      let count := if q.void then 0 else v.homeDword q.pa
      (n.toNat ≤ count → v.plainL1 g.core g.ctx → CompletesAfter (.waitc x) s g (fun u => v.acquired u g 4) (fun k h => h = k)) ∧
      (count < n.toNat → ∃ h, exec (.waitc x) s = .next (v.setGrp s.iss.g h)
        ∧ h = g.setFrag s.iss.slot (some { f with wait := .counter a n, starved := false, loadFree := false }))) := by
  intro a n v
  have run : exec (.waitc x) s = execWaitc x s := rfl
  rw [execWaitc] at run
  refine ⟨fun hk => goesOn_of _ _ run h g (if_neg (by simp [hk])) rfl, fun hk ha hr hq => ?_⟩
  intro count
  have step : s.MemStep v := s.xCommit_memStep _ _
  have hg : Tab.find v.groups v.iss.g = some g := by rw [step.groups, step.iss]; exact h.found
  have hf : g.frag v.iss.slot = some f := by rw [step.iss]; exact h.frag
  have met : v.waitMet g (.counter a n) = decide (n.toNat ≤ count) := by simp only [State.waitMet, hq, count]
  have ran : exec (.waitc x) s = .next (v.waitOr g (.counter a n) (some 4)) := by
    have word : instrWait g (.waitc x) = .counter a n := if_pos hk
    have pair : g.scalarPair x.n.toNat = a := rfl
    rw [run, issue_runs _ _ h]
    simp only [hk, if_true, pair, ha, ne_eq, not_true_eq_false, if_false, hr, word, v]
  refine ⟨fun hn hp => ?_, fun hn => ⟨_, ?_, rfl⟩⟩
  · obtain ⟨u, hu, hi, hc⟩ := State.waitOr_acquires (n := 4) hg (met.trans (decide_eq_true hn)) hp
    exact ⟨_, u, g, ran.trans (congrArg _ hu), hc, hi.trans step.iss, finish_goesOn u _, rfl⟩
  · rw [ran, State.waitOr_waits hg hf (met.trans (decide_eq_false (Nat.not_le.mpr hn))), step.iss]

end

/-- Settles O13, one lemma per instruction. -/
theorem fencesAndWaits : Obligations.FencesAndWaits :=
  ⟨fun _ _ _ _ h => fence_completes h, ⟨fun _ _ _ _ h => waitp_goesOn h, fun _ _ _ _ h => waitb_goesOn h, fun _ _ _ _ h => waittl_goesOn h⟩,
    fun _ _ _ _ _ _ h => waitc_goesOn h⟩

end Sys2Proof.Machine
end

section
/-! PROOF. ARRV, TLINC and PSET (07 R201; 12 R288; 09 R235). -/
namespace Sys2Proof.Machine

section
variable {s : State} {g : Grp} {f : Frag}

/-! ### ARRV -/

theorem arrv_begins {x : Arr} (h : Issues (.arrv x) (g.guarded f x.k) s g f) :
    (g.upred x.k.toNat = false → Completes (.arrv x) s g (fun k h => h = k)) ∧
    (g.upred x.k.toNat = true → ∀ c key, s.winLoc g (g.scalar x.n.toNat) = some (c, key) → (g.scalar x.n.toNat).toNat % 16 = 0 →
      Completes (.arrv x) s g (fun k h => ∃ o, k.opBegins h o ∧ o.instr = .arrv x ∧ o.locs = [(0, .win c key)] ∧ o.kind = 2
        ∧ o.slotAt 0 0 = g.scalar x.t.toNat ∧ o.passed = !s.wide g (objScope key) ∧ o.rel = s.wide g (objScope key)
        ∧ o.flag = flagOf (flagClass (.arrv x)) f.pos.setA f.pos.setB ∧ o.path = pathOf (.arrv x))) := by
  have run : exec (.arrv x) s = execArrv x s := rfl
  rw [execArrv] at run
  refine ⟨fun hk => goesOn_of _ _ run h g (if_neg (by simp [hk])) rfl, fun hk c key hl ha => ?_⟩
  exact goesOn_of _ _ run h _ ((if_pos hk).trans (State.withObject_of hl ha _)) ⟨_, g.addOp_begins _, rfl, rfl, rfl, rfl, rfl, rfl, rfl, rfl⟩

/-! ### TLINC -/

/-- On a timeline without a gap, whose last number is complete, the numbers that follow complete one by one. -/
theorem Grp.tlDone_tlComplete {g : Grp} {i c : Nat} (hc : (g.tlDone i).toNat = c) (hn : c + 1 < 2 ^ 64) (hd : ∀ p ∈ g.tldone, p.1 ≠ i) :
    ((g.tlComplete i (c + 1)).tlDone i).toNat = c + 1 ∧ ∀ p ∈ (g.tlComplete i (c + 1)).tldone, p.1 ≠ i := by
  have none : ((i, c + 1) :: g.tldone).contains (i, c + 1 + 1) = false := by
    simp only [List.contains_eq_mem, List.mem_cons, Prod.mk.injEq, decide_eq_false_iff_not, not_or]
    exact ⟨by omega, fun h => hd _ h rfl⟩
  have stop : ∀ n, tlAdvance n (c + 1) i ((i, c + 1) :: g.tldone) = c + 1 := fun n => by
    cases n with
    | zero => rfl
    | succ n => rw [tlAdvance, none]; rfl
  have value : tlAdvance ((i, c + 1) :: g.tldone).length (g.tlDone i).toNat i ((i, c + 1) :: g.tldone) = c + 1 := by
    rw [hc, List.length_cons, tlAdvance, if_pos (by simp), stop]
  constructor
  · show (Sparse.get (Sparse.set g.tlc i _) i).toNat = c + 1
    rw [Sparse.get_set, if_pos rfl, value, BitVec.toNat_ofNat, Nat.mod_eq_of_lt hn]
  · intro p hp
    simp only [Grp.tlComplete, value, List.mem_filter] at hp
    obtain ⟨hm, hf⟩ := hp
    rcases List.mem_cons.mp hm with rfl | hm
    · simp at hf
    · exact hd p hm

theorem Grp.tlDone_tlCompleteRange {g : Grp} {i c n : Nat} (hc : (g.tlDone i).toNat = c) (hn : c + n < 2 ^ 64) (hd : ∀ p ∈ g.tldone, p.1 ≠ i) :
    ((g.tlCompleteRange i (c + 1) n).tlDone i).toNat = c + n := by
  induction n generalizing g c with
  | zero => exact hc
  | succ n ih =>
    obtain ⟨hv, hp⟩ := Grp.tlDone_tlComplete hc (by omega) hd
    rw [Grp.tlCompleteRange, ih hv (by omega) hp]
    omega

theorem Grp.tlDone_tlCompleteRange_other (g : Grp) (i j c n : Nat) (hj : j ≠ i) : (g.tlCompleteRange i c n).tlDone j = g.tlDone j := by
  induction n generalizing g c with
  | zero => rfl
  | succ n ih =>
    rw [Grp.tlCompleteRange, ih]
    show Sparse.get (Sparse.set g.tlc i _) j = _
    rw [Sparse.get_set, if_neg hj, Grp.tlDone]

theorem tlinc_assigns {x : Tli} (h : Issues (.tlinc x) (g.guarded f x.k) s g f) :
    let i := x.i.toNat
    let n := x.c.toNat + 1
    (g.upred x.k.toNat = false → Completes (.tlinc x) s g (fun k h => h = k)) ∧
    (g.upred x.k.toNat = true → (g.tlLast i).toNat + n < 2 ^ 64 → Completes (.tlinc x) s g (fun k h =>
      h = { k with tln := h.tln, tlc := h.tlc, tldone := h.tldone, tlinc := h.tlinc }
      ∧ (∀ j, h.tlLast j = if j = i then k.tlLast j + BitVec.ofNat 64 n else k.tlLast j) ∧ (∀ j, j ≠ i → h.tlDone j = k.tlDone j)
      ∧ (g.openAccesses = [] → g.tlDone i = g.tlLast i → (∀ p, p ∈ g.tldone → p.1 ≠ i) → h.tlDone i = h.tlLast i ∧ h.tlinc = k.tlinc)
      ∧ (g.openAccesses ≠ [] → h.tlDone i = k.tlDone i
          ∧ h.tlinc = k.tlinc ++ [(i, (g.tlLast i).toNat + 1, (g.tlLast i).toNat + n, g.openAccesses)]))) ∧
    (g.upred x.k.toNat = true → 2 ^ 64 ≤ (g.tlLast i).toNat + n → exec (.tlinc x) s = .next (s.trapHere 0x01 0)) := by
  intro i n
  have run : exec (.tlinc x) s = execTlinc x s := rfl
  rw [execTlinc] at run
  refine ⟨fun hk => goesOn_of _ _ run h g (if_pos (by simp [hk])) rfl, fun hk hn => ?_, fun hk hn => ?_⟩
  · refine goesOn_of _ _ run h (g.tlincAdd i n) ?_ ?_
    · exact (if_neg (by simp [hk])).trans (if_neg (Nat.not_le.mpr hn))
    have last : ∀ j, (g.tlAssign i n).tlLast j = if j = i then g.tlLast j + BitVec.ofNat 64 n else g.tlLast j := fun j => by
      show Sparse.get (Sparse.set g.tln i _) j = _
      rw [Sparse.get_set]
      split
      · rename_i e; rw [e]
      · rfl
    by_cases ho : g.openAccesses = []
    · have all : g.tlincAdd i n = (g.tlAssign i n).tlCompleteRange i ((g.tlLast i).toNat + 1) n := by
        unfold Grp.tlincAdd; rw [ho]; rfl
      have only := Grp.tlCompleteRange_only (g.tlAssign i n) i ((g.tlLast i).toNat + 1) n
      rw [all]
      have lasts : ∀ j, ((g.tlAssign i n).tlCompleteRange i ((g.tlLast i).toNat + 1) n).tlLast j = (g.tlAssign i n).tlLast j := fun j => by rw [only]; rfl
      refine ⟨by rw [only]; rfl, fun j => (lasts j).trans (last j), fun j hj => Grp.tlDone_tlCompleteRange_other _ _ _ _ _ hj, fun _ hd hg => ⟨?_, by rw [only]; rfl⟩,
        fun hne => absurd ho hne⟩
      refine BitVec.eq_of_toNat_eq ?_
      rw [Grp.tlDone_tlCompleteRange (g := g.tlAssign i n) (by show (g.tlDone i).toNat = _; rw [hd]) hn hg, lasts, last, if_pos rfl]
      simp only [BitVec.toNat_add, BitVec.toNat_ofNat]
      omega
    · have some : g.tlincAdd i n = { g.tlAssign i n with tlinc := (g.tlAssign i n).tlinc ++ [(i, (g.tlLast i).toNat + 1, (g.tlLast i).toNat + 1 + n - 1, g.openAccesses)] } := by
        unfold Grp.tlincAdd; exact if_neg (by simpa using ho)
      rw [some]
      refine ⟨rfl, last, fun _ _ => rfl, fun he => absurd he ho, fun _ => ⟨rfl, ?_⟩⟩
      rw [show (g.tlLast i).toNat + 1 + n - 1 = (g.tlLast i).toNat + n by omega]
      rfl
  · rw [run, issue_runs _ _ h]
    refine congrArg _ ((if_neg (by simp [hk])).trans (if_pos hn))

/-! ### PSET -/

theorem pset_takes {x : Pst} (h : Issues (.pset x) (g.guarded f x.k) s g f) :
    Completes (.pset x) s g (fun k h => h = { k with coef := h.coef } ∧ ∀ j, Sparse.get h.coef j =
      if g.upred x.k.toNat = true ∧ x.i.toNat ≤ j ∧ j ≤ x.i.toNat + x.c.toNat then g.scalar (x.n.toNat + (j - x.i.toNat)) else Sparse.get k.coef j) := by
  refine completes_of_issueF (fun s => show exec (.pset x) s = execPset x s from rfl) h ?_
  cases hk : g.upred x.k.toNat with
  | false => exact ⟨rfl, fun j => by simp⟩
  | true =>
    refine ⟨rfl, fun j => ?_⟩
    simp only [if_true, true_and]
    rw [Sparse.get_setList]
    by_cases hj : x.i.toNat ≤ j ∧ j ≤ x.i.toNat + x.c.toNat
    · rw [if_pos hj, if_pos (by simp; omega)]
      simp only [List.getD_eq_getElem?_getD, List.getElem?_map, List.getElem?_range (show j - x.i.toNat < x.c.toNat + 1 by omega), Option.map_some, Option.getD_some]
    · rw [if_neg hj, if_neg (by simp; omega)]

end

/-- Settles O14, one lemma per instruction. -/
theorem arrivalsAndNumbers : Obligations.ArrivalsAndNumbers :=
  ⟨fun _ _ _ _ h => arrv_begins h, fun _ _ _ _ h => tlinc_assigns h, fun _ _ _ _ h => pset_takes h⟩

end Sys2Proof.Machine
end

section
/-! PROOF. REGX and the lines that a grow waits for (06 R168, R169). -/
namespace Sys2Proof.Machine

open State (MemStep)

/-! ### Lines given up and taken -/

theorem Grp.word_shrinkTo (g : Grp) (n l j : Nat) (hj : j < 32) : (g.shrinkTo n).word l j = if l < n then g.word l j else 0 := by
  have h : (g.shrinkTo n).word l j = if decide (32 * l + j < 32 * n) then Sparse.get g.rs (32 * l + j) else 0 :=
    Sparse.get_filter (fun a => decide (a < 32 * n))
  rw [h]
  by_cases hl : l < n
  · rw [if_pos hl, if_pos (decide_eq_true (by omega)), Grp.word]
  · rw [if_neg hl, if_neg (by simp only [decide_eq_true_eq]; omega)]

theorem Grp.word_growTo (g : Grp) (n l j : Nat) (hj : j < 32) : (g.growTo n).word l j = if l < g.nlines then g.word l j else 0 :=
  g.word_shrinkTo g.nlines l j hj

/-- `h` is `g` with a budget of `n` lines and no grow before it any more. -/
def Grp.resized (g h : Grp) (n : Nat) : Prop :=
  h.nlines = n ∧ h = { g with nlines := h.nlines, resizeFirst := false, rs := h.rs, poison := h.poison, written := h.written, shared := h.shared }

theorem Grp.resized_shrinkTo (g : Grp) (n : Nat) : g.resized { g.shrinkTo n with resizeFirst := false } n := ⟨rfl, rfl⟩
theorem Grp.resized_growTo (g : Grp) (n : Nat) : g.resized { g.growTo n with resizeFirst := false } n := ⟨rfl, rfl⟩

section
variable {s : State} {g : Grp} {f : Frag}

/-! ### The resize, once the phase is complete -/

theorem State.regxResize_smaller {n : Nat} (hn : n < g.nlines) : s.regxResize g n =
    (if g.overs then s else s.setPool g.core { s.poolOf g with free := addBanks (s.poolOf g).free (linesByBank g.slot n g.nlines) }).finish
      { g.shrinkTo n with resizeFirst := false } := by
  have before : decide (g.nlines < n) = false := decide_eq_false (by omega)
  unfold State.regxResize
  simp only [before, Bool.and_false, hn, if_true]
  split <;> rfl

theorem State.regxResize_equal : s.regxResize g g.nlines = s.finish { g with resizeFirst := false } := by
  unfold State.regxResize
  simp only [Nat.lt_irrefl, decide_false, Bool.and_false, if_false, if_true]

theorem State.regxResize_overs {n : Nat} (hn : g.nlines < n) (ho : g.overs = true) : s.regxResize g n = s.finish { g.growTo n with resizeFirst := false } := by
  have before : (g.resizeFirst && !g.overs && decide (g.nlines < n)) = false := by simp [ho]
  unfold State.regxResize
  rw [before]
  exact (if_neg (Nat.not_lt.mpr (Nat.le_of_lt hn))).trans ((if_neg (Nat.ne_of_gt hn)).trans (if_pos ho))

theorem State.regxResize_waits {n : Nat} (hn : g.nlines < n) (ho : g.overs = false) : s.regxResize g n =
    (s.setPool g.core { s.poolOf g with grows := if (s.poolOf g).grows.contains s.iss.g then (s.poolOf g).grows else (s.poolOf g).grows ++ [s.iss.g] }).waitHere
      (.grow n) := by
  unfold State.regxResize
  exact (if_neg (Nat.not_lt.mpr (Nat.le_of_lt hn))).trans ((if_neg (Nat.ne_of_gt hn)).trans (if_neg (by simp [ho])))

/-! ### REGX -/

theorem regx_arrives {x : Rgx} (h : Issues (.regx x) (g.guarded f x.k) s g f) (hk : g.upred x.k.toNat = true) (hw : f.wait = .none) {c key : Nat}
    (hl : s.winLoc g (g.scalar x.n.toNat) = some (c, key)) (ha : (g.scalar x.n.toNat).toNat % 16 = 0) (hp : s.plainL1 g.core g.ctx) :
    ∃ r u, s.released r g (objScope key)
      ∧ u = (if g.nlines < regxBudget x g ∧ g.overs = false then r.setPool g.core { r.poolOf g with grows := (r.poolOf g).grows ++ [s.iss.g] } else r)
      ∧ exec (.regx x) s = .next ((u.objArrive c key 0 1).setGrp s.iss.g
        (g.setFrag s.iss.slot (some { f with wait := .regx (g.scalar x.n.toNat) (r.objPhase c key) (regxBudget x g), starved := false, loadFree := false }))) := by
  obtain ⟨r, hr, hm, _, hrel⟩ := State.withRelease_of hp (objScope key)
  refine ⟨r, _, hr, rfl, ?_⟩
  show execRegx x s = _
  rw [execRegx, issue_runs _ _ h]
  simp only [hk, Bool.not_true, Bool.false_eq_true, if_false, hw, State.withObject_of hl ha, hrel]
  have pool : s.MemStep (if g.nlines < regxBudget x g ∧ g.overs = false then r.setPool g.core { r.poolOf g with grows := (r.poolOf g).grows ++ [s.iss.g] } else r) := by
    split
    · exact hm.trans (State.modCore_memStep _ _ _)
    · exact hm
  have step := pool.trans (State.objArrive_memStep _ c key 0 1)
  rw [State.waitHere_of (by rw [step.groups, step.iss]; exact h.found) (by rw [step.iss]; exact h.frag), step.iss]

theorem regx_resizes {x : Rgx} (h : Issues (.regx x) (g.guarded f x.k) s g f) (hk : g.upred x.k.toNat = true) {a : Word} {q : Bool} {n c key : Nat}
    (hw : f.wait = .regx a q n) (hl : s.winLoc g a = some (c, key)) (hp : s.plainL1 g.core g.ctx) (hq : s.objPhase c key ≠ q) :
    ∃ r, s.acquired r g (objScope key) ∧ s.MemStep r ∧ exec (.regx x) s = .next (r.regxResize g n) := by
  obtain ⟨ha, hm⟩ := State.acquire_of h.found hp (objScope key)
  refine ⟨_, ha, hm, ?_⟩
  have met : s.waitMet g (.regx a q n) = true := by simp only [State.waitMet, hl, decide_eq_true hq]
  show execRegx x s = _
  rw [execRegx, issue_runs _ _ h]
  simp only [hk, Bool.not_true, Bool.false_eq_true, if_false, hw, met, hl]
  rw [hm.grp, State.grp_of_find h.found]

/-- A resize after which the fragment goes on. -/
theorem regx_completes {x : Rgx} {r u : State} {k : Grp} {n : Nat} {change : State → Prop} {effect : Grp → Grp → Prop} (hr : exec (.regx x) s = .next (r.regxResize g n))
    (he : r.regxResize g n = u.finish k) (hu : u.iss = s.iss) (hc : change u) (hk : effect g k) : CompletesAfter (.regx x) s g change effect :=
  ⟨_, u, k, hr.trans (congrArg _ he), hc, hu, finish_goesOn u _, hk⟩

theorem regx_exchanges {x : Rgx} (h : Issues (.regx x) (g.guarded f x.k) s g f) (hk : g.upred x.k.toNat = true) (a : Word) (q : Bool) (n c key : Nat)
    (hw : f.wait = .regx a q n) (hl : s.winLoc g a = some (c, key)) (hp : s.plainL1 g.core g.ctx) (hq : s.objPhase c key ≠ q) :
    (n < g.nlines → CompletesAfter (.regx x) s g
      (fun u => ∃ r, s.acquired r g (objScope key) ∧ u = if g.overs then r else
        r.setPool g.core { r.poolOf g with free := addBanks (r.poolOf g).free (linesByBank g.slot n g.nlines) })
      (fun k h => h.nlines = n ∧ (∀ l j, l < n → j < 32 → h.word l j = k.word l j)
        ∧ h = { k with nlines := h.nlines, resizeFirst := false, rs := h.rs, poison := h.poison, written := h.written, shared := h.shared })) ∧
    (n = g.nlines → CompletesAfter (.regx x) s g (fun u => s.acquired u g (objScope key)) (fun k h => h = { k with resizeFirst := false })) ∧
    (g.nlines < n → g.overs = true → CompletesAfter (.regx x) s g (fun u => s.acquired u g (objScope key)) (fun k h => h.nlines = n
        ∧ (∀ l j, l < k.nlines → j < 32 → h.word l j = k.word l j) ∧ (∀ l j, k.nlines ≤ l → j < 32 → h.word l j = 0)
        ∧ h = { k with nlines := h.nlines, resizeFirst := false, rs := h.rs, poison := h.poison, written := h.written, shared := h.shared })) ∧
    (g.nlines < n → g.overs = false → ∃ r, s.acquired r g (objScope key) ∧ ∃ p, exec (.regx x) s = .next ((r.setPool g.core p).setGrp s.iss.g
      (g.setFrag s.iss.slot (some { f with wait := .grow n, starved := false, loadFree := false }))) ∧ s.iss.g ∈ p.grows ∧ p.free = (r.poolOf g).free) := by
  obtain ⟨r, ha, hm, hr⟩ := regx_resizes h hk hw hl hp hq
  refine ⟨fun hn => ?_, fun hn => ?_, fun hn ho => ?_, fun hn ho => ?_⟩
  · refine regx_completes hr (State.regxResize_smaller hn) ?_ ⟨r, ha, rfl⟩ ?_
    · split <;> exact hm.iss
    · refine ⟨rfl, fun l j hl hj => ?_, (g.resized_shrinkTo n).2⟩
      exact (g.word_shrinkTo n l j hj).trans (if_pos hl)
  · subst hn
    exact regx_completes hr State.regxResize_equal hm.iss ha rfl
  · refine regx_completes hr (State.regxResize_overs hn ho) hm.iss ha ⟨rfl, fun l j hl hj => ?_, fun l j hl hj => ?_, (g.resized_growTo n).2⟩
    · exact (g.word_growTo n l j hj).trans (if_pos hl)
    · exact (g.word_growTo n l j hj).trans (if_neg (Nat.not_lt.mpr hl))
  · refine ⟨r, ha, { r.poolOf g with grows := if (r.poolOf g).grows.contains r.iss.g then (r.poolOf g).grows else (r.poolOf g).grows ++ [r.iss.g] },
      hr.trans (congrArg _ ((State.regxResize_waits hn ho).trans ?_)), ?_, rfl⟩
    · rw [← hm.iss]
      refine State.waitHere_of ?_ ?_ _
      · show Tab.find r.groups r.iss.g = _
        rw [hm.groups, hm.iss]
        exact h.found
      · show g.frag r.iss.slot = _
        rw [hm.iss]
        exact h.frag
    · rw [← hm.iss]
      dsimp only
      split
      · rename_i hc
        exact List.contains_iff_mem.mp hc
      · simp

/-! ### The grow -/

theorem State.growing_of {gid : Nat} {n : Nat} (hg : Tab.find s.groups gid = some g) (hf : g.f0 = some f) (hw : f.wait = .grow n) : s.growing gid = true := by
  simp only [State.growing, State.grp_of_find hg, Grp.allFrags, hf, List.cons_append, List.any_cons, hw, Bool.true_or]

theorem regxGrow_takes {gid n : Nat} {r : List Nat} (hg : Tab.find s.groups gid = some g) (hf : g.f0 = some f) (hw : f.wait = .grow n) (hn : g.nlines < n)
    (hr : (s.poolOf g).grows = gid :: r) (hd : s.shrinkDue g = false) (hc : coverBanks (s.poolOf g).free (linesByBank g.slot g.nlines n) = true) :
    exec (.regxGrow gid) s = .next ((s.setPool g.core { s.poolOf g with
      free := subBanks (s.poolOf g).free (linesByBank g.slot g.nlines n), grows := r.filter (fun k => decide (k ≠ gid)) }).setGrp gid { g.growTo n with resizeFirst := false }) := by
  show execRegxGrow gid s = _
  have first : (gid :: r).filter s.growing = gid :: r.filter s.growing := List.filter_cons_of_pos (State.growing_of hg hf hw)
  simp only [execRegxGrow, hg, Grp.allFrags, hf, List.cons_append, List.findSome?_cons, hw, hn, if_true, hr, first, List.head?_cons,
    hd, hc, ne_eq, not_true_eq_false, Bool.false_eq_true, Bool.true_eq_false, or_self, if_false]
  simp

end

/-- Settles O15: REGX by the wait that its fragment stands at, then the grow that the pool's lines let go on. -/
theorem budgetExchange : Obligations.BudgetExchange := by
  refine ⟨fun x s g f h => ⟨fun hk => ?_, fun hk hw c key hl ha hp => regx_arrives h hk hw hl ha hp, fun hk => regx_exchanges h hk, fun hk n hw => ?_⟩,
    fun s gid n g f r hg hf hw hn hr hd hc => ⟨regxGrow_takes hg hf hw hn hr hd hc, fun l j hl hj => ?_, fun l j hl hj => ?_⟩⟩
  · have run : exec (.regx x) s = execRegx x s := rfl
    rw [execRegx] at run
    exact goesOn_of _ _ run h g (if_pos (by simp [hk])) rfl
  · have run : exec (.regx x) s = execRegx x s := rfl
    rw [execRegx] at run
    refine goesOn_of _ _ run h g ((if_neg (by simp [hk])).trans ?_) rfl
    simp only [hw]
  · exact (g.word_growTo n l j hj).trans (if_pos hl)
  · exact (g.word_growTo n l j hj).trans (if_neg (Nat.not_lt.mpr hl))

end Sys2Proof.Machine
end

section
/-! PROOF. FREEZE.G, FREEZE.T and the seal of a grid roast (10 R252 to R255, R262). -/
namespace Sys2Proof.Machine

open State (MemStep)

/-! ### The tests of FREEZE -/

section
variable {s : State} {g : Grp} {f : Frag} {l : Launch} {t : Bool}

theorem Freezes.legal (h : Freezes s g f l t) : freezeIllegal l g t = false := by
  obtain ⟨_, hh, _, _, _, _, _, _, hz, _, ht⟩ := h
  cases t with
  | true => simp [freezeIllegal, hh, hz, show l.r.tT = true ∧ g.idx = 0 from ht]
  | false => simp [freezeIllegal, hh, hz, show l.r.tG = true ∧ g.team = 0 ∧ g.froze.1 = false from ht]

theorem Freezes.free (h : Freezes s g f l t) : freezeBusy l g f = false := by
  obtain ⟨_, _, h1, hs, hm, hd, hb, hn, _, ho, _⟩ := h
  have done : (List.range 5).any (fun i => decide ((g.tlDone i).toNat < (g.tlLast i).toNat)) = false := by
    simp only [List.any_eq_false, List.mem_range, decide_eq_true_eq, Nat.not_lt]
    exact hn
  have bound : (g.overs && l.r.tG && l.r.tT) = false := by
    cases hv : g.overs <;> cases hg : l.r.tG <;> simp_all
  simp [freezeBusy, h1, hs, hm, hd, hb, bound]
  simpa using done

end

/-! ### The seal of a grid roast -/

theorem State.captureWindow_parts (s : State) (lid wmark : Nat) (r : Roast) : (s.captureWindow lid wmark r).parts = r.parts := by
  unfold State.captureWindow
  generalize s.cores = cs
  induction cs generalizing r with
  | nil => rfl
  | cons c cs ih =>
    rw [List.foldl_cons, ih]
    split <;> rfl

theorem Tab.find_map {α β : Type} (t : Tab α) (k : Nat) (f : Nat × α → β) :
    Tab.find (t.map (fun p => (p.1, f p))) k = (Tab.find t k).map (fun v => f (k, v)) := by
  induction t with
  | nil => rfl
  | cons p r ih =>
    obtain ⟨a, v⟩ := p
    simp only [List.map_cons, Tab.find]
    split
    · rename_i h; subst h; rfl
    · exact ih

theorem sealGrid_seals {s : State} {lid ro : Nat} {l : Launch} {r : Roast} (h : Tab.find s.roasts ro = some r) :
    ∃ t : State, s.sealGrid lid ro l = t.pourDue lid ∧ (∃ q, Tab.find t.roasts ro = some q ∧ q.sealed = true ∧ q.parts = r.parts)
      ∧ (∀ k h, Tab.find t.groups k = some h → ∃ g, Tab.find s.groups k = some g
          ∧ h = { g with stalled := if g.launch = lid ∧ g.team = 0 then false else g.stalled })
      ∧ t = { s with roasts := t.roasts, groups := t.groups } := by
  refine ⟨{ s with
    roasts := Tab.put s.roasts ro { s.captureWindow lid l.r.wmark r with sealed := true }
    groups := s.groups.map (fun (p : Nat × Grp) => if p.2.launch = lid ∧ p.2.team = 0 then (p.1, { p.2 with stalled := false }) else p) },
    by simp only [State.sealGrid, h], ⟨_, Tab.find_put_same, rfl, s.captureWindow_parts lid l.r.wmark r⟩, fun k h hk => ?_, rfl⟩
  have shape : (fun (p : Nat × Grp) => if p.2.launch = lid ∧ p.2.team = 0 then (p.1, { p.2 with stalled := false }) else p)
      = fun p => (p.1, { p.2 with stalled := if p.2.launch = lid ∧ p.2.team = 0 then false else p.2.stalled }) := by
    funext p; split <;> rfl
  dsimp only at hk
  rw [shape, Tab.find_map] at hk
  obtain ⟨g, hg, rfl⟩ := Option.map_eq_some_iff.mp hk
  exact ⟨g, hg, rfl⟩

/-- The later of two entries at one number stands. -/
theorem Tab.put_put {α : Type} (t : Tab α) (k : Nat) (v w : α) : Tab.put (Tab.put t k v) k w = Tab.put t k w := by
  induction t with
  | nil => simp [Tab.put]
  | cons p r ih =>
    obtain ⟨a, u⟩ := p
    simp only [Tab.put]
    split
    · rename_i h1
      rw [Tab.put, if_pos h1, ih]
    · split
      · rename_i h2
        simp only [Tab.put, Nat.lt_irrefl, if_false, if_true]
      · simp only [Tab.put, Nat.lt_irrefl, if_false, if_true]

theorem State.setGrp_setGrp (s : State) (n : Nat) (g h : Grp) : (s.setGrp n g).setGrp n h = s.setGrp n h := by
  simp only [State.setGrp, Tab.put_put]

theorem State.waitHere_setGrp {s : State} {g : Grp} {f : Frag} {w : Wait} (hf : g.frag s.iss.slot = some f) :
    (s.setGrp s.iss.g g).waitHere w = s.setGrp s.iss.g (g.setFrag s.iss.slot (some { f with wait := w, starved := false, loadFree := false })) :=
  (State.waitHere_of (s := s.setGrp s.iss.g g) (by simp) hf w).trans (State.setGrp_setGrp _ _ _ _)

/-! ### FREEZE.G -/

section
variable {x : Z} {s : State} {g : Grp} {f : Frag} {l : Launch} {ro : Nat} {r : Roast}

theorem freezeG_acquires (h : Issues (.freezeG x) 0 s g f) (hw : f.wait = .freeze) (hs : g.stalled = false) (hp : s.plainL1 g.core g.ctx) :
    CompletesAfter (.freezeG x) s g (fun u => s.acquired u g 4) (fun k h => h = k) := by
  obtain ⟨ha, hi, hf⟩ := State.acquire_goesOn (n := 4) rfl h.found hp
  have run : exec (.freezeG x) s = execFreezeG x s := rfl
  rw [execFreezeG] at run
  refine completesAfter_of _ _ run h _ g ((if_pos hw).trans ((if_neg (by simp [hs])).trans hf)) hi ha rfl

/-- A FREEZE.G in order: after the release step its part stands in the grid roast, and it stalls or seals. -/
theorem freezeG_captures (h : Issues (.freezeG x) 0 s g f) (hw : f.wait ≠ .freeze) (hf : Freezes s g f l false) (hl : l.roast = some ro)
    (hr : Tab.find s.roasts ro = some r) (hp : s.plainL1 g.core g.ctx) :
    let parts := Tab.put r.parts g.idx (g.roastPart s.iss.after (true, false))
    ∃ u, s.released u g 4 ∧ s.MemStep u ∧ exec (.freezeG x) s = .next (
      let t := { u with roasts := Tab.put s.roasts ro { r with parts := parts } }.setGrp s.iss.g { g.shareLines ro with froze := (true, false), stalled := true }
      if parts.length < l.r.prologue then t.waitHere .freeze
      else
        let v := t.sealGrid g.launch ro l
        (v.acquire s.iss.g 4).finish ((v.acquire s.iss.g 4).grp s.iss.g)) := by
  intro parts
  obtain ⟨u, hu, hm, _, hk⟩ := State.withRelease_of hp 4
  have roasts : u.roasts = s.roasts := by rw [hm.frame]
  have froze : g.froze.2 = false := by obtain ⟨_, _, _, _, _, _, _, _, hz, _⟩ := hf; exact hz
  refine ⟨u, hu, hm, ?_⟩
  show execFreezeG x s = _
  rw [execFreezeG, issue_runs _ _ h]
  simp only [hw, if_false, hf.1, hf.legal, hf.free, Bool.false_eq_true, hl, hk, hm.grp, State.grp_of_find h.found, roasts, Tab.findD, hr, Option.getD_some,
    froze, hm.iss, parts]

theorem freezeG_stalls (h : Issues (.freezeG x) 0 s g f) (hw : f.wait ≠ .freeze) (hf : Freezes s g f l false) (hl : l.roast = some ro)
    (hr : Tab.find s.roasts ro = some r) (hp : s.plainL1 g.core g.ctx)
    (hn : (Tab.put r.parts g.idx (g.roastPart s.iss.after (true, false))).length < l.r.prologue) :
    ∃ u, s.released u g 4 ∧ exec (.freezeG x) s = .next ({ u with
      roasts := Tab.put s.roasts ro { r with parts := Tab.put r.parts g.idx (g.roastPart s.iss.after (true, false)) } }.setGrp s.iss.g
      (({ g.shareLines ro with froze := (true, false), stalled := true }).setFrag s.iss.slot (some { f with wait := .freeze, starved := false, loadFree := false }))) := by
  obtain ⟨u, hu, hm, hx⟩ := freezeG_captures h hw hf hl hr hp
  refine ⟨u, hu, hx.trans (congrArg _ ((if_pos hn).trans ?_))⟩
  have frag : ({ g.shareLines ro with froze := (true, false), stalled := true } : Grp).frag u.iss.slot = some f := by
    rw [hm.iss]
    exact h.frag
  rw [← hm.iss]
  generalize hq : Tab.put r.parts g.idx (g.roastPart u.iss.after (true, false)) = q
  exact State.waitHere_setGrp (s := { u with roasts := Tab.put s.roasts ro { r with parts := q } }) frag

theorem freezeG_busy (h : Issues (.freezeG x) 0 s g f) (hw : f.wait ≠ .freeze) (hl : Tab.find s.launches g.launch = some l) (hg : l.r.tG = true)
    (hh : g.inHandler = false) (ht : g.team = 0) (hz : g.froze = (false, false)) (hb : g.f1 ≠ none ∨ f.mask ≠ g.gmask ∨ g.drained = false) :
    exec (.freezeG x) s = .next (s.trapHere 0x0C 0) := by
  have legal : freezeIllegal l g false = false := by simp [freezeIllegal, hh, hg, ht, hz]
  have busy : freezeBusy l g f = true := by
    rcases hb with hb | hb | hb
    · simp [freezeBusy, Option.isSome_iff_ne_none.mpr hb]
    · simp [freezeBusy, hb]
    · simp [freezeBusy, hb]
  show execFreezeG x s = _
  rw [execFreezeG, issue_runs _ _ h]
  simp only [hw, if_false, hl, legal, busy, Bool.false_eq_true, if_true]

/-! ### FREEZE.T -/

theorem freezeT_pours (h : Issues (.freezeT x) 0 s g f) (hf : Freezes s g f l true) (hp : s.plainL1 g.core g.ctx) :
    ∃ u v, s.released u g 1
      ∧ v = (({ u with
        roasts := Tab.put s.roasts s.nextRoast ⟨g.launch, true, [(0, g.roastPart s.iss.after (g.froze.1, true))], [], [], if l.r.tG then l.roast else none⟩
        nextRoast := s.nextRoast + 1
        launches := Tab.put s.launches g.launch { l with
          teams := l.teams.map (fun (e : Nat × Team) => if e.1 = g.team then (e.1, { e.2 with roast := some s.nextRoast }) else e) } }).setGrp s.iss.g
        { g.shareLines s.nextRoast with froze := (g.froze.1, true) }).pourDue g.launch
      ∧ exec (.freezeT x) s = .next (v.finish (v.grp s.iss.g)) := by
  obtain ⟨u, hu, hm, _, hk⟩ := State.withRelease_of hp 1
  have roasts : u.roasts = s.roasts := by rw [hm.frame]
  have next : u.nextRoast = s.nextRoast := by rw [hm.frame]
  have launches : u.launches = s.launches := by rw [hm.frame]
  refine ⟨u, _, hu, rfl, ?_⟩
  show execFreezeT x s = _
  rw [execFreezeT, issue_runs _ _ h]
  simp only [hf.1, hf.legal, hf.free, Bool.false_eq_true, if_false, hk, hm.grp, State.grp_of_find h.found, roasts, next, hm.iss]
  simp only [State.modLaunch, State.setGrp_launches, launches, hf.1]
  rfl

end

/-- Settles O16: FREEZE.G by where it stands, the seal, and FREEZE.T. -/
theorem freezing : Obligations.Freezing := by
  refine ⟨fun x s g f h => ⟨fun hw hs hp => freezeG_acquires h hw hs hp, fun l ro r hw hf hl hr hp hn => freezeG_stalls h hw hf hl hr hp hn,
    fun l ro r hw hf hl hr hp hn => ?_, fun l hw hl hg hh ht hz hb => freezeG_busy h hw hl hg hh ht hz hb⟩,
    fun s lid ro l r h => sealGrid_seals h, fun x s g f l h hf hp => freezeT_pours h hf hp⟩
  obtain ⟨u, hu, _, hx⟩ := freezeG_captures h hw hf hl hr hp
  exact ⟨u, _, hu, rfl, hx.trans (congrArg _ (if_neg (Nat.not_lt.mpr hn)))⟩

end Sys2Proof.Machine
end

section
/-! SUPPORT. The bytes of a line, and the byte that a read at the home slice or at the owner gives (07 R181; 17 R350), after each operation on memory and its
L2 copies. -/
namespace Sys2Proof.Machine

/-! ### Bytes of a line -/

theorem lineByte_setLineByte (x : BitVec 1024) (i j : Nat) (b : Byte) (hj : j < 128) :
    lineByte (setLineByte x i b) j = if j = i then b else lineByte x j := by
  refine BitVec.eq_of_getLsbD_eq fun k hk => ?_
  have low : (0xFF#1024).getLsbD (8 * j + k - 8 * i) = decide (8 * j + k - 8 * i < 8) := by
    rw [show (0xFF#1024) = BitVec.ofNat 1024 (2 ^ 8 - 1) from rfl, BitVec.getLsbD_ofNat, Nat.testBit_two_pow_sub_one, decide_eq_true (by omega), Bool.true_and]
  simp only [lineByte, setLineByte, BitVec.getLsbD_extractLsb', BitVec.getLsbD_or, BitVec.getLsbD_and, BitVec.getLsbD_not, BitVec.getLsbD_shiftLeft,
    BitVec.getLsbD_setWidth, low, hk, decide_true, Bool.true_and, show 8 * j + k < 1024 by omega]
  by_cases h : j = i
  · subst h
    simp [hk, show ¬ 8 * j + k < 8 * j by omega, show 8 * j + k - 8 * j = k by omega, show k < 1024 by omega]
  · rcases Nat.lt_or_ge (8 * j + k) (8 * i) with hl | hl
    · simp [h, hl, hk]
    · have past : 8 ≤ 8 * j + k - 8 * i := by omega
      simp [h, hk, Nat.not_lt.mpr hl, Nat.not_lt.mpr past, BitVec.getLsbD_of_ge b _ past]

theorem lineByte_setLineBytes (x : BitVec 1024) (off j : Nat) (bs : List Byte) (hj : j < 128) :
    lineByte (setLineBytes x off bs) j = if off ≤ j ∧ j < off + bs.length then bs.getD (j - off) 0 else lineByte x j := by
  induction bs generalizing x off with
  | nil => rw [setLineBytes, if_neg (by simp)]
  | cons b r ih =>
    rw [setLineBytes, ih, lineByte_setLineByte _ _ _ _ hj]
    simp only [List.length_cons]
    by_cases h : j = off
    · subst h
      rw [if_neg (by omega), if_pos rfl, if_pos (by omega), Nat.sub_self, List.getD_cons_zero]
    · by_cases hh : off ≤ j ∧ j < off + (r.length + 1)
      · rw [if_pos (by omega), if_pos hh, show j - off = (j - (off + 1)) + 1 by omega, List.getD_cons_succ]
      · rw [if_neg (by omega), if_neg h, if_neg hh]

theorem dirtyBits_getLsbD (off n j : Nat) (h : off + n ≤ 128) : (dirtyBits off n).getLsbD j = decide (off ≤ j ∧ j < off + n) := by
  simp only [dirtyBits, BitVec.getLsbD_shiftLeft, BitVec.getLsbD_ushiftRight, BitVec.getLsbD_allOnes]
  rw [Bool.eq_iff_iff]
  simp only [Bool.and_eq_true, Bool.not_eq_true', decide_eq_true_eq, decide_eq_false_iff_not]
  omega

/-! ### Addresses within one line -/

theorem reachOf_line (id a : Nat) : reachOf id (a / 128 * 128) = reachOf id a := by
  have pk : a / 128 * 128 / 2 ^ 46 = a / 2 ^ 46 := by omega
  have quarter : a / 128 * 128 / 2 ^ 44 = a / 2 ^ 44 := by omega
  have port : a / 128 * 128 / 2 ^ 42 = a / 2 ^ 42 := by omega
  have top : (2 ^ 52 ≤ a / 128 * 128) = (2 ^ 52 ≤ a) := by apply propext; omega
  have inside : (a / 128 * 128 % 2 ^ 44 < 384 * 2 ^ 30) = (a % 2 ^ 44 < 384 * 2 ^ 30) := by apply propext; omega
  unfold reachOf
  simp only [pk, quarter, port, top, inside]

theorem State.l2Held_line {s : State} {a b : Nat} (h : a / 128 = b / 128) : s.l2Held a = s.l2Held b := by
  unfold State.l2Held
  rw [← reachOf_line _ a, ← reachOf_line _ b, h]

theorem State.l2Find_line {s : State} {a b : Nat} (h : a / 128 = b / 128) : s.l2Find a = s.l2Find b := by
  unfold State.l2Find
  rw [h, show a / 2 ^ 21 = b / 2 ^ 21 by omega]

/-! ### The byte at the home slice or at the owner -/

/-- The byte at `a` as an access at the home slice, or at the owner, reads it. -/
def State.homeAt (s : State) (o : Bool) (a : Nat) : Byte := (s.readHome o a 1).headD 0

theorem State.homeAt_eq (s : State) (o : Bool) (a : Nat) : s.homeAt o a =
    if s.l2Held a then
      match s.l2Find a with
      | some l => if o && !l.dirty.getLsbD (a % 128) then Sparse.get s.mem a else lineByte l.data (a % 128)
      | none => Sparse.get s.mem a
    else Sparse.get s.mem a := by
  unfold State.homeAt State.readHome
  cases hh : s.l2Held a with
  | false => simp [State.homeRead, State.homeByte, hh]
  | true =>
    cases hf : s.l2Find a with
    | none => cases o <;> simp [State.homeRead, State.homeByte, State.ownerByte, hh, hf]
    | some l =>
      cases hd : l.dirty.getLsbD (a % 128) <;> cases o <;> simp [State.homeRead, State.homeByte, State.ownerByte, hh, hf, hd]

theorem State.homeRead_eq (s : State) (a n : Nat) : s.homeRead a n = (List.range n).map (fun j => s.homeByte (a + j)) := by
  induction n generalizing a with
  | zero => rfl
  | succ n ih =>
    rw [State.homeRead, ih, List.range_succ_eq_map, List.map_cons, List.map_map]
    simp only [Nat.add_zero, List.cons.injEq, true_and]
    exact List.map_congr_left fun j _ => congrArg _ (by simp only [Nat.succ_eq_add_one]; omega)

/-- The bytes of a read within one line. -/
theorem State.readHome_eq (s : State) (o : Bool) (a n : Nat) (h : a % 128 + n ≤ 128) : s.readHome o a n = (List.range n).map (fun j => s.homeAt o (a + j)) := by
  unfold State.readHome
  have held : ∀ j, j < n → s.l2Held (a + j) = s.l2Held a := fun j hj => State.l2Held_line (by omega)
  split
  · rename_i hb
    refine List.map_congr_left fun j hj => ?_
    simp [State.homeAt, State.readHome, held j (List.mem_range.mp hj), hb]
  · rename_i hb
    rw [State.homeRead_eq]
    refine List.map_congr_left fun j hj => ?_
    have : (o && s.l2Held (a + j)) = false := by rw [held j (List.mem_range.mp hj)]; simpa using hb
    simp [State.homeAt, State.readHome, this, State.homeRead]

/-! ### After writes and copies -/

theorem find_put_line {ls : List L2Line} {l : L2Line} {p : L2Line → Bool} {q : L2Line → Bool} (hq : ∀ k, q k = false → p k = true → False) :
    (l :: ls.filter q).find? p = if p l then some l else ls.find? p := by
  rw [List.find?_cons]
  cases hp : p l with
  | true => rfl
  | false =>
    simp only [Bool.false_eq_true, if_false]
    rw [List.find?_filter]
    congr 1
    funext k
    cases hk : q k <;> cases hpk : p k <;> simp_all

/-- The copy that an address has after a copy `l` of the line of `pa` is put into the L2. -/
theorem State.l2Find_put {s : State} {l : L2Line} {pa : Nat} (hb : l.pa = pa / 128 * 128) (hs : l.stamp = Sparse.get s.poolGen (pa / 2 ^ 21 % 1024)) (a : Nat) :
    ({ s with l2 := l :: s.l2.filter (fun k => decide (k.pa ≠ pa / 128 * 128)) } : State).l2Find a = if a / 128 = pa / 128 then some l else s.l2Find a := by
  by_cases h : a / 128 = pa / 128
  · rw [if_pos h]
    refine List.find?_cons_of_pos ?_
    simp only [Bool.and_eq_true, decide_eq_true_eq]
    refine ⟨by omega, ?_⟩
    rw [hs, show pa / 2 ^ 21 = a / 2 ^ 21 by omega]
  · rw [if_neg h]
    refine (find_put_line fun k h1 h2 => ?_).trans (if_neg ?_)
    · simp only [ne_eq, decide_eq_false_iff_not, Classical.not_not] at h1
      simp only [Bool.and_eq_true, decide_eq_true_eq] at h2
      omega
    · simp only [Bool.and_eq_true, decide_eq_true_eq]
      omega

/-- The byte of memory or of its copy. -/
def copyByte (o : Bool) (l : Option L2Line) (a : Nat) (b : Byte) : Byte :=
  match l with
  | some l => if o && !l.dirty.getLsbD (a % 128) then b else lineByte l.data (a % 128)
  | none => b

theorem State.homeAt_copy (s : State) (o : Bool) (a : Nat) :
    s.homeAt o a = if s.l2Held a then copyByte o (s.l2Find a) a (Sparse.get s.mem a) else Sparse.get s.mem a := by
  rw [State.homeAt_eq]; rfl

theorem State.homeAt_congr {s t : State} (hp : t.pkg = s.pkg) (o : Bool) (a : Nat) (hm : Sparse.get t.mem a = Sparse.get s.mem a)
    (hf : t.l2Find a = s.l2Find a) : t.homeAt o a = s.homeAt o a := by
  rw [State.homeAt_copy, State.homeAt_copy, hm, hf, State.l2Held, State.l2Held, hp]

theorem State.onlyHome.pkg {s t : State} (h : s.onlyHome t) : t.pkg = s.pkg := by
  unfold State.onlyHome at h; rw [h]

theorem State.memWrite_onlyHome (s : State) (pa : Nat) (bs : List Byte) : s.onlyHome (s.memWrite pa bs) := by
  unfold State.onlyHome; rw [State.memWrite_only]

theorem State.memWrite_l2Find (s : State) (pa : Nat) (bs : List Byte) (a : Nat) : (s.memWrite pa bs).l2Find a = s.l2Find a := by
  rw [State.memWrite_only]; rfl

/-- The copy that a write into the L2 leaves. -/
theorem State.l2Write_find (s : State) (pa : Nat) (bs : List Byte) (a : Nat) :
    (s.l2Write pa bs).l2Find a = if a / 128 = pa / 128 then
      let old := (s.l2Find pa).getD ⟨pa / 128 * 128, s.memLine pa, 0, Sparse.get s.poolGen (pa / 2 ^ 21 % 1024)⟩
      some { old with data := setLineBytes old.data (pa % 128) bs, dirty := old.dirty ||| dirtyBits (pa % 128) bs.length }
    else s.l2Find a := by
  have stands : ∀ old, s.l2Find pa = some old → old.pa = pa / 128 * 128 ∧ old.stamp = Sparse.get s.poolGen (pa / 2 ^ 21 % 1024) := fun old h => by
    have := List.find?_some h
    simpa only [Bool.and_eq_true, decide_eq_true_eq] using this
  unfold State.l2Write
  cases h : s.l2Find pa with
  | none =>
    exact State.l2Find_put (s := s) (l := ⟨pa / 128 * 128, setLineBytes (s.memLine pa) (pa % 128) bs, 0 ||| dirtyBits (pa % 128) bs.length,
      Sparse.get s.poolGen (pa / 2 ^ 21 % 1024)⟩) rfl rfl a
  | some old =>
    obtain ⟨hp, hs⟩ := stands old h
    exact State.l2Find_put (s := s) (l := { old with data := setLineBytes old.data (pa % 128) bs, dirty := old.dirty ||| dirtyBits (pa % 128) bs.length }) hp hs a

theorem State.memLine_byte (s : State) (pa j : Nat) (hj : j < 128) : lineByte (s.memLine pa) j = Sparse.get s.mem (pa / 128 * 128 + j) := by
  rw [State.memLine, lineByte_setLineBytes _ _ _ _ hj, Sparse.getList_length, if_pos (by omega), Sparse.getList_getD (by omega), Nat.sub_zero]

/-- A write within one line into the L2, where the copy stands for memory. -/
theorem State.l2Write_homeAt {s : State} {pa : Nat} {bs : List Byte} {o : Bool} {a : Nat} (h : pa % 128 + bs.length ≤ 128) (hh : s.l2Held pa = true)
    (m : Sparse 8) (hm : ¬ (pa ≤ a ∧ a < pa + bs.length) → Sparse.get m a = Sparse.get s.mem a) :
    ({ s.l2Write pa bs with mem := m } : State).homeAt o a = if pa ≤ a ∧ a < pa + bs.length then bs.getD (a - pa) 0 else s.homeAt o a := by
  have find : ({ s.l2Write pa bs with mem := m } : State).l2Find a = (s.l2Write pa bs).l2Find a := rfl
  have held : ({ s.l2Write pa bs with mem := m } : State).l2Held a = s.l2Held a := rfl
  rw [State.homeAt_copy, find, held, State.l2Write_find]
  by_cases hl : a / 128 = pa / 128
  · rw [if_pos hl, State.l2Held_line hl, hh, if_pos rfl]
    have place : (pa ≤ a ∧ a < pa + bs.length) ↔ (pa % 128 ≤ a % 128 ∧ a % 128 < pa % 128 + bs.length) := by omega
    dsimp only [copyByte]
    rw [BitVec.getLsbD_or, dirtyBits_getLsbD _ _ _ h, lineByte_setLineBytes _ _ _ _ (by omega)]
    by_cases hi : pa ≤ a ∧ a < pa + bs.length
    · rw [if_pos hi, decide_eq_true (place.mp hi), Bool.or_true, Bool.not_true, Bool.and_false, if_neg (by decide), if_pos (place.mp hi),
        show a % 128 - pa % 128 = a - pa by omega]
    · rw [if_neg hi, decide_eq_false (mt place.mpr hi), Bool.or_false, if_neg (mt place.mpr hi), hm hi, State.homeAt_copy, State.l2Held_line hl, hh, if_pos rfl,
        State.l2Find_line hl]
      cases s.l2Find pa with
      | some l => rfl
      | none =>
        simp only [copyByte, Option.getD_none]
        rw [State.memLine_byte _ _ _ (by omega), show pa / 128 * 128 + a % 128 = a by omega]
        simp
  · have out : ¬ (pa ≤ a ∧ a < pa + bs.length) := by omega
    rw [if_neg hl, if_neg out, hm out, State.homeAt_copy]

/-- What is written within a line at the home slice or at the owner is read there, and nothing else changes. -/
theorem State.homeAt_homeWrite (s : State) (pa : Nat) (bs : List Byte) (w o : Bool) (a : Nat) (h : pa % 128 + bs.length ≤ 128) :
    (s.homeWrite pa bs w).homeAt o a = if pa ≤ a ∧ a < pa + bs.length then bs.getD (a - pa) 0 else s.homeAt o a := by
  have memory : ∀ t : State, t.pkg = s.pkg → t.mem = (s.memWrite pa bs).mem → (∀ b, t.l2Find b = s.l2Find b) → (pa ≤ a ∧ a < pa + bs.length → s.l2Held a = false ∨ s.l2Find a = none) →
      t.homeAt o a = if pa ≤ a ∧ a < pa + bs.length then bs.getD (a - pa) 0 else s.homeAt o a := by
    intro t hp hm hf hn
    rw [State.homeAt_copy, hm, hf, State.memWrite_get, State.l2Held, hp]
    change (if s.l2Held a = true then _ else _) = _
    by_cases hi : pa ≤ a ∧ a < pa + bs.length
    · simp only [if_pos hi]
      rcases hn hi with k | k <;> simp [k, copyByte]
    · simp only [if_neg hi]
      rw [State.homeAt_copy]
  cases hh : s.l2Held pa with
  | false =>
    rw [s.homeWrite_here pa bs w hh]
    refine memory (s.memWrite pa bs) (s.memWrite_onlyHome pa bs).pkg rfl (s.memWrite_l2Find pa bs) fun hi => .inl ?_
    rw [State.l2Held_line (show a / 128 = pa / 128 by omega), hh]
  | true =>
    cases w with
    | false =>
      have e : s.homeWrite pa bs false = { s.l2Write pa bs with mem := s.mem } := by simp only [State.homeWrite, hh, if_true, Bool.false_eq_true, if_false]; rfl
      rw [e]
      exact State.l2Write_homeAt h hh s.mem fun _ => rfl
    | true =>
      cases hf : s.l2Find pa with
      | none =>
        have e : s.homeWrite pa bs true = s.memWrite pa bs := by simp only [State.homeWrite, hh, if_true, hf]
        rw [e]
        refine memory (s.memWrite pa bs) (s.memWrite_onlyHome pa bs).pkg rfl (s.memWrite_l2Find pa bs) fun hi => .inr ?_
        rw [State.l2Find_line (show a / 128 = pa / 128 by omega), hf]
      | some l =>
        have e : s.homeWrite pa bs true = (s.memWrite pa bs).l2Write pa bs := by simp only [State.homeWrite, hh, if_true, hf]
        have step := State.l2Write_homeAt (s := s) (o := o) (a := a) h hh (s.memWrite pa bs).mem fun hi => by rw [State.memWrite_get, if_neg hi]
        rw [← step, e]
        refine State.homeAt_congr ?_ o a ?_ ?_
        · exact (s.memWrite_onlyHome pa bs).pkg
        · rfl
        · show ((s.memWrite pa bs).l2Write pa bs).l2Find a = (s.l2Write pa bs).l2Find a
          rw [State.l2Write_find, State.l2Write_find, State.memWrite_l2Find, State.memWrite_l2Find, hf]
          simp only [Option.getD_some]

/-- Taking a copy of a line into the L2 changes no byte that is read. -/
theorem State.homeAt_l2Touch (s : State) (pa : Nat) (o : Bool) (a : Nat) : (s.l2Touch pa).homeAt o a = s.homeAt o a := by
  unfold State.l2Touch
  split
  · rename_i h
    obtain ⟨hh, hn⟩ : s.l2Held pa = true ∧ s.l2Find pa = none := by simpa using h
    have find := State.l2Find_put (s := s) (l := ⟨pa / 128 * 128, s.memLine pa, 0, Sparse.get s.poolGen (pa / 2 ^ 21 % 1024)⟩) rfl rfl a
    rw [State.homeAt_copy, find, State.homeAt_copy]
    change (if s.l2Held a = true then _ else _) = _
    split
    · by_cases hl : a / 128 = pa / 128
      · rw [if_pos hl, State.l2Find_line hl, hn]
        simp only [copyByte]
        rw [State.memLine_byte _ _ _ (by omega), show pa / 128 * 128 + a % 128 = a by omega]
        exact ite_self _
      · rw [if_neg hl]
    · rfl
  · rfl

/-- A read at the owner that refreshes a copy changes no byte that is read there. -/
theorem State.homeAt_l2Refresh (s : State) (pa n a : Nat) (h : pa % 128 + n ≤ 128) : (s.l2Refresh pa (s.readHome true pa n)).homeAt true a = s.homeAt true a := by
  unfold State.l2Refresh
  cases hf : s.l2Find pa with
  | none => rfl
  | some l =>
    have hl := List.find?_some hf
    simp only [Bool.and_eq_true, decide_eq_true_eq] at hl
    have find := State.l2Find_put (s := s) (l := { l with data := setLineBytes l.data (pa % 128) (s.readHome true pa n) }) hl.1 hl.2 a
    dsimp only
    rw [State.homeAt_copy, find, State.homeAt_copy]
    change (if s.l2Held a = true then _ else _) = _
    split
    · rename_i hh
      by_cases hc : a / 128 = pa / 128
      · rw [if_pos hc, State.l2Find_line hc, hf]
        simp only [copyByte, Bool.true_and]
        cases hd : l.dirty.getLsbD (a % 128) with
        | false => rfl
        | true =>
          simp only [Bool.not_true, Bool.false_eq_true, if_false]
          rw [lineByte_setLineBytes _ _ _ _ (by omega), State.readHome_eq _ _ _ _ h]
          split
          · rename_i hi
            rw [List.length_map, List.length_range] at hi
            have value : s.homeAt true (pa + (a % 128 - pa % 128)) = lineByte l.data (a % 128) := by
              rw [show pa + (a % 128 - pa % 128) = a by omega, State.homeAt_copy, hh, if_pos rfl, State.l2Find_line hc, hf]
              simp [copyByte, hd]
            simp only [List.getD_eq_getElem?_getD, List.getElem?_map, List.getElem?_range (show a % 128 - pa % 128 < n by omega), Option.map_some, Option.getD_some]
            exact value
          · rfl
      · rw [if_neg hc]
    · rfl

end Sys2Proof.Machine
end

section
/-! PROOF. Reads and writes as they are performed (07 R180 to R182, R199; 13 R308): what an access reads is what its core sees, and what it writes is seen. -/
namespace Sys2Proof.Machine

/-! ### L1 after a line is put or dropped -/

section
variable {s : State} {core x va : Nat}

theorem State.l1Find_of {l : L1Line} (h : s.l1Find core x va = some l) : l ∈ (s.coreAt core).l1 ∧ l.ctx = x ∧ l.va = va / 128 * 128 := by
  have := List.find?_some h
  simp only [Bool.and_eq_true, decide_eq_true_eq] at this
  exact ⟨List.mem_of_find?_eq_some h, this⟩

theorem State.l1Find_l1Put (s : State) (core x va : Nat) (l : L1Line) :
    (s.l1Put core l).l1Find core x va = if l.ctx = x ∧ l.va = va / 128 * 128 then some l else s.l1Find core x va := by
  unfold State.l1Find State.l1Put
  rw [State.coreAt_modCore, if_pos rfl]
  dsimp only
  rw [List.find?_cons]
  by_cases h : l.ctx = x ∧ l.va = va / 128 * 128
  · simp [h]
  · rw [if_neg h, show (decide (l.ctx = x) && decide (l.va = va / 128 * 128)) = false by simpa using h]
    simp only [List.find?_filter]
    congr 1
    funext k
    by_cases hk : k.ctx = x ∧ k.va = va / 128 * 128
    · obtain ⟨h1, h2⟩ := hk
      simp only [h1, h2, decide_true, Bool.and_true]
      have : ¬ x = l.ctx ∨ ¬ va / 128 * 128 = l.va := Classical.not_and_iff_not_or_not.mp fun e => h ⟨e.1.symm, e.2.symm⟩
      simpa using this
    · simp only [show (decide (k.ctx = x) && decide (k.va = va / 128 * 128)) = false by simpa using hk, Bool.false_eq_true, and_false, decide_false]

theorem State.l1Find_l1Drop (s : State) (core x va va' : Nat) :
    (s.l1Drop core x va).l1Find core x va' = if va' / 128 = va / 128 then none else s.l1Find core x va' := by
  unfold State.l1Find State.l1Drop
  rw [State.coreAt_modCore, if_pos rfl]
  dsimp only
  rw [List.find?_filter]
  split
  · rename_i h
    rw [h]
    refine List.find?_eq_none.mpr fun k _ hk => ?_
    cases h1 : decide (k.ctx = x) <;> cases h2 : decide (k.va = va / 128 * 128) <;> simp_all
  · rename_i h
    congr 1
    funext k
    by_cases hk : k.ctx = x ∧ k.va = va' / 128 * 128
    · have : ¬ (va' / 128 * 128 = va / 128 * 128) := by omega
      simp [hk.1, hk.2, this]
    · simp only [show (decide (k.ctx = x) && decide (k.va = va' / 128 * 128)) = false by simpa using hk, Bool.false_eq_true, and_false, decide_false]

/-- A current line is found as it stands. -/
theorem State.l1Lookup_plain (h : s.plainL1 core x) (sup : Bool) : s.l1Lookup core x va sup = (s.l1Find core x va, s) := by
  unfold State.l1Lookup
  cases hf : s.l1Find core x va with
  | none => rfl
  | some l =>
    obtain ⟨hm, hx, _⟩ := State.l1Find_of hf
    simp only [(h.1 l hm hx).1, if_true]

end

theorem State.homeAt_modCore (s : State) (c : Nat) (f : Core → Core) (o : Bool) (a : Nat) : (s.modCore c f).homeAt o a = s.homeAt o a := rfl
theorem State.homeAt_l1Put (s : State) (c : Nat) (l : L1Line) (o : Bool) (a : Nat) : (s.l1Put c l).homeAt o a = s.homeAt o a := rfl
theorem State.homeAt_l1Drop (s : State) (c x va : Nat) (o : Bool) (a : Nat) : (s.l1Drop c x va).homeAt o a = s.homeAt o a := rfl

/-! ### What a core sees -/

/-- Is the byte `i` of a line of L1 what an access finds, whatever the home holds? -/
def How.sees (h : How) (l : L1Line) (i : Nat) : Bool := (h.narrow && decide (h.pol ≠ 2) && !l.held) || l.dirty.getLsbD i

/-- The byte at `pa`, where L1 holds `f` and the home `b`. -/
def How.pick (h : How) (f : Option L1Line) (pa : Nat) (b : Byte) : Byte :=
  match f with
  | some l => if h.sees l (pa % 128) then lineByte l.data (pa % 128) else b
  | none => b

theorem State.seen_eq (s : State) (h : How) (va pa : Nat) : s.seen h va pa = h.pick (s.l1Find h.core h.ctx va) pa (s.homeAt h.owner pa) := by
  unfold State.seen How.pick
  cases s.l1Find h.core h.ctx va <;> rfl

/-! ### Reads -/

section
variable {s : State} {h : How} {va pa n : Nat} {l : L1Line}

/-- The state after a read that hits in L1. -/
def State.readHit (s : State) (h : How) (va : Nat) (l : L1Line) : State :=
  if h.pol = 4 ∧ l.dirty = 0 then s.l1Drop h.core h.ctx va else if h.pol = 1 ∨ h.pol = 3 then s.l1Put h.core { l with pol := h.pol } else s

theorem readGlobal_hit (hp : s.plainL1 h.core h.ctx) (hf : s.l1Find h.core h.ctx va = some l) (hn : h.narrow = true) (hh : l.held = false) (h2 : h.pol ≠ 2) :
    s.readGlobal h va pa n = ((lineBytes l.data (pa % 128) n, l.poisoned (pa % 128) n), s.readHit h va l) := by
  simp only [State.readGlobal, State.l1Lookup_plain hp, hf, State.polOf, hh, hn, h2, State.readHit, Bool.false_eq_true, if_false, ne_eq, not_false_eq_true,
    decide_true, Bool.and_true, if_true, Bool.and_eq_true, Bool.or_eq_true, decide_eq_true_eq]

/-- The state after a read that misses in L1 and takes its line. -/
def State.readMiss (s : State) (h : How) (va pa : Nat) : State :=
  if h.pol = 4 then s.l2Touch pa else (s.l2Touch pa).l1Put h.core ((s.l2Touch pa).homeLine h.core h.ctx va pa h.pol h.path)

theorem readGlobal_miss (hp : s.plainL1 h.core h.ctx) (hf : s.l1Find h.core h.ctx va = none) (hn : h.narrow = true) (hw : s.noWay h.core va = false) (h2 : h.pol ≠ 2) :
    s.readGlobal h va pa n = ((lineBytes ((s.l2Touch pa).homeLine h.core h.ctx va pa h.pol h.path).data (pa % 128) n,
      ((s.l2Touch pa).homeLine h.core h.ctx va pa h.pol h.path).poisoned (pa % 128) n), s.readMiss h va pa) := by
  simp only [State.readGlobal, State.l1Lookup_plain hp, hf, State.polOf, hw, hn, h2, State.readMiss, Bool.false_eq_true, if_false, ne_eq, not_false_eq_true,
    decide_true, Bool.and_true, if_true]

/-- The bytes of a read at the home slice or at the owner, and the state that it leaves there. -/
def State.readAtHome (s : State) (h : How) (pa n : Nat) : List Byte := (if h.owner then s else s.l2Touch pa).readHome h.owner pa n
def State.afterHome (s : State) (h : How) (pa n : Nat) : State := if h.owner then s.l2Refresh pa (s.readAtHome h pa n) else s.l2Touch pa

theorem readGlobal_home (hp : s.plainL1 h.core h.ctx) (hw : h.narrow = false ∨ s.polOf h va (s.l1Find h.core h.ctx va) = 2) :
    ∃ p, s.readGlobal h va pa n = ((mergeDirty (s.l1Find h.core h.ctx va) (pa % 128) (s.readAtHome h pa n), p),
      match s.l1Find h.core h.ctx va with
      | some l => (s.afterHome h pa n).l1Put h.core (l.refresh (pa % 128) (mergeDirty (some l) (pa % 128) (s.readAtHome h pa n)) ((s.afterHome h pa n).linePoison pa))
      | none => s.afterHome h pa n) := by
  have home : ¬ ((h.narrow && decide (s.polOf h va (s.l1Find h.core h.ctx va) ≠ 2)) = true) := by
    rcases hw with k | k <;> simp [k]
  unfold State.readGlobal
  simp only [State.l1Lookup_plain hp, if_neg home]
  refine ⟨_, Prod.ext (Prod.ext ?_ rfl) ?_⟩
  · cases ho : h.owner <;> simp [State.readAtHome, ho]
  · cases hf : s.l1Find h.core h.ctx va <;> cases ho : h.owner <;> simp [State.readAtHome, State.afterHome, ho]

/-- The branch of a read: a hit in L1, a miss that takes its line, or the home slice. -/
theorem read_branches (s : State) (h : How) (va : Nat) :
    (∃ l, s.l1Find h.core h.ctx va = some l ∧ h.narrow = true ∧ l.held = false ∧ h.pol ≠ 2)
      ∨ (s.l1Find h.core h.ctx va = none ∧ h.narrow = true ∧ s.noWay h.core va = false ∧ h.pol ≠ 2)
      ∨ (h.narrow = false ∨ s.polOf h va (s.l1Find h.core h.ctx va) = 2) := by
  cases hn : h.narrow with
  | false => exact .inr (.inr (.inl rfl))
  | true =>
    cases hf : s.l1Find h.core h.ctx va with
    | none =>
      cases hw : s.noWay h.core va with
      | true => exact .inr (.inr (.inr (by simp [State.polOf, hw])))
      | false =>
        by_cases h2 : h.pol = 2
        · exact .inr (.inr (.inr (by simp [State.polOf, hw, h2])))
        · exact .inr (.inl ⟨rfl, rfl, rfl, h2⟩)
    | some l =>
      cases hl : l.held with
      | true => exact .inr (.inr (.inr (by simp [State.polOf, hl])))
      | false =>
        by_cases h2 : h.pol = 2
        · exact .inr (.inr (.inr (by simp [State.polOf, hl, h2])))
        · exact .inl ⟨l, rfl, rfl, hl, h2⟩

/-- At the home slice an access sees its core's dirty bytes alone. -/
theorem sees_at_home {h : How} {l : L1Line} {f : Option L1Line} (hf : f = some l) (hw : h.narrow = false ∨ s.polOf h va f = 2) (i : Nat) :
    h.sees l i = l.dirty.getLsbD i := by
  unfold How.sees
  rcases hw with k | k
  · simp [k]
  · cases hl : l.held
    · have : h.pol = 2 := by simpa [State.polOf, hf, hl] using k
      simp [this]
    · simp

theorem State.readAtHome_eq (s : State) (h : How) (hb : pa % 128 + n ≤ 128) : s.readAtHome h pa n = (List.range n).map (fun j => s.homeAt h.owner (pa + j)) := by
  unfold State.readAtHome
  split
  · exact s.readHome_eq _ _ _ hb
  · rw [State.readHome_eq _ _ _ _ hb]
    exact List.map_congr_left fun j _ => s.homeAt_l2Touch _ _ _

theorem State.homeLine_byte (s : State) (core x va pa pol : Nat) (path : List Nat) (j : Nat) (hj : j < 128) :
    lineByte (s.homeLine core x va pa pol path).data j = s.homeAt false (pa / 128 * 128 + j) := by
  show lineByte (setLineBytes 0 0 (s.homeRead (pa / 128 * 128) 128)) j = _
  rw [lineByte_setLineBytes _ _ _ _ hj, State.homeRead_eq, List.length_map, List.length_range, if_pos (by omega)]
  simp [List.getD_eq_getElem?_getD, List.getElem?_range hj, State.homeAt, State.readHome, State.homeRead]

theorem mergeDirty_getD (f : Option L1Line) (off : Nat) (bs : List Byte) (j : Nat) (hj : j < bs.length) :
    (mergeDirty f off bs).getD j 0 = match f with
      | some l => if l.dirty.getLsbD (off + j) then lineByte l.data (off + j) else bs.getD j 0
      | none => bs.getD j 0 := by
  unfold mergeDirty
  cases f with
  | none => rfl
  | some l => simp [List.getD_eq_getElem?_getD, List.getElem?_range hj]

theorem mergeDirty_length (f : Option L1Line) (off : Nat) (bs : List Byte) : (mergeDirty f off bs).length = bs.length := by
  unfold mergeDirty; split <;> simp

/-- What an access at the home slice merges is what its core sees. -/
theorem mergeDirty_seen (hb : pa % 128 + n ≤ 128) (hw : h.narrow = false ∨ s.polOf h va (s.l1Find h.core h.ctx va) = 2) :
    mergeDirty (s.l1Find h.core h.ctx va) (pa % 128) (s.readAtHome h pa n) = (List.range n).map (fun j => s.seen h va (pa + j)) := by
  rw [s.readAtHome_eq h hb]
  refine List.ext_getElem? fun j => ?_
  by_cases hj : j < n
  · have get : ∀ (xs : List Byte), j < xs.length → xs[j]? = some (xs.getD j 0) := fun xs hx => by simp [List.getD_eq_getElem?_getD, hx]
    rw [get _ (by simp [mergeDirty_length, hj]), get _ (by simp [hj]), mergeDirty_getD _ _ _ _ (by simp [hj])]
    simp only [List.getD_eq_getElem?_getD, List.getElem?_map, List.getElem?_range hj, Option.map_some, Option.getD_some, State.seen_eq]
    cases hf : s.l1Find h.core h.ctx va with
    | none => rfl
    | some l =>
      rw [show pa % 128 + j = (pa + j) % 128 by omega]
      simp only [How.pick, sees_at_home rfl (hf ▸ hw)]
  · rw [List.getElem?_eq_none (by simp [mergeDirty_length]; omega), List.getElem?_eq_none (by simp; omega)]

theorem readGlobal_bytes (hp : s.plainL1 h.core h.ctx) (ho : h.narrow = true → h.owner = false) (hb : pa % 128 + n ≤ 128) :
    (s.readGlobal h va pa n).1.1 = (List.range n).map (fun j => s.seen h va (pa + j)) := by
  rcases read_branches s h va with ⟨l, hf, hn, hl, h2⟩ | ⟨hf, hn, hw, h2⟩ | hw
  · rw [readGlobal_hit hp hf hn hl h2]
    refine List.map_congr_left fun j hj => ?_
    have hj := List.mem_range.mp hj
    have sees : h.sees l ((pa + j) % 128) = true := by simp [How.sees, hn, hl, h2]
    rw [State.seen_eq, hf, How.pick, if_pos sees, show (pa + j) % 128 = pa % 128 + j by omega]
  · rw [readGlobal_miss hp hf hn hw h2]
    refine List.map_congr_left fun j hj => ?_
    have hj := List.mem_range.mp hj
    rw [State.seen_eq, hf, How.pick, ho hn, State.homeLine_byte _ _ _ _ _ _ _ _ (by omega), State.homeAt_l2Touch, show pa / 128 * 128 + (pa % 128 + j) = pa + j by omega]
  · obtain ⟨p, e⟩ := readGlobal_home (pa := pa) (n := n) hp hw
    rw [e]
    exact mergeDirty_seen hb hw

/-! ### What a read leaves -/

theorem State.homeAt_afterHome (s : State) (h : How) (hb : pa % 128 + n ≤ 128) (a : Nat) : (s.afterHome h pa n).homeAt h.owner a = s.homeAt h.owner a := by
  unfold State.afterHome
  cases ho : h.owner with
  | true =>
    have e : s.readAtHome h pa n = s.readHome true pa n := by simp [State.readAtHome, ho]
    rw [if_pos rfl, e]
    exact s.homeAt_l2Refresh pa n a hb
  | false => exact s.homeAt_l2Touch _ _ _

theorem State.l1Find_afterHome (s : State) (h : How) (core x va : Nat) : (s.afterHome h pa n).l1Find core x va = s.l1Find core x va := by
  unfold State.afterHome State.l2Refresh State.l2Touch
  split <;> split <;> rfl

theorem State.l1Find_l2Touch (s : State) (core x va : Nat) : (s.l2Touch pa).l1Find core x va = s.l1Find core x va := by
  unfold State.l2Touch
  split <;> rfl

/-- A line put into L1 that shows what was seen before leaves all bytes as they were seen. -/
theorem seen_l1Put {t : State} (hl : l.ctx = h.ctx ∧ l.va = va / 128 * 128) (hf : ∀ v, t.l1Find h.core h.ctx v = s.l1Find h.core h.ctx v)
    (hh : ∀ a, t.homeAt h.owner a = s.homeAt h.owner a)
    (hs : ∀ a, a / 128 = pa / 128 → h.pick (some l) a (s.homeAt h.owner a) = h.pick (s.l1Find h.core h.ctx va) a (s.homeAt h.owner a))
    (va' pa' : Nat) (hv : va' / 128 = va / 128 → pa' / 128 = pa / 128) : (t.l1Put h.core l).seen h va' pa' = s.seen h va' pa' := by
  rw [State.seen_eq, State.seen_eq, State.l1Find_l1Put, State.homeAt_l1Put, hh, hf]
  split
  · rename_i e
    have same : va' / 128 = va / 128 := by omega
    rw [hs pa' (hv same)]
    have : s.l1Find h.core h.ctx va' = s.l1Find h.core h.ctx va := by unfold State.l1Find; rw [same]
    rw [this]
  · rfl

theorem readGlobal_seen (hp : s.plainL1 h.core h.ctx) (ho : h.narrow = true → h.owner = false) (hb : pa % 128 + n ≤ 128) (h4 : h.pol ≠ 4) (va' pa' : Nat)
    (hv : va' / 128 = va / 128 → pa' / 128 = pa / 128) : (s.readGlobal h va pa n).2.seen h va' pa' = s.seen h va' pa' := by
  rcases read_branches s h va with ⟨l, hf, hn, hl, h2⟩ | ⟨hf, hn, hw, h2⟩ | hw
  · rw [readGlobal_hit hp hf hn hl h2]
    obtain ⟨_, hx, hlv⟩ := State.l1Find_of hf
    unfold State.readHit
    rw [if_neg (fun e => h4 e.1)]
    split
    · exact seen_l1Put (va := va) (pa := pa) (l := { l with pol := h.pol }) ⟨hx, hlv⟩ (fun _ => rfl) (fun _ => rfl) (fun a _ => by rw [hf]; rfl) _ _ hv
    · rfl
  · rw [readGlobal_miss hp hf hn hw h2]
    unfold State.readMiss
    rw [if_neg h4]
    refine seen_l1Put (va := va) (pa := pa) ⟨rfl, rfl⟩ (fun _ => State.l1Find_l2Touch _ _ _ _) (fun _ => State.homeAt_l2Touch _ _ _ _) (fun a ha => ?_) _ _ hv
    have sees : h.sees ((s.l2Touch pa).homeLine h.core h.ctx va pa h.pol h.path) (a % 128) = true := by simp [How.sees, hn, h2, State.homeLine]
    rw [hf, How.pick, if_pos sees, State.homeLine_byte _ _ _ _ _ _ _ _ (by omega), State.homeAt_l2Touch, ho hn, show pa / 128 * 128 + a % 128 = a by omega]
    rfl
  · obtain ⟨p, e⟩ := readGlobal_home (pa := pa) (n := n) hp hw
    rw [e]
    have merged := mergeDirty_seen (n := n) hb hw
    cases hf : s.l1Find h.core h.ctx va with
    | none =>
      dsimp only
      rw [State.seen_eq, State.seen_eq, State.l1Find_afterHome, State.homeAt_afterHome s h hb]
    | some l =>
      obtain ⟨_, hx, hlv⟩ := State.l1Find_of hf
      rw [hf] at hw merged
      refine seen_l1Put (va := va) (pa := pa) (l := l.refresh (pa % 128) (mergeDirty (some l) (pa % 128) (s.readAtHome h pa n)) ((s.afterHome h pa n).linePoison pa))
        ⟨hx, hlv⟩ (fun _ => State.l1Find_afterHome s h _ _ _) (State.homeAt_afterHome s h hb) (fun a ha => ?_) _ _ hv
      have sees : ∀ i, h.sees (l.refresh (pa % 128) (mergeDirty (some l) (pa % 128) (s.readAtHome h pa n)) ((s.afterHome h pa n).linePoison pa)) i = h.sees l i := fun _ => rfl
      rw [hf]
      simp only [How.pick, sees, sees_at_home rfl hw]
      split
      · rename_i hd
        rw [merged, L1Line.refresh, lineByte_setLineBytes _ _ _ _ (by omega), List.length_map, List.length_range]
        split
        · rename_i hi
          have hj : a % 128 - pa % 128 < n := by omega
          simp only [List.getD_eq_getElem?_getD, List.getElem?_map, List.getElem?_range hj, Option.map_some, Option.getD_some]
          rw [show pa + (a % 128 - pa % 128) = a by omega, State.seen_eq, hf, How.pick, sees_at_home rfl hw, if_pos hd]
        · rfl
      · rfl

theorem readGlobal_frame (hp : s.plainL1 h.core h.ctx) : let r := s.readGlobal h va pa n; r.2 = { s with cores := r.2.cores, l2 := r.2.l2 } := by
  have touch : ∀ t : State, t.l2Touch pa = { t with l2 := (t.l2Touch pa).l2 } := fun t => by unfold State.l2Touch; split <;> rfl
  have after : s.afterHome h pa n = { s with l2 := (s.afterHome h pa n).l2 } := by
    unfold State.afterHome State.l2Refresh State.l2Touch
    split <;> split <;> rfl
  intro r
  rcases read_branches s h va with ⟨l, hf, hn, hl, h2⟩ | ⟨hf, hn, hw, h2⟩ | hw
  · simp only [r]
    rw [readGlobal_hit hp hf hn hl h2]
    unfold State.readHit
    split
    · rfl
    · split <;> rfl
  · simp only [r]
    rw [readGlobal_miss hp hf hn hw h2]
    unfold State.readMiss
    split
    · dsimp only
      rw [touch s]
    · have := touch s
      dsimp only
      generalize s.l2Touch pa = t at this
      rw [this]
      rfl
  · obtain ⟨p, e⟩ := readGlobal_home (pa := pa) (n := n) hp hw
    simp only [r]
    rw [e]
    dsimp only
    generalize s.afterHome h pa n = t at after
    split
    · rw [after]; rfl
    · rw [after]

end

end Sys2Proof.Machine
end

section
/-! PROOF. Writes, indivisible reads and writes, and the maintenance of a line (07 R180 to R182, R193 to R196, R211). -/
namespace Sys2Proof.Machine

section
variable {s : State} {h : How} {va pa n : Nat} {l : L1Line} {bs : List Byte}

/-! ### The three ways of a write -/

/-- The policy of a write: a wide one goes through. -/
def State.writePol (s : State) (h : How) (va : Nat) : Nat := if h.narrow then s.polOf h va (s.l1Find h.core h.ctx va) else 2

/-- The state in which a write through the L1 goes home. -/
def State.throughL1 (s : State) (h : How) (va pa : Nat) (bs : List Byte) : State :=
  match s.l1Find h.core h.ctx va with
  | some l => s.l1Put h.core (l.through (pa % 128) bs)
  | none => s

/-- The state in which a write around the L1 goes home. -/
def State.aroundL1 (s : State) (h : How) (va pa : Nat) (bs : List Byte) : State :=
  match s.l1Find h.core h.ctx va with
  | some l => (s.putDirty (l.through (pa % 128) bs)).l1Drop h.core h.ctx va
  | none => s

/-- The line that a write into the L1 leaves there, and the state that it goes into. -/
def State.storedLine (s : State) (h : How) (va pa : Nat) (bs : List Byte) : L1Line :=
  match s.l1Find h.core h.ctx va with
  | some l => l.store (pa % 128) bs h.pc h.pol
  | none => ((s.l2Touch pa).homeLine h.core h.ctx va pa h.pol h.path).store (pa % 128) bs h.pc h.pol

def State.storedIn (s : State) (h : How) (va pa : Nat) : State :=
  match s.l1Find h.core h.ctx va with
  | some _ => s
  | none => s.l2Touch pa

theorem writeGlobal_eq (hp : s.plainL1 h.core h.ctx) : s.writeGlobal h va pa bs =
    if s.writePol h va = 2 then (s.throughL1 h va pa bs).putHome h pa bs
    else if s.writePol h va = 4 then (s.aroundL1 h va pa bs).putHome h pa bs
    else (s.storedIn h va pa).l1Put h.core (s.storedLine h va pa bs) := by
  simp only [State.writeGlobal, State.l1Lookup_plain hp]
  change (if s.writePol h va = 2 then _ else if s.writePol h va = 4 then _ else _) = _
  unfold State.throughL1 State.aroundL1 State.storedIn State.storedLine
  cases s.l1Find h.core h.ctx va <;> rfl

theorem State.onlyHome.chain {s t : State} (h : s.onlyHome t) (c : Nat) : t.chain c = s.chain c := by
  unfold State.onlyHome at h; rw [h]; rfl

/-- Bytes that go home are written there, and nothing else happens. -/
theorem State.putHome_plain (hc : ∀ c ∈ s.chain h.ctx, (s.ctxAt c).dirtyMap = none) : s.putHome h pa bs = s.homeWrite pa bs h.owner := by
  have fr := s.homeWrite_onlyHome pa bs h.owner
  refine State.trackPath_off _ _ _ fun c hm => ?_
  rw [fr.ctxAt]
  exact hc c hm

/-! ### What stands at the home slice after a line's write-back -/

/-- `t` is `s` but for bytes `v j` at `pa + j` for the `j` of `d`, as reads at the home slice and at the owner see them. -/
def State.ShowsAt (s t : State) (pa : Nat) (d : Nat → Prop) (v : Nat → Byte) : Prop :=
  (∀ o j, d j → t.homeAt o (pa + j) = v j) ∧ ∀ o a, (∀ j, d j → pa + j ≠ a) → t.homeAt o a = s.homeAt o a

namespace State.ShowsAt

variable {t u : State} {d e : Nat → Prop} {v : Nat → Byte}

theorem none (s : State) (pa : Nat) (v : Nat → Byte) : s.ShowsAt s pa (fun _ => False) v := ⟨fun _ _ h => h.elim, fun _ _ _ => rfl⟩

theorem trans (a : s.ShowsAt t pa d v) (b : t.ShowsAt u pa e v) : s.ShowsAt u pa (fun j => d j ∨ e j) v := by
  refine ⟨fun o j h => ?_, fun o x h => ?_⟩
  · by_cases k : e j
    · exact b.1 o j k
    · rw [b.2 o _ fun i hi he => k (by rwa [← Nat.add_left_cancel he])]
      exact a.1 o j (h.resolve_right k)
  · rw [b.2 o x fun j k => h j (.inr k), a.2 o x fun j k => h j (.inl k)]

end State.ShowsAt

theorem showsAt_lineWrites {l : L1Line} (hl : l.pa % 128 = 0) : LineWrites l (fun s t d => s.ShowsAt t l.pa d (lineByte l.data)) where
  none s := .none s _ _
  trans a b := a.trans b
  write s k bs hk hb hv := by
    have read := fun o a => s.homeAt_homeWrite (l.pa + k) bs false o a (by omega)
    refine ⟨fun o j hj => ?_, fun o a ha => ?_⟩
    · rw [read, if_pos (by omega), show l.pa + j - (l.pa + k) = j - k by omega, hv _ (by omega), show k + (j - k) = j by omega]
    · rw [read, if_neg]
      exact fun hi => ha (a - l.pa) (by omega) (by omega)
  poison _ a := a

theorem State.putDirty_shows (s : State) (l : L1Line) (hl : l.pa % 128 = 0) (h : ∀ c ∈ s.chain l.ctx, (s.ctxAt c).dirtyMap = none) :
    s.ShowsAt (s.putDirty l) l.pa l.dirtyAt (lineByte l.data) := (showsAt_lineWrites hl).putDirty s (s.putWords_untracked l h)

/-! ### What is seen and what memory holds after a write -/

theorem State.homeWrite_l1Find (s : State) (a : Nat) (bs : List Byte) (o : Bool) (core x va : Nat) : (s.homeWrite a bs o).l1Find core x va = s.l1Find core x va := by
  unfold State.l1Find
  rw [(s.homeWrite_onlyHome a bs o).coreAt]

theorem mem_homeWrite_out (s : State) (o : Bool) {a : Nat} (ha : a < pa ∨ pa + bs.length ≤ a) :
    Sparse.get (s.homeWrite pa bs o).mem a = Sparse.get s.mem a := by
  rcases s.homeWrite_get pa bs o a with e | e
  · exact e
  · rw [e, if_neg (by omega)]

theorem mem_homeWrite_in (s : State) (o : Bool) (hb : bs ≠ []) (hl : ∀ j, j < bs.length → s.l2Held (pa + j) = false) (j : Nat) (hj : j < bs.length) :
    Sparse.get (s.homeWrite pa bs o).mem (pa + j) = bs.getD j 0 := by
  have here : s.l2Held pa = false := by have := hl 0 (List.length_pos_iff.mpr hb); rwa [Nat.add_zero] at this
  rw [s.homeWrite_here _ _ _ here, State.memWrite_get, if_pos (by omega), show pa + j - pa = j by omega]

/-- What a write that goes home, after the L1 has been changed to `t`, leaves. -/
theorem putHome_writes {t : State} (hb : bs ≠ []) (hn : pa % 128 + bs.length ≤ 128) (hc : ∀ c ∈ t.chain h.ctx, (t.ctxAt c).dirtyMap = none) :
    (∀ j, j < bs.length → (t.putHome h pa bs).homeAt h.owner (pa + j) = bs.getD j 0)
      ∧ (∀ v, (t.putHome h pa bs).l1Find h.core h.ctx v = t.l1Find h.core h.ctx v)
      ∧ (∀ a, a < pa ∨ pa + bs.length ≤ a → Sparse.get (t.putHome h pa bs).mem a = Sparse.get t.mem a)
      ∧ ((∀ j, j < bs.length → t.l2Held (pa + j) = false) → ∀ j, j < bs.length → Sparse.get (t.putHome h pa bs).mem (pa + j) = bs.getD j 0) := by
  rw [State.putHome_plain hc]
  refine ⟨fun j hj => ?_, fun v => t.homeWrite_l1Find _ _ _ _ _ _, fun a ha => mem_homeWrite_out t _ ha, fun hl j hj => mem_homeWrite_in t _ hb hl j hj⟩
  rw [t.homeAt_homeWrite _ _ _ _ _ hn, if_pos (by omega), show pa + j - pa = j by omega]

/-- What a write makes seen, and what it does to memory. -/
structure State.Wrote (s t : State) (h : How) (va pa : Nat) (bs : List Byte) : Prop where
  seen : ∀ j, j < bs.length → t.seen h va (pa + j) = bs.getD j 0
  out : ∀ a, a < pa ∨ pa + bs.length ≤ a →
    (h.narrow = true → h.pol = 4 → ∀ l, s.l1Find h.core h.ctx va = some l → ∀ j, l.dirtyAt j → l.pa + j ≠ a) → Sparse.get t.mem a = Sparse.get s.mem a
  kept : h.narrow = true → s.polOf h va (s.l1Find h.core h.ctx va) ≠ 2 → h.pol ≠ 4 → t.mem = s.mem
  home : h.narrow = false ∨ s.polOf h va (s.l1Find h.core h.ctx va) = 2 ∨ h.pol = 4 → (∀ j, j < bs.length → s.l2Held (pa + j) = false) →
    ∀ j, j < bs.length → Sparse.get t.mem (pa + j) = bs.getD j 0

theorem polOf_two_or (s : State) (h : How) (va : Nat) (f : Option L1Line) : s.polOf h va f = 2 ∨ s.polOf h va f = h.pol := by
  unfold State.polOf
  split <;> split <;> simp

theorem through_writes (hp : s.plainL1 h.core h.ctx) (hb : bs ≠ []) (hn : pa % 128 + bs.length ≤ 128) (hw : s.writePol h va = 2) :
    s.Wrote ((s.throughL1 h va pa bs).putHome h pa bs) h va pa bs := by
  have home : h.narrow = false ∨ s.polOf h va (s.l1Find h.core h.ctx va) = 2 := by
    unfold State.writePol at hw
    cases hr : h.narrow with
    | false => exact .inl rfl
    | true => rw [hr] at hw; exact .inr hw
  have mem : (s.throughL1 h va pa bs).mem = s.mem := by unfold State.throughL1; split <;> rfl
  have held : ∀ a, (s.throughL1 h va pa bs).l2Held a = s.l2Held a := fun a => by unfold State.throughL1; split <;> rfl
  have chain : ∀ c ∈ (s.throughL1 h va pa bs).chain h.ctx, ((s.throughL1 h va pa bs).ctxAt c).dirtyMap = none := by
    unfold State.throughL1; split <;> exact hp.2
  obtain ⟨h1, h2, h3, h4⟩ := putHome_writes hb hn chain
  refine ⟨fun j hj => ?_, fun a ha _ => by rw [h3 a ha, mem], fun hr h2 => ?_, fun _ hl j hj => h4 (fun i hi => by rw [held, hl i hi]) j hj⟩
  · rw [State.seen_eq, h1 j hj, h2]
    cases hf : s.l1Find h.core h.ctx va with
    | none =>
      have e : s.throughL1 h va pa bs = s := by unfold State.throughL1; rw [hf]
      rw [e, hf]
      rfl
    | some l =>
      obtain ⟨_, hx, hv⟩ := State.l1Find_of hf
      have e : s.throughL1 h va pa bs = s.l1Put h.core (l.through (pa % 128) bs) := by unfold State.throughL1; rw [hf]
      rw [e, State.l1Find_l1Put, if_pos ⟨hx, hv⟩]
      have clean : h.sees (l.through (pa % 128) bs) ((pa + j) % 128) = false := by
        rw [hf] at home
        rw [sees_at_home (s := s) (va := va) (f := some (l.through (pa % 128) bs)) rfl home]
        simp only [L1Line.through, BitVec.getLsbD_and, BitVec.getLsbD_not, dirtyBits_getLsbD _ _ _ hn]
        rw [show decide (pa % 128 ≤ (pa + j) % 128 ∧ (pa + j) % 128 < pa % 128 + bs.length) = true from decide_eq_true (by omega)]
        simp
      simp only [How.pick, clean, Bool.false_eq_true, if_false]
  · rcases home with k | k
    · simp [k] at hr
    · exact absurd k h2

theorem around_writes (hp : s.plainL1 h.core h.ctx) (hb : bs ≠ []) (hn : pa % 128 + bs.length ≤ 128) (hw : s.writePol h va = 4) :
    s.Wrote ((s.aroundL1 h va pa bs).putHome h pa bs) h va pa bs := by
  obtain ⟨hr, h4⟩ : h.narrow = true ∧ h.pol = 4 := by
    unfold State.writePol at hw
    cases hr : h.narrow with
    | false => rw [hr] at hw; simp at hw
    | true =>
      rw [hr, if_pos rfl] at hw
      refine ⟨rfl, ?_⟩
      rcases polOf_two_or s h va (s.l1Find h.core h.ctx va) with k | k
      · omega
      · omega
  cases hf : s.l1Find h.core h.ctx va with
  | none =>
    have e : s.aroundL1 h va pa bs = s := by unfold State.aroundL1; rw [hf]
    rw [e]
    obtain ⟨h1, h2, h3, h5⟩ := putHome_writes hb hn hp.2
    refine ⟨fun j hj => ?_, fun a ha _ => h3 a ha, fun _ _ hne => absurd h4 hne, fun _ hl => h5 hl⟩
    rw [State.seen_eq, h1 j hj, h2, hf]
    rfl
  | some l =>
    obtain ⟨_, hx, hv⟩ := State.l1Find_of hf
    have e : s.aroundL1 h va pa bs = (s.putDirty (l.through (pa % 128) bs)).l1Drop h.core h.ctx va := by unfold State.aroundL1; rw [hf]
    have put := s.putDirty_puts (l.through (pa % 128) bs) (by rw [show (l.through (pa % 128) bs).ctx = h.ctx from hx]; exact hp.2)
    rw [e]
    have chain : ∀ c ∈ ((s.putDirty (l.through (pa % 128) bs)).l1Drop h.core h.ctx va).chain h.ctx,
        (((s.putDirty (l.through (pa % 128) bs)).l1Drop h.core h.ctx va).ctxAt c).dirtyMap = none := by
      intro c hc
      have fr := put.frame
      show ((s.putDirty (l.through (pa % 128) bs)).ctxAt c).dirtyMap = none
      rw [fr.ctxAt]
      refine hp.2 c ?_
      change c ∈ (s.putDirty (l.through (pa % 128) bs)).chain h.ctx at hc
      rwa [fr.chain] at hc
    obtain ⟨h1, h2, h3, h5⟩ := putHome_writes hb hn chain
    refine ⟨fun j hj => ?_, fun a ha hd => ?_, fun _ _ hne => absurd h4 hne, fun _ hl => h5 fun j hj => ?_⟩
    · rw [State.seen_eq, h1 j hj, h2, State.l1Find_l1Drop, if_pos rfl]
      rfl
    · rw [h3 a ha]
      refine put.miss a fun j hj => hd hr h4 l hf j ?_
      refine ⟨hj.1, ?_⟩
      have := hj.2
      simp only [L1Line.through, BitVec.getLsbD_and, Bool.and_eq_true] at this
      exact this.1
    · exact (put.frame.l2Held _).trans (hl j hj)

theorem stored_writes (hn : pa % 128 + bs.length ≤ 128) (h2 : s.writePol h va ≠ 2) (h4 : s.writePol h va ≠ 4) :
    s.Wrote ((s.storedIn h va pa).l1Put h.core (s.storedLine h va pa bs)) h va pa bs := by
  obtain ⟨hr, hp⟩ : h.narrow = true ∧ s.writePol h va = s.polOf h va (s.l1Find h.core h.ctx va) := by
    unfold State.writePol at h2 ⊢
    cases hr : h.narrow with
    | false => rw [hr] at h2; exact absurd rfl h2
    | true => exact ⟨rfl, rfl⟩
  rw [hp] at h2 h4
  have pol : h.pol ≠ 4 := by
    rcases polOf_two_or s h va (s.l1Find h.core h.ctx va) with k | k
    · exact absurd k h2
    · rwa [← k]
  have mem : ((s.storedIn h va pa).l1Put h.core (s.storedLine h va pa bs)).mem = s.mem := by
    unfold State.storedIn State.l2Touch
    split
    · rfl
    · split <;> rfl
  have place : (s.storedLine h va pa bs).ctx = h.ctx ∧ (s.storedLine h va pa bs).va = va / 128 * 128 := by
    unfold State.storedLine
    cases hf : s.l1Find h.core h.ctx va with
    | none => exact ⟨rfl, rfl⟩
    | some l => exact (State.l1Find_of hf).2
  have bytes : ∃ x d, (s.storedLine h va pa bs).data = setLineBytes x (pa % 128) bs ∧ (s.storedLine h va pa bs).dirty = d ||| dirtyBits (pa % 128) bs.length := by
    unfold State.storedLine
    cases s.l1Find h.core h.ctx va with
    | none => exact ⟨_, _, rfl, rfl⟩
    | some l => exact ⟨_, _, rfl, rfl⟩
  obtain ⟨x, d, hx, hd⟩ := bytes
  refine ⟨fun j hj => ?_, fun a _ _ => by rw [mem], fun _ _ _ => mem, fun hc => ?_⟩
  · have sees : h.sees (s.storedLine h va pa bs) ((pa + j) % 128) = true := by
      rw [How.sees, hd, BitVec.getLsbD_or, dirtyBits_getLsbD _ _ _ hn, decide_eq_true (show pa % 128 ≤ (pa + j) % 128 ∧ (pa + j) % 128 < pa % 128 + bs.length by omega)]
      simp
    rw [State.seen_eq, State.l1Find_l1Put, if_pos place, How.pick, if_pos sees, hx, lineByte_setLineBytes _ _ _ _ (by omega), if_pos (by omega),
      show (pa + j) % 128 - pa % 128 = j by omega]
  · rcases hc with k | k | k
    · simp [k] at hr
    · exact absurd k h2
    · exact absurd k pol

theorem writeGlobal_writes (hp : s.plainL1 h.core h.ctx) (hb : bs ≠ []) (hn : pa % 128 + bs.length ≤ 128) : s.Wrote (s.writeGlobal h va pa bs) h va pa bs := by
  rw [writeGlobal_eq hp]
  split
  · rename_i h2
    exact through_writes hp hb hn h2
  · split
    · rename_i h4
      exact around_writes hp hb hn h4
    · rename_i h2 h4
      exact stored_writes hn h2 h4

end

/-- Settles O17: reads by the three branches of an access, writes by their three ways. -/
theorem readAfterWrite : Obligations.ReadAfterWrite := by
  intro s h va pa hp ho
  refine ⟨fun n hb => ⟨readGlobal_bytes hp ho hb, readGlobal_frame hp, fun h4 va' pa' hv => readGlobal_seen hp ho hb h4 va' pa' hv⟩, fun bs hb hn => ?_⟩
  obtain ⟨h1, h2, h3, h4⟩ := writeGlobal_writes (va := va) (pa := pa) hp hb hn
  exact ⟨h1, h2, h3, h4⟩

end Sys2Proof.Machine
end

section
/-! PROOF. An indivisible read and write, and the maintenance of one line (07 R193, R195, R196, R211). -/
namespace Sys2Proof.Machine

section
variable {s : State} {h : How} {va pa n : Nat} {l : L1Line}

/-! ### The flush before an access at the home slice -/

/-- The state on which a read and write that is indivisible runs: a wide one first brings its core's dirty bytes of the line home. -/
def State.rmwStart (s : State) (h : How) (va : Nat) : State := if h.narrow then s else s.flushLine h va

theorem flushLine_plain (hp : s.plainL1 h.core h.ctx) : s.flushLine h va = match s.l1Find h.core h.ctx va with
    | some l => if l.held then s else (s.putDirty l).l1Drop h.core h.ctx va
    | none => s := by
  unfold State.flushLine
  rw [State.l1Lookup_plain hp]
  cases s.l1Find h.core h.ctx va <;> rfl

/-- The flush moves bytes and changes none that the core sees. -/
theorem rmwStart_seen (hp : s.plainL1 h.core h.ctx) (hl : ∀ l, s.l1Find h.core h.ctx va = some l → l.pa = pa / 128 * 128) {a : Nat} (ha : a / 128 = pa / 128) :
    (s.rmwStart h va).seen h va a = s.seen h va a := by
  unfold State.rmwStart
  cases hr : h.narrow with
  | true => rfl
  | false =>
    rw [if_neg (by decide), flushLine_plain hp]
    cases hf : s.l1Find h.core h.ctx va with
    | none => rfl
    | some l =>
      change (if l.held = true then s else (s.putDirty l).l1Drop h.core h.ctx va).seen h va a = _
      split
      · rfl
      · obtain ⟨_, hx, _⟩ := State.l1Find_of hf
        have line := hl l hf
        have shows := s.putDirty_shows l (by omega) (by rw [hx]; exact hp.2)
        rw [State.seen_eq, State.seen_eq, State.l1Find_l1Drop, if_pos rfl, hf, State.homeAt_l1Drop]
        have at_line : a = l.pa + a % 128 := by omega
        simp only [How.pick, sees_at_home (s := s) (va := va) (f := some l) rfl (.inl hr)]
        split
        · rename_i hd
          conv => lhs; rw [at_line]
          exact shows.1 _ _ ⟨by omega, hd⟩
        · rename_i hd
          exact shows.2 _ _ fun j hj e => hd (by rw [show a % 128 = j by have := hj.1; omega]; exact hj.2)

/-! ### A core whose lines are current -/

theorem State.chainOf_congr {s t : State} (h : t.ctxs = s.ctxs) (n x : Nat) : t.chainOf n x = s.chainOf n x := by
  have ctx : ∀ c, t.ctxAt c = s.ctxAt c := fun c => by unfold State.ctxAt; rw [h]
  induction n generalizing x with
  | zero => rfl
  | succ n ih => rw [State.chainOf, State.chainOf, ctx, ih]

theorem State.plainL1_of {t : State} (hp : s.plainL1 h.core h.ctx) (hd : t.dies = s.dies) (hc : t.ctxs = s.ctxs)
    (hl : ∀ k ∈ (t.coreAt h.core).l1, k.ctx = h.ctx → k ∈ (s.coreAt h.core).l1 ∨ (s.l1Fresh h.core k = true ∧ k.va % 128 = 0)) : t.plainL1 h.core h.ctx := by
  have fresh : ∀ k, t.l1Fresh h.core k = s.l1Fresh h.core k := fun k => by unfold State.l1Fresh State.regionGenOf State.dieAt; rw [hd]
  have ctx : ∀ c, t.ctxAt c = s.ctxAt c := fun c => by unfold State.ctxAt; rw [hc]
  have chain : t.chain h.ctx = s.chain h.ctx := State.chainOf_congr hc 4 h.ctx
  refine ⟨fun k hk hx => ?_, fun c hc => ?_⟩
  · rw [fresh]
    rcases hl k hk hx with hm | hm
    · exact hp.1 k hm hx
    · exact hm
  · rw [ctx]
    exact hp.2 c (chain ▸ hc)

theorem State.l1_l1Put {t : State} {core : Nat} {k : L1Line} (hk : k ∈ ((t.l1Put core l).coreAt core).l1) : k = l ∨ k ∈ (t.coreAt core).l1 := by
  rw [State.l1Put, State.coreAt_modCore, if_pos rfl] at hk
  rcases List.mem_cons.mp hk with e | hm
  · exact .inl e
  · exact .inr (List.mem_filter.mp hm).1

theorem State.l1_l1Drop {t : State} {core x : Nat} {k : L1Line} (hk : k ∈ ((t.l1Drop core x va).coreAt core).l1) : k ∈ (t.coreAt core).l1 := by
  rw [State.l1Drop, State.coreAt_modCore, if_pos rfl] at hk
  exact (List.mem_filter.mp hk).1

/-- A current line that is changed but for its place and stamp, and put back, stays current. -/
theorem State.plainL1_l1Put {t : State} (hp : s.plainL1 h.core h.ctx) (hd : t.dies = s.dies) (hc : t.ctxs = s.ctxs) (hk : t.coreAt h.core = s.coreAt h.core)
    (hl : s.l1Fresh h.core l = true ∧ l.va % 128 = 0) : (t.l1Put h.core l).plainL1 h.core h.ctx :=
  State.plainL1_of hp hd hc fun _ hm _ => (State.l1_l1Put hm).elim (fun e => .inr (e ▸ hl)) fun hm => .inl (hk ▸ hm)

theorem rmwStart_plain (hp : s.plainL1 h.core h.ctx) : (s.rmwStart h va).plainL1 h.core h.ctx := by
  unfold State.rmwStart
  split
  · exact hp
  · rw [flushLine_plain hp]
    split
    · rename_i l hf
      split
      · exact hp
      · obtain ⟨_, hx, _⟩ := State.l1Find_of hf
        have fr := (s.putDirty_puts l (by rw [hx]; exact hp.2)).frame
        refine State.plainL1_of hp ?_ ?_ fun k hk _ => .inl ?_
        · show (s.putDirty l).dies = s.dies
          unfold State.onlyHome at fr; rw [fr]
        · show (s.putDirty l).ctxs = s.ctxs
          unfold State.onlyHome at fr; rw [fr]
        · rw [← fr.coreAt]
          exact State.l1_l1Drop hk
    · exact hp

theorem homeLine_fresh (s t : State) (hd : t.dies = s.dies) (core x va pa pol : Nat) (path : List Nat) :
    s.l1Fresh core (t.homeLine core x va pa pol path) = true ∧ (t.homeLine core x va pa pol path).va % 128 = 0 := by
  have region : regionIndex x (va / 128 * 128) = regionIndex x va := by
    unfold regionIndex
    rw [show va / 128 * 128 / 2 ^ 21 = va / 2 ^ 21 by omega]
  refine ⟨decide_eq_true ?_, Nat.mul_mod_left _ _⟩
  show t.regionGenOf core x va = s.regionGenOf core x (va / 128 * 128)
  unfold State.regionGenOf State.dieAt
  rw [region, hd]

theorem readGlobal_plain (hp : s.plainL1 h.core h.ctx) (h4 : h.pol ≠ 4) : (s.readGlobal h va pa n).2.plainL1 h.core h.ctx := by
  have current : ∀ l, s.l1Find h.core h.ctx va = some l → s.l1Fresh h.core l = true ∧ l.va % 128 = 0 := fun l hf => by
    obtain ⟨hm, hx, _⟩ := State.l1Find_of hf
    exact hp.1 l hm hx
  rcases read_branches s h va with ⟨l, hf, hn, hl, h2⟩ | ⟨hf, hn, hw, h2⟩ | hw
  · rw [readGlobal_hit hp hf hn hl h2]
    unfold State.readHit
    rw [if_neg (fun e => h4 e.1)]
    split
    · exact State.plainL1_l1Put hp rfl rfl rfl (current l hf)
    · exact hp
  · rw [readGlobal_miss hp hf hn hw h2]
    unfold State.readMiss
    rw [if_neg h4]
    have dies : (s.l2Touch pa).dies = s.dies := by unfold State.l2Touch; split <;> rfl
    refine State.plainL1_l1Put hp dies ?_ ?_ (homeLine_fresh s _ dies _ _ _ _ _ _)
    · unfold State.l2Touch; split <;> rfl
    · unfold State.l2Touch; split <;> rfl
  · obtain ⟨p, e⟩ := readGlobal_home (pa := pa) (n := n) hp hw
    have same : (s.afterHome h pa n).dies = s.dies ∧ (s.afterHome h pa n).ctxs = s.ctxs ∧ (s.afterHome h pa n).coreAt h.core = s.coreAt h.core := by
      unfold State.afterHome State.l2Refresh State.l2Touch
      split <;> split <;> exact ⟨rfl, rfl, rfl⟩
    obtain ⟨hd, hc, hk⟩ := same
    rw [e]
    dsimp only
    split
    · rename_i l hf
      exact State.plainL1_l1Put hp hd hc hk (current l hf)
    · exact State.plainL1_of hp hd hc fun k hm _ => .inl (hk ▸ hm)

/-! ### The read and write -/

theorem rmwGlobal_acts {f : List Byte → Option (List Byte)} (hp : s.plainL1 h.core h.ctx) (ho : h.narrow = true → h.owner = false) (h0 : 0 < n)
    (hb : pa % 128 + n ≤ 128) (hl : ∀ l, s.l1Find h.core h.ctx va = some l → l.pa = pa / 128 * 128) :
    let k := { h with pol := 0 }
    let r := s.rmwGlobal h va pa n f
    let old := (List.range n).map (fun j => s.seen k va (pa + j))
    r.1.1 = old ∧ (∀ bs, r.1.2 = false → f old = some bs → bs.length = n → ∀ j, j < n → r.2.seen k va (pa + j) = bs.getD j 0)
      ∧ (r.1.2 = true ∨ f old = none → ∀ j, j < n → r.2.seen k va (pa + j) = s.seen k va (pa + j)) := by
  intro k
  have flushed : ∀ j, j < n → (s.rmwStart h va).seen k va (pa + j) = s.seen k va (pa + j) := fun j hj => rmwStart_seen (h := k) hp hl (by omega)
  have plain : (s.rmwStart h va).plainL1 k.core k.ctx := rmwStart_plain hp
  have read : ((s.rmwStart h va).readGlobal k va pa n).1.1 = (List.range n).map (fun j => s.seen k va (pa + j)) := by
    rw [readGlobal_bytes plain ho hb]
    exact List.map_congr_left fun j hj => flushed j (List.mem_range.mp hj)
  have unchanged : ∀ j, j < n → ((s.rmwStart h va).readGlobal k va pa n).2.seen k va (pa + j) = s.seen k va (pa + j) := fun j hj => by
    rw [readGlobal_seen plain ho hb (by simp [k]) _ _ fun _ => by omega]
    exact flushed j hj
  have after : ((s.rmwStart h va).readGlobal k va pa n).2.plainL1 k.core k.ctx := readGlobal_plain plain (by simp [k])
  have eq : s.rmwGlobal h va pa n f = if ((s.rmwStart h va).readGlobal k va pa n).1.2 then (s.rmwStart h va).readGlobal k va pa n
      else match f ((s.rmwStart h va).readGlobal k va pa n).1.1 with
        | none => (s.rmwStart h va).readGlobal k va pa n
        | some bs => (((s.rmwStart h va).readGlobal k va pa n).1, ((s.rmwStart h va).readGlobal k va pa n).2.writeGlobal k va pa bs) := rfl
  intro r old
  simp only [r, eq]
  generalize (s.rmwStart h va).readGlobal k va pa n = q at read unchanged after
  cases hq : q.1.2 with
  | true => exact ⟨read, (fun bs hc => by simp [hq] at hc), fun _ => unchanged⟩
  | false =>
    simp only [Bool.false_eq_true, if_false, read]
    change (match f old with | none => q | some bs => (q.1, q.2.writeGlobal k va pa bs)).1.1 = old ∧ _
    cases hf : f old with
    | none => exact ⟨read, (fun bs _ hc => by cases hc), fun _ => unchanged⟩
    | some bs =>
      refine ⟨read, fun cs _ hc hlen j hj => ?_, fun hc => ?_⟩
      · cases hc
        have wrote := writeGlobal_writes (va := va) (pa := pa) (bs := bs) after (List.ne_nil_of_length_pos (by omega)) (by omega)
        exact wrote.seen j (by omega)
      · rcases hc with hc | hc
        · simp [hq] at hc
        · cases hc

/-! ### The maintenance of a line -/

theorem maintLine_cleans {sc : Nat} {inv : Bool} (hp : s.plainL1 h.core h.ctx) (hs : sc ≠ 5) (hf : s.l1Find h.core h.ctx va = some l) :
    let t := s.maintLine h va pa sc inv
    t.l1Find h.core h.ctx va = (if inv then none else some { l with dirty := 0, held := false })
      ∧ (∀ a, (∀ j, l.dirtyAt j → l.pa + j ≠ a) → Sparse.get t.mem a = Sparse.get s.mem a)
      ∧ ((∀ m, m < 128 → s.l2Held (l.pa + m) = false) → ∀ j, l.dirtyAt j → Sparse.get t.mem (l.pa + j) = lineByte l.data j) := by
  obtain ⟨hm, hx, hv⟩ := State.l1Find_of hf
  have put := s.putDirty_puts l (by rw [hx]; exact hp.2)
  have eq : s.maintLine h va pa sc inv = if inv then (s.putDirty l).l1Drop h.core h.ctx va else (s.putDirty l).l1Put h.core { l with dirty := 0, held := false } := by
    unfold State.maintLine State.writeBackLine
    rw [hf, if_neg hs]
    dsimp only
    rw [if_pos (.inr (hp.1 l hm hx).1)]
  have mem : (s.maintLine h va pa sc inv).mem = (s.putDirty l).mem := by rw [eq]; split <;> rfl
  refine ⟨?_, by rw [mem]; exact put.miss, by rw [mem]; exact put.hit⟩
  rw [eq]
  cases inv with
  | true => rw [if_pos rfl, State.l1Find_l1Drop, if_pos rfl]; rfl
  | false =>
    rw [if_neg (by decide), State.l1Find_l1Put, if_pos ⟨hx, hv⟩]
    rfl

end

/-- Settles O18: an indivisible read and write as a read and a write that follow each other, and the maintenance of a line as its write-back. -/
theorem lineOperations : Obligations.LineOperations :=
  ⟨fun _ _ _ _ _ _ hp ho h0 hb hl => rmwGlobal_acts hp ho h0 hb hl, fun _ _ _ _ _ _ _ hp hs hf => maintLine_cleans hp hs hf⟩

end Sys2Proof.Machine
end

section
/-! PROOF. Loads, stores, maintenance and atomics as they are performed (07 R179, R183 to R196, R211). -/
namespace Sys2Proof.Machine

open State (MemStep)

/-! ### Loads -/

theorem Grp.landScalar_writes (g : Grp) (d : Nat) (w : Word) (p : Bool) : g.writesS (g.landScalar d (w, p)) d w := by
  have plain := g.writesS_setScalar d w
  unfold Grp.landScalar
  cases p with
  | false => exact plain
  | true => exact ⟨rfl, plain.2⟩

theorem Grp.landScalar_ops (g : Grp) (d : Nat) (w : Word × Bool) : (g.landScalar d w).ops = g.ops := by
  unfold Grp.landScalar
  split <;> rfl

/-- The scalar that the words read give first. -/
theorem firstWord_of {vs : List (Nat × List (Word × Bool))} {l : Nat} {w : Word × Bool} {rest : List (Word × Bool)} (h : vs = (l, w :: rest) :: vs.tail) :
    (vs.map (fun p => p.2.getD 0 (0, false))).head? = some w := by
  rw [h]; rfl

theorem Op.locsOf_scalar {o : Op} (hk : o.kind = 2) (ht : o.todo ≠ 0) (now : BitVec 32) : o.locsOf now = o.locs := by
  rw [Op.locsOf, if_pos hk, if_neg ht]

section
variable {s : State} {gid n : Nat} {m : BitVec 32} {g : Grp} {o : Op}

theorem loadCompletion_lands (hd : s.due gid n m g o) (hn : o.lines.Nodup)
    (hi : (∃ x, o.instr = .ldW x ∨ o.instr = .ldD x ∨ o.instr = .ldQ x ∨ o.instr = .ldN x) ∨ (∃ x, o.instr = .ldk x)) :
    let now := o.lanesOfEvent m
    let addr := s.opAddr g o
    let r := (s.countHits (s.howOf g o) o addr (o.locsOf now)).readLanes (s.howOf g o) addr (o.locsOf now) (accBytes o.instr)
    let vs := r.1.map (fun v => (v.1, v.2.map (fun w => (narrowValue o.instr w.1, w.2))))
    ∃ t k, exec (.loadCompletion gid ⟨n, m⟩) s = .next t ∧ r.2.lanesEnd t gid n o now k ∧ g.landed k (landing o.lines vs) := by
  intro now addr r vs
  have touched : s.MemStep r.2 := (s.countHits_memStep _ _ _ _).trans (State.readLanes_memStep _ _ _ _ _)
  refine ⟨_, g.landWords o.lines vs, ?_, lanesDone_ends (touched.hasOp hd.1) _ (fun k => k.landWords o.lines vs) (g.landWords_ops _ _), g.landed_landWords _ _ hn⟩
  show execLoadCompletion gid ⟨n, m⟩ s = _
  rw [execLoadCompletion, withDue_of hd]
  rcases hi with ⟨x, h | h | h | h⟩ | ⟨x, h⟩ <;> simp only [r, vs, now, addr, h]

theorem loadCompletion_scalar (hd : s.due gid n m g o) {x : S3} (hi : o.instr = .sld x) (hk : o.kind = 2) (ht : o.todo ≠ 0) :
    let now := o.lanesOfEvent m
    let addr := s.opAddr g o
    let r := (s.countHits (s.howOf g o) o addr (o.locsOf now)).readLanes (s.howOf g o) addr o.locs 4
    ∀ l w p rest, r.1 = (l, (w, p) :: rest) :: r.1.tail →
      ∃ t k, exec (.loadCompletion gid ⟨n, m⟩) s = .next t ∧ r.2.lanesEnd t gid n o now k ∧ g.writesS k x.d.toNat w := by
  intro now addr r l w p rest hr
  have touched : s.MemStep r.2 := (s.countHits_memStep _ _ _ _).trans (State.readLanes_memStep _ _ _ _ _)
  refine ⟨_, g.landScalar x.d.toNat (w, p), ?_, lanesDone_ends (touched.hasOp hd.1) _ (fun k => k.landScalar x.d.toNat (w, p)) (g.landScalar_ops _ _),
    g.landScalar_writes _ _ _⟩
  show execLoadCompletion gid ⟨n, m⟩ s = _
  rw [execLoadCompletion, withDue_of hd]
  have first := firstWord_of hr
  simp only [r, Op.locsOf_scalar hk ht] at first
  simp only [r, now, addr, hi, Op.locsOf_scalar hk ht, first]

theorem loadCompletion_prefetch (hd : s.due gid n m g o) {x : Src} (hi : o.instr = .pref x) :
    ∃ v t : State, exec (.loadCompletion gid ⟨n, m⟩) s = .next t ∧ v.lanesEnd t gid n o (o.lanesOfEvent m) g ∧ v.groups = s.groups := by
  have counted := s.countHits_memStep (s.howOf g o) o (s.opAddr g o) (o.locsOf (o.lanesOfEvent m))
  have fetched : ∀ v : State, v.MemStep (o.locs.foldl (fun (u : State) p => match p.2 with
      | .mem pa path => if memPolicy x.pf = 2 then u.l2Touch pa else (u.readGlobal ((s.howOf g o).on path) (va48 (s.opAddr g o p.1)) pa 1).2
      | _ => u) v) := fun v => MemStep.foldl (fun u p => by
    split
    · split
      · exact u.l2Touch_memStep _
      · exact u.readGlobal_memStep _ _ _ _
    · exact .refl u) _ v
  have touched := counted.trans (fetched _)
  refine ⟨_, _, ?_, lanesDone_ends (touched.hasOp hd.1) _ id rfl, touched.groups⟩
  show execLoadCompletion gid ⟨n, m⟩ s = _
  rw [execLoadCompletion, withDue_of hd]
  simp only [hi] <;> rfl

end

/-- Settles O19: by the kinds of loads. -/
theorem loadCompletion : Obligations.LoadCompletion :=
  fun _ _ _ _ _ _ hd hn => ⟨loadCompletion_lands hd hn, fun _ hi hk ht => loadCompletion_scalar hd hi hk ht, fun _ hi => loadCompletion_prefetch hd hi⟩

/-! ### Stores and maintenance -/

section
variable {s : State} {gid n : Nat} {m : BitVec 32} {g : Grp} {o : Op}

theorem storePerformed_ends (hd : s.due gid n m g o) {t : State} (ht : s.MemStep t)
    (run : exec (.storePerformed gid ⟨n, m⟩) s = .next (t.lanesDone gid n o (o.lanesOfEvent m) id)) :
    ∃ u, exec (.storePerformed gid ⟨n, m⟩) s = .next u ∧ t.lanesEnd u gid n o (o.lanesOfEvent m) g :=
  ⟨_, run, lanesDone_ends (ht.hasOp hd.1) _ id rfl⟩

end

/-- Settles O20: by the kinds of stores and of maintenance. -/
theorem storePerformed : Obligations.StorePerformed := by
  intro s gid n m g o hd now h addr bytes written clean
  have stored : ∀ slot, clean (written slot) = s.storeLanes h addr o slot (o.locsOf now) := fun slot => rfl
  have step : ∀ slot, s.MemStep (clean (written slot)) := fun slot => stored slot ▸ s.storeLanes_memStep _ _ _ _ _
  refine ⟨fun hi => storePerformed_ends hd (step 1) ?_, fun x hi => storePerformed_ends hd (step 0) ?_, fun x hi => storePerformed_ends hd (step 3) ?_,
    fun hi => storePerformed_ends hd (s.maintLanes_memStep _ _ _ _) ?_⟩ <;> show execStorePerformed gid ⟨n, m⟩ s = _ <;> rw [execStorePerformed, withDue_of hd]
  · rcases hi with ⟨x, hi | hi | hi | hi⟩ <;> simp only [hi] <;> rfl
  · simp only [hi]; rfl
  · simp only [hi]; rfl
  · rcases hi with ⟨x, hi | hi | hi⟩ <;> simp only [hi] <;> rfl

/-! ### Atomics -/

section
variable {s : State} {gid n : Nat} {m : BitVec 32} {g : Grp} {o : Op}

/-- The lanes of an atomic that the event performs, upward. -/
def Op.atomNow (o : Op) (m : BitVec 32) : BitVec 32 := o.upward (if o.kind = 2 then o.owed else m)

theorem withUpward_of (hd : s.due gid n (o.atomNow m) g o) (k : State → Grp → Op → BitVec 32 → State) :
    s.withUpward gid n m k = k s g o (o.lanesOfEvent (o.atomNow m)) := by
  rw [State.withUpward, withOp_of hd.1]
  exact withDue_of hd k

end

/-- Settles O21: by the kinds of atomics; what each writes is the row of its kind. -/
theorem atomicPerformed : Obligations.AtomicPerformed := by
  intro s gid n m g o up now hd hn h addr r
  have touched : s.MemStep r.2 := s.atomLanes_memStep _ _ _ _
  have ends : ∀ f : Grp → Grp, (f g).ops = g.ops → r.2.lanesEnd (r.2.lanesDone gid n o now f) gid n o now (f g) := fun f hf =>
    lanesDone_ends (touched.hasOp hd.1) now f hf
  refine ⟨fun x hi => ⟨_, ?_, ends id rfl⟩, fun hi => ⟨_, _, ?_, ends (fun k => k.landWords o.lines r.1) (g.landWords_ops _ _), g.landed_landWords _ _ hn⟩,
    fun hi => ⟨_, _, ?_, ends (fun k => k.landWords o.lines r.1) (g.landWords_ops _ _), g.landed_landWords _ _ hn⟩,
    fun x hi hk ht l w p rest hr => ⟨_, _, ?_, ends (fun k => k.landScalar x.d.toNat (w, p)) (g.landScalar_ops _ _), g.landScalar_writes _ _ _⟩, fun l v => ?_⟩
  · show execAtomicPerformed gid ⟨n, m⟩ s = _
    rw [execAtomicPerformed, withUpward_of hd]
    simp only [hi]
    rfl
  · show execAtomicPerformed gid ⟨n, m⟩ s = _
    rw [execAtomicPerformed, withUpward_of hd]
    rcases hi with ⟨x, hi | hi⟩ <;> simp only [hi] <;> rfl
  · show execWindowAccessPerformed gid ⟨n, m⟩ s = _
    rw [execWindowAccessPerformed, withOp_of hd.1, withUpward_of hd]
    rcases hi with ⟨x, hi | hi⟩ <;> simp only [hi] <;> rfl
  · show execAtomicPerformed gid ⟨n, m⟩ s = _
    rw [execAtomicPerformed, withUpward_of hd]
    have first := firstWord_of hr
    simp only [r, h, addr, now, up] at first
    simp only [hi, Op.atomNow, first]
    rfl
  · rfl

end Sys2Proof.Machine
end

section
/-! PROOF. Window accesses, arrivals, and what arrivals and landings do to a barrier object (07 R183, R188, R200 to R202; 12 R284). -/
namespace Sys2Proof.Machine

open State (MemStep)

/-! ### The words of a barrier object -/

/-- A word of an object that is written. -/
theorem State.objWord_objSet (s : State) (core key i j : Nat) (w : Word) :
    (s.objSet core key j w).objWord core key i = if i = j then w else s.objWord core key i := by
  have len : (leBytes 4 w.toNat).length = 4 := leBytes_length
  have bytes : (s.objSet core key j w).winRead core (key + 4 * i) 4 = Sparse.getList (Sparse.setList (s.coreAt core).win (key + 4 * j) (leBytes 4 w.toNat)) (key + 4 * i) 4 := by
    have shape : (leBytes 4 w.toNat).isEmpty = false := by simp [leBytes]
    simp only [State.winRead, State.objSet, State.winWrite, shape, Bool.false_eq_true, if_false, State.coreAt_modCore, if_true]
  have value : (s.objSet core key j w).winRead core (key + 4 * i) 4 = if i = j then leBytes 4 w.toNat else s.winRead core (key + 4 * i) 4 := by
    rw [bytes]
    by_cases h : i = j
    · subst h
      rw [if_pos rfl]
      refine List.ext_getElem (by simp [len, Sparse.getList_length]) fun k hk _ => ?_
      rw [Sparse.getList_length] at hk
      have at_k := Sparse.getList_getD (m := Sparse.setList (s.coreAt core).win (key + 4 * i) (leBytes 4 w.toNat)) (k := key + 4 * i) hk
      rw [Sparse.get_setList, if_pos (by omega), Nat.add_sub_cancel_left] at at_k
      simpa [List.getD_eq_getElem?_getD, len, Sparse.getList_length, hk] using at_k
    · rw [if_neg h]
      refine List.ext_getElem (by simp [State.winRead, Sparse.getList_length]) fun k hk _ => ?_
      rw [Sparse.getList_length] at hk
      have at_k := Sparse.getList_getD (m := Sparse.setList (s.coreAt core).win (key + 4 * j) (leBytes 4 w.toNat)) (k := key + 4 * i) hk
      rw [Sparse.get_setList, if_neg (by omega), ← Sparse.getList_getD hk] at at_k
      simpa [State.winRead, List.getD_eq_getElem?_getD, Sparse.getList_length, hk] using at_k
  unfold State.objWord
  rw [value]
  split
  · rw [leNat_leBytes, Nat.mod_eq_of_lt (by have := w.isLt; omega), BitVec.ofNat_toNat, BitVec.setWidth_eq]
  · rfl

theorem objWord0_phase (w : Word) (l : BitVec 15) (p : Bool) : (objWord0 w l p).getLsbD 0 = p := by
  unfold objWord0
  simp only [BitVec.getLsbD_or, BitVec.getLsbD_and, BitVec.getLsbD_setWidth, BitVec.getLsbD_append]
  cases p <;> simp

theorem objWord0_left (w : Word) (l : BitVec 15) (p : Bool) : (objWord0 w l p).extractLsb' 1 15 = l := by
  refine BitVec.eq_of_getLsbD_eq fun k hk => ?_
  have mask : (0xFFFF0000#32).getLsbD (1 + k) = false := by
    have h : 1 + k < 16 := by omega
    generalize 1 + k = n at h
    revert n; decide
  rw [BitVec.getLsbD_extractLsb', decide_eq_true hk, Bool.true_and, objWord0, BitVec.getLsbD_or, BitVec.getLsbD_and, mask, Bool.and_false, Bool.false_or,
    BitVec.getLsbD_setWidth, decide_eq_true (by omega : 1 + k < 32), Bool.true_and, BitVec.getLsbD_append, if_neg (by omega : ¬ 1 + k < 1),
    Nat.add_sub_cancel_left]

/-! ### Arrivals and landings on a barrier object -/

/-- What an arrival has written before the end of the phase is tested: the words of the object. -/
def State.arrived (s : State) (core key : Nat) (due : Word) (arr : Nat) : State :=
  let left := s.objLeft core key
  let a := if due = 0 then s else s.objSet core key 3 (s.objWord core key 3 + due)
  let b := if left < arr then a.objSet core key 1 (a.objWord core key 1 ||| 1#32) else a
  let w0 := b.objWord core key 0
  b.objSet core key 0 (objWord0 w0 (BitVec.ofNat 15 (left - arr)) (w0.getLsbD 0))

theorem State.objArrive_eq (s : State) (core key : Nat) (due : Word) (arr : Nat) :
    s.objArrive core key due arr = (s.arrived core key due arr).objCheck core key := rfl

/-- The fields of an object: due bytes rise, no more arrivals are left than were, the roster stands. -/
theorem State.arrived_words (s : State) (core key : Nat) (due : Word) (arr : Nat) :
    let t := s.arrived core key due arr
    t.objPhase core key = s.objPhase core key ∧ t.objLeft core key = s.objLeft core key - arr
      ∧ t.objWord core key 2 = s.objWord core key 2 ∧ t.objWord core key 3 = s.objWord core key 3 + due
      ∧ (t.objWord core key 1).extractLsb' 16 15 = (s.objWord core key 1).extractLsb' 16 15 := by
  have fits : s.objLeft core key - arr < 2 ^ 15 := by
    have : s.objLeft core key < 2 ^ 15 := BitVec.isLt _
    omega
  have announced : ∀ i, (if due = 0 then s else s.objSet core key 3 (s.objWord core key 3 + due)).objWord core key i
      = if i = 3 then s.objWord core key 3 + due else s.objWord core key i := fun i => by
    by_cases hd : due = 0
    · subst hd
      by_cases hi : i = 3 <;> simp [hi]
    · rw [if_neg hd, State.objWord_objSet]
  have roster : ∀ w : Word, (w ||| 1#32).extractLsb' 16 15 = w.extractLsb' 16 15 := fun w => by
    refine BitVec.eq_of_getLsbD_eq fun k hk => ?_
    simp [BitVec.getLsbD_extractLsb', BitVec.getLsbD_one]
  intro t
  unfold t State.arrived
  generalize (if due = 0 then s else s.objSet core key 3 (s.objWord core key 3 + due)) = a at announced ⊢
  generalize s.objLeft core key = n at fits ⊢
  by_cases hl : n < arr
  all_goals
    simp [hl, State.objPhase, State.objLeft, State.objWord_objSet, announced, objWord0_phase, objWord0_left, roster, -BitVec.getLsbD_eq_getElem]
    exact fits

/-- The phase ends: its parity turns, the arrivals due are the roster's, and both byte counts are 0. -/
theorem State.objComplete_words (s : State) (core key : Nat) :
    let t := s.objComplete core key
    t.objPhase core key = !s.objPhase core key ∧ t.objLeft core key = ((s.objWord core key 1).extractLsb' 16 15).toNat
      ∧ t.objWord core key 2 = 0 ∧ t.objWord core key 3 = 0 := by
  intro t
  simp [t, State.objComplete, State.objPhase, State.objLeft, State.objWord_objSet, objWord0_phase, objWord0_left, -BitVec.getLsbD_eq_getElem]

theorem State.objCheck_met {s : State} {core key : Nat} (h : s.objLeft core key = 0 ∧ s.objWord core key 2 = s.objWord core key 3) :
    s.objCheck core key = s.objComplete core key := if_pos h

theorem State.objArrive_goesOn (s : State) (core key : Nat) (due : Word) (arr : Nat)
    (h : s.objLeft core key - arr ≠ 0 ∨ s.objWord core key 2 ≠ s.objWord core key 3 + due) :
    let t := s.objArrive core key due arr
    t.objPhase core key = s.objPhase core key ∧ t.objLeft core key = s.objLeft core key - arr
      ∧ t.objWord core key 3 = s.objWord core key 3 + due ∧ t.objWord core key 2 = s.objWord core key 2 := by
  obtain ⟨phase, left, got, owed, -⟩ := s.arrived_words core key due arr
  have stays : (s.arrived core key due arr).objCheck core key = s.arrived core key due arr := if_neg (by
    rw [left, got, owed]
    exact fun e => h.elim (fun n => n e.1) (fun n => n e.2))
  intro t
  simp only [t, State.objArrive_eq, stays]
  exact ⟨phase, left, owed, got⟩

theorem State.objArrive_ends (s : State) (core key : Nat) (due : Word) (arr : Nat)
    (h : s.objLeft core key - arr = 0 ∧ s.objWord core key 2 = s.objWord core key 3 + due) :
    let t := s.objArrive core key due arr
    t.objPhase core key = !s.objPhase core key ∧ t.objLeft core key = ((s.objWord core key 1).extractLsb' 16 15).toNat
      ∧ t.objWord core key 2 = 0 ∧ t.objWord core key 3 = 0 := by
  obtain ⟨phase, left, got, owed, roster⟩ := s.arrived_words core key due arr
  have met : (s.arrived core key due arr).objLeft core key = 0
      ∧ (s.arrived core key due arr).objWord core key 2 = (s.arrived core key due arr).objWord core key 3 := by rw [left, got, owed]; exact h
  intro t
  have ended := (s.arrived core key due arr).objComplete_words core key
  rw [phase, roster] at ended
  simpa only [t, State.objArrive_eq, State.objCheck_met met] using ended

theorem State.objLand_ends (s : State) (core key n : Nat) (hl : s.objLeft core key = 0)
    (hw : s.objWord core key 2 + BitVec.ofNat 32 n = s.objWord core key 3) :
    (s.objLand core key n).objPhase core key = !s.objPhase core key := by
  have words := s.objWord_objSet core key (j := 2) (w := s.objWord core key 2 + BitVec.ofNat 32 n)
  have met : (s.objSet core key 2 (s.objWord core key 2 + BitVec.ofNat 32 n)).objLeft core key = 0
      ∧ (s.objSet core key 2 (s.objWord core key 2 + BitVec.ofNat 32 n)).objWord core key 2
        = (s.objSet core key 2 (s.objWord core key 2 + BitVec.ofNat 32 n)).objWord core key 3 :=
    ⟨by rw [← hl, State.objLeft, words]; rfl, by rw [words, words]; exact hw⟩
  rw [State.objLand, State.objCheck_met met, (State.objComplete_words _ core key).1, State.objPhase, words]
  rfl

/-! ### Window accesses and arrivals -/

section
variable {s : State} {gid n : Nat} {m : BitVec 32} {g : Grp} {o : Op}

/-- An arrival that is performed ends. -/
theorem State.arrvPerform_ends (hd : s.hasOp gid n g o) {x : Arr} {l c key : Nat} {rest : List (Nat × Loc)} (hi : o.instr = .arrv x)
    (hl : o.locs = (l, .win c key) :: rest) :
    (s.objArrive c key (if x.u = 1#1 then o.slotAt 0 0 else 0) x.a.toNat).endsOp (s.arrvPerform gid n o) gid n o g := by
  have there := (s.objArrive_memStep c key (if x.u = 1#1 then o.slotAt 0 0 else 0) x.a.toNat).hasOp hd
  have run : s.arrvPerform gid n o = (s.objArrive c key (if x.u = 1#1 then o.slotAt 0 0 else 0) x.a.toNat).modGrp gid (fun g => g.opDone n) := by
    rw [State.arrvPerform, hi, hl]
  rw [run, State.modGrp_of_find _ there.1]
  exact ⟨⟨rfl, fun k hk => Tab.find_put_other hk⟩, _, Tab.find_put_same, Grp.opDone_ends _ _ _ there.2⟩

theorem windowAccess_loads (hd : s.due gid n m g o) (hn : o.lines.Nodup) {x : V3} (hi : o.instr = .ldl x) :
    let now := o.lanesOfEvent m
    let r := s.readLanes (s.howOf g o) (s.opAddr g o) (o.locsOf now) 4
    ∃ t k, exec (.windowAccessPerformed gid ⟨n, m⟩) s = .next t ∧ r.2.lanesEnd t gid n o now k ∧ g.landed k (landing o.lines r.1) := by
  intro now r
  have touched : s.MemStep r.2 := State.readLanes_memStep _ _ _ _ _
  refine ⟨_, g.landWords o.lines r.1, ?_, lanesDone_ends (touched.hasOp hd.1) _ (fun k => k.landWords o.lines r.1) (g.landWords_ops _ _),
    g.landed_landWords _ _ hn⟩
  show execWindowAccessPerformed gid ⟨n, m⟩ s = _
  rw [execWindowAccessPerformed, withOp_of hd.1]
  simp only [r, now, hi, withDue_of hd]

theorem windowAccess_stores (hd : s.due gid n m g o) {x : V3} (hi : o.instr = .stl x) :
    let now := o.lanesOfEvent m
    ∃ t, exec (.windowAccessPerformed gid ⟨n, m⟩) s = .next t
      ∧ (s.storeLanes (s.howOf g o) (s.opAddr g o) o 1 (o.locsOf now)).lanesEnd t gid n o now g := by
  intro now
  refine ⟨_, ?_, lanesDone_ends ((s.storeLanes_memStep _ _ _ _ _).hasOp hd.1) _ id rfl⟩
  show execWindowAccessPerformed gid ⟨n, m⟩ s = _
  rw [execWindowAccessPerformed, withOp_of hd.1]
  simp only [now, hi, withDue_of hd]

theorem windowAccess_arrives (hd : s.due gid n m g o) {x : Arr} (hi : o.instr = .arrv x) :
    exec (.windowAccessPerformed gid ⟨n, m⟩) s = .next (s.arrvStart gid n g o) := by
  show execWindowAccessPerformed gid ⟨n, m⟩ s = _
  rw [execWindowAccessPerformed, withOp_of hd.1]
  simp only [hi, withDue_of hd]

/-- An arrival that follows every earlier access of its group, on an object of a window. -/
theorem State.arrvStart_of {l c key : Nat} {rest : List (Nat × Loc)} (hl : o.locs = (l, .win c key) :: rest)
    (hf : g.ops.any (fun p => decide (p.1 < n) && isAccess p.2.instr) = false) :
    s.arrvStart gid n g o = if c = g.core then s.arrvPerform gid n o
      else if s.barriers.contains (gid, n) then s
      else { s with barriers := s.barriers ++ [(gid, n)] } := by
  rw [State.arrvStart, hf, hl]
  rfl

end

/-- Settles O22: an object's fields by its words; the instructions by their kinds. -/
theorem windowsAndBarriers : Obligations.WindowsAndBarriers := by
  refine ⟨fun s gid n m g o => ⟨fun hd hn ⟨_, hi⟩ => windowAccess_loads hd hn hi, fun hd ⟨_, hi⟩ => windowAccess_stores hd hi,
    fun x l c key rest hd hi hl hf => ⟨fun hc => ?_, fun hc hb => ?_⟩, fun x l c key rest i hd hi hl hb => ?_⟩,
    fun s core key => ⟨fun due arr => ⟨s.objArrive_goesOn core key due arr, s.objArrive_ends core key due arr⟩, s.objLand_ends core key⟩⟩
  · refine ⟨_, ?_, State.arrvPerform_ends hd.1 hi hl⟩
    rw [windowAccess_arrives hd hi, State.arrvStart_of hl hf, if_pos hc]
  · rw [windowAccess_arrives hd hi, State.arrvStart_of hl hf, if_neg hc, if_neg (by simpa using hb)]
  · have there : State.hasOp { s with barriers := s.barriers.filter (fun b => decide (b ≠ (gid, n))) } gid n g o := hd
    refine ⟨_, _, rfl, ?_, State.arrvPerform_ends there hi hl⟩
    show execRemoteBarrierStep i s = _
    rw [execRemoteBarrierStep, hb]
    simp only [withOp_of there]

end Sys2Proof.Machine
end

section
/-! PROOF. The fault point of an operation, and the pages of a copy (05 R141, R142; 07 R178; 12 R294). -/
namespace Sys2Proof.Machine

open State (MemStep)

/-! ### The checks of lanes -/

theorem State.checkLane_memStep (s : State) (g : Grp) (o : Op) (l : Nat) : s.MemStep (s.checkLane g o l).2 := by
  unfold State.checkLane
  dsimp only
  split
  · exact .refl s
  · split
    · split
      · exact s.traced_memStep _
      · exact s.traced_memStep _
    · split
      · exact s.traced_memStep _
      · split
        · split <;> exact s.xCommit_memStep _ _
        · exact s.xCommit_memStep _ _

theorem State.checkLanes_memStep (s : State) (g : Grp) (o : Op) (ls : List Nat) (acc : Checked) : s.MemStep (s.checkLanes g o ls acc).2 := by
  induction ls generalizing s acc with
  | nil => exact .refl s
  | cons l r ih =>
    have checked := s.checkLane_memStep g o l
    unfold State.checkLanes
    split <;> rename_i e <;> rw [e] at checked <;> exact checked.trans (ih _ _)

/-! ### Faults of lanes -/

/-- Faults that no translation gave leave no record. -/
theorem State.pageRcds_local (s : State) (g : Grp) (k : AccK) (pc : Dword) (opcode : Nat) {fs : List LaneFault} (h : ∀ d, d ∈ fs → d.cause < 0x10) :
    s.pageRcds g k pc opcode fs = [] := by
  have none_bad : fs.filter (fun f => decide (0x10 ≤ f.cause)) = [] := List.filter_eq_nil_iff.mpr fun d hd => by
    have := h d hd
    simp only [decide_eq_true_eq]
    omega
  rw [State.pageRcds, none_bad]
  rfl

/-- Faults that are not deferred are raised. -/
theorem State.opFaults_raises {s : State} {gid n : Nat} {o : Op} {e : LaneFault} {es : List LaneFault} (hk : o.kind ≠ 2)
    (hd : (s.grp gid).defer = false ∨ (s.grp gid).inHandler = true) (hc : ∀ d, d ∈ e :: es → d.cause < 0x10) :
    s.opFaults gid n o (e :: es) = s.raiseOp gid n o e.cause (maskOf ((e :: es).map (fun d => d.lane))) e.addr e.win := by
  have now : ((s.grp gid).defer && !(s.grp gid).inHandler && (e :: es).all (fun d => deferrable d.cause)) = false := by
    rcases hd with h | h <;> simp [h]
  rw [State.opFaults, s.pageRcds_local _ _ _ _ hc, if_neg hk]
  simp only [List.map_nil, State.raiseGroup, List.isEmpty_nil, if_true, now, Bool.false_eq_true, if_false]

/-! ### The fault point -/

section
variable {s : State} {gid n : Nat} {g : Grp} {o : Op}

/-- No lane reaches another world's frame: no record of it is posted. -/
theorem State.worldRcds_noVoid (s : State) (g : Grp) (k : AccK) (pc : Dword) (opcode : Nat) {locs : List (Nat × Loc)} (h : ∀ p, p ∈ locs → p.2 ≠ .void)
    (f : Nat × Loc → LaneFault) : s.worldRcds g k pc opcode ((locs.filter (fun p => decide (p.2 = .void))).map f) = s := by
  have empty : locs.filter (fun p => decide (p.2 = .void)) = [] := List.filter_eq_nil_iff.mpr fun p hp => by simpa using h p hp
  rw [empty]
  rfl

/-- The fault point of an operation that is no PREF and no LDW, where no lane reaches another world's frame. -/
theorem State.faultPoint_eq (hp : ∀ x, o.instr ≠ .pref x) (hl : ∀ x, o.instr ≠ .ldw x)
    (hv : ∀ p, p ∈ (s.checkLanes g o o.doLanes ⟨[], [], []⟩).1.locs → p.2 ≠ .void) :
    let r := s.checkLanes g o o.doLanes ⟨[], [], []⟩
    s.faultPoint gid n g o =
      if (r.1.faults.isEmpty || (g.defer && !g.inHandler && r.1.faults.all (fun e => deferrable e.cause))) = true then
        (r.2.modOp gid n (fun k => { k with passed := true, locs := r.1.locs, locs2 := r.1.locs2, obj := none })).opFaults gid n o r.1.faults
      else r.2.opFaults gid n o r.1.faults := by
  intro r
  unfold State.faultPoint
  dsimp only
  split
  · exact absurd ‹_› (hp _)
  · simp only [Bool.or_false, Bool.false_eq_true, if_false, State.worldRcds_noVoid _ _ _ _ _ hv, r]

/-- An operation whose release steps are done comes to its fault point. -/
theorem State.translationWalk_point (ho : s.hasOp gid n g o) (ht : ∀ x, o.instr ≠ .tex x) (hd : ∀ x, o.instr ≠ .tld x) (ha : ∀ x, o.instr ≠ .arrv x)
    (hp : o.passed = false) (hr : o.rel = false) (hn : g.raised = []) (he : g.escalated = false) (hs : isSfu o.instr = false) (hm : isMatrix o.instr = false)
    (hb : s.sameAddrs g n o = false) : exec (.translationWalk (.op gid n)) s = .next (s.faultPoint gid n g o) := by
  have point : s.pointOf gid n o = s.faultPoint gid n g o := by
    rw [State.pointOf, State.grp_of_find ho.1]
    split
    · exact absurd ‹_› (ht _)
    · exact absurd ‹_› (hd _)
    · exact absurd ‹_› (ha _)
    · rfl
  show execTranslationWalk (.op gid n) s = _
  rw [execTranslationWalk, withOp_of ho, State.opWalk, hp, hs, hm, hn, he, hb, hr]
  exact congrArg _ point

end

/-! ### The pages of a copy -/

theorem State.copyWalk_translates {s : State} {core k : Nat} {c : Copy} {r : XOk} (hc : Tab.find (s.coreAt core).copies k = some c)
    (hi : ∀ x, c.instr ≠ .cpyx x) (hh : s.copyHeld c = false) (hf : c.faulted = false) (hu : c.upto < c.total)
    (hp : ∀ p, p ∈ c.pages → p.1 ≠ (c.far c.upto).toNat / 4096)
    (ht : s.translate core c.ctx c.sup (c.far c.upto) (if copyDir c.instr = 1 then .write else .read) = .ok r) (hv : r.void = false) :
    s.copyWalk core k = (s.xCommit core r).putCopy core k { c with
      pages := ((c.far c.upto).toNat / 4096, r.pa / 4096 * 4096, false, r.path.map (fun a => a / 4096 * 4096)) :: c.pages, upto := c.samePage c.upto 256 } := by
  have new : c.pages.any (fun p => decide (p.1 = (c.far c.upto).toNat / 4096)) = false := List.any_eq_false.mpr fun p h => by simpa using hp p h
  unfold State.copyWalk
  rw [hc]
  simp only [hh, hf, decide_eq_false (Nat.not_le.mpr hu), Bool.or_false, Bool.false_eq_true, if_false, new, ht, hv]

/-- Settles O23: an operation's fault point by what its lanes' checks find; a copy's next page by its translation. -/
theorem faultPoint : Obligations.FaultPoint := by
  refine ⟨fun s gid n g o ho ht hd hp hr hn he hs hm hf hl ha hb => ?_, fun s core k c r hc hi hh hf hu hp ht hv =>
    congrArg Host.Outcome.next (State.copyWalk_translates hc hi hh hf hu hp ht hv)⟩
  intro r hv
  have there : r.2.hasOp gid n g o := (s.checkLanes_memStep g o _ _).hasOp ho
  have run := State.translationWalk_point ho ht hd ha hp hr hn he hs hm hb
  rw [State.faultPoint_eq hf hl hv] at run
  refine ⟨fun h => ?_, fun e es h hk hdef hc => ?_⟩
  · rw [run, h, State.modOp, State.modGrp_of_find _ there.1, there.2]
    rfl
  · have here : r.2.grp gid = g := State.grp_of_find there.1
    have now : (g.defer && !g.inHandler && (e :: es).all (fun d => deferrable d.cause)) = false := by
      rcases hdef with h | h <;> simp [h]
    rw [run, h, List.isEmpty_cons, Bool.false_or, now, if_neg Bool.false_ne_true, State.opFaults_raises hk (here.symm ▸ hdef) hc, State.raiseOp,
      State.modGrp_of_find _ there.1, decide_eq_false (by have := hc e (.head _); omega)]

end Sys2Proof.Machine
end

section
/-! PROOF. The issue of the matrix instructions (08 R215, R217, R221, R223 to R225; 09 R242). -/
namespace Sys2Proof.Machine

/-! ### Window operands and headers in order -/

theorem State.withWindows_of {s : State} {g : Grp} {us : List WinUse} (h : windowsOk s g us) (k : State → State) : s.withWindows g us k = k s := by
  have legal : us.any (fun u => u.w.illegal u.comp) = false := List.any_eq_false.mpr fun u hu => by simp [(h u hu).1]
  have aligned : us.find? (fun u => decide (u.w.base.toNat % 16 ≠ 0)) = none := List.find?_eq_none.mpr fun u hu => by simp [(h u hu).2.1]
  have mapped : us.findSome? (fun u => (s.stepsUnmapped g u 0 u.steps).map (fun a => (u, a))) = none :=
    List.findSome?_eq_none_iff.mpr fun u hu => by simp [(h u hu).2.2]
  rw [State.withWindows, legal, aligned, mapped]
  rfl

theorem State.withHeader_of {s : State} {g : Grp} {x : BitVec 4} {a : Word} (h : sparseOk x (s.headerAt g a) = true) (k : State → State) :
    s.withHeader g x a k = k s := if_pos h

section
variable {s : State} {g : Grp} {f : Frag}

/-! ### Direct matrix instructions -/

theorem matrixOp_begins (i : Instr) (slots : List (List Word)) : matrixBegins i g f slots g (g.addOp (matrixOp s g f i slots)) :=
  ⟨_, g.addOp_begins _, rfl, rfl, rfl, rfl, rfl, rfl, rfl⟩

/-- A direct matrix instruction stands last in its quarter's queue. -/
theorem matrix_queued {i : Instr} (k : BitVec 3) (us : Grp → List WinUse) (slots : Grp → List (List Word)) (hx : exec i s = issueDirect i k us slots s)
    (h : Issues i (g.guarded f k) s g f) :
    (g.upred k.toNat = false → Completes i s g (fun k h => h = k)) ∧
    (g.upred k.toNat = true → windowsOk s g (us g) → CompletesAfter i s g
      (fun v => v = s.modCore g.core (fun k => { k with mq := k.mq.set (g.slot / 32) (k.mq.getD (g.slot / 32) [] ++ [(s.iss.g, g.opNext)]) }))
      (matrixBegins i g f (slots g))) := by
  rw [issueDirect] at hx
  refine ⟨fun hk => goesOn_of _ _ hx h g (if_pos (by simp [hk])) rfl, fun hk hw => ?_⟩
  refine completesAfter_of _ _ hx h (s.modCore g.core (fun k => { k with mq := k.mq.set (g.slot / 32) (k.mq.getD (g.slot / 32) [] ++ [(s.iss.g, g.opNext)]) }))
    (g.addOp (matrixOp s g f i (slots g))) ((if_neg (by simp [hk])).trans (State.withWindows_of hw _)) rfl rfl (matrixOp_begins i _)

theorem matrixRule_queued {i : Instr} {u : MatrixRule} (hr : matrixRule i = some u) (h : Issues i (g.guarded f u.k) s g f) :
    (g.upred u.k.toNat = false → Completes i s g (fun k h => h = k)) ∧
    (g.upred u.k.toNat = true → windowsOk s g (u.us g) → CompletesAfter i s g
      (fun v => v = s.modCore g.core (fun k => { k with mq := k.mq.set (g.slot / 32) (k.mq.getD (g.slot / 32) [] ++ [(s.iss.g, g.opNext)]) }))
      (matrixBegins i g f (u.slots g))) := by
  refine matrix_queued u.k u.us u.slots ?_ h
  unfold matrixRule at hr
  split at hr <;> cases hr
  · rfl
  · rfl
  · rfl
  · rfl
  · rfl
  · rfl

/-! ### MMAS and MLOOP -/

theorem mmas_queued {x : Mm} (h : Issues (.mmas x) (g.guarded f x.k) s g f) :
    (g.upred x.k.toNat = false → Completes (.mmas x) s g (fun k h => h = k)) ∧
    (g.upred x.k.toNat = true → windowsOk s g (winUses g x.y true 1 .read ++ winUses g x.z false 1 .read) →
      let hd := s.headerAt g (sparseBase g x.y)
      (sparseOk x.f hd = true → CompletesAfter (.mmas x) s g
        (fun v => v = s.modCore g.core (fun k => { k with mq := k.mq.set (g.slot / 32) (k.mq.getD (g.slot / 32) [] ++ [(s.iss.g, g.opNext)]) }))
        (matrixBegins (.mmas x) g f [captureDesc g x.y, captureDesc g x.z, caughtScalar (hd.getD 0 0)])) ∧
      (sparseOk x.f hd = false → exec (.mmas x) s = .next (s.raiseIssue 0x0A 0 0 s.iss.pc
        ((sparseBase g x.y).setWidth 64) true s.iss.opcode false))) := by
  have run : exec (.mmas x) s = execMmas x s := rfl
  rw [execMmas] at run
  refine ⟨fun hk => goesOn_of _ _ run h g (if_pos (by simp [hk])) rfl, fun hk hw => ?_⟩
  intro hd
  refine ⟨fun ho => ?_, fun ho => ?_⟩
  · exact completesAfter_of _ _ run h (s.modCore g.core (fun k => { k with mq := k.mq.set (g.slot / 32) (k.mq.getD (g.slot / 32) [] ++ [(s.iss.g, g.opNext)]) }))
      (g.addOp (matrixOp s g f (.mmas x) [captureDesc g x.y, captureDesc g x.z, captureScalar (hd.getD 0 0)]))
      (((if_neg (by simp [hk])).trans (State.withWindows_of hw _)).trans (State.withHeader_of ho _)) rfl rfl (matrixOp_begins _ _)
  · rw [run, issue_runs _ _ h]
    exact congrArg _ (((if_neg (by simp [hk])).trans (State.withWindows_of hw _)).trans (if_neg (by rw [← Bool.not_eq_true] at ho; exact ho)))

/-- A loop runs if its quarter has none and no percolation run of its group is open; else it waits. -/
theorem loopIssued_eq (k : Core) (g : Grp) (l : Loop) :
    (if (k.loops ++ k.lq).any (fun e => decide (e.quarter = l.quarter)) || g.percOpen then { k with lq := k.lq ++ [l] } else { k with loops := k.loops ++ [l] })
      = if (∀ e, e ∈ k.loops ++ k.lq → e.quarter ≠ l.quarter) ∧ g.percOpen = false then { k with loops := k.loops ++ [l] } else { k with lq := k.lq ++ [l] } := by
  have none : (k.loops ++ k.lq).any (fun e => decide (e.quarter = l.quarter)) = false ↔ ∀ e, e ∈ k.loops ++ k.lq → e.quarter ≠ l.quarter := by
    rw [List.any_eq_false]
    exact forall₂_congr fun e _ => by simp
  simp only [← none]
  cases (k.loops ++ k.lq).any (fun e => decide (e.quarter = l.quarter)) <;> cases g.percOpen <;> rfl

theorem mloop_issued {x : Mm} {sp : Bool} {n : Nat} (h : Issues (.mloop x) (g.guarded f x.k) s g f) (hh : mloopHimm x.pf = some (sp, n)) :
    (g.upred x.k.toNat = false → Completes (.mloop x) s g (fun k h => h = k)) ∧
    (g.upred x.k.toNat = true → windowsOk s g (winUses g x.y sp n .read ++ winUses g x.z false n .read) →
      (sp = true → sparseOk x.f (s.headerAt g (sparseBase g x.y)) = true) →
      let l : Loop := ⟨s.iss.g, g.opNext, g.slot / 32, 0, n, sp, g.tlLast 4 + 1, g.launch⟩
      CompletesAfter (.mloop x) s g
        (fun v => v = s.modCore g.core (fun k =>
          if (∀ e, e ∈ k.loops ++ k.lq → e.quarter ≠ g.slot / 32) ∧ g.percOpen = false then { k with loops := k.loops ++ [l] } else { k with lq := k.lq ++ [l] }))
        (fun k h => ∃ (j : Grp) (o : Op), j = { k with tln := j.tln } ∧ (∀ i, j.tlLast i = if i = 4 then k.tlLast 4 + 1 else k.tlLast i) ∧ j.opBegins h o
          ∧ o.instr = .mloop x ∧ o.n = g.tlLast 4 + 1 ∧ o.slots = [captureDesc g x.y, captureDesc g x.z] ∧ (o.reads, o.lines) = matrixOperands g (.mloop x))) := by
  have run : exec (.mloop x) s = execMloop x s := rfl
  rw [execMloop] at run
  refine ⟨fun hk => goesOn_of _ _ run h g (if_pos (by simp [hk])) rfl, fun hk hw hs => ?_⟩
  intro l
  have go : ∀ k : State → State, (if sp = true then s.withHeader g x.f (sparseBase g x.y) k else k s) = k s := fun k => by
    cases hc : sp with
    | false => rfl
    | true => exact State.withHeader_of (hs hc) k
  have last : ∀ i, (g.tlAssign 4 1).tlLast i = if i = 4 then g.tlLast 4 + 1 else g.tlLast i := fun i => by
    show Sparse.get (Sparse.set g.tln 4 _) i = _
    rw [Sparse.get_set]
    rfl
  let o : Op := { matrixOp s g f (.mloop x) [captureDesc g x.y, captureDesc g x.z] with n := g.tlLast 4 + 1 }
  refine completesAfter_of _ _ run h (s.modCore g.core (fun k =>
    if (∀ e, e ∈ k.loops ++ k.lq → e.quarter ≠ g.slot / 32) ∧ g.percOpen = false then { k with loops := k.loops ++ [l] } else { k with lq := k.lq ++ [l] }))
    ((g.tlAssign 4 1).addOp o) ?_ rfl rfl ⟨g.tlAssign 4 1, o, rfl, last, Grp.addOp_begins _ _, rfl, rfl, rfl, rfl⟩
  rw [← funext (fun k => loopIssued_eq k g l)]
  simp only [hk, hh, Option.getD_some, Bool.not_true, Bool.false_eq_true, if_false, State.withWindows_of hw]
  exact go _

end

/-- Settles O24: direct instructions by their rule; MMAS and MLOOP each in its own lemma. -/
theorem matrixIssue : Obligations.MatrixIssue :=
  ⟨fun _ _ _ _ _ hr h => matrixRule_queued hr h, fun _ _ _ _ h => mmas_queued h, fun _ _ _ _ _ _ h hh => mloop_issued h hh⟩

end Sys2Proof.Machine
end

section
/-! PROOF. The issue of the copy instructions (12 R285, R289 to R293). -/
namespace Sys2Proof.Machine

open State (MemStep)

section
variable {s : State} {g : Grp} {f : Frag} {i : Instr} {x : Cp} {n : Nat}

/-- The object that a copy counts on. -/
def objectOf (x : Cp) (g : Grp) : Option Word := if x.o = 1#1 then some (g.scalar x.b.toNat) else none

/-- The timeline that a copy counts on. -/
def timelineOf (x : Cp) : Option Nat := if x.o = 1#1 then none else some x.i.toNat

/-- The scalars of a copy's block. -/
def blockScalars (x : Cp) (g : Grp) (n : Nat) : List Word := (List.range n).map (fun j => g.scalar (x.n.toNat + j))

/-- The group with the number that a copy takes. -/
def Grp.copyNumber (g : Grp) (tl : Option Nat) : Grp := match tl with | some t => g.tlAssign t 1 | none => g

/-- The copy that an issue queues. -/
def queuedCopy (s : State) (g : Grp) (f : Frag) (i : Instr) (x : Cp) (n : Nat) : Copy := {
  g := s.iss.g, ctx := g.ctx, launch := g.launch, sup := g.sup, fidx := g.fidx, team := g.team, instr := i, pc := s.iss.pc
  block := blockScalars x g n, flag := flagOf (flagClass i) f.pos.setA f.pos.setB, tl := (timelineOf x).map (fun t => (t, ((g.copyNumber (timelineOf x)).tlLast t).toNat))
  obj := objectOf x g, idx := [], pages := [], upto := 0, landed := [], count := 0, faulted := false, after := g.opNext
  quarter := g.slot / 32, nested := g.inHandler, away := false }

/-- The issue of a copy once its release step is done. -/
def State.queueCopy (s : State) (g : Grp) (f : Frag) (i : Instr) (x : Cp) (n : Nat) : State :=
  (s.modCore g.core (fun k => { k with dq := k.dq.modify (g.slot / 32) (fun q => q ++ [queuedCopy s g f i x n]) })).finish
    ((g.copyNumber (timelineOf x)).flagUp (flagOf (flagClass i) f.pos.setA f.pos.setB))

theorem Grp.copyNumber_only (g : Grp) (tl : Option Nat) : g.copyNumber tl = { g with tln := (g.copyNumber tl).tln } := by
  cases tl <;> rfl

theorem Grp.tlLast_copyNumber (g : Grp) (tl : Option Nat) (j : Nat) : (g.copyNumber tl).tlLast j = if tl = some j then g.tlLast j + 1 else g.tlLast j := by
  cases tl with
  | none => rfl
  | some t =>
    show Sparse.get (Sparse.set g.tln t _) j = _
    rw [Sparse.get_set]
    by_cases h : j = t
    · subst h; rw [if_pos rfl, if_pos rfl]; rfl
    · rw [if_neg h, if_neg (fun e => h (Option.some.inj e).symm)]; rfl

/-- A copy whose block is in order is queued after its release step. -/
theorem execCopy_queues (h : Issues i (g.guarded f x.k) s g f) (hk : g.upred x.k.toNat = true) (ho : copyObj i g = objectOf x g)
    (hc : s.copyCheck g i (blockScalars x g n) (objectOf x g) (timelineOf x) = none) (hp : s.plainL1 g.core g.ctx) :
    ∃ r, (if x.r = 0#2 then r = s else s.released r g (if x.r = 3#2 then 4 else x.r.toNat)) ∧ s.MemStep r ∧ execCopy i x n s = .next (r.queueCopy g f i x n) := by
  have enters : ∀ r : State, s.MemStep r → r.iss = s.iss ∧ r.grp r.iss.g = g := fun r hm =>
    ⟨hm.iss, by rw [hm.iss]; exact State.grp_of_find (hm.groups.symm ▸ h.found)⟩
  rw [execCopy, issue_runs _ _ h]
  simp only [hk, Bool.not_true, Bool.false_eq_true, if_false, ho]
  have ready : s.copyCheck g i ((List.range n).map (fun j => g.scalar (x.n.toNat + j))) (objectOf x g) (if x.o = 1#1 then none else some x.i.toNat) = none := hc
  simp only [ready]
  by_cases hr : x.r = 0#2
  · refine ⟨s, by rw [if_pos hr], .refl s, ?_⟩
    simp only [hr]
    have here : s.grp s.iss.g = g := State.grp_of_find h.found
    simp only [here]
    rfl
  · obtain ⟨r, hrel, hm, -, run⟩ := State.withRelease_of hp (if x.r = 3#2 then 4 else x.r.toNat)
    refine ⟨r, by rw [if_neg hr]; exact hrel, hm, ?_⟩
    obtain ⟨iss, here⟩ := enters r hm
    have three : (x.r.toNat = 3) = (x.r = 3#2) := propext ⟨fun e => BitVec.eq_of_toNat_eq e, fun e => by rw [e]; rfl⟩
    split
    · rename_i e
      exact absurd (BitVec.eq_of_toNat_eq e) hr
    · simp only [three, run, here]
      rfl

/-- The issue of a copy instruction. -/
theorem copy_issues (hx : exec i s = execCopy i x n s) (ho : copyObj i g = objectOf x g) (h : Issues i (g.guarded f x.k) s g f) (hp : s.plainL1 g.core g.ctx) :
    let b := (List.range n).map (fun j => g.scalar (x.n.toNat + j))
    let obj := if x.o = 1#1 then some (g.scalar x.b.toNat) else none
    let tl := if x.o = 1#1 then none else some x.i.toNat
    (g.upred x.k.toNat = false → Completes i s g (fun k h => h = k)) ∧
    (g.upred x.k.toNat = true → s.copyCheck g i b obj tl = none → CompletesAfter i s g
      (fun v => ∃ r c, (if x.r = 0#2 then r = s else s.released r g (if x.r = 3#2 then 4 else x.r.toNat))
        ∧ v = r.modCore g.core (fun k => { k with dq := k.dq.modify (g.slot / 32) (fun q => q ++ [c]) })
        ∧ c.g = s.iss.g ∧ c.ctx = g.ctx ∧ c.launch = g.launch ∧ c.team = g.team ∧ c.instr = i ∧ c.pc = s.iss.pc ∧ c.block = b ∧ c.obj = obj
        ∧ c.tl = tl.map (fun t => (t, (g.tlLast t + 1).toNat)) ∧ c.flag = flagOf (flagClass i) f.pos.setA f.pos.setB ∧ c.landed = [] ∧ c.count = 0)
      (fun k h => h = { k with tln := h.tln, flags := h.flags } ∧ (∀ j, h.tlLast j = if tl = some j then k.tlLast j + 1 else k.tlLast j)
        ∧ ∀ j, Sparse.get h.flags j = if flagOf (flagClass i) f.pos.setA f.pos.setB = some j then Sparse.get k.flags j + 1 else Sparse.get k.flags j)) ∧
    (g.upred x.k.toNat = true → s.copyCheck g i b obj tl = some .illegal → exec i s = .next (s.trapHere 0x01 0)) := by
  intro b obj tl
  refine ⟨fun hk => ?_, fun hk hc => ?_, fun hk hc => ?_⟩
  · rw [execCopy] at hx
    exact goesOn_of _ _ hx h g (if_pos (by simp [hk])) rfl
  · obtain ⟨r, hr, hm, run⟩ := execCopy_queues h hk ho hc hp
    have only := (g.copyNumber (timelineOf x)).flagUp_only (flagOf (flagClass i) f.pos.setA f.pos.setB)
    have number := g.copyNumber_only (timelineOf x)
    refine ⟨_, _, (g.copyNumber (timelineOf x)).flagUp (flagOf (flagClass i) f.pos.setA f.pos.setB), hx.trans run,
      ⟨r, queuedCopy r g f i x n, hr, rfl, ?_⟩, hm.iss, finish_goesOn _ _, ?_, fun j => ?_, fun j => ?_⟩
    · have number : (queuedCopy r g f i x n).tl = tl.map (fun t => (t, (g.tlLast t + 1).toNat)) := by
        show (timelineOf x).map (fun t => (t, ((g.copyNumber (timelineOf x)).tlLast t).toNat)) = (timelineOf x).map _
        cases htl : timelineOf x with
        | none => rfl
        | some t => rw [Option.map_some, Option.map_some, Grp.tlLast_copyNumber, if_pos rfl]
      exact ⟨congrArg Issue.g hm.iss, rfl, rfl, rfl, rfl, congrArg Issue.pc hm.iss, rfl, rfl, number, rfl, rfl, rfl⟩
    · rw [only, number]
    · rw [only]
      exact g.tlLast_copyNumber (timelineOf x) j
    · rw [Grp.flagUp_get, number]
  · rw [hx, execCopy, issue_runs _ _ h]
    simp only [hk, Bool.not_true, Bool.false_eq_true, if_false, ho]
    have bad : s.copyCheck g i ((List.range n).map (fun j => g.scalar (x.n.toNat + j))) (objectOf x g) (if x.o = 1#1 then none else some x.i.toNat)
      = some .illegal := hc
    simp only [bad]

end

/-- Settles O27: the three forms issue by one rule. -/
theorem copyIssue : Obligations.CopyIssue := by
  rintro i x n s g f (⟨rfl, rfl⟩ | ⟨rfl, rfl⟩ | ⟨rfl, rfl⟩) h hp <;> exact copy_issues rfl rfl h hp

end Sys2Proof.Machine
end

section
/-! PROOF. The dray (12 R293 to R297, R300). -/
namespace Sys2Proof.Machine

section
variable {s : State} {core q : Nat} {c : Copy}

/-- The turn of the quarters, and a place free. -/
theorem copyAccept_takes {n : NextCopy}
    (ho : ((List.range 4).map (fun i => ((s.coreAt core).dlast + 1 + i) % 4)).find? (fun q => (s.nextCopy core q).isSome) = some q)
    (hn : s.nextCopy core q = some n) (hl : (Tab.find s.launches n.copy.launch).isSome = true)
    (hp : ((s.coreAt core).copies.filter (fun p => !p.2.away)).length < 16) :
    exec (.copyAccept core q) s = .next (s.acceptCopy core q n) := by
  have range : s.copyRange core n.copy = some s := if_pos hl
  show execCopyAccept core q s = _
  simp only [execCopyAccept, ho, ne_eq, not_true_eq_false, false_or, if_neg (Nat.not_le.mpr hp), hn, range]

theorem coreBecomes_setCore (s : State) (core : Nat) (k : Core) : coreBecomes s (s.setCore core k) core k :=
  ⟨rfl, by rw [State.coreAt_setCore, if_pos rfl], fun d hd => by rw [State.coreAt_setCore, if_neg hd]⟩

theorem copyAccept_queued (ho : ((List.range 4).map (fun i => ((s.coreAt core).dlast + 1 + i) % 4)).find? (fun q => (s.nextCopy core q).isSome) = some q)
    (hn : s.nextCopy core q = some (.queued c)) (hl : (Tab.find s.launches c.launch).isSome = true)
    (hp : ((s.coreAt core).copies.filter (fun p => !p.2.away)).length < 16) (hc : c.total ≠ 0) :
    let k := s.coreAt core
    ∃ t, exec (.copyAccept core q) s = .next (t.modGrp c.g (fun g => g.flagDown c.flag)) ∧ coreBecomes s t core { k with
      dq := k.dq.modify q (fun cs => cs.erase c), dlast := q
      copies := Tab.put k.copies k.copyNext { c with upto := if copyDir c.instr = 2 then c.total else 0 }, copyNext := k.copyNext + 1 } := by
  intro k
  let u := s.setCore core { k with dq := k.dq.modify q (fun cs => cs.erase c) }
  refine ⟨u.modCore core (fun k => { k with
      copies := Tab.put k.copies k.copyNext { c with upto := if copyDir c.instr = 2 then c.total else 0 }, copyNext := k.copyNext + 1
      dlast := q }), (copyAccept_takes ho hn hl hp).trans (congrArg _ (if_neg hc)), rfl, ?_, fun d hd => ?_⟩
  · rw [State.coreAt_modCore, if_pos rfl, State.coreAt_setCore, if_pos rfl]
  · rw [State.coreAt_modCore, if_neg hd, State.coreAt_setCore, if_neg hd]

end

/-- Settles O28: the two ways to accept a copy, and the landing of a unit. -/
theorem draySteps : Obligations.DraySteps := by
  refine ⟨fun s core q c => ?_, fun s core q n c => ?_, fun s core k q c hf hh hu hs hq hm hx hp => ?_⟩
  · intro k ho hn hl hp hc
    exact copyAccept_queued ho hn hl hp hc
  · intro k ho hn hl hp
    exact copyAccept_takes ho hn hl hp
  · intro t v c1
    have run : exec (.copyUnitLanding core k q) s = .next (if c1.count = c.total then v.copyDone core k c else v.putCopy core k c1) := by
      show execCopyUnitLanding core k q s = _
      have scatter : ∀ x, c.instr = .cpyx x → (decide (x.d = 1#2) && decide (q ≠ c.count)) = false := fun x hi => by
        by_cases hd : x.d = 1#2
        · simp [hx x hi hd]
        · simp [hd]
      rw [execCopyUnitLanding, hf]
      have fresh : c.landed.contains q = false := by simpa using hq
      simp only [hh, decide_eq_false (Nat.not_lt.mpr hu), hs, fresh, hm, hp, Bool.not_true, Bool.or_false, Bool.false_or]
      refine congrArg _ (if_neg ?_)
      split
      · rename_i x hi
        rw [scatter x hi]
        exact Bool.false_ne_true
      · exact Bool.false_ne_true
    exact ⟨fun h => run.trans (congrArg _ (if_neg h)), fun h => run.trans (congrArg _ (if_pos h))⟩

end Sys2Proof.Machine
end

section
/-! PROOF. CRES, and the attempts of a CAPB that waits and of a displaced owner (14 R332, R334, R338). -/
namespace Sys2Proof.Machine

open State (MemStep)

/-! ### An acquire step beside the groups -/

theorem State.acquired_beside {s t : State} {g : Grp} {sc : Nat} {gs : Tab Grp} (h : ({ s with groups := gs } : State).acquired t g sc) :
    s.acquired { t with groups := s.groups } g sc := by
  unfold State.acquired at h ⊢
  have wide : ({ s with groups := gs } : State).wide g sc = s.wide g sc := rfl
  rw [wide] at h
  cases hw : s.wide g sc with
  | false =>
    rw [hw] at h
    simp only [Bool.false_eq_true, if_false] at h ⊢
    rw [h]
  | true =>
    rw [hw] at h
    simp only [if_true] at h ⊢
    obtain ⟨⟨only, bytes, home, cores, core, lines⟩, gone⟩ := h
    exact ⟨⟨by rw [only], bytes, home, cores, core, lines⟩, gone⟩

/-- A group that changes, acquires, and goes on. -/
theorem State.changeAcquire_goesOn {s : State} {g k : Grp} {n : Nat} (hp : s.plainL1 g.core g.ctx) (hc : k.core = g.core) (hx : k.ctx = g.ctx)
    (hw : s.wide k n = s.wide g n) :
    let t := (s.setGrp s.iss.g k).acquire s.iss.g n
    ∃ u, s.acquired u g n ∧ u.iss = s.iss ∧ t.finish (t.grp s.iss.g) = u.finish k := by
  intro t
  have plain : (s.setGrp s.iss.g k).plainL1 k.core k.ctx := by
    rw [hc, hx]
    exact State.plainL1_of (h := g.how 0) hp rfl rfl fun l hl _ => .inl hl
  obtain ⟨ha, hm⟩ := State.acquire_of (s := s.setGrp s.iss.g k) (g := k) Tab.find_put_same plain n
  refine ⟨{ t with groups := s.groups }, ?_, hm.iss, ?_⟩
  · have moved := State.acquired_beside ha
    unfold State.acquired at moved ⊢
    rwa [hw, hc, hx] at moved
  · have groups : t.groups = Tab.put s.groups s.iss.g k := hm.groups
    have here : t.grp s.iss.g = k := State.grp_of_find (by rw [groups]; exact Tab.find_put_same)
    have iss : t.iss = s.iss := hm.iss
    rw [here]
    simp only [State.finish, State.setGrp, groups, iss, Tab.put_put]

/-! ### CRES -/

/-- What CRES changes in its group. -/
theorem Grp.cresDone_only (g : Grp) : g.cresDone = { g with cap := g.cresDone.cap, k := g.cresDone.k, s := g.cresDone.s, spoison := g.cresDone.spoison } := by
  unfold Grp.cresDone
  cases g.cap.st <;> rfl

theorem Grp.cresDone_cap (g : Grp) : g.cresDone.cap.st = .idle ∧ g.cresDone.cap.body = false := ⟨rfl, rfl⟩

section
variable {g : Grp}

theorem Grp.cresDone_told (h : g.cap.st = .doneOwn ∨ g.cap.st = .delivered ∨ g.cap.st = .failed) :
    g.cresDone.upred 6 = decide (g.cap.st ≠ .doneOwn) ∧ g.cresDone.upred 5 = decide (g.cap.st = .failed) ∧ ∀ n, n < 5 → g.cresDone.upred n = g.upred n := by
  have told : ∀ (k : Grp) (a b : Bool), ((k.setUpred 6 a).setUpred 5 b).upred 6 = a ∧ ((k.setUpred 6 a).setUpred 5 b).upred 5 = b
      ∧ ∀ n, n < 5 → ((k.setUpred 6 a).setUpred 5 b).upred n = k.upred n := fun k a b => by
    refine ⟨?_, ?_, fun n hn => ?_⟩
    · rw [Grp.upred_setUpred _ _ _ _ (by omega) (by omega), Grp.upred_setUpred _ _ _ _ (by omega) (by omega)]; rfl
    · rw [Grp.upred_setUpred _ _ _ _ (by omega) (by omega)]; rfl
    · rw [Grp.upred_setUpred _ _ _ _ (by omega) (by omega), Grp.upred_setUpred _ _ _ _ (by omega) (by omega),
        if_neg (by omega), if_neg (by omega), if_neg (by omega), if_neg (by omega)]
  rcases h with h | h | h
  · have := told g false false
    unfold Grp.cresDone
    rw [h]
    exact this
  · have := told { g with s := Sparse.setList g.s 368 (g.cap.results.take 4), spoison := g.spoison.filter (fun n => decide (n < 368) || decide (372 ≤ n)) } true false
    unfold Grp.cresDone
    rw [h]
    exact this
  · have := told g true true
    unfold Grp.cresDone
    rw [h]
    exact this

theorem Grp.cresDone_scalar (n : Nat) : g.cresDone.scalar n =
    if g.cap.st = .delivered ∧ 368 ≤ n ∧ n < 368 + (g.cap.results.take 4).length then g.cap.results.getD (n - 368) 0 else g.scalar n := by
  have kept : ∀ (k : Grp) (i : Nat) (b : Bool), (k.setUpred i b).scalar n = k.scalar n := fun k i b => by
    unfold Grp.setUpred
    split <;> rfl
  have value : g.cresDone.scalar n = if g.cap.st = .delivered then Sparse.get (Sparse.setList g.s 368 (g.cap.results.take 4)) n else g.scalar n := by
    unfold Grp.cresDone
    cases g.cap.st
    case delivered => exact (kept _ _ _).trans (kept _ _ _)
    case doneOwn => exact (kept _ _ _).trans (kept _ _ _)
    case failed => exact (kept _ _ _).trans (kept _ _ _)
    all_goals rfl
  rw [value, Sparse.get_setList]
  by_cases hd : g.cap.st = .delivered
  · by_cases hn : 368 ≤ n ∧ n < 368 + (g.cap.results.take 4).length
    · rw [if_pos hd, if_pos hn, if_pos ⟨hd, hn⟩]
      have : n - 368 < 4 := by
        have := List.length_take_le 4 g.cap.results
        omega
      simp [List.getD_eq_getElem?_getD, this]
    · rw [if_pos hd, if_neg hn, if_neg (fun h => hn h.2)]
      rfl
  · rw [if_neg hd, if_neg (fun h => hd h.1)]

end

/-! ### Attempts -/

/-- A redirected fragment leaves the capsule state. -/
theorem Grp.redirect_cap (g : Grp) (a : Dword) : (g.redirect a).cap = g.cap := by
  unfold Grp.redirect
  split <;> rfl

theorem State.ownerReenter_adopts {s : State} {gid pa : Nat} {g : Grp} (hg : Tab.find s.groups gid = some g) (hp : s.capPa g = some pa)
    (hh : g.inHandler = false) (he : g.escalated = false) (hl : g.life = .resident) (ha : lwActive (s.lock pa) = true) (hd : lwDesched (s.lock pa) = true)
    (hf : lwFail (s.lock pa) = false) (hw : s.adoptDue g pa = true) (hn : lwGen (s.lock pa) = g.cap.gen) :
    ∃ (u : State) (h : Grp), s.ownerReenter gid g = u.acquire gid (lwScope (s.lock pa)).toNat ∧ Tab.find u.groups gid = some h
      ∧ h.cap.st = .hold ∧ h.cap.body = true ∧ h.cap.step = s.homeWord (pa + 8) := by
  have enters : (lwActive (s.lock pa) && lwDesched (s.lock pa) && !lwFail (s.lock pa) && s.adoptDue g pa && decide (lwGen (s.lock pa) = g.cap.gen)
      && !g.inHandler && !g.escalated && (g.life.onCore || decide (g.life = .parked))) = true := by
    rw [ha, hd, hf, hw, hh, he, decide_eq_true hn, hl]
    rfl
  have run : s.ownerReenter gid g = ((s.modGrp gid Grp.dropCres).capAdopt gid pa .hold true).acquire gid (lwScope (s.lock pa)).toNat := by
    unfold State.ownerReenter
    rw [hp]
    exact if_pos enters
  refine ⟨_, _, run, Tab.find_put_same, ?_⟩
  have step : (s.modGrp gid Grp.dropCres).homeWord (pa + 8) = s.homeWord (pa + 8) := by
    rw [State.modGrp_of_find _ hg]
    rfl
  rw [Grp.redirect_cap]
  exact ⟨rfl, rfl, step⟩

/-- Settles O31: CRES by its outcome; an attempt by what waits. -/
theorem capsuleOutcomes : Obligations.CapsuleOutcomes := by
  refine ⟨fun x s g f h => ⟨fun hd => ?_, fun ho hp => ?_⟩, fun s gid g f a x u v hg hd hf hw ho ht hx => ?_, fun s gid pa g hg hd hp hh he hl ha hde hf hw hn => ?_⟩
  · have run : exec (.cres x) s = execCres x s := rfl
    rw [execCres] at run
    exact goesOn_of _ _ run h _ (by simp only [hd]; rfl) ⟨_, g.addOp_begins _, rfl, rfl⟩
  · have run : exec (.cres x) s = execCres x s := rfl
    rw [execCres] at run
    have only := g.cresDone_only
    obtain ⟨u, hu, hi, hf⟩ := State.changeAcquire_goesOn (k := g.cresDone) (n := s.capScope g) hp (by rw [only]) (by rw [only]) (by rw [only]; rfl)
    obtain ⟨six, five, rest⟩ := Grp.cresDone_told ho
    refine completesAfter_of _ _ run h u g.cresDone (Eq.trans ?_ hf) hi hu ⟨only, rfl, rfl, six, five, rest, fun n => Grp.cresDone_scalar n⟩
    rcases ho with ho | ho | ho <;> simp only [ho]
  · show execCapbAttempt gid s = _
    simp only [execCapbAttempt, hg, if_neg hd, hf, hw, ho, Bool.not_true, Bool.false_eq_true, if_false, ht]
    have run : execCapb x u = .next v := hx
    rw [run]
  · obtain ⟨v, h, hv, hx⟩ := State.ownerReenter_adopts hg hp hh he hl ha hde hf hw hn
    refine ⟨v, h, ?_, hx⟩
    show execCapbAttempt gid s = _
    simp only [execCapbAttempt, hg, hd, if_true, hv]

end Sys2Proof.Machine
end

section
/-! PROOF. SVC.D and SVC.C (18 R387, R390, R392). -/
namespace Sys2Proof.Machine

open State (MemStep)

section
variable {s r : State} {g : Grp} {f : Frag} {i : Instr} {x : SvcD}

theorem State.released_dies {sc : Nat} (h : s.released r g sc) : r.dies = s.dies := by
  unfold State.released at h
  split at h
  · obtain ⟨⟨only, -⟩, -⟩ := h
    rw [only]
  · rw [h]

/-- A request stands last in its die's ring. -/
def State.ringWith (s : State) (die : Nat) (e : CallEntry) : State := s.modDie die (fun d => { d with seq := e.seq, calls := d.calls ++ [e] })

theorem State.ringWith_calls {die : Nat} (h : die < s.dies.length) (e : CallEntry) : ((s.ringWith die e).dieAt die).calls = (s.dieAt die).calls ++ [e] := by
  rw [State.ringWith, State.dieAt_modDie _ _ _ _ h, if_pos rfl]

theorem State.requestCall_of (hg : Tab.find s.groups s.iss.g = some g) (hf : g.frag s.iss.slot = some f) (x : SvcD) :
    s.requestCall x = (s.setGrp s.iss.g (g.tlAssign 6 1)).ringWith (coreDie g.core) (s.callEntry (g.tlAssign 6 1) f x) := by
  rw [State.requestCall, State.grp_of_find hg, hf]
  rfl

theorem Grp.tlLast_tlAssign_one (g : Grp) (i : Nat) : (g.tlAssign i 1).tlLast i = g.tlLast i + 1 := by
  show Sparse.get (Sparse.set g.tln i _) i = _
  rw [Sparse.get_set, if_pos rfl]
  rfl

theorem State.awaitReply_of {k : Grp} (hg : Tab.find s.groups s.iss.g = some k) (hf : k.frag s.iss.slot = some f) (n : Dword) :
    s.awaitReply n.toNat = s.setGrp s.iss.g (k.setFrag s.iss.slot (some { f with
      pos := s.iss.after, wait := .service n, arriving := s.iss.last, starved := false, loadFree := false })) := by
  rw [State.awaitReply, State.modGrp_of_find _ hg, hf, BitVec.ofNat_toNat, BitVec.setWidth_eq]

/-- The release step of a request, whose ring is open. -/
theorem service_releases (hg : Tab.find s.groups s.iss.g = some g) (hp : s.plainL1 g.core g.ctx) :
    ∃ r, s.released r g 5 ∧ Tab.find r.groups r.iss.g = some g ∧ r.iss = s.iss ∧ ∀ k : State → State, s.withRelease g 5 k = k r := by
  obtain ⟨r, hr, hm, -, run⟩ := State.withRelease_of hp 5
  exact ⟨r, hr, by rw [hm.groups, hm.iss]; exact hg, hm.iss, run⟩

theorem service_rings {act : Grp → Frag → BitVec 32} {go : State → State} (hx : exec i s = issue i s act (fun s g _ =>
    if s.ringFull g.core g.ctx then s.waitHere .ring else s.withRelease g 5 go)) (h : Issues i (act g f) s g f) (hr : s.ringFull g.core g.ctx = true) :
    Waits i s g f .ring :=
  waits_of _ _ hx h ((if_pos hr).trans (State.waitHere_of h.found h.frag _))

/-- The fragment that waits for the reply to its request. -/
def Frag.asked (f : Frag) (i : Issue) (n : Dword) : Frag :=
  { f with pos := i.after, wait := .service n, arriving := i.last, starved := false, loadFree := false }

theorem svcD_runs (h : Issues (.svcD x) f.mask s g f) (hp : s.plainL1 g.core g.ctx) (hr : s.ringFull g.core g.ctx = false) :
    ∃ r, s.released r g 5 ∧ r.iss = s.iss ∧ exec (.svcD x) s = .next (((r.setGrp s.iss.g (g.tlAssign 6 1)).ringWith (coreDie g.core) (r.callEntry (g.tlAssign 6 1) f x)).setGrp
      s.iss.g ((g.tlAssign 6 1).setFrag s.iss.slot (some (f.asked s.iss (g.tlLast 6 + 1))))) := by
  obtain ⟨r, hrel, hg, iss, run⟩ := service_releases h.found hp
  have hf : g.frag r.iss.slot = some f := by rw [iss]; exact h.frag
  let k := g.tlAssign 6 1
  let v := (r.setGrp r.iss.g k).ringWith (coreDie g.core) (r.callEntry k f x)
  have asked : r.requestCall x = v := State.requestCall_of hg hf x
  have there : Tab.find v.groups r.iss.g = some k := Tab.find_put_same
  have waits : v.awaitReply (k.tlLast 6).toNat = v.setGrp r.iss.g (k.setFrag r.iss.slot (some (f.asked r.iss (k.tlLast 6)))) :=
    State.awaitReply_of (s := v) there hf (k.tlLast 6)
  refine ⟨r, hrel, iss, ?_⟩
  show execSvcD x s = _
  rw [execSvcD, issue_runs _ _ h]
  simp only [hr, Bool.false_eq_true, if_false, run]
  rw [asked, State.grp_of_find there, waits, Grp.tlLast_tlAssign_one]
  simp only [v, k, iss]

theorem svcD_waits (h : Issues (.svcD x) f.mask s g f) (hp : s.plainL1 g.core g.ctx) (hr : s.ringFull g.core g.ctx = false) (hd : coreDie g.core < s.dies.length) :
    ∃ (t r : State) (h : Grp) (e : CallEntry), exec (.svcD x) s = .next t ∧ s.released r g 5 ∧ Tab.find t.groups s.iss.g = some h
      ∧ (t.dieAt (coreDie g.core)).calls = (r.dieAt (coreDie g.core)).calls ++ [e] ∧ e.g = s.iss.g ∧ e.ctx = g.ctx ∧ e.m = f.mask ∧ e.pc = s.iss.pc
      ∧ e.n = (g.tlLast 6 + 1).toNat ∧ (∀ l i, l < 32 → i < 4 → f.mask.getLsbD l = true → (e.slots.getD l []).getD i 0 = g.vreg (x.n.toNat + i) l)
      ∧ h.tlLast 6 = g.tlLast 6 + 1 ∧ h.frag s.iss.slot = some { f with
          pos := s.iss.after, wait := .service (g.tlLast 6 + 1), arriving := s.iss.last, starved := false, loadFree := false } ∧ t.mem = r.mem := by
  obtain ⟨r, hrel, iss, run⟩ := svcD_runs h hp hr
  have last := g.tlLast_tlAssign_one 6
  have only := (g.tlAssign 6 1).setFrag_only s.iss.slot (some (f.asked s.iss (g.tlLast 6 + 1)))
  have there : coreDie g.core < (r.setGrp s.iss.g (g.tlAssign 6 1)).dies.length := by
    have dies : (r.setGrp s.iss.g (g.tlAssign 6 1)).dies = s.dies := (State.released_dies hrel : r.dies = s.dies)
    rw [dies]
    exact hd
  let e := r.callEntry (g.tlAssign 6 1) f x
  refine ⟨_, r, _, e, run, hrel, Tab.find_put_same, State.ringWith_calls there e, congrArg Issue.g iss, rfl, rfl, congrArg Issue.pc iss,
    congrArg BitVec.toNat last, fun l i hl hi hm => ?_, ?_, Grp.frag_setFrag _ _ _, rfl⟩
  · have lane : e.slots.getD l [] = (List.range 4).map (fun i => if f.mask.getLsbD l then (g.tlAssign 6 1).vreg (x.n.toNat + i) l else 0) := by
      simp only [e, State.callEntry, List.getD_eq_getElem?_getD, List.getElem?_map, List.getElem?_range hl, Option.map_some, Option.getD_some]
    rw [lane]
    simp only [List.getD_eq_getElem?_getD, List.getElem?_map, List.getElem?_range hi, Option.map_some, Option.getD_some, hm, if_true]
    rfl
  · rw [only]
    exact last

theorem svcC_runs (h : Issues (.svcC x) f.mask s g f) (hp : s.plainL1 g.core g.ctx) (hr : s.ringFull g.core g.ctx = false) :
    ∃ r, s.released r g 5 ∧ r.iss = s.iss ∧ exec (.svcC x) s = .next ((r.ringWith (coreDie g.core) (r.callEntry (g.tlAssign 6 1) f x)).finish (g.tlAssign 6 1)) := by
  obtain ⟨r, hrel, hg, iss, run⟩ := service_releases h.found hp
  have hf : g.frag r.iss.slot = some f := by rw [iss]; exact h.frag
  let k := g.tlAssign 6 1
  have asked : r.requestCall x = (r.setGrp r.iss.g k).ringWith (coreDie g.core) (r.callEntry k f x) := State.requestCall_of hg hf x
  have here : ((r.setGrp r.iss.g k).ringWith (coreDie g.core) (r.callEntry k f x)).grp r.iss.g = k := State.grp_of_find Tab.find_put_same
  refine ⟨r, hrel, iss, ?_⟩
  show execSvcC x s = _
  rw [execSvcC, issue_runs _ _ h]
  simp only [hr, Bool.false_eq_true, if_false, run]
  rw [asked, here]
  show Host.Outcome.next ({ r with groups := Tab.put (Tab.put r.groups r.iss.g k) r.iss.g _, dies := _ } : State) = _
  rw [Tab.put_put]
  rfl

theorem svcC_goesOn (h : Issues (.svcC x) f.mask s g f) (hp : s.plainL1 g.core g.ctx) (hr : s.ringFull g.core g.ctx = false) (hd : coreDie g.core < s.dies.length) :
    CompletesAfter (.svcC x) s g (fun u => ∃ (r : State) (e : CallEntry), s.released r g 5 ∧ u = { r with dies := u.dies }
        ∧ (u.dieAt (coreDie g.core)).calls = (r.dieAt (coreDie g.core)).calls ++ [e] ∧ e.g = s.iss.g ∧ e.m = f.mask ∧ e.n = (g.tlLast 6 + 1).toNat)
      (fun k h => h = { k with tln := h.tln } ∧ h.tlLast 6 = k.tlLast 6 + 1) := by
  obtain ⟨r, hrel, iss, run⟩ := svcC_runs h hp hr
  have there : coreDie g.core < r.dies.length := by rw [State.released_dies hrel]; exact hd
  exact ⟨_, _, _, run, ⟨r, _, hrel, rfl, State.ringWith_calls there _, congrArg Issue.g iss, rfl, congrArg BitVec.toNat (g.tlLast_tlAssign_one 6)⟩, iss,
    finish_goesOn _ _, rfl, g.tlLast_tlAssign_one 6⟩

/-- A fragment whose reply has come acquires as it resumes. -/
theorem service_resumes {gid slot : Nat} (hg : Tab.find s.groups gid = some g) (hf : g.frag slot = some f) (hw : f.wait = .service 0) (hm : g.mayIssue f = true)
    (hp : s.plainL1 g.core g.ctx) : ∃ u, s.turnOf gid slot = .done u ∧ (s.setGrp gid (g.setFrag slot (some { f with wait := .none }))).acquired u g 5 := by
  let k := g.setFrag slot (some { f with wait := .none })
  have only : g.onlyFrags k := g.setFrag_only _ _
  have plain : (s.setGrp gid k).plainL1 k.core k.ctx := by
    rw [only]
    exact State.plainL1_of (h := g.how 0) hp rfl rfl fun l hl _ => .inl hl
  have acquired := (State.acquire_of (s := s.setGrp gid k) (g := k) Tab.find_put_same plain 5).1
  refine ⟨(s.setGrp gid k).acquire gid 5, ?_, ?_⟩
  · have served : f.served = true := by rw [Frag.served, hw]
    unfold State.turnOf
    simp only [hg, hf, hm, served, Bool.not_true, Bool.false_eq_true, if_false, if_true]
    rfl
  · unfold State.acquired at acquired ⊢
    have wide : (s.setGrp gid k).wide k 5 = (s.setGrp gid k).wide g 5 := rfl
    have core : k.core = g.core := by rw [only]
    have ctx : k.ctx = g.ctx := by rw [only]
    rwa [wide, core, ctx] at acquired

end

/-- Settles O32: SVC.D, its resumption, and SVC.C. -/
theorem serviceCalls : Obligations.ServiceCalls :=
  ⟨fun _ _ _ _ h hp => ⟨fun hr => service_rings (show exec _ _ = execSvcD _ _ from rfl) h hr, fun hr hd => svcD_waits h hp hr hd⟩,
    fun _ _ _ _ _ hg hf hw hm hp => service_resumes hg hf hw hm hp,
    fun _ _ _ _ h hp => ⟨fun hr => service_rings (show exec _ _ = execSvcC _ _ from rfl) h hr, fun hr hd => svcC_goesOn h hp hr hd⟩⟩

end Sys2Proof.Machine
end

section
/-! PROOF. How service calls are taken and answered (18 R387, R389, R390, R392, R393). -/
namespace Sys2Proof.Machine

/-! ### Taking a request -/

theorem State.modDie_modDie {s : State} {d : Nat} (hd : d < s.dies.length) (f k : Die → Die) : (s.modDie d f).modDie d k = s.modDie d (fun x => k (f x)) := by
  have value : (s.modDie d f).dieAt d = f (s.dieAt d) := by rw [State.dieAt_modDie _ _ _ _ hd, if_pos rfl]
  unfold State.modDie at value ⊢
  simp only [value, List.set_set]

section
variable {s : State} {die : Nat} {e : CallEntry} {r : List CallEntry}

theorem State.takeCall_of (hd : die < s.dies.length) (hc : (s.dieAt die).calls = e :: r) (hh : s.callHandler e = none) :
    s.takeCall die e = some (s.modDie die (fun d => { d with calls := r, serving := d.serving ++ [e] })) := by
  have first : s.takeCall die e = some ((s.modDie die (fun d => { d with calls := d.calls.erase e })).modDie die (fun d => { d with serving := d.serving ++ [e] })) := by
    unfold State.takeCall
    rw [hh]
  have gone : (s.dieAt die).calls.erase e = r := by rw [hc, List.erase_cons_head]
  rw [first, State.modDie_modDie hd]
  unfold State.modDie
  simp only [gone]

theorem serviceRequestTake_takes (hd : die < s.dies.length) (hu : s.svcDown die = false) (hc : (s.dieAt die).calls = e :: r) (hh : s.callHandler e = none)
    (hn : s.svcNext die e.ctx = true) : exec (.serviceRequestTake die) s =
      .next ((s.modDie die (fun d => { d with calls := r, serving := d.serving ++ [e] })).svcCount die e.ctx) := by
  have takes := State.takeCall_of hd hc hh
  have first : (s.dieAt die).calls.find? (fun e => s.svcNext die e.ctx && (s.takeCall die e).isSome) = some e := by
    rw [hc, List.find?_cons_of_pos (by rw [hn, takes]; rfl)]
  show execServiceRequestTake die s = _
  simp only [execServiceRequestTake, hu, Bool.false_eq_true, if_false, first, takes]

end

/-! ### A call that is answered -/

theorem State.callDone_groups (s : State) (w : CallAt) (e : CallEntry) : (s.callDone w e).groups = s.groups := by
  unfold State.callDone State.modLaunch
  dsimp only
  split <;> split <;> rfl

theorem State.callDone_serving (s : State) (d : Nat) (e c : CallEntry) (h : c ∈ ((s.callDone (.die d) e).dieAt d).serving) : c ∈ (s.dieAt d).serving := by
  have dies : (s.callDone (.die d) e).dieAt d = (s.modDie d (fun k => { k with serving := k.serving.erase e })).dieAt d := by
    unfold State.callDone State.modLaunch
    dsimp only
    split <;> rfl
  rw [dies] at h
  by_cases hd : d < s.dies.length
  · rw [State.dieAt_modDie _ _ _ _ hd, if_pos rfl] at h
    exact List.mem_of_mem_erase h
  · have out : s.modDie d (fun k => { k with serving := k.serving.erase e }) = s := by
      unfold State.modDie
      rw [List.set_eq_of_length_le (Nat.not_lt.mp hd)]
    rwa [out] at h

/-! ### The results of a reply -/

/-- Register `p.2` of a reply's results goes to line `p.1`. -/
def Grp.putReply (e : CallEntry) (ws : List (List Word)) (k : Grp) (p : Nat × Nat) : Grp :=
  if p.1 < k.nlines then k.writeLine p.1 e.m (fun l => (ws.getD l []).getD p.2 0) else k

theorem Grp.applyReply_eq (g : Grp) (e : CallEntry) (ws : List (List Word)) :
    g.applyReply e ws = ((e.lines.zipIdx.foldl (Grp.putReply e ws) g).replied e.n).tlComplete 6 e.n := rfl

theorem Grp.putReply_only (e : CallEntry) (ws : List (List Word)) (k : Grp) (p : Nat × Nat) : k.onlyLines (k.putReply e ws p) := by
  unfold Grp.putReply
  split
  · exact Grp.writeLine_only _ _ _ _
  · rfl

theorem Grp.putReplies_only (e : CallEntry) (ws : List (List Word)) (ps : List (Nat × Nat)) (g : Grp) : g.onlyLines (ps.foldl (Grp.putReply e ws) g) := by
  induction ps generalizing g with
  | nil => rfl
  | cons p r ih => exact Grp.onlyLines_trans (Grp.putReply_only e ws g p) (ih _)

theorem Grp.putReplies_word (e : CallEntry) (ws : List (List Word)) (n l : Nat) (hl : l < 32) (ps : List (Nat × Nat)) (hp : (ps.map Prod.fst).Nodup) (g : Grp)
    (hi : ∀ p, p ∈ ps → p.1 < g.nlines) :
    (ps.foldl (Grp.putReply e ws) g).word n l = match ps.find? (fun p => decide (p.1 = n)) with
      | some (_, i) => if e.m.getLsbD l then (ws.getD l []).getD i 0 else g.word n l
      | none => g.word n l := by
  induction ps generalizing g with
  | nil => rfl
  | cons p r ih =>
    simp only [List.map_cons, List.nodup_cons] at hp
    obtain ⟨hnew, hrest⟩ := hp
    have lines : (g.putReply e ws p).nlines = g.nlines := by rw [Grp.putReply_only e ws g p]
    have put : (g.putReply e ws p).word n l = if n = p.1 ∧ e.m.getLsbD l = true then (ws.getD l []).getD p.2 0 else g.word n l := by
      rw [Grp.putReply, if_pos (hi p (.head _)), Grp.word_writeLine _ _ _ _ _ _ hl]
    rw [List.foldl_cons, ih hrest _ (fun q hq => lines ▸ hi q (.tail _ hq)), put]
    by_cases hn : p.1 = n
    · have out : r.find? (fun p => decide (p.1 = n)) = none := by
        simp only [List.find?_eq_none, decide_eq_true_eq]
        exact fun q hq e => hnew (List.mem_map.mpr ⟨q, hq, by rw [e, hn]⟩)
      rw [out, List.find?_cons_of_pos (by simpa using hn)]
      simp only [hn, true_and]
    · rw [List.find?_cons_of_neg (by simpa using hn), if_neg (fun h => hn h.1.symm)]

section
variable {s : State} {gid n d : Nat} {g : Grp} {e : CallEntry}

theorem Grp.applyReply_word (hn : e.lines.Nodup) (hi : ∀ ln, ln ∈ e.lines → ln < g.nlines) (ws : List (List Word)) (ln l : Nat) (hl : l < 32) :
    (g.applyReply e ws).word ln l = match e.lines.zipIdx.find? (fun p => decide (p.1 = ln)) with
      | some (_, i) => if e.m.getLsbD l then (ws.getD l []).getD i 0 else g.word ln l
      | none => g.word ln l := by
  have word : (g.applyReply e ws).word ln l = (e.lines.zipIdx.foldl (Grp.putReply e ws) g).word ln l := rfl
  rw [word, Grp.putReplies_word e ws ln l hl _ (by rw [List.zipIdx_map_fst]; exact hn) g (fun p hp => hi _ (List.fst_mem_of_mem_zipIdx hp))]

theorem Grp.applyReply_f0 (ws : List (List Word)) {f : Frag} (hf : g.f0 = some f) (hw : f.wait = .service (BitVec.ofNat 64 e.n)) (hn : e.n < 2 ^ 64) :
    (g.applyReply e ws).f0 = some { f with wait := .service 0 } := by
  have f0 : (g.applyReply e ws).f0 = (e.lines.zipIdx.foldl (Grp.putReply e ws) g).f0.map (fun f => f.replied e.n) := rfl
  have same : (BitVec.ofNat 64 e.n).toNat = e.n := by rw [BitVec.toNat_ofNat, Nat.mod_eq_of_lt hn]
  rw [f0, Grp.putReplies_only e ws _ g]
  simp only [hf, Option.map_some, Frag.replied, hw, same, if_true]

theorem serviceCallReply_lands (hc : s.callOf gid n = some (.die d, e)) (he : e.control = false) (hg : Tab.find s.groups gid = some g) (hn : e.lines.Nodup)
    (hi : ∀ ln, ln ∈ e.lines → ln < g.nlines) (hl : g.canLand e.lines = true) :
    let ws := s.serviceWords d e
    ∃ (t : State) (h : Grp), exec (.serviceCallReply gid n) s = .next t ∧ Tab.find t.groups gid = some h
      ∧ (∀ ln l, l < 32 → h.word ln l = match e.lines.zipIdx.find? (fun p => decide (p.1 = ln)) with
          | some (_, i) => if e.m.getLsbD l then (ws.getD l []).getD i 0 else g.word ln l
          | none => g.word ln l)
      ∧ (∀ f, g.f0 = some f → f.wait = .service (BitVec.ofNat 64 e.n) → e.n < 2 ^ 64 → h.f0 = some { f with wait := .service 0 })
      ∧ (∀ c, c ∈ (t.dieAt d).serving → c ∈ (s.dieAt d).serving) := by
  intro ws
  have there : Tab.find (s.callDone (.die d) e).groups gid = some g := by rw [State.callDone_groups]; exact hg
  refine ⟨(s.callDone (.die d) e).setGrp gid (g.applyReply e ws), g.applyReply e ws, ?_, Tab.find_put_same, fun ln l hl => Grp.applyReply_word hn hi ws ln l hl,
    fun f hf hw hn => Grp.applyReply_f0 ws hf hw hn, fun c h => s.callDone_serving d e c h⟩
  show execServiceCallReply gid n s = _
  simp only [execServiceCallReply, hc, he, State.grp_of_find hg, hl, Bool.not_true, Bool.or_false, Bool.false_eq_true, if_false, State.modGrp_of_find _ there]
  rfl

/-- A reply to a group that is gone is discarded. -/
theorem serviceCallReply_gone (hc : s.callOf gid n = some (.die d, e)) (hg : Tab.find s.groups gid = none) :
    exec (.serviceCallReply gid n) s = .next (if e.control then s else s.callDone (.die d) e) := by
  have none_there : s.grp gid = grpInit := by rw [State.grp, Tab.findD, hg]; rfl
  have lands : grpInit.canLand e.lines = true := by
    rw [Grp.canLand, show grpInit.matrixLines = [] from rfl]
    simp
  have noone : ∀ f, (s.callDone (.die d) e).modGrp gid f = s.callDone (.die d) e := fun f => by
    rw [State.modGrp, State.callDone_groups, hg]
  show execServiceCallReply gid n s = _
  simp only [execServiceCallReply, hc, none_there, lands, Bool.not_true, Bool.or_false, noone]

theorem controlReply_writes {status : Nat} {results : List Byte} (hc : s.callOf gid n = some (.die d, e)) (he : e.control = true) :
    exec (.controlReply gid n status results) s = .next (if e.lost then s.callDone (.die d) e
      else ((s.callDone (.die d) e).replyBlock e (if e.number ≤ 1 then status else 0xFFFF) results).modGrp gid (fun k => k.tlComplete 6 n)) := by
  show execControlReply gid n status results s = _
  simp only [execControlReply, hc, he, Bool.not_true, Bool.false_eq_true, if_false]

end

/-- Settles O33: a request that is taken, and the replies of its two classes. -/
theorem serviceSteps : Obligations.ServiceSteps :=
  ⟨fun _ _ _ _ hd hu hc hh hn => serviceRequestTake_takes hd hu hc hh hn, fun _ _ _ _ _ _ hc he hg hn hi hl => serviceCallReply_lands hc he hg hn hi hl,
    fun _ _ _ _ _ hc hg => serviceCallReply_gone hc hg, fun _ _ _ _ _ _ _ hc he => controlReply_writes hc he⟩

end Sys2Proof.Machine
end

section
/-! PROOF. PARK, PARK_RETURN and RETIRE (01 R33 to R37; 14 R333). -/
namespace Sys2Proof.Machine

open State (MemStep)

/-! ### What leaves the groups as they are -/

theorem State.raiseEvent_groups (s : State) (x : Nat) (rs : List Rcd) : (s.raiseEvent x rs).groups = s.groups := by
  unfold State.raiseEvent
  split <;> rfl

theorem State.modLaunch_groups (s : State) (l : Nat) (f : Launch → Launch) : (s.modLaunch l f).groups = s.groups := by
  unfold State.modLaunch
  split <;> rfl

theorem State.sweepTeam_groups (s : State) (core l team : Nat) : (s.sweepTeam core l team).groups = s.groups := by
  unfold State.sweepTeam
  dsimp only
  rw [apply_ite State.groups]
  exact ite_self _

theorem State.launchWbRcds_groups (s : State) (core lid : Nat) (l : Launch) (ls : List L1Line) : (s.launchWbRcds core lid l ls).groups = s.groups := by
  induction ls generalizing s with
  | nil => rfl
  | cons ln r ih =>
    unfold State.launchWbRcds
    split
    · exact ih s
    · dsimp only
      rw [ih, State.modLaunch_groups, State.raiseEvent_groups]
      exact (s.traced_memStep _).groups

theorem State.launchLeaves_groups (s : State) (core lid : Nat) : (s.launchLeaves core lid).groups = s.groups := by
  unfold State.launchLeaves
  split
  · rfl
  · split
    · rfl
    · exact (State.launchWbRcds_groups _ _ _ _ _).trans (s.releaseL1_memStep _ _ _).groups

theorem State.teamDone_groups (s : State) (lid team : Nat) : (s.teamDone lid team).groups = s.groups := by
  have done : ∀ f, (s.modLaunch lid f).groups = s.groups := fun f => s.modLaunch_groups lid f
  unfold State.teamDone
  split
  · rfl
  · split
    · rfl
    · split
      · dsimp only
        split
        · split
          · exact done _
          · exact (State.homeSetDword_memStep _ _ _).groups.trans (done _)
        · exact done _
      · rfl

theorem State.freeRoasts_groups (s : State) : s.freeRoasts.groups = s.groups := by
  have once : ∀ t : State, t.freeRoastsOnce.groups = t.groups := fun t => by
    unfold State.freeRoastsOnce
    dsimp only
    split <;> rfl
  exact (once _).trans (once s)

/-- A group that is dropped is gone. -/
theorem State.dropGroup_gone (s : State) (gid : Nat) (ended : Bool) : Tab.find (s.dropGroup gid ended).groups gid = none := by
  unfold State.dropGroup
  split
  · assumption
  · dsimp only
    rw [State.freeRoasts_groups, State.teamDone_groups, State.launchLeaves_groups, State.sweepTeam_groups, State.modLaunch_groups]
    exact Tab.find_drop.trans (if_pos rfl)

/-! ### Parking -/

section
variable {s : State} {gid n : Nat} {g : Grp}

/-- A group that is in no body, and no commit of which is in flight, stops nothing. -/
theorem State.capStop_outside {k : Grp} (hc : k.cstepOp = none) (hb : k.cap.body = false) : (s.setGrp gid k).capStop gid false = s.setGrp gid k := by
  have here : (s.setGrp gid k).grp gid = k := State.grp_of_find Tab.find_put_same
  unfold State.capStop
  rw [here, hc]
  unfold State.capDesched
  dsimp only
  rw [here, Grp.inBody, hb]
  rfl

theorem park_parks (hg : Tab.find s.groups gid = some g) (hd : s.parkDue g = true) (hb : g.cap.body = false) (hc : g.cstepOp = none) (ha : g.atService = false) :
    exec (.park gid) s = .next (s.setGrp gid { g with life := .parked, parkcnt := g.parkcnt + 1 }) := by
  show execPark gid s = _
  have stop := State.capStop_outside (s := s) (gid := gid) (k := { g with life := .parked, parkcnt := g.parkcnt + 1 }) hc hb
  simp only [execPark, hg, hd, Bool.not_true, Bool.false_eq_true, if_false, ha, stop]

/-- A group that waits at no REGX returns without a resize. -/
theorem State.regrow_none {k : Grp} (hr : ∀ p, p ∈ k.allFrags → ∀ a q m, p.2.wait ≠ .regx a q m) : (s.setGrp gid k).regrow gid = s.setGrp gid k := by
  have here : (s.setGrp gid k).grp gid = k := State.grp_of_find Tab.find_put_same
  unfold State.regrow
  rw [here]
  refine if_neg (fun h => ?_)
  obtain ⟨p, hp, hw⟩ := List.any_eq_true.mp h
  split at hw
  · exact hr p hp _ _ _ ‹_›
  · exact Bool.false_ne_true hw

/-- The lowest free slot. -/
theorem find_lowest {N : Nat} (hn : n < N) {u : List Nat} (hf : n ∉ u) (hl : ∀ k, k < n → k ∈ u) : (List.range N).find? (fun k => !u.contains k) = some n := by
  rw [List.find?_range_eq_some]
  exact ⟨by simpa using hf, List.mem_range.mpr hn, fun k hk => by simpa using hl k hk⟩

theorem parkReturn_returns (hg : Tab.find s.groups gid = some g) (hd : s.returnDue g = true) (hb : g.cap.body = false)
    (hr : ∀ p, p ∈ g.allFrags → ∀ a q m, p.2.wait ≠ .regx a q m) (hn : n < 128) (hf : n ∉ (s.roomOf g.core g.ctx).slots)
    (hl : ∀ k, k < n → k ∈ (s.roomOf g.core g.ctx).slots) : exec (.parkReturn gid) s = .next (s.setGrp gid { g with life := .resident, slot := n }) := by
  have back : (s.setGrp gid { g with life := .resident, slot := n }).bodyReturn gid = (s.setGrp gid { g with life := .resident, slot := n }, true) := by
    unfold State.bodyReturn
    dsimp only
    split
    · rfl
    · exact State.capReturn_outside (by rw [State.grp_of_find (s := s.setGrp gid _) Tab.find_put_same]; exact hb)
  show execParkReturn gid s = _
  simp only [execParkReturn, hg, hd, Bool.not_true, Bool.false_eq_true, if_false, find_lowest hn hf hl, back]
  exact congrArg _ (State.regrow_none (k := { g with life := .resident, slot := n }) hr)

theorem retire_goes (hg : Tab.find s.groups gid = some g) (hm : g.mayRetire = true)
    (hl : ∀ l, Tab.find s.launches g.launch = some l → l.r.tG = true → g.team = 0 → g.froze.1 = true) : exec (.retire gid) s = .next (s.dropGroup gid false) := by
  show execRetire gid s = _
  simp only [execRetire, hg, hm, Bool.not_true, Bool.false_eq_true, if_false]
  split
  · rename_i l hf
    have stays : (l.r.tG && decide (g.team = 0) && !g.froze.1) = false := by
      cases htg : l.r.tG with
      | false => rfl
      | true =>
        by_cases ht : g.team = 0
        · simp [hl l hf htg ht]
        · simp [ht]
    rw [stays]
    rfl
  · rfl

end

/-- Settles O34: parking, the return, and the end of a group. -/
theorem parkingAndRetiring : Obligations.ParkingAndRetiring := by
  refine ⟨fun s gid g hg hd hb hc ha => park_parks hg hd hb hc ha, fun s gid n g hg hd hb hr hn hf hl => parkReturn_returns hg hd hb hr hn hf hl,
    fun s gid g hg h0 h1 hs hf hp hd hr hq hk he hl hg0 => ⟨retire_goes hg ?_ hg0, s.dropGroup_gone gid false⟩⟩
  have flags : (List.range 12).all (fun i => decide (g.flagVal i = 0)) = true := List.all_eq_true.mpr fun i hi => decide_eq_true (hf i (List.mem_range.mp hi))
  have paths : (List.range 4).all (fun i => decide (Sparse.get g.paths i = 0)) = true :=
    List.all_eq_true.mpr fun i hi => decide_eq_true (hp i (List.mem_range.mp hi))
  rw [Grp.mayRetire, h0, h1, hs, flags, paths, hd, hr, hq, hk, he, hl]
  rfl

end Sys2Proof.Machine
end

section
/-! PROOF. LAUNCH (18 R375, R376). -/
namespace Sys2Proof.Machine

open State (MemStep)

section
variable {s : State} {g : Grp} {f : Frag} {x : Xn} {r : XOk}

/-- The block that an instruction reads as the group's own access at scope .g, and the state after it. -/
def State.ownBlock (s : State) (g : Grp) (r : XOk) (a : Dword) (n : Nat) : (List Byte × Bool) × State :=
  (s.xCommit g.core r).readGlobal ((g.how s.iss.pc).on r.path) (va48 a) r.pa n

/-- The block is read, and the release step done; what follows finds the group as it was. -/
theorem State.ownBlock_releases (hg : Tab.find s.groups s.iss.g = some g) {a : Dword} {n sc : Nat} (hp : (s.ownBlock g r a n).2.plainL1 g.core g.ctx) :
    ∃ v, (s.ownBlock g r a n).2.released v g sc ∧ s.MemStep v ∧ v.grp v.iss.g = g ∧ ∀ k : State → State, (s.ownBlock g r a n).2.withRelease g sc k = k v := by
  have read : s.MemStep (s.ownBlock g r a n).2 := (s.xCommit_memStep _ _).trans (State.readGlobal_memStep _ _ _ _ _)
  obtain ⟨v, hv, hm, -, run⟩ := State.withRelease_of hp sc
  have all := read.trans hm
  exact ⟨v, hv, all, State.grp_of_find (by rw [all.groups, all.iss]; exact hg), run⟩

/-- The launch that an issue queues. -/
def pendingOf (s : State) (g : Grp) (x : Xn) (f : Frag) (block : List Byte) : PendingLaunch :=
  let l := Tab.findD s.launches g.launch launchInit
  ⟨s.iss.g, g.ctx, g.launch, g.sup, block, ((g.tlAssign 5 1).tlLast 5).toNat, s.clockOf g.core, flagOf (flagClass (.launch x)) f.pos.setA f.pos.setB,
    l.r.cls, l.r.prio, l.pace, l.th, l.thEn⟩

/-- The group that has queued a launch. -/
def Grp.queuesLaunch (g : Grp) (flag : Option Nat) (e : PendingLaunch) : Grp := ({ g.tlAssign 5 1 with pend := g.pend ++ [e] } : Grp).flagUp flag

theorem launch_queues (h : Issues (.launch x) (g.guarded f x.k) s g f) (hk : g.upred x.k.toNat = true) (hl : g.pend.length < 4)
    (ha : (g.scalar (x.n.toNat + 1) ++ g.scalar x.n.toNat).toNat % 64 = 0)
    (ht : s.translate g.core g.ctx g.sup (g.scalar (x.n.toNat + 1) ++ g.scalar x.n.toNat) .read = .ok r) (hv : r.void = false)
    (hp : (s.ownBlock g r (g.scalar (x.n.toNat + 1) ++ g.scalar x.n.toNat) 64).2.plainL1 g.core g.ctx) :
    let q := s.ownBlock g r (g.scalar (x.n.toNat + 1) ++ g.scalar x.n.toNat) 64
    ∃ v, q.2.released v g 4 ∧ s.MemStep v
      ∧ exec (.launch x) s = .next (v.finish (g.queuesLaunch (flagOf (flagClass (.launch x)) f.pos.setA f.pos.setB) (pendingOf v g x f q.1.1))) := by
  intro q
  obtain ⟨v, hrel, hm, hgv, run⟩ := State.ownBlock_releases (sc := 4) h.found hp
  refine ⟨v, hrel, hm, ?_⟩
  have pair : g.scalarPair x.n.toNat = g.scalar (x.n.toNat + 1) ++ g.scalar x.n.toNat := rfl
  show execLaunch x s = _
  rw [execLaunch, issue_runs _ _ h]
  simp only [hk, Bool.not_true, Bool.false_eq_true, if_false, if_neg (Nat.not_le.mpr hl), pair, ha, ne_eq, not_true_eq_false, ht, hv]
  refine congrArg _ ((run _).trans ?_)
  rw [hgv]
  rfl

end

/-- Settles O36: LAUNCH by its guard, its queue, and its record. -/
theorem launchIssue : Obligations.LaunchIssue := by
  intro x s g f r h a q flag
  have run : exec (.launch x) s = execLaunch x s := rfl
  rw [execLaunch] at run
  refine ⟨fun hk => goesOn_of _ _ run h g (if_pos (by simp [hk])) rfl,
    fun hk hl => waits_of _ _ run h (((if_neg (by simp [hk])).trans (if_pos hl)).trans (State.waitHere_of h.found h.frag _)), fun hk hl ha ht hv hp => ?_⟩
  obtain ⟨v, hrel, hm, done⟩ := launch_queues h hk hl ha ht hv hp
  have last : ∀ i, (g.tlAssign 5 1).tlLast i = if i = 5 then g.tlLast 5 + 1 else g.tlLast i := fun i => by
    show Sparse.get (Sparse.set g.tln 5 _) i = _
    rw [Sparse.get_set]
    rfl
  let e := pendingOf v g x f q.1.1
  let k : Grp := { g.tlAssign 5 1 with pend := g.pend ++ [e] }
  have only := k.flagUp_only flag
  refine ⟨_, v, g.queuesLaunch flag e, done, hrel, hm.iss, finish_goesOn v _, ?_, fun i => ?_, fun i => Grp.flagUp_get _ _ _, e, ?_, congrArg Issue.g hm.iss,
    rfl, rfl, rfl, rfl, congrArg BitVec.toNat (last 5), rfl⟩
  · have pend : (k.flagUp flag).pend = k.pend := by rw [only]
    have tln : (k.flagUp flag).tln = k.tln := by rw [only]
    show k.flagUp flag = { g with pend := (k.flagUp flag).pend, tln := (k.flagUp flag).tln, flags := (k.flagUp flag).flags }
    rw [pend, tln]
    exact only
  · show (k.flagUp flag).tlLast i = _
    rw [only]
    exact last i
  · show (k.flagUp flag).pend = _
    rw [only]

end Sys2Proof.Machine
end

section
/-! SUPPORT. Pouring and creating groups (10 R250, R256; 19 R404) leaves roasts, contexts and the instruction being issued as they are: one lemma per operation. -/
namespace Sys2Proof.Machine

open State (MemStep)

/-- `t` is `s` but for groups, launches, and what a memory step changes; and memory stays in its canonical form. -/
structure State.PourStep (s t : State) : Prop where
  frame : t = { s with groups := t.groups, nextGroup := t.nextGroup, launches := t.launches, freeCtr := t.freeCtr, mem := t.mem, memPoison := t.memPoison,
                       codeLog := t.codeLog, l2 := t.l2, dir := t.dir, cores := t.cores, dies := t.dies }
  canon : s.memOk → t.memOk

namespace State.PourStep

variable {s t u : State}

theorem refl (s : State) : s.PourStep s := ⟨rfl, id⟩

theorem trans (a : s.PourStep t) (b : t.PourStep u) : s.PourStep u := ⟨by rw [b.frame, a.frame], fun h => b.canon (a.canon h)⟩

theorem ofMem (h : s.MemStep t) : s.PourStep t := ⟨by rw [h.frame], h.canon⟩

theorem roasts (h : s.PourStep t) : t.roasts = s.roasts := by rw [h.frame]
theorem iss (h : s.PourStep t) : t.iss = s.iss := by rw [h.frame]
theorem ctxs (h : s.PourStep t) : t.ctxs = s.ctxs := by rw [h.frame]

/-- A change of groups and launches beside memory. -/
theorem beside (f : t = { s with groups := t.groups, nextGroup := t.nextGroup, launches := t.launches, cores := t.cores, dies := t.dies }) : s.PourStep t :=
  have hm : t.mem = s.mem := by rw [f]
  ⟨by rw [f], State.memOk_of_mem hm⟩

theorem foldl {α : Type} {f : State → α → State} (hf : ∀ (s : State) x, s.PourStep (f s x)) (xs : List α) (s : State) : s.PourStep (xs.foldl f s) := by
  induction xs generalizing s with
  | nil => exact refl s
  | cons x r ih => exact (hf s x).trans (ih _)

end State.PourStep

open State (PourStep)

theorem State.modLaunch_pourStep (s : State) (l : Nat) (f : Launch → Launch) : s.PourStep (s.modLaunch l f) := by
  unfold State.modLaunch
  split
  · exact .beside rfl
  · exact .refl s

theorem State.setGrp_pourStep (s : State) (n : Nat) (g : Grp) : s.PourStep (s.setGrp n g) := .beside rfl

theorem State.modGrp_pourStep (s : State) (n : Nat) (f : Grp → Grp) : s.PourStep (s.modGrp n f) := by
  unfold State.modGrp
  split
  · exact .beside rfl
  · exact .refl s

theorem State.acquire_memStep (s : State) (gid sc : Nat) : s.MemStep (s.acquire gid sc) := by
  unfold State.acquire
  dsimp only
  split
  · exact s.acquireL1_memStep _ _ _
  · exact .refl s

theorem State.addGroup_pourStep (s : State) (lid team k : Nat) (g : Grp) : s.PourStep (s.addGroup lid team k g) := by
  have added : s.PourStep (({ s with groups := Tab.put s.groups s.nextGroup g, nextGroup := s.nextGroup + 1 } : State).modCore g.core
    (fun c => { c with ageNext := c.ageNext + 1 })) := .beside rfl
  exact added.trans (State.modLaunch_pourStep _ _ _)

theorem State.createGroup_pourStep (s : State) (lid team k : Nat) : s.PourStep (s.createGroup lid team k) := by
  unfold State.createGroup
  split
  · exact .refl s
  · split
    · exact .refl s
    · exact (s.addGroup_pourStep _ _ _ _).trans (.ofMem (State.acquire_memStep _ _ _))

theorem State.pourGroup_pourStep (s : State) (lid team k : Nat) (p : RoastPart) (sh : Nat → Nat) (sc : Nat) : s.PourStep (s.pourGroup lid team k p sh sc) := by
  unfold State.pourGroup
  split
  · exact .refl s
  · split
    · exact .refl s
    · exact (s.addGroup_pourStep _ _ _ _).trans (.ofMem (State.acquire_memStep _ _ _))

theorem State.pourWindow_pourStep (s : State) (lid team c ro : Nat) (r : Roast) : s.PourStep (s.pourWindow lid team c ro r) := by
  unfold State.pourWindow
  split
  · exact .refl s
  · exact .ofMem (s.modCore_memStep _ _)

theorem State.pourGrid_pourStep (s : State) (lid team : Nat) : s.PourStep (s.pourGrid lid team) := by
  unfold State.pourGrid
  split
  · exact .refl s
  · split
    · split
      · exact .refl s
      · refine (PourStep.foldl (fun u c => u.pourWindow_pourStep _ _ _ _ _) _ s).trans (PourStep.foldl (fun u k => ?_) _ _)
        split
        · exact u.pourGroup_pourStep _ _ _ _ _ _
        · exact .refl u
    · exact .refl s

theorem State.noteStart_pourStep (s : State) (lid die : Nat) (l : Launch) : s.PourStep (s.noteStart lid die l) := by
  unfold State.noteStart
  split
  · exact .ofMem (s.modDie_memStep _ _)
  · exact .refl s

theorem State.startTeam_pourStep (s : State) (lid team : Nat) : s.PourStep (s.startTeam lid team) := by
  unfold State.startTeam
  split
  · exact .refl s
  · split
    · exact .refl s
    · dsimp only
      split
      · exact .refl s
      · refine PourStep.trans ?_ (State.noteStart_pourStep _ _ _ _)
        split
        · exact s.pourGrid_pourStep _ _
        · exact PourStep.foldl (fun u k => u.createGroup_pourStep _ _ _) _ s

theorem State.pourTeam_pourStep (s : State) (lid team : Nat) : s.PourStep (s.pourTeam lid team) := by
  unfold State.pourTeam
  split
  · exact .refl s
  · split
    · exact .refl s
    · split
      · exact .refl s
      · exact PourStep.foldl (fun u k => u.pourGroup_pourStep _ _ _ _ _ _) _ s

theorem State.pourDue_pourStep (s : State) (lid : Nat) : s.PourStep (s.pourDue lid) := by
  unfold State.pourDue
  split
  · exact .refl s
  · split
    · exact .refl s
    · exact PourStep.foldl (fun u t => (u.startTeam_pourStep _ _).trans (State.pourTeam_pourStep _ _ _)) _ s

end Sys2Proof.Machine
end

section
/-! PROOF. An RCV whose entry is complete at once (05 R127 to R129). -/
namespace Sys2Proof.Machine

/-! ### RCV -/

theorem State.leadsTo_fetched {s u : State} {g : Grp} {a : Dword} (h : s.leadsTo u g a) : s.fetched u := by
  obtain ⟨w, hw, -⟩ := h
  exact s.fetchWord_fetched g a w u hw

/-- An RCV of some lane, with an empty entry: the entry is written, and the fragment goes on. -/
theorem rcv_runs {x : Br} {s u : State} {g : Grp} {f : Frag} (h : Issues (.rcv x) 0 s g f) (hl : s.leadsTo u g (branchTarget s.iss.pc x.o))
    (hm : f.mask &&& g.pred x.g.toNat ≠ 0) (hr : g.split.length < 64) :
    exec (.rcv x) s = .next (u.finish (g.newEntry (branchTarget s.iss.pc x.o) (f.mask &&& g.pred x.g.toNat))) := by
  have room : ¬ g.emptyEntries = 0 := by
    unfold Grp.emptyEntries
    omega
  show execRcv x s = _
  rw [execRcv, issue_runs _ _ h]
  exact congrArg _ ((withTarget_leads _ (by simp) hl).trans ((if_neg hm).trans (if_neg room)))

/-! ### An RCV that ends its clause, on the header after it -/

/-- RCV to the word after it, by every lane. -/
def rcvNext : Br := ⟨[], 7, 1⟩

/-- A group whose one fragment issues that RCV as the last word of its clause; the word after it is a header. -/
def rcvGrp : Grp := { loadGrp with launch := 0 }

def rcvFrag : Frag := { fragAt (BitVec.ofNat 64 loadAt) (BitVec.allOnes 32) with pos := ⟨BitVec.ofNat 64 loadAt, 1, 0#4, 1#4, false⟩ }

def rcvLast : State := { State.reset.loadTerkor [0] with
  agenda := [], groups := [(0, rcvGrp)]
  mem := Sparse.setList [] loadAt ((encodeHeader ⟨0, 0, 1, 0, false⟩ :: (encode (.rcv rcvNext) ++ [encodeHeader ⟨0, 0, 1, 0, false⟩])).flatMap (fun (w : Word) => leBytes 4 w.toNat))
  iss := ⟨0, 0, BitVec.ofNat 64 (loadAt + 4), encode (.rcv rcvNext), BitVec.ofNat 64 (loadAt + 4), true, posAt (BitVec.ofNat 64 (loadAt + 8)), false, 0, 0⟩ }

theorem rcvLast_issues : Issues (.rcv rcvNext) 0 rcvLast rcvGrp rcvFrag := by
  refine ⟨rfl, rfl, ?_, ?_, ?_, ?_, ?_, ?_⟩ <;> decide

theorem rcvLast_leads : ∃ u, rcvLast.leadsTo u rcvGrp (branchTarget rcvLast.iss.pc rcvNext.o) := by
  have header : (match rcvLast.fetchWord rcvGrp (branchTarget rcvLast.iss.pc rcvNext.o) with
      | .ok (w, _) => decide (wordClass w = .header)
      | .error _ => false) = true := by decide
  split at header
  · exact ⟨_, _, ‹_›, of_decide_eq_true header⟩
  · cases header

/-- The fragment goes on to the header of its entry, every lane of the entry has arrived, and the entry is empty again. -/
theorem rcvLast_fuses :
    Tab.find ((rcvGrp.newEntry (branchTarget rcvLast.iss.pc rcvNext.o) (rcvFrag.mask &&& rcvGrp.pred rcvNext.g.toNat)).advance 0 rcvLast.iss).split 0 = none := by
  decide

/-- Refutes O35, in its clause of RCV: where RCV ends its clause and names the header after it, the fragment arrives there with all lanes of the entry, which fuses
at once (05 R128, R129) and does not stand in the split table. -/
theorem not_controlFormsComplete : ¬ Obligations.ControlFormsComplete := by
  unfold Obligations.ControlFormsComplete
  intro h
  obtain ⟨⟨-, -, -, -, rcv, -⟩, -⟩ := h
  obtain ⟨u, lead⟩ := rcvLast_leads
  have some_lane : rcvFrag.mask &&& rcvGrp.pred rcvNext.g.toNat ≠ 0 := by decide
  obtain ⟨t, k, run, found, entry⟩ := rcv rcvNext rcvLast u rcvGrp rcvFrag 0 rcvLast_issues lead some_lane (by decide) rfl
  rw [rcv_runs rcvLast_issues lead some_lane (by decide)] at run
  cases run
  have iss : u.iss = rcvLast.iss := State.fetched_iss (State.leadsTo_fetched lead)
  rw [State.finish, iss] at found
  cases (Tab.find_put_same.symm.trans found)
  rw [show rcvLast.iss.slot = 0 from rfl, rcvLast_fuses] at entry
  cases entry

end Sys2Proof.Machine
end

section
/-! SUPPORT. What is read at the home slice after a write there (07 R193; 17 R350). -/
namespace Sys2Proof.Machine

theorem State.homeByte_eq (s : State) (a : Nat) : s.homeByte a = s.homeAt false a := by
  rw [State.homeAt_eq, State.homeByte]
  rfl

theorem State.homeByte_homeWrite (s : State) (pa : Nat) (bs : List Byte) (w : Bool) (a : Nat) (h : pa % 128 + bs.length ≤ 128) :
    (s.homeWrite pa bs w).homeByte a = if pa ≤ a ∧ a < pa + bs.length then bs.getD (a - pa) 0 else s.homeByte a := by
  rw [State.homeByte_eq, State.homeAt_homeWrite _ _ _ _ _ _ h, State.homeByte_eq]

/-- What is read depends on the bytes at the home alone. -/
theorem State.homeRead_congr {s t : State} {a n : Nat} (h : ∀ i, i < n → t.homeByte (a + i) = s.homeByte (a + i)) : t.homeRead a n = s.homeRead a n := by
  rw [State.homeRead_eq, State.homeRead_eq]
  exact List.map_congr_left fun i hi => h i (List.mem_range.mp hi)

theorem State.homeRead_homeWrite (s : State) (pa : Nat) (bs : List Byte) (w : Bool) (h : pa % 128 + bs.length ≤ 128) :
    (s.homeWrite pa bs w).homeRead pa bs.length = bs := by
  rw [State.homeRead_eq]
  refine List.ext_getElem (by simp) fun i hi hb => ?_
  rw [List.getElem_map, List.getElem_range, State.homeByte_homeWrite _ _ _ _ _ h, if_pos (by omega), Nat.add_sub_cancel_left, List.getD_eq_getElem?_getD,
    List.getElem?_eq_getElem hb]
  rfl

theorem State.homeRead_homeWrite_apart (s : State) (pa : Nat) (bs : List Byte) (w : Bool) (h : pa % 128 + bs.length ≤ 128) {a n : Nat}
    (ha : a + n ≤ pa ∨ pa + bs.length ≤ a) : (s.homeWrite pa bs w).homeRead a n = s.homeRead a n :=
  State.homeRead_congr fun i hi => by rw [State.homeByte_homeWrite _ _ _ _ _ h, if_neg (by omega)]

theorem State.homeDword_homeSetDword (s : State) (pa v : Nat) (h : pa % 128 + 8 ≤ 128) : (s.homeSetDword pa v).homeDword pa = v % 2 ^ 64 := by
  have written := s.homeRead_homeWrite pa (leBytes 8 v) true (by rw [leBytes_length]; exact h)
  rw [leBytes_length] at written
  rw [State.homeDword, State.homeSetDword, written]
  exact leNat_leBytes

theorem State.homeWord_homeSetWord (s : State) (pa v : Nat) (h : pa % 128 + 4 ≤ 128) : (s.homeSetWord pa v).homeWord pa = v % 2 ^ 32 := by
  have written := s.homeRead_homeWrite pa (leBytes 4 v) true (by rw [leBytes_length]; exact h)
  rw [leBytes_length] at written
  rw [State.homeWord, State.homeSetWord, written]
  exact leNat_leBytes

theorem State.homeDword_homeWrite_apart (s : State) (pa : Nat) (bs : List Byte) (w : Bool) (h : pa % 128 + bs.length ≤ 128) {a : Nat}
    (ha : a + 8 ≤ pa ∨ pa + bs.length ≤ a) : (s.homeWrite pa bs w).homeDword a = s.homeDword a := by
  rw [State.homeDword, State.homeRead_homeWrite_apart _ _ _ _ h ha, State.homeDword]

theorem State.homeWord_homeWrite_apart (s : State) (pa : Nat) (bs : List Byte) (w : Bool) (h : pa % 128 + bs.length ≤ 128) {a : Nat}
    (ha : a + 4 ≤ pa ∨ pa + bs.length ≤ a) : (s.homeWrite pa bs w).homeWord a = s.homeWord a := by
  rw [State.homeWord, State.homeRead_homeWrite_apart _ _ _ _ h ha, State.homeWord]

end Sys2Proof.Machine
end

section
/-! PROOF. The acceptance of a launch record, the end of a launch, and its completion block (18 R374, R377, R380). -/
namespace Sys2Proof.Machine

open State (MemStep PourStep)

/-! ### Acceptance -/

theorem launchAccept_accepts {s : State} {die gid : Nat} {e : PendingLaunch}
    (hh : leastBy (fun p => if (s.dieAt die).rr < p.1 then p.1 else p.1 + 2 ^ 64) ((s.pendHeads die).filter (fun p => s.pendReady p.2)) = some (gid, e))
    (hf : s.procFree die = true) (hv : (readRecord e.rcd).valid = true) :
    let r0 := readRecord e.rcd
    let r1 := e.lower r0
    let r := if r0.cls = 2 ∧ r1.cls ≠ 2 then { r1 with dline := 0 } else r1
    exec (.launchAccept die) s = .next ((s.dropPending die e).acceptRecord
      ⟨die, e.ctx, e.sup, some (e.g, e.n), none, e.issued, none, e.pace, e.th, e.thEn, none⟩ r true) ∧ r.cls ≤ e.cls ∧ r.prio ≤ e.prio := by
  intro r0 r1 r
  refine ⟨?_, ?_, ?_⟩
  · show execLaunchAccept die s = _
    simp only [execLaunchAccept, hh, hv, hf, Bool.not_true, Bool.false_eq_true, if_false, Bool.not_false, Bool.and_true]
    rfl
  · show (if r0.cls = 2 ∧ r1.cls ≠ 2 then { r1 with dline := 0 } else r1).cls ≤ e.cls
    split <;> exact Nat.min_le_right _ _
  · show (if r0.cls = 2 ∧ r1.cls ≠ 2 then { r1 with dline := 0 } else r1).prio ≤ e.prio
    split <;> exact Nat.min_le_right _ _

theorem acceptRecord_launches {s t : State} {a : Accepting} {r : LRec} {dl : Bool} {ws : List (Word × Bool)} (hv : r.valid = true)
    (hp : a.privOk = true ∨ r.priv = false) (hg : s.grantOk a.ctx r = true) (hq : a.queue = none) (ha : a.absolute = none)
    (hw : s.preloadWords a.die a.ctx r 0 r.npre = (some ws, t)) :
    ∃ l, Tab.find (s.acceptRecord a r dl).launches s.nextLaunch = some l ∧ l.ctx = a.ctx ∧ l.launcher = a.launcher ∧ l.r = r ∧ l.die = a.die ∧ l.next = 0
      ∧ l.done = 0 ∧ l.teams = [] ∧ l.st = .running ∧ l.refused = false ∧ l.preload = ws ∧ l.id = t.launchId + 1
      ∧ l.deadline = (if r.cls = 2 ∧ dl = true then some (a.base + 1000 * r.dline) else none) := by
  have ok : (r.valid && (a.privOk || !r.priv) && s.grantOk a.ctx r && decide (a.absolute ≠ some none)) = true := by
    rcases hp with h | h <;> simp [hv, h, hg, ha]
  unfold State.acceptRecord
  simp only [ok]
  simp only [if_true, hw, hq, ha, Option.isNone_some, Bool.not_true, Bool.or_self, Bool.false_eq_true, if_false]
  rw [apply_ite State.launches]
  refine ⟨_, (congrArg (Tab.find · _) (ite_self _)).trans Tab.find_put_same, rfl, rfl, rfl, rfl, rfl, rfl, rfl, rfl, rfl, rfl, rfl, rfl⟩

/-! ### The completion block -/

section
variable {s : State} {die x : Nat} {sup : Bool} {cblk : Dword} {inc last : Nat}

/-- The count and the last result of a completion block at `pa`. -/
def State.countDone (s : State) (pa inc last : Nat) : State :=
  let u := if last = 0 then s else (s.homeSetWord (pa + 8) ((s.homeWord (pa + 8) + 1) % 2 ^ 32)).homeWrite (pa + 12) (leBytes 1 last) true
  u.homeSetDword pa ((u.homeDword pa + inc) % 2 ^ 64)

theorem State.countDone_memStep (s : State) (pa inc last : Nat) : s.MemStep (s.countDone pa inc last) := by
  unfold State.countDone
  refine MemStep.trans ?_ (State.homeSetDword_memStep _ _ _)
  split
  · exact .refl _
  · exact (State.homeSetWord_memStep _ _ _).trans (State.homeWrite_memStep _ _ _ _)

theorem State.completeBlock_memStep (s : State) (die x : Nat) (sup : Bool) (cblk : Dword) (inc last : Nat) : s.MemStep (s.completeBlock die x sup cblk inc last) := by
  unfold State.completeBlock
  split
  · exact .refl s
  · split
    · exact s.traced_memStep _
    next r _ =>
      split
      · exact s.traced_memStep _
      · exact ((s.traced_memStep r.tr).trans (State.countDone_memStep _ r.pa inc last)).trans (State.trackPath_memStep _ _ _)

theorem State.completeBlock_eq {r : XOk} (hc : cblk ≠ 0) (ha : cblk.toNat % 16 = 0) (hw : s.walkVa die x sup cblk .atomic = .ok r) (hv : r.void = false)
    (hd : r.tr.dsets = []) (ht : ∀ c, c ∈ s.chain x → (s.ctxAt c).dirtyMap = none) :
    s.completeBlock die x sup cblk inc last = (s.useFree r.tr.drew).countDone r.pa inc last := by
  have plain : s.traced r.tr = s.useFree r.tr.drew := by rw [State.traced, hd]; rfl
  have good : ¬(cblk = 0 ∨ cblk.toNat % 16 ≠ 0) := fun h => h.elim hc (· ha)
  unfold State.completeBlock
  rw [if_neg good, hw]
  simp only [hv, Bool.false_eq_true, if_false, plain]
  refine State.trackPath_off _ _ _ fun c h => ?_
  have kept := ((State.useFree_memStep s r.tr.drew).trans (State.countDone_memStep _ r.pa inc last)).ctxs
  exact (congrArg (fun cs => (State.ctxAt { s with ctxs := cs } c).dirtyMap) kept).trans (ht c h)

theorem State.countDone_words (s : State) {pa : Nat} (hp : pa % 16 = 0) (inc last : Nat) :
    (s.countDone pa inc last).homeDword pa = (s.homeDword pa + inc) % 2 ^ 64
      ∧ (s.countDone pa inc last).homeWord (pa + 8) = (if last = 0 then s.homeWord (pa + 8) else (s.homeWord (pa + 8) + 1) % 2 ^ 32)
      ∧ (last ≠ 0 → last < 256 → (s.countDone pa inc last).homeByte (pa + 12) = BitVec.ofNat 8 last) := by
  have one : (leBytes 1 last).length = 1 := leBytes_length
  have four (v : Nat) : (leBytes 4 v).length = 4 := leBytes_length
  have eight (v : Nat) : (leBytes 8 v).length = 8 := leBytes_length
  unfold State.countDone
  by_cases hl : last = 0
  · simp only [if_pos hl]
    refine ⟨?_, ?_, fun h => absurd hl h⟩
    · rw [State.homeDword_homeSetDword _ _ _ (by omega), Nat.mod_mod]
    · exact State.homeWord_homeWrite_apart _ _ _ _ (by rw [eight]; omega) (by rw [eight]; omega)
  · simp only [if_neg hl]
    refine ⟨?_, ?_, fun _ hs => ?_⟩
    · rw [State.homeDword_homeSetDword _ _ _ (by omega), Nat.mod_mod, State.homeDword_homeWrite_apart _ _ _ _ (by rw [one]; omega) (by rw [one]; omega)]
      rw [State.homeSetWord, State.homeDword_homeWrite_apart _ _ _ _ (by rw [four]; omega) (by rw [four]; omega)]
    · refine (State.homeWord_homeWrite_apart _ _ _ _ (by rw [eight]; omega) (by rw [eight]; omega)).trans ?_
      rw [State.homeWord_homeWrite_apart _ _ _ _ (by rw [one]; omega) (by rw [one]; omega), State.homeWord_homeSetWord _ _ _ (by omega), Nat.mod_mod]
    · rw [State.homeSetDword, State.homeByte_homeWrite _ _ _ _ _ (by rw [eight]; omega), if_neg (by rw [eight]; omega),
        State.homeByte_homeWrite _ _ _ _ _ (by rw [one]; omega), if_pos (by rw [one]; omega), Nat.sub_self]
      rfl

end

/-! ### The end of a launch -/

theorem finishLaunch_gone (s : State) (lid : Nat) (l : Launch) (last : Nat) :
    Tab.find (s.finishLaunch lid l last).launches lid = none ∧ (∀ p, p ∈ (s.finishLaunch lid l last).roasts → p.2.launch ≠ lid) := by
  refine ⟨?_, fun p hp => ?_⟩
  · exact (Tab.find_drop ..).trans (if_pos rfl)
  · exact of_decide_eq_true (List.mem_filter.mp hp).2

theorem finishLaunch_completes {s : State} {lid g n : Nat} {l : Launch} {h : Grp} (last : Nat) (hl : l.launcher = some (g, n)) (hq : l.queue = none)
    (hg : Tab.find s.groups g = some h) : Tab.find (s.finishLaunch lid l last).groups g = some (h.tlComplete 5 n) := by
  have found : Tab.find (s.completeBlock l.die l.ctx l.r.priv l.r.cblk l.r.inc last).groups g = some h := by
    rw [(s.completeBlock_memStep l.die l.ctx l.r.priv l.r.cblk l.r.inc last).groups, hg]
  unfold State.finishLaunch
  simp only [hq, hl, State.launcherDone]
  show Tab.find (State.modGrp _ g _).groups g = _
  rw [State.modGrp_of_find _ found]
  exact Tab.find_put_same

theorem launchCompletion_finishes {s : State} {lid : Nat} {l : Launch} (hl : Tab.find s.launches lid = some l) (ho : s.launchOver lid l = true)
    (he : s.earlierOpen l = false) :
    exec (.launchCompletion lid) s = .next (s.finishLaunch lid l (if l.refused then 1 else if l.aborted then 2 else 0)) := by
  show execLaunchCompletion lid s = _
  simp only [execLaunchCompletion, hl, ho, he, Bool.not_false, Bool.and_self, if_true]

/-- Settles O37: the pending entry that is taken, the launch's fields, what a finished launch leaves, and the words of its completion block. -/
theorem launchSteps : Obligations.LaunchSteps := by
  unfold Obligations.LaunchSteps
  refine ⟨fun s die gid e hh => ?_, fun s a r dl ws t hv hp hg hq ha hw => acceptRecord_launches hv hp hg hq ha hw, fun s lid l hl ho he => ?_,
    fun s die x sup cblk inc last r hc ha hp hw hv hd ht => ?_⟩
  · intro r0 r1 r hf hv
    exact launchAccept_accepts hh hf hv
  · refine ⟨launchCompletion_finishes hl ho he, fun last => ?_⟩
    obtain ⟨gone, roasts⟩ := finishLaunch_gone s lid l last
    exact ⟨gone, roasts, fun g n h hn hq hg => finishLaunch_completes last hn hq hg⟩
  · intro t
    show (s.completeBlock die x sup cblk inc last).homeDword r.pa = _ ∧ (s.completeBlock die x sup cblk inc last).homeWord (r.pa + 8) = _
      ∧ (_ → _ → (s.completeBlock die x sup cblk inc last).homeByte (r.pa + 12) = _)
    rw [State.completeBlock_eq hc ha hw hv hd ht]
    exact State.countDone_words (s.useFree r.tr.drew) hp inc last

end Sys2Proof.Machine
end

section
/-! PROOF. Teams are admitted in the order of their class; what a created group starts with (19 R402 to R404; 01 R16). -/
namespace Sys2Proof.Machine

open State (MemStep)

theorem teamAdmission_picks {s : State} {die cl : Nat} (hd : die < 4) (hc : cl < 12) (hb : s.comesBackTo (12 * die + cl) = false) :
    exec (.teamAdmission die cl) s = .next (((s.noteAll.pickClasses die (12 * die + cl) [2, 1, 0]).deadlinePreempt die (12 * die + cl)).noteAll) := by
  have free : ¬(4 ≤ die ∨ 12 ≤ cl ∨ s.comesBackTo (12 * die + cl) = true) := by rw [hb]; simp [hd, hc]
  show execTeamAdmission die cl s = _
  rw [execTeamAdmission, if_neg free]

section
variable {s : State} {cl i : Nat} {l : Launch} (die : Nat) (rest : List Nat)

theorem State.pickFrom_admits {t : State} (hl : Tab.find s.launches i = some l) (ht : s.tryAdmit i cl l = some t) :
    s.pickFrom die cl (i :: rest) = (t, true) := by
  simp only [State.pickFrom, hl, ht]

theorem State.pickFrom_skips (hl : Tab.find s.launches i = some l) (ht : s.tryAdmit i cl l = none) (hs : l.skips < 63) :
    s.pickFrom die cl (i :: rest) = (s.modLaunch i (fun k => { k with skips := k.skips + 1 })).pickFrom die cl rest := by
  simp only [State.pickFrom, hl, ht, if_neg (Nat.not_le.mpr (Nat.succ_lt_succ hs))]

theorem State.pickFrom_reserves (hl : Tab.find s.launches i = some l) (ht : s.tryAdmit i cl l = none) (hs : 63 ≤ l.skips) :
    s.pickFrom die cl (i :: rest) = ((s.modLaunch i (fun k => { k with skips := k.skips + 1 })).modDie die (fun d =>
      { d with reserved := (cl, i) :: d.reserved.filter (fun p => decide (p.1 ≠ cl)) }), true) := by
  simp only [State.pickFrom, hl, ht, if_pos (Nat.succ_le_succ hs)]

end

theorem State.addGroup_adds (s : State) (lid team k : Nat) (g : Grp) : Tab.find (s.addGroup lid team k g).groups s.nextGroup = some g := by
  unfold State.addGroup
  rw [State.modLaunch_groups]
  exact Tab.find_put_same

theorem State.createGroup_creates {s : State} {lid team k core slot fidx : Nat} {l : Launch} {t : Team} (hl : Tab.find s.launches lid = some l)
    (ht : Tab.find l.teams team = some t) (hp : t.places[k]? = some (core, slot, fidx)) :
    Tab.find (s.createGroup lid team k).groups s.nextGroup = some (s.newGroup lid team k l core slot fidx (s.coreAt core).ageNext) := by
  unfold State.createGroup
  simp only [hl, ht, Option.bind_some, hp]
  rw [(State.acquire_memStep _ _ _).groups]
  exact s.addGroup_adds ..

theorem State.newGroup_lanes (s : State) (lid team k : Nat) (l : Launch) (core slot fidx age n : Nat) (hn : n < 32) :
    (s.newGroup lid team k l core slot fidx age).gmask.getLsbD n = decide (32 * k + n < l.r.lanes) := by
  show (maskWhere _).getLsbD n = _
  rw [maskWhere_getLsbD, decide_eq_true hn, Bool.true_and]

/-- A list of preload words reads as the words and zeros behind them. -/
theorem getD_map_fst_take (ps : List (Word × Bool)) {m n : Nat} (hn : n < m) : ((ps.take m).map (fun p => p.1)).getD n 0 = (ps.getD n (0, false)).1 := by
  rw [List.getD_eq_getElem?_getD, List.getD_eq_getElem?_getD, List.getElem?_map, List.getElem?_take_of_lt hn]
  cases ps[n]? <;> rfl

theorem State.newGroup_scalar (s : State) (lid team k : Nat) (l : Launch) (core slot fidx age n : Nat) (hn : n < 16 * l.r.nsc) :
    (s.newGroup lid team k l core slot fidx age).scalar n = (l.preload.getD n (0, false)).1 := by
  rw [← getD_map_fst_take l.preload hn]
  show Sparse.get (Sparse.setList [] 0 _) n = _
  rw [Sparse.get_setList, Nat.zero_add, Nat.sub_zero]
  split
  · rfl
  next h =>
    rw [List.getD_eq_getElem?_getD, List.getElem?_eq_none (Nat.le_of_not_lt fun c => h ⟨Nat.zero_le n, c⟩)]
    rfl

theorem State.newGroup_zero (s : State) (lid team k : Nat) (l : Launch) (core slot fidx age : Nat) :
    let h := s.newGroup lid team k l core slot fidx age
    (∀ ln n, h.word ln n = 0) ∧ (∀ i, i < 7 → h.pred i = 0 ∧ h.upred i = false) ∧ ∀ i, h.flagVal i = 0 :=
  ⟨fun _ _ => rfl, fun _ hi => ⟨if_neg (Nat.ne_of_lt hi), (if_neg (Nat.ne_of_lt hi)).trans (BitVec.getLsbD_zero)⟩, fun _ => rfl⟩

/-- Settles O38: the order of the launches, the three ways that a try ends, and the created group field by field. -/
theorem teamAdmission : Obligations.TeamAdmission := by
  unfold Obligations.TeamAdmission
  refine ⟨fun s die cl hd hc hb => teamAdmission_picks hd hc hb, fun s die cl i rest l hl =>
    ⟨fun t ht => State.pickFrom_admits die rest hl ht, State.pickFrom_skips die rest hl, State.pickFrom_reserves die rest hl⟩,
    fun s lid team k l t core slot fidx hl ht hp => ?_⟩
  obtain ⟨words, preds, flags⟩ := s.newGroup_zero lid team k l core slot fidx (s.coreAt core).ageNext
  exact ⟨_, State.createGroup_creates hl ht hp, rfl, rfl, rfl, rfl, rfl, s.newGroup_lanes lid team k l core slot fidx _, rfl, rfl, rfl, words, preds, flags,
    rfl, rfl, rfl, rfl, s.newGroup_scalar lid team k l core slot fidx _⟩

end Sys2Proof.Machine
end

section
/-! PROOF. A doorbell binds or refreshes a queue's slot, and a fetch hands over the record at the read index (19 R396 to R401). -/
namespace Sys2Proof.Machine

/-! ### The doorbell -/

section
variable {s t : State} {x q : Nat} {r : XOk}

/-- The slots in their order: 24 of each die. -/
theorem slotList_eq : slotList = (List.range 96).map (fun j => (j / 24, j % 24)) := by decide

theorem slotList_lowest {die n : Nat} {f : Nat → Bool} (hd : die < 4) (hn : n < 24) (hf : f n = true) (low : ∀ m, m < n → f m = false) :
    slotList.find? (fun p => decide (p.1 = die) && f p.2) = some (die, n) := by
  have first : (List.range 96).find? ((fun p : Nat × Nat => decide (p.1 = die) && f p.2) ∘ fun j => (j / 24, j % 24)) = some (24 * die + n) := by
    rw [List.find?_range_eq_some]
    refine ⟨?_, List.mem_range.mpr (by omega), fun j hj => ?_⟩
    · show (decide ((24 * die + n) / 24 = die) && f ((24 * die + n) % 24)) = true
      rw [show (24 * die + n) / 24 = die by omega, show (24 * die + n) % 24 = n by omega, hf, decide_eq_true rfl, Bool.and_self]
    · show (!(decide (j / 24 = die) && f (j % 24))) = true
      by_cases hq : j / 24 = die
      · rw [low (j % 24) (by omega), Bool.and_false, Bool.not_false]
      · rw [decide_eq_false hq, Bool.false_and, Bool.not_false]
  rw [slotList_eq, List.find?_map, first, Option.map_some]
  exact congrArg some (Prod.ext (by show (24 * die + n) / 24 = die; omega) (by show (24 * die + n) % 24 = n; omega))

theorem State.chooseSlot_free {die n : Nat} (cls : Nat) (hd : die < 4) (hn : n < 24) (hf : (s.slotAt die n).st = .free)
    (low : ∀ m, m < n → (s.slotAt die m).st ≠ .free) : s.chooseSlot die cls = some (die, n) := by
  have same : (fun p : Nat × Nat => decide (p.1 = die) && decide ((s.slotAt p.1 p.2).st = .free))
      = fun p => decide (p.1 = die) && decide ((s.slotAt die p.2).st = .free) := by
    funext p
    by_cases h : p.1 = die
    · rw [h]
    · rw [decide_eq_false h, Bool.false_and, Bool.false_and]
  unfold State.chooseSlot
  simp only [same, slotList_lowest hd hn (decide_eq_true hf) fun m hm => decide_eq_false (low m hm)]

theorem doorbell_rings {addr val : Nat} (hw : addr < 2 ^ 52 → s.homeWord addr = val) (hb : s.bellCtx addr = some x) (hv : val < 2 ^ 16)
    (hc : val < (s.ctxAt x).qcount) (hs : (s.ctxAt x).st = .active ∨ (s.ctxAt x).st = .frozen) : exec (.doorbell addr val) s = .next (s.ring x val) := by
  have landed : ¬(addr < 2 ^ 52 ∧ s.homeWord addr ≠ val) := fun h => h.2 (hw h.1)
  have good : ¬(val / 2 ^ 16 ≠ 0 ∨ (s.ctxAt x).qcount ≤ val ∨ ¬((s.ctxAt x).st = .active ∨ (s.ctxAt x).st = .frozen)) := by
    rw [Nat.div_eq_of_lt hv]
    exact fun h => h.elim (· rfl) fun h => h.elim (Nat.not_le.mpr hc) (· hs)
  show execDoorbell addr val s = _
  rw [execDoorbell, if_neg landed]
  simp only [hb, if_neg good]

section
variable (hr : s.walkVa (s.bellDie x) x true (BitVec.ofNat 64 ((s.ctxAt x).qtab + 64 * q)) .write = .ok r) (hv : r.void = false)
  (hc : (s.traced r.tr).checkQueue (s.bellDie x) x q r.pa = (true, t))
include hr hv hc

theorem State.ring_refreshes {d n : Nat} (h : t.slotOf x q = some (d, n)) :
    s.ring x q = t.setSlot d n { t.slotAt d n with
      rung := (t.dieAt d).clock, write := t.qWrite (t.slotAt d n).desc, seen := (t.slotAt d n).seen ++ [(t.qWrite (t.slotAt d n).desc, t.codeLog.length)] } := by
  unfold State.ring
  simp only [hr, hv, hc, h, Bool.false_eq_true, if_false, Bool.not_true, QSlot.reads]

theorem State.ring_binds {n : Nat} (h : t.slotOf x q = none) (hn : n < 24) (hd : s.bellDie x < 4) (hf : (t.slotAt (s.bellDie x) n).st = .free)
    (low : ∀ m, m < n → (t.slotAt (s.bellDie x) m).st ≠ .free) : s.ring x q = t.bindSlot (s.bellDie x, n) x q r.pa := by
  unfold State.ring
  simp only [hr, hv, hc, h, State.chooseSlot_free _ hd hn hf low, Bool.false_eq_true, if_false, Bool.not_true]

end

theorem State.slotAt_setSlot (s : State) {d n : Nat} (k : QSlot) (hd : d < s.dies.length) (hn : n < (s.dieAt d).slots.length) :
    (s.setSlot d n k).slotAt d n = k := by
  unfold State.setSlot State.slotAt
  rw [State.dieAt_modDie _ _ _ _ hd, if_pos rfl]
  exact (List.getD_eq_getElem?_getD ..).trans (congrArg (·.getD slotInit) (List.getElem?_set_self hn))

end

/-! ### The fetch -/

section
variable (s : State) (k : QSlot) (i pa : Nat)

/-- The record of a fetched entry is the old one or the new one. -/
theorem State.entryBytes_either : (s.entryBytes k i pa).1 = s.homeRead pa 64 ∨ some (s.entryBytes k i pa).1 = s.entryThen k i pa := by
  unfold State.entryBytes
  split
  · exact .inl rfl
  next old h =>
    dsimp only
    split
    · exact .inr h.symm
    · exact .inl rfl

/-- What no write has touched since the write index was read is the new record. -/
theorem State.entryThen_untouched (h : ∀ p, p ∈ k.seen → i < p.1 → s.codeLog.length ≤ p.2) : s.entryThen k i pa = none := by
  unfold State.entryThen
  split
  · rfl
  next w mark hf =>
    have late := h (w, mark) (List.mem_of_find?_eq_some hf) (of_decide_eq_true (p := i < w) (List.find?_some (p := fun p : Nat × Nat => decide (i < p.1)) hf))
    simp only [Nat.sub_eq_zero_of_le late, List.take_zero, List.filter_nil, List.isEmpty_nil, if_true]

theorem State.entryBytes_untouched (h : ∀ p, p ∈ k.seen → i < p.1 → s.codeLog.length ≤ p.2) : (s.entryBytes k i pa).1 = s.homeRead pa 64 := by
  rw [State.entryBytes, s.entryThen_untouched k i pa h]

end

theorem queueFetch_accepts {s t : State} {die n : Nat} {w : XOk} :
    let k := s.slotAt die n
    let x := k.ctx
    let i := t.qRead k.desc
    let ctl := t.qctl k.desc
    let b := (t.traced w.tr).entryBytes k i w.pa
    let r := { readRecord b.1 with cls := qClass ctl, prio := qPrio ctl }
    let u := ((b.2.l2Touch w.pa).homeSetDword (k.desc + 0x18) ((i + 1) % 2 ^ 64)).trackVa x ((t.ctxAt x).qtab + 64 * k.q)
    let v := u.setSlot die n { k with
      fetched := k.fetched + 1, inFlight := k.inFlight + 1, write := u.qWrite k.desc
      seen := k.seen.filter (fun p => decide (i + 1 < p.1)) ++ [(u.qWrite k.desc, u.codeLog.length)] }
    k.st = .bound → s.runs x = true → s.qRead k.desc ≠ k.write → qEn (s.qctl k.desc) = true → s.checkQueue die x k.q k.desc = (true, t) →
    t.walkVa die x true (t.ringVa k.desc i) .read = .ok w → w.void = false → k.inFlight ≤ k.flim → (qSer ctl = true → t.queueOpen x k.q = 0) →
    t.procFree die = true → t.storageReady x (t.ctxAt x).qpriv r = true →
    exec (.queueFetch die n) s = .next (v.acceptRecord ⟨die, x, (v.ctxAt x).qpriv, none, some (k.q, i), (v.dieAt die).clock,
      v.fetchDeadline die x r (qDlmode ctl), k.pace, k.th, k.thEn, none⟩ r true) := by
  intro k x i ctl b r u v hb hx hp he hc hw hv hf hs hl hr
  have ready : ¬(k.st ≠ .bound ∨ s.runs x = false ∨ s.slotPending k = false ∨ qEn (s.qctl k.desc) = false) := by
    simp [hb, hx, State.slotPending, hp, he]
  have room : ¬(k.flim + 1 ≤ k.inFlight ∨ (qSer ctl = true ∧ t.queueOpen x k.q ≠ 0) ∨ t.procFree die = false
      ∨ (t.fetchDeadline die x r (qDlmode ctl) ≠ some none ∧ t.storageReady x (t.ctxAt x).qpriv r = false)) := by
    rw [hl, hr]
    rintro (h | ⟨h, o⟩ | h | ⟨-, h⟩)
    · exact absurd hf (Nat.not_le.mpr h)
    · exact o (hs h)
    · exact absurd h (by decide)
    · exact absurd h (by decide)
  show execQueueFetch die n s = _
  unfold execQueueFetch
  refine congrArg Host.Outcome.next ((if_neg ready).trans ?_)
  simp only [x, k, i, ctl, b, r] at hc hw room
  simp only [hc, hw, hv, Bool.not_true, Bool.false_eq_true, if_false]
  exact if_neg room

/-- Settles O39: a doorbell in order, the slot it binds, and the record that a fetch hands over. -/
theorem queueSteps : Obligations.QueueSteps := by
  unfold Obligations.QueueSteps
  refine ⟨fun s addr val x r t hw hb hv hq hs hr ho hc => ⟨doorbell_rings hw hb hv hq hs, fun d n h => State.ring_refreshes hr ho hc h,
    fun n h hn hd hsame hf low => State.ring_binds hr ho hc h hn (hsame ▸ hd) hf low, fun d n hd hn => ?_⟩, fun s t die n w => ?_⟩
  · intro k
    have bound : k = _ := State.slotAt_setSlot t _ hd hn
    rw [bound]
    exact ⟨rfl, rfl, rfl, rfl, rfl, rfl, rfl, rfl⟩
  · intro k x i ctl hb hx hp he hc hw hv b r hf hs hl hr
    exact ⟨State.entryBytes_either _ k i w.pa, State.entryBytes_untouched _ k i w.pa, _, _, rfl, rfl, queueFetch_accepts hb hx hp he hc hw hv hf hs hl hr⟩

end Sys2Proof.Machine
end

section
/-! PROOF. Stagger intervals, holds for an operating point, and slices (11 R275, R276; 19 R405). -/
namespace Sys2Proof.Machine

theorem Tab.mem_of_find {α : Type} {t : Tab α} {k : Nat} {v : α} (h : Tab.find t k = some v) : (k, v) ∈ t := by
  induction t with
  | nil => exact absurd h (by simp [Tab.find])
  | cons c r ih =>
    obtain ⟨a, u⟩ := c
    simp only [Tab.find] at h
    split at h
    next e => rw [e, Option.some.inj h]; exact List.mem_cons_self
    next => exact List.mem_cons_of_mem _ (ih h)

theorem Tab.find_of_mem {α : Type} {t : Tab α} {k : Nat} {v : α} (hn : (t.map (fun p => p.1)).Nodup) (h : (k, v) ∈ t) : Tab.find t k = some v := by
  induction t with
  | nil => exact absurd h List.not_mem_nil
  | cons c r ih =>
    obtain ⟨a, u⟩ := c
    obtain ⟨hu, hr⟩ := List.nodup_cons.mp hn
    rcases List.mem_cons.mp h with e | e
    · cases e; exact if_pos rfl
    · have other : a ≠ k := fun e' => hu (List.mem_map.mpr ⟨(k, v), e, e'.symm⟩)
      exact (if_neg other).trans (ih hr e)

/-! ### Stagger intervals -/

/-- Is the interval of a start still running (11 R275)? -/
def State.staggers (s : State) (die : Nat) (p : Nat × Nat) : Bool :=
  match Tab.find s.launches p.1 with
  | some l => decide (l.pace = 2) || decide ((s.dieAt die).clock < p.2 + l.r.staggerNs)
  | none => false

theorem State.staggers_iff (s : State) (die : Nat) (p : Nat × Nat) :
    s.staggers die p = true ↔ ∃ l, Tab.find s.launches p.1 = some l ∧ (l.pace = 2 ∨ (s.dieAt die).clock < p.2 + l.r.staggerNs) := by
  unfold State.staggers
  cases Tab.find s.launches p.1 <;> simp

theorem staggerExpiry_drops {s : State} {die : Nat} (hd : die < s.dies.length) : ∃ (t : State) (gone : List (Nat × Nat)),
    exec (.staggerExpiry die) s = .next (gone.foldl (fun u p => u.pourDue p.1) t).noteAll ∧ t = { s with dies := t.dies }
    ∧ (∀ p, p ∈ gone ↔ p ∈ (s.dieAt die).starts ∧ p ∉ (t.dieAt die).starts)
    ∧ ∀ p, p ∈ (t.dieAt die).starts ↔ p ∈ (s.dieAt die).starts ∧
        ∃ l, Tab.find s.launches p.1 = some l ∧ (l.pace = 2 ∨ (s.dieAt die).clock < p.2 + l.r.staggerNs) := by
  have starts : ((s.modDie die (fun d => { d with starts := d.starts.filter (s.staggers die) })).dieAt die).starts = (s.dieAt die).starts.filter (s.staggers die) := by
    rw [State.dieAt_modDie _ _ _ _ hd, if_pos rfl]
  refine ⟨s.modDie die (fun d => { d with starts := d.starts.filter (s.staggers die) }), (s.dieAt die).starts.filter (fun p => !s.staggers die p), rfl, rfl,
    fun p => ?_, fun p => ?_⟩
  · rw [starts, List.mem_filter, List.mem_filter]
    cases s.staggers die p <;> simp
  · rw [starts, List.mem_filter, State.staggers_iff]

/-! ### Holds for an operating point -/

section
variable (s : State) (die : Nat)

/-- When the start that a held launch waits for was noted. -/
def Die.startedAt (d : Die) (i : Nat) : Nat := match d.starts.find? (fun p => decide (p.1 = i)) with | some p => p.2 | none => 0

/-- The held launches of a die, those among them whose hold has run out, the point that the hold ends with, and those let go. -/
def State.held : List (Nat × Launch) := s.launches.filter (fun l => decide (l.2.die = die) && l.2.held)
def State.heldLate : List (Nat × Launch) := (s.held die).filter (fun l => decide ((s.dieAt die).startedAt l.1 + 40000 ≤ (s.dieAt die).clock))
def State.heldPoint : Nat :=
  if (s.held die).isEmpty || !(s.heldLate die).isEmpty then (s.dieAt die).point else (s.held die).foldl (fun m l => max m ((s.dieAt die).hintFor l.2)) 1
def State.heldOut : List (Nat × Launch) :=
  if (s.heldLate die).isEmpty then (s.held die).filter (fun l => decide (l.2.r.ophint ≤ s.heldPoint die)) else s.heldLate die

/-- Lets launches go. -/
def State.letGo (ls : List (Nat × Launch)) : State := ls.foldl (fun (t : State) l => t.modLaunch l.1 (fun k => { k with held := false })) s

theorem holdEnd_eq : exec (.operatingPointHoldEnd die) s = .next ((s.letGo (s.heldOut die)).modDie die
    (fun k => { k with point := s.heldPoint die, starts := k.starts.filter (fun p => !(s.heldOut die).any (fun l => decide (l.1 = p.1))) })).noteAll := rfl

variable {s die}

theorem State.mem_held {l : Nat × Launch} : l ∈ s.held die ↔ l ∈ s.launches ∧ l.2.die = die ∧ l.2.held = true := by
  rw [State.held, List.mem_filter, Bool.and_eq_true, decide_eq_true_eq]

theorem State.mem_heldLate {l : Nat × Launch} :
    l ∈ s.heldLate die ↔ l ∈ s.held die ∧ (s.dieAt die).startedAt l.1 + 40000 ≤ (s.dieAt die).clock := by
  rw [State.heldLate, List.mem_filter, decide_eq_true_eq]

/-- A running maximum is above all that it has met, and one of them. -/
theorem foldl_max_bounds {α : Type} (f : α → Nat) (xs : List α) (m : Nat) :
    m ≤ xs.foldl (fun a x => max a (f x)) m ∧ (∀ x ∈ xs, f x ≤ xs.foldl (fun a x => max a (f x)) m)
      ∧ (xs.foldl (fun a x => max a (f x)) m = m ∨ ∃ x ∈ xs, xs.foldl (fun a x => max a (f x)) m = f x) := by
  induction xs generalizing m with
  | nil => exact ⟨Nat.le_refl _, fun _ h => absurd h List.not_mem_nil, .inl rfl⟩
  | cons y r ih =>
    obtain ⟨low, met, which⟩ := ih (max m (f y))
    rw [List.foldl_cons]
    refine ⟨Nat.le_trans (Nat.le_max_left ..) low, fun x hx => ?_, ?_⟩
    · rcases List.mem_cons.mp hx with rfl | hx
      · exact Nat.le_trans (Nat.le_max_right ..) low
      · exact met x hx
    · rcases which with h | ⟨x, hx, h⟩
      · rcases Nat.le_total m (f y) with c | c
        · exact .inr ⟨y, List.mem_cons_self, h.trans (Nat.max_eq_right c)⟩
        · exact .inl (h.trans (Nat.max_eq_left c))
      · exact .inr ⟨x, List.mem_cons_of_mem _ hx, h⟩

theorem State.heldPoint_kept (h : (∃ l, l ∈ s.heldLate die) ∨ ∀ l, l ∉ s.held die) : s.heldPoint die = (s.dieAt die).point := by
  refine if_pos ?_
  rcases h with ⟨l, hl⟩ | h
  · rw [List.isEmpty_eq_false_iff_exists_mem.mpr ⟨l, hl⟩, Bool.not_false, Bool.or_true]
  · rw [List.eq_nil_iff_forall_not_mem.mpr h]; rfl

theorem State.heldPoint_reached (hl : ∃ l, l ∈ s.held die) (hn : ∀ l, l ∉ s.heldLate die) :
    (∀ l, l ∈ s.held die → (s.dieAt die).hintFor l.2 ≤ s.heldPoint die)
      ∧ (s.heldPoint die = 1 ∨ ∃ l, l ∈ s.held die ∧ s.heldPoint die = (s.dieAt die).hintFor l.2) := by
  have most : s.heldPoint die = (s.held die).foldl (fun m l => max m ((s.dieAt die).hintFor l.2)) 1 := by
    refine if_neg ?_
    rw [List.isEmpty_eq_false_iff_exists_mem.mpr hl, List.eq_nil_iff_forall_not_mem.mpr hn]
    simp
  obtain ⟨-, met, which⟩ := foldl_max_bounds (fun l : Nat × Launch => (s.dieAt die).hintFor l.2) (s.held die) 1
  rw [most]
  exact ⟨met, which⟩

theorem State.modLaunch_find (s : State) (k i : Nat) (f : Launch → Launch) :
    Tab.find (s.modLaunch k f).launches i = if i = k then (Tab.find s.launches i).map f else Tab.find s.launches i := by
  unfold State.modLaunch
  by_cases h : i = k
  · subst h
    rw [if_pos rfl]
    cases hf : Tab.find s.launches i with
    | none => exact hf
    | some x => exact Tab.find_put_same
  · rw [if_neg h]
    cases Tab.find s.launches k with
    | none => rfl
    | some x => exact Tab.find_put_other h

theorem State.letGo_dies (s : State) (ls : List (Nat × Launch)) : (s.letGo ls).dies = s.dies := by
  induction ls generalizing s with
  | nil => rfl
  | cons x r ih =>
    refine (ih (s.modLaunch x.1 _)).trans ?_
    unfold State.modLaunch
    split <;> rfl

theorem State.letGo_find (s : State) (ls : List (Nat × Launch)) (i : Nat) :
    Tab.find (s.letGo ls).launches i = (Tab.find s.launches i).map (fun l => { l with held := l.held && !ls.any (fun x => decide (x.1 = i)) }) := by
  induction ls generalizing s with
  | nil =>
    show Tab.find s.launches i = _
    cases Tab.find s.launches i <;> simp
  | cons x r ih =>
    refine (ih (s.modLaunch x.1 _)).trans ?_
    rw [State.modLaunch_find]
    by_cases h : i = x.1
    · rw [if_pos h, Option.map_map]
      refine congrArg (fun f => Option.map f _) (funext fun l => ?_)
      simp [h]
    · rw [if_neg h]
      refine congrArg (fun f => Option.map f _) (funext fun l => ?_)
      rw [List.any_cons, decide_eq_false (Ne.symm h), Bool.false_or]

/-- A launch is let go when it is among the given ones, whose numbers say which they are. -/
theorem State.letGo_held {i : Nat} {l : Launch} {ls : List (Nat × Launch)} (hu : (s.launches.map (fun p => p.1)).Nodup) (hs : ∀ x ∈ ls, x ∈ s.launches)
    (hl : Tab.find s.launches i = some l) : (l.held && !ls.any (fun x => decide (x.1 = i))) = true ↔ l.held = true ∧ (i, l) ∉ ls := by
  have key : ls.any (fun x => decide (x.1 = i)) = true ↔ (i, l) ∈ ls := by
    rw [List.any_eq_true]
    refine ⟨fun ⟨x, hx, e⟩ => ?_, fun h => ⟨_, h, decide_eq_true rfl⟩⟩
    obtain ⟨j, k⟩ := x
    obtain rfl : j = i := of_decide_eq_true e
    have same := Tab.find_of_mem hu (hs _ hx)
    rw [hl] at same
    rw [Option.some.inj same]
    exact hx
  rw [Bool.and_eq_true, Bool.not_eq_true', ← Bool.not_eq_true, key]

theorem State.heldOut_sub {x : Nat × Launch} (h : x ∈ s.heldOut die) : x ∈ s.launches := by
  unfold State.heldOut at h
  split at h
  · exact (State.mem_held.mp (List.mem_filter.mp h).1).1
  · exact (State.mem_held.mp (State.mem_heldLate.mp h).1).1

theorem State.heldOut_late {i : Nat} {l : Launch} (hl : Tab.find s.launches i = some l) (h : ∃ k, k ∈ s.heldLate die) :
    l.held = true ∧ (i, l) ∉ s.heldOut die ↔ l.held = true ∧ ¬(l.die = die ∧ (s.dieAt die).startedAt i + 40000 ≤ (s.dieAt die).clock) := by
  have out : s.heldOut die = s.heldLate die := if_neg (by rw [List.isEmpty_eq_false_iff_exists_mem.mpr h]; simp)
  rw [out, State.mem_heldLate, State.mem_held]
  have mem := Tab.mem_of_find hl
  exact and_congr_right fun hh => not_congr ⟨fun ⟨⟨_, hd, _⟩, ht⟩ => ⟨hd, ht⟩, fun ⟨hd, ht⟩ => ⟨⟨mem, hd, hh⟩, ht⟩⟩

theorem State.heldOut_point {i : Nat} {l : Launch} (hl : Tab.find s.launches i = some l) (h : ∀ k, k ∉ s.heldLate die) :
    l.held = true ∧ (i, l) ∉ s.heldOut die ↔ l.held = true ∧ ¬(l.die = die ∧ l.r.ophint ≤ s.heldPoint die) := by
  have out : s.heldOut die = (s.held die).filter (fun l => decide (l.2.r.ophint ≤ s.heldPoint die)) :=
    if_pos (by rw [List.eq_nil_iff_forall_not_mem.mpr h]; rfl)
  rw [out, List.mem_filter, State.mem_held, decide_eq_true_eq]
  have mem := Tab.mem_of_find hl
  exact and_congr_right fun hh => not_congr ⟨fun ⟨⟨_, hd, _⟩, ht⟩ => ⟨hd, ht⟩, fun ⟨hd, ht⟩ => ⟨⟨mem, hd, hh⟩, ht⟩⟩

end

/-! ### Slices -/

section
variable {s : State} {lid b : Nat} {l : Launch}

/-- Does another context's launch want the cores that a launch holds (19 R405)? -/
def State.wantsSlice (s : State) (lid : Nat) (l : Launch) (o : Nat × Launch) : Bool :=
  decide (o.2.ctx ≠ l.ctx) && decide (l.r.cls ≤ o.2.r.cls) && s.holdsFor lid o && !s.fitsAnywhere o.2

theorem State.wantsSlice_any : s.launches.any (s.wantsSlice lid l) = true
    ↔ ∃ o, o ∈ s.launches ∧ o.2.ctx ≠ l.ctx ∧ l.r.cls ≤ o.2.r.cls ∧ s.holdsFor lid o = true ∧ s.fitsAnywhere o.2 = false := by
  rw [List.any_eq_true]
  refine exists_congr fun o => and_congr_right fun _ => ?_
  rw [State.wantsSlice, Bool.and_eq_true, Bool.and_eq_true, Bool.and_eq_true, decide_eq_true_eq, decide_eq_true_eq, Bool.not_eq_true', and_assoc, and_assoc]

theorem sliceEnd_ends (hl : Tab.find s.launches lid = some l) (hb : l.sliceAt = some b) (hc : l.r.cls ≠ 2) (hs : l.st = .running)
    (hd : b + 1000 * (if l.r.cls = 1 then (s.dieAt l.die).slices.1 else (s.dieAt l.die).slices.2) ≤ (s.dieAt l.die).clock) :
    exec (.sliceEnd lid) s = .next (if s.launches.any (s.wantsSlice lid l) then (s.signal lid).noteAll
      else s.modLaunch lid (fun k => { k with sliceAt := some (s.dieAt l.die).clock })) := by
  have due : ¬(l.r.cls = 2 ∨ l.st ≠ .running ∨ (s.dieAt l.die).clock < b + 1000 * (if l.r.cls = 1 then (s.dieAt l.die).slices.1 else (s.dieAt l.die).slices.2)) :=
    fun h => h.elim hc fun h => h.elim (· hs) (Nat.not_lt.mpr hd)
  show execSliceEnd lid s = _
  unfold execSliceEnd
  simp only [hl, hb, if_neg due]
  rfl

end

/-- Settles O40: what stays and what is poured, where a hold ends, and what a slice that has run out does. -/
theorem pacingAndSlices : Obligations.PacingAndSlices := by
  unfold Obligations.PacingAndSlices
  refine ⟨fun s die hd => staggerExpiry_drops hd, fun s die hd hu => ?_, fun s lid b l hl hb hc hs hd => ?_⟩
  · intro d since late holds
    have isLate (k : Nat × Launch) : k ∈ s.heldLate die ↔ holds k ∧ late k.1 := State.mem_heldLate.trans (and_congr_left' State.mem_held)
    refine ⟨_, s.heldPoint die, holdEnd_eq s die, ?_, fun h => State.heldPoint_kept (h.imp (fun ⟨l, hh, ht⟩ => ⟨l, (isLate l).mpr ⟨hh, ht⟩⟩)
      fun h l hm => h l (State.mem_held.mp hm)), fun ⟨l, hh⟩ hn => ?_, fun i l hl => ⟨l.held && !(s.heldOut die).any (fun x => decide (x.1 = i)), ?_, ?_, ?_⟩⟩
    · have there : die < (s.letGo (s.heldOut die)).dies.length := by rw [State.letGo_dies]; exact hd
      rw [State.dieAt_modDie _ _ _ _ there, if_pos rfl]
    · obtain ⟨met, which⟩ := State.heldPoint_reached ⟨l, State.mem_held.mpr hh⟩ fun k hk => hn k ((isLate k).mp hk).1 ((isLate k).mp hk).2
      exact ⟨fun k hk => met k (State.mem_held.mpr hk), which.imp id fun ⟨k, hk, e⟩ => ⟨k, State.mem_held.mp hk, e⟩⟩
    · show Tab.find (s.letGo (s.heldOut die)).launches i = _
      rw [State.letGo_find, hl]
      rfl
    · intro ⟨k, hk, ht⟩
      exact (State.letGo_held hu (fun _ => State.heldOut_sub) hl).trans (State.heldOut_late hl ⟨k, (isLate k).mpr ⟨hk, ht⟩⟩)
    · intro hn
      exact (State.letGo_held hu (fun _ => State.heldOut_sub) hl).trans (State.heldOut_point hl fun k hk => hn k ((isLate k).mp hk).1 ((isLate k).mp hk).2)
  · intro wants
    rw [sliceEnd_ends hl hb hc hs hd]
    exact ⟨fun h => by rw [if_pos (State.wantsSlice_any.mpr h)], fun h => by rw [if_neg fun w => h (State.wantsSlice_any.mp w)]⟩

end Sys2Proof.Machine
end

section
/-! PROOF. A fragment's delays, the load throttle, the physical file and the lines that leave L1 (05 R135; 06 R158 to R160; 07 R199; 11 R269 to R273). -/
namespace Sys2Proof.Machine

theorem coreBecomes_modCore (s : State) (core : Nat) (f : Core → Core) : coreBecomes s (s.modCore core f) core (f (s.coreAt core)) :=
  ⟨rfl, by rw [State.coreAt_modCore, if_pos rfl], fun d hd => by rw [State.coreAt_modCore, if_neg hd]⟩

/-! ### Delays and the throttle -/

section
variable {s : State} {gid slot : Nat} {g : Grp} {f : Frag}

theorem State.modFrag_of (hg : Tab.find s.groups gid = some g) (hf : g.frag slot = some f) (m : Frag → Frag) :
    s.modFrag gid slot m = s.setGrp gid (g.setFrag slot (some (m f))) := by
  rw [State.modFrag, State.modGrp_of_find _ hg, hf]

theorem backoffExpiry_ends (hg : Tab.find s.groups gid = some g) (hf : g.frag slot = some f) :
    exec (.backoffExpiry gid slot) s = .next (s.setGrp gid (g.setFrag slot (some { f with delayed := false }))) :=
  congrArg _ (State.modFrag_of hg hf _)

theorem fragmentStarved_marks (hg : Tab.find s.groups gid = some g) (hf : g.frag slot = some f) (hi : (s.issuer gid slot g).isSome = true) :
    exec (.fragmentStarved gid slot) s = .next (s.setGrp gid (g.setFrag slot (some { f with starved := true }))) := by
  show execFragmentStarved gid slot s = _
  simp only [execFragmentStarved, hg, hi, if_true, State.modFrag_of hg hf]

theorem throttleOverride_frees (hg : Tab.find s.groups gid = some g) (hf : g.frag slot = some f) {i : Instr} {t : State} (ht : s.turnOf gid slot = .run i t)
    (hl : isGlobalLoad i = true) (hh : t.throttled (t.grp gid) = true) :
    exec (.throttleOverride gid slot) s = .next (s.setGrp gid (g.setFrag slot (some { f with loadFree := true }))) := by
  show execThrottleOverride gid slot s = _
  simp only [execThrottleOverride, ht, hl, hh, Bool.and_self, if_true, State.modFrag_of hg hf]

end

/-- The level of the throttle after a window. -/
def Core.levelNext (k : Core) : Nat := if !k.ten then 32 else if k.thi < k.vhits then levelDown k.level else if k.vhits < k.tlo then levelUp k.level else k.level

theorem levelDown_lower {n : Nat} (h : n ∈ [32, 24, 16, 8, 4]) : levelDown n ∈ [24, 16, 8, 4] ∧ (levelDown n < n ∨ levelDown n = 4) := by
  revert n
  decide

theorem levelUp_higher {n : Nat} (h : n ∈ [32, 24, 16, 8, 4]) : levelUp n ∈ [32, 24, 16, 8] ∧ (n < levelUp n ∨ levelUp n = 32) := by
  revert n
  decide

theorem Core.levelNext_off {k : Core} (h : k.ten = false) : k.levelNext = 32 := by rw [Core.levelNext, h]; rfl

section
variable {k : Core} (ht : k.ten = true)
include ht

theorem Core.levelNext_down (h : k.thi < k.vhits) : k.levelNext = levelDown k.level := by
  rw [Core.levelNext, ht, if_pos h]; rfl

theorem Core.levelNext_same (h : k.vhits ≤ k.thi) (l : k.tlo ≤ k.vhits) : k.levelNext = k.level := by
  rw [Core.levelNext, ht, if_neg (Nat.not_lt.mpr h), if_neg (Nat.not_lt.mpr l)]; rfl

theorem Core.levelNext_up (h : k.vhits ≤ k.thi) (l : k.vhits < k.tlo) : k.levelNext = levelUp k.level := by
  rw [Core.levelNext, ht, if_neg (Nat.not_lt.mpr h), if_pos l]; rfl

end

/-! ### A line that is missed -/

section
variable {s : State} {gid line : Nat} {g : Grp}

/-- The lines of a core's file that share a bank with line `line` of `g`. -/
def State.bankLines (s : State) (k : Core) (g : Grp) (line : Nat) : List (Nat × Nat × Bool) :=
  k.file.filter (fun e => decide ((s.grp e.1).bank e.2.1 = g.bank line))

/-- The file of a core after a line has been missed. -/
def State.fileAfter (s : State) (k : Core) (g : Grp) (gid line : Nat) : List (Nat × Nat × Bool) :=
  if k.file.any (fun e => decide (e.1 = gid) && decide (e.2.1 = line)) then k.file
  else if (s.bankLines k g line).length < 384 then (gid, line, false) :: k.file
  else
    match ((s.bankLines k g line).filter (fun e => s.evictable k e.1 e.2.1)).getLast? with
    | some v => (gid, line, false) :: k.file.filter (fun e => decide (e ≠ v))
    | none => k.file

theorem lineMissFill_fills (hg : Tab.find s.groups gid = some g) (hl : line < g.nlines) :
    exec (.lineMissFill gid line) s = .next (s.modCore g.core (fun k => { k with file := s.fileAfter k g gid line })) := by
  show execLineMissFill gid line s = _
  rw [execLineMissFill, State.grp_of_find hg, State.fillLine, hg]
  simp only [if_neg (Nat.not_le.mpr hl)]
  refine congrArg (fun f => Host.Outcome.next (s.modCore g.core f)) (funext fun k => ?_)
  unfold State.fileAfter State.bankLines
  split
  · rfl
  · split
    · rfl
    · generalize ((k.file.filter (fun e => decide ((s.grp e.1).bank e.2.1 = g.bank line))).filter (fun e => s.evictable k e.1 e.2.1)).getLast? = o
      cases o <;> rfl

variable {k : Core}

theorem file_any : k.file.any (fun e => decide (e.1 = gid) && decide (e.2.1 = line)) = true ↔ ∃ b, (gid, line, b) ∈ k.file := by
  rw [List.any_eq_true]
  refine ⟨fun ⟨⟨i, n, b⟩, hm, he⟩ => ?_, fun ⟨b, hm⟩ => ⟨_, hm, by simp⟩⟩
  obtain ⟨hi, hn⟩ := Bool.and_eq_true_iff.mp he
  obtain rfl : i = gid := of_decide_eq_true hi
  obtain rfl : n = line := of_decide_eq_true hn
  exact ⟨b, hm⟩

theorem State.fileAfter_there (h : ∃ b, (gid, line, b) ∈ k.file) : s.fileAfter k g gid line = k.file := if_pos (file_any.mpr h)

section
variable (hn : ∀ b, (gid, line, b) ∉ k.file)
include hn

theorem State.fileAfter_room (hr : (s.bankLines k g line).length < 384) : s.fileAfter k g gid line = (gid, line, false) :: k.file :=
  (if_neg fun h => (file_any.mp h).elim hn).trans (if_pos hr)

theorem State.fileAfter_pinned (hr : 384 ≤ (s.bankLines k g line).length) (hp : ∀ e, e ∈ s.bankLines k g line → s.evictable k e.1 e.2.1 = false) :
    s.fileAfter k g gid line = k.file := by
  have stuck : (s.bankLines k g line).filter (fun e => s.evictable k e.1 e.2.1) = [] :=
    List.filter_eq_nil_iff.mpr fun e he => by rw [hp e he]; exact Bool.false_ne_true
  refine (if_neg fun h => (file_any.mp h).elim hn).trans ((if_neg (Nat.not_lt.mpr hr)).trans ?_)
  rw [stuck]
  rfl

theorem State.fileAfter_evicts (hr : 384 ≤ (s.bankLines k g line).length) {v : Nat × Nat × Bool}
    (hv : ((s.bankLines k g line).filter (fun e => s.evictable k e.1 e.2.1)).getLast? = some v) :
    s.fileAfter k g gid line = (gid, line, false) :: k.file.filter (fun e => decide (e ≠ v)) := by
  refine (if_neg fun h => (file_any.mp h).elim hn).trans ((if_neg (Nat.not_lt.mpr hr)).trans ?_)
  rw [hv]

end

end

/-! ### A line that leaves L1 -/

theorem l1EvictionWriteback_cleans {s : State} {core i : Nat} {l : L1Line} (hc : core ≠ 384) (hi : (s.coreAt core).l1[i]? = some l) (hh : l.held = false)
    (he : (s.coreAt core).evictFirst l = true) (hp : s.plainL1 core l.ctx) :
    ∃ t, exec (.l1EvictionWriteback core i) s = .next t ∧ t.l1Find core l.ctx l.va = none
      ∧ (t.coreAt core).victims = ((l.ctx, l.va) :: (s.coreAt core).victims).take 2048
      ∧ (∀ a, (∀ j, l.dirtyAt j → l.pa + j ≠ a) → Sparse.get t.mem a = Sparse.get s.mem a)
      ∧ ((∀ m, m < 128 → s.l2Held (l.pa + m) = false) → ∀ j, l.dirtyAt j → Sparse.get t.mem (l.pa + j) = lineByte l.data j) := by
  have put := s.putDirty_puts l hp.2
  have fresh := (hp.1 l (List.mem_of_getElem? hi) rfl).1
  have wrote : s.writeBackLine core true l = .ok (s.putDirty l) := if_pos (.inr fresh)
  refine ⟨((s.putDirty l).l1Drop core l.ctx l.va).modCore core (fun k => { k with victims := ((l.ctx, l.va) :: k.victims).take 2048 }), ?_, ?_, ?_, put.miss, put.hit⟩
  · show execL1EvictionWriteback core i s = _
    simp only [execL1EvictionWriteback, if_neg hc, hi, hh, he, wrote, Bool.not_true, Bool.or_self, Bool.false_eq_true, if_false]
  · unfold State.l1Find
    rw [State.coreAt_modCore, if_pos rfl]
    exact (State.l1Find_l1Drop ..).trans (if_pos rfl)
  · rw [State.coreAt_modCore, if_pos rfl, State.l1Drop, State.coreAt_modCore, if_pos rfl, put.frame.coreAt]

/-- Settles O42: the fragment's settings, the throttle's level, the file after a miss, and the line that leaves. -/
theorem timingAndCaches : Obligations.TimingAndCaches := by
  unfold Obligations.TimingAndCaches
  refine ⟨⟨fun s gid slot g f hg hf => ⟨backoffExpiry_ends hg hf, fragmentStarved_marks hg hf, fun i t ht => throttleOverride_frees hg hf ht⟩,
    fun s core => ⟨_, (s.coreAt core).levelNext, rfl, coreBecomes_modCore s core _, Core.levelNext_off, fun ht h hl => ?_, Core.levelNext_same, fun ht h l hl => ?_⟩⟩,
    fun s gid line g hg hl => ?_, fun s core i l hc hi hh he hp => l1EvictionWriteback_cleans hc hi hh he hp⟩
  · rw [Core.levelNext_down ht h]
    exact levelDown_lower hl
  · rw [Core.levelNext_up ht h l]
    exact levelUp_higher hl
  · intro k bank
    have becomes := coreBecomes_modCore s g.core (fun k => { k with file := s.fileAfter k g gid line })
    have file : ((s.modCore g.core (fun k => { k with file := s.fileAfter k g gid line })).coreAt g.core).file = s.fileAfter k g gid line := by rw [becomes.2.1]
    refine ⟨_, lineMissFill_fills hg hl, ?_, ?_⟩
    · rw [file]; exact becomes
    · rw [file]
      exact ⟨State.fileAfter_there, State.fileAfter_room, State.fileAfter_pinned, fun v hn hr hv => State.fileAfter_evicts hn hr hv⟩

end Sys2Proof.Machine
end

section
/-! PROOF. The words of a service core's hart (18 R383 to R386). -/
namespace Sys2Proof.Machine

open State (MemStep)

/-! ### What starting a team keeps of the launches -/

/-- Every launch of `s` stands in `t`, with other teams perhaps. -/
structure State.KeepsLaunches (s t : State) : Prop where
  kept : ∀ i l, Tab.find s.launches i = some l → ∃ ts sk fi, Tab.find t.launches i = some { l with teams := ts, skips := sk, first := fi }

namespace State.KeepsLaunches

variable {s t u : State}

theorem of_eq (h : t.launches = s.launches) : s.KeepsLaunches t := ⟨fun _ l hl => ⟨l.teams, l.skips, l.first, by rw [h, hl]⟩⟩

theorem trans (a : s.KeepsLaunches t) (b : t.KeepsLaunches u) : s.KeepsLaunches u where
  kept i l hl := by
    obtain ⟨ts, sk, fi, ht⟩ := a.kept i l hl
    obtain ⟨us, tk, gi, hu⟩ := b.kept i _ ht
    exact ⟨us, tk, gi, hu⟩

theorem foldl {α : Type} {f : State → α → State} (hf : ∀ (s : State) x, s.KeepsLaunches (f s x)) (xs : List α) (s : State) : s.KeepsLaunches (xs.foldl f s) := by
  induction xs generalizing s with
  | nil => exact of_eq rfl
  | cons x r ih => exact (hf s x).trans (ih _)

theorem modLaunch (s : State) (k : Nat) {f : Launch → Launch} (hf : ∀ l, ∃ ts sk fi, f l = { l with teams := ts, skips := sk, first := fi }) :
    s.KeepsLaunches (s.modLaunch k f) where
  kept i l hl := by
    obtain ⟨ts, sk, fi, e⟩ := hf l
    rw [State.modLaunch_find, hl]
    split
    · exact ⟨ts, sk, fi, congrArg some e⟩
    · exact ⟨l.teams, l.skips, l.first, rfl⟩

end State.KeepsLaunches

open State (KeepsLaunches)

theorem State.MemStep.launches {s t : State} (h : s.MemStep t) : t.launches = s.launches := by rw [h.frame]

theorem State.addGroup_keeps (s : State) (lid team k : Nat) (g : Grp) : s.KeepsLaunches (s.addGroup lid team k g) := by
  let u := ({ s with groups := Tab.put s.groups s.nextGroup g, nextGroup := s.nextGroup + 1 } : State).modCore g.core (fun c => { c with ageNext := c.ageNext + 1 })
  have same : s.KeepsLaunches u := .of_eq rfl
  exact same.trans (KeepsLaunches.modLaunch u lid fun l => ⟨_, l.skips, l.first, rfl⟩)

theorem State.createGroup_keeps (s : State) (lid team k : Nat) : s.KeepsLaunches (s.createGroup lid team k) := by
  unfold State.createGroup
  split
  · exact .of_eq rfl
  · split
    · exact .of_eq rfl
    · exact (s.addGroup_keeps ..).trans (.of_eq (State.acquire_memStep _ _ _).launches)

theorem State.pourGroup_keeps (s : State) (lid team k : Nat) (p : RoastPart) (sh : Nat → Nat) (sc : Nat) : s.KeepsLaunches (s.pourGroup lid team k p sh sc) := by
  unfold State.pourGroup
  split
  · exact .of_eq rfl
  · split
    · exact .of_eq rfl
    · exact (s.addGroup_keeps ..).trans (.of_eq (State.acquire_memStep _ _ _).launches)

theorem State.pourGrid_keeps (s : State) (lid team : Nat) : s.KeepsLaunches (s.pourGrid lid team) := by
  unfold State.pourGrid
  split
  · exact .of_eq rfl
  · split
    · split
      · exact .of_eq rfl
      · refine (KeepsLaunches.foldl (fun u c => ?_) _ s).trans (KeepsLaunches.foldl (fun u k => ?_) _ _)
        · unfold State.pourWindow
          split <;> exact .of_eq rfl
        · split
          · exact u.pourGroup_keeps ..
          · exact .of_eq rfl
    · exact .of_eq rfl

theorem State.startTeam_keeps (s : State) (lid team : Nat) : s.KeepsLaunches (s.startTeam lid team) := by
  have noted (u : State) (die : Nat) (l : Launch) : u.KeepsLaunches (u.noteStart lid die l) := by
    unfold State.noteStart
    split <;> exact .of_eq rfl
  unfold State.startTeam
  split
  · exact .of_eq rfl
  · split
    · exact .of_eq rfl
    · dsimp only
      split
      · exact .of_eq rfl
      · refine KeepsLaunches.trans ?_ (noted _ _ _)
        split
        · exact s.pourGrid_keeps ..
        · exact KeepsLaunches.foldl (fun u k => u.createGroup_keeps ..) _ s

theorem State.saveArea_keeps (s : State) (x : Nat) (as : List Nat) : s.KeepsLaunches (s.saveArea x as) := by
  induction as generalizing s with
  | nil => exact .of_eq rfl
  | cons a r ih =>
    unfold State.saveArea
    split
    · exact .of_eq rfl
    · split
      · exact (KeepsLaunches.of_eq (State.traced_memStep _ _).launches).trans (ih _)
      · exact .of_eq (State.traced_memStep _ _).launches

theorem State.moveOut_keeps (s : State) (o : Option Nat) : s.KeepsLaunches (s.moveOut o) := by
  unfold State.moveOut
  split
  · exact .of_eq rfl
  · refine KeepsLaunches.trans (.of_eq ?_) (State.saveArea_keeps _ _ _)
    unfold State.modGrp
    split <;> rfl

theorem State.addRange_keeps (s : State) (c x lid team place : Nat) (r : LRec) : s.KeepsLaunches (s.addRange c x lid team place r) := by
  have ready : (s.readySplit c x r).launches = s.launches := by
    unfold State.readySplit
    dsimp only
    split <;> rfl
  unfold State.addRange
  dsimp only
  split <;> exact .of_eq ready

theorem State.admitTeam_keeps (s : State) (lid num : Nat) (fit : List Nat × List Spot) : s.KeepsLaunches (s.admitTeam lid num fit) := by
  unfold State.admitTeam
  split
  · exact .of_eq rfl
  · refine KeepsLaunches.trans ?_ (State.startTeam_keeps _ _ _)
    refine KeepsLaunches.trans ?_ (KeepsLaunches.modLaunch _ _ fun l => ⟨_, _, _, rfl⟩)
    refine KeepsLaunches.trans ?_ (KeepsLaunches.foldl (fun u c => u.addRange_keeps _ _ _ _ _ _) _ _)
    exact KeepsLaunches.foldl (fun u sp => u.moveOut_keeps _) _ s

/-! ### The words -/

theorem Hart.next_set (h : Hart) (n : Nat) (v : Dword) : (h.set n v).next = { h.set n v with pc := h.pc + 4 } := by
  unfold Hart.next Hart.set
  split <;> rfl

section
variable {s : State} {w : Word} {d n : Nat} {h : Hart} (hw : s.iss.words = [w]) (hd : s.iss.die = d) (hn : s.iss.hart = n) (hh : s.hartAt d n = h) (hm : h.mode ≠ 0)
include hw hd hn hh hm

/-- A word of a hart outside user mode runs its body. -/
theorem hartStep_runs (body : State → Hart → State × Hart) : hartStep s body = .next ((body s h).1.setHart d n (body s h).2) := by
  unfold hartStep
  simp only [hw, hd, hn, hh, if_neg hm]

theorem gspawn_spawns {x : Gsp} (ha : (h.get x.s.toNat).toNat % 256 = 0) (hr : s.hartReach (h.get x.s.toNat) = true) :
    exec (.gspawn x) s = .next ((s.spawn d (s.homeRead (h.get x.s.toNat).toNat 256)).2.setHart d n
      { h.set x.d.toNat (BitVec.ofNat 64 (s.spawn d (s.homeRead (h.get x.s.toNat).toNat 256)).1) with pc := h.pc + 4 }) := by
  have good : ¬((h.get x.s.toNat).toNat % 256 ≠ 0 ∨ s.hartReach (h.get x.s.toNat) = false) := by simp [ha, hr]
  show execGspawn x s = _
  rw [execGspawn, hartStep_runs hw hd hn hh hm]
  simp only [if_neg good, hd, Hart.next_set]

theorem gspawn_traps {x : Gsp} (hb : (h.get x.s.toNat).toNat % 256 ≠ 0 ∨ s.hartReach (h.get x.s.toNat) = false) :
    exec (.gspawn x) s = .next (s.setHart d n (h.trap 5 (h.get x.s.toNat))) := by
  show execGspawn x s = _
  rw [execGspawn, hartStep_runs hw hd hn hh hm]
  simp only [if_pos hb]

theorem gjoin_joins {x : Gjn} (ha : (h.get x.s.toNat).toNat % 8 = 0) (hr : s.hartReach (h.get x.s.toNat) = true)
    (hv : (h.get x.t.toNat).toNat ≤ s.homeDword (h.get x.s.toNat).toNat) :
    exec (.gjoin x) s = .next (s.setHart d n { h.set x.d.toNat (BitVec.ofNat 64 (s.homeDword (h.get x.s.toNat).toNat)) with pc := h.pc + 4 }) := by
  have good : ¬((h.get x.s.toNat).toNat % 8 ≠ 0 ∨ s.hartReach (h.get x.s.toNat) = false) := by simp [ha, hr]
  show execGjoin x s = _
  rw [execGjoin, hartStep_runs hw hd hn hh hm]
  simp only [if_neg good, if_neg (Nat.not_lt.mpr hv), Hart.next_set]

theorem gjoin_stays {x : Gjn} (ha : (h.get x.s.toNat).toNat % 8 = 0) (hr : s.hartReach (h.get x.s.toNat) = true)
    (hv : s.homeDword (h.get x.s.toNat).toNat < (h.get x.t.toNat).toNat) : exec (.gjoin x) s = .next (s.setHart d n h) := by
  have good : ¬((h.get x.s.toNat).toNat % 8 ≠ 0 ∨ s.hartReach (h.get x.s.toNat) = false) := by simp [ha, hr]
  show execGjoin x s = _
  rw [execGjoin, hartStep_runs hw hd hn hh hm]
  simp only [if_neg good, if_pos hv]

theorem vlt_loads {x : Gjn} (h0 : h.vstart = 0) {c key : Nat} (hl : s.locate d (h.get x.s.toNat) (h.get x.t.toNat) = some (c, key)) :
    exec (.vlt x) s = .next (s.setHart d n { h with v := Sparse.set h.v x.d.toNat (setLineBytes 0 0 (s.winRead c key 128)), pc := h.pc + 4 }) := by
  show execVlt x s = _
  rw [execVlt, hartStep_runs hw hd hn hh hm]
  rw [if_neg (Classical.not_not.mpr h0), hd, hl]
  rfl

theorem vstT_stores {x : Vst} (h0 : h.vstart = 0) {c key : Nat} (hl : s.locate d (h.get x.s.toNat) (h.get x.t.toNat) = some (c, key)) :
    exec (.vstT x) s = .next ((s.winWrite c key (lineBytes (Sparse.get h.v x.v.toNat) 0 128)).setHart d n { h with pc := h.pc + 4 }) := by
  show execVstT x s = _
  rw [execVstT, hartStep_runs hw hd hn hh hm]
  rw [if_neg (Classical.not_not.mpr h0), hd, hl]
  rfl

end

/-! ### GSPAWN's launch -/

section
variable (s : State) (die : Nat) (bs : List Byte)

/-- A field of GSPAWN's block (18 R384). -/
def blockField (bs : List Byte) (o n : Nat) : Nat := leNat ((bs.drop o).take n)

/-- The launch that GSPAWN's block begins, before its team is admitted. -/
def State.spawned : Launch := { launchInit with
  ctx := blockField bs 0x08 2, id := s.launchId + 1, die := die, r := spawnRecord bs
  preload := (List.range 48).map (fun i => (BitVec.ofNat 32 (blockField bs (0x40 + 4 * i) 4), false)), next := 1, began := some (s.dieAt die).clock
  sliceAt := some (s.dieAt die).clock, join := if blockField bs 0x10 8 = 0 then none else some (blockField bs 0x10 8), codeMark := s.codeLog.length }

def State.withSpawn : State :=
  { s with nextLaunch := s.nextLaunch + 1, launchId := s.launchId + 1, launches := Tab.put s.launches s.nextLaunch (s.spawned die bs) }

theorem State.withSpawn_launch : Tab.find (s.withSpawn die bs).launches s.nextLaunch = some (s.spawned die bs) := Tab.find_put_same

theorem State.spawn_invalid (h : s.spawnOk die bs = false) : s.spawn die bs = (1, s) := by
  rw [State.spawn, h]
  rfl

section
variable {s die bs} (h : s.spawnOk die bs = true)
include h

theorem State.spawn_full (hf : s.spawnFit die (blockField bs 0x08 2) (blockField bs 0x0A 2) (spawnRecord bs) = none) : s.spawn die bs = (2, s) := by
  unfold blockField at hf
  unfold State.spawn
  simp only [h, Bool.not_true, Bool.false_eq_true, if_false, hf]

theorem State.spawn_starts (hf : s.spawnFit die (blockField bs 0x08 2) (blockField bs 0x0A 2) (spawnRecord bs) ≠ none) : (s.spawn die bs).1 = 0 ∧
    ∃ l, Tab.find (s.spawn die bs).2.launches s.nextLaunch = some l ∧ l.ctx = blockField bs 0x08 2 ∧ l.r = spawnRecord bs ∧ l.next = 1 ∧ l.launcher = none
      ∧ l.join = if blockField bs 0x10 8 = 0 then none else some (blockField bs 0x10 8) := by
  obtain ⟨⟨c, sp⟩, fit⟩ := Option.ne_none_iff_exists'.mp hf
  unfold blockField at fit
  unfold State.spawn
  simp only [h, Bool.not_true, Bool.false_eq_true, if_false, fit, true_and]
  obtain ⟨ts, sk, fi, hl⟩ := (State.admitTeam_keeps (s.withSpawn die bs) s.nextLaunch 0 ([c], sp)).kept s.nextLaunch _ (s.withSpawn_launch die bs)
  exact ⟨_, hl, rfl, rfl, rfl, rfl, rfl⟩

end

end

/-- Settles O43: the four words, each with its traps, and the three answers to GSPAWN. -/
theorem serviceCoreWords : Obligations.ServiceCoreWords := by
  unfold Obligations.ServiceCoreWords
  refine ⟨fun s w hw => ?_, fun s die bs => ⟨s.spawn_invalid die bs, State.spawn_full, State.spawn_starts⟩⟩
  intro d n h out
  refine ⟨fun x hm => ?_, fun x hm => ?_, fun x hm h0 c key => vlt_loads hw rfl rfl rfl hm h0, fun x hm h0 c key => vstT_stores hw rfl rfl rfl hm h0⟩
  · intro a r
    exact ⟨gspawn_spawns hw rfl rfl rfl hm, gspawn_traps hw rfl rfl rfl hm⟩
  · intro a v
    exact ⟨gjoin_joins hw rfl rfl rfl hm, gjoin_stays hw rfl rfl rfl hm⟩

end Sys2Proof.Machine
end

section
/-! PROOF. How a command reaches firmware and how it ends (21 R415 to R417, R419, R429). -/
namespace Sys2Proof.Machine

open State (MemStep)

/-! ### DCMD -/

section
variable {s : State} {g : Grp} {f : Frag} {x : Xn} {r : XOk}

/-- The command that a DCMD hands over. -/
def cmdOf (s : State) (g : Grp) (x : Xn) (f : Frag) (block : List Byte) : Cmd := {
  block := block, issuer := g.ctx
  src := some (s.iss.g, ((g.tlAssign 7 1).tlLast 7).toNat, g.scalarPair x.n.toNat, flagOf (flagClass (.dcmd x)) f.pos.setA f.pos.setB)
  vf := none, accepted := none, dies := [], die := coreDie g.core, since := s.clockOf g.core, begun := false, waits := [], copyWaits := [], mark := s.codeLog.length }

theorem State.finish_addCmd (s : State) (g : Grp) (c : Cmd) : (s.finish g).addCmd c = (s.addCmd c).finish g := rfl

theorem dcmd_hands (h : Issues (.dcmd x) (g.guarded f x.k) s g f) (hk : g.upred x.k.toNat = true)
    (ha : (g.scalar (x.n.toNat + 1) ++ g.scalar x.n.toNat).toNat % 128 = 0)
    (ht : s.translate g.core g.ctx g.sup (g.scalar (x.n.toNat + 1) ++ g.scalar x.n.toNat) .read = .ok r) (hv : r.void = false)
    (hp : (s.ownBlock g r (g.scalar (x.n.toNat + 1) ++ g.scalar x.n.toNat) 128).2.plainL1 g.core g.ctx) :
    let q := s.ownBlock g r (g.scalar (x.n.toNat + 1) ++ g.scalar x.n.toNat) 128
    ∃ v, q.2.released v g 5 ∧ s.MemStep v
      ∧ exec (.dcmd x) s = .next ((v.addCmd (cmdOf v g x f q.1.1)).finish ((g.tlAssign 7 1).flagUp (flagOf (flagClass (.dcmd x)) f.pos.setA f.pos.setB))) := by
  intro q
  obtain ⟨v, hrel, hm, hgv, run⟩ := State.ownBlock_releases (sc := 5) h.found hp
  refine ⟨v, hrel, hm, ?_⟩
  have pair : g.scalarPair x.n.toNat = g.scalar (x.n.toNat + 1) ++ g.scalar x.n.toNat := rfl
  show execDcmd x s = _
  rw [execDcmd, issue_runs _ _ h]
  simp only [hk, Bool.not_true, Bool.false_eq_true, if_false, pair, ha, ne_eq, not_true_eq_false, ht, hv]
  refine congrArg _ ((run _).trans ?_)
  rw [hgv]
  rfl

theorem Grp.tlLast_assignCmd (g : Grp) (i : Nat) : (g.tlAssign 7 1).tlLast i = if i = 7 then g.tlLast 7 + 1 else g.tlLast i := by
  show Sparse.get (Sparse.set g.tln 7 _) i = _
  rw [Sparse.get_set]
  rfl

end

/-! ### The host's page and the journal -/

theorem hostCommandGo_hands {s : State} {fn : Nat} (hf : fn ≤ 384) (hb : s.pkg.boot = .ready) :
    ∃ c : Cmd, exec (.hostCommandGo fn) s = .next { s with cmds := Tab.put s.cmds s.nextCmd c, nextCmd := s.nextCmd + 1 }
      ∧ c.block = (s.fnPage fn).block ∧ c.issuer = (if fn = 384 then 0 else Tab.findD s.pkg.vfs fn 0) ∧ c.src = none ∧ c.vf = some fn ∧ c.accepted = none
      ∧ c.begun = false := by
  have run : exec (.hostCommandGo fn) s = execHostCommandGo fn s := rfl
  rw [execHostCommandGo, if_neg (show ¬physFn < fn from Nat.not_lt.mpr hf)] at run
  simp only [hb] at run
  exact ⟨_, run, rfl, rfl, rfl, rfl, rfl, rfl⟩

theorem State.fnPage_setPage (s : State) (fn : Nat) (p : CmdPage) : (s.setPage fn p).fnPage fn = p :=
  (Tab.findD_put ..).trans (if_pos rfl)

theorem hostCommandGo_fails {s : State} {fn : Nat} (hf : fn ≤ 384) (hb : s.pkg.boot = .failed) :
    ∃ t : State, exec (.hostCommandGo fn) s = .next t ∧ (t.fnPage fn).block = (s.fnPage fn).block.take 8 ++ leBytes 4 1 ++ (s.fnPage fn).block.drop 12 := by
  have run : exec (.hostCommandGo fn) s = execHostCommandGo fn s := rfl
  rw [execHostCommandGo, if_neg (show ¬physFn < fn from Nat.not_lt.mpr hf)] at run
  simp only [hb] at run
  refine ⟨_, run, ?_⟩
  rw [State.fnPage_setPage]
  rfl

section
variable {s : State} {i : Nat} {c : Cmd}

/-- The place of the next accepted command. -/
def State.nextAccepted (s : State) : Nat := s.cmds.foldl (fun a o => match o.2.accepted with | some k => max a (k + 1) | none => a) 0

/-- A running bound is above what it has met. -/
theorem foldl_accepted_above (os : List (Nat × Cmd)) (m : Nat) :
    m ≤ os.foldl (fun a o => match o.2.accepted with | some k => max a (k + 1) | none => a) m
      ∧ ∀ o k, o ∈ os → o.2.accepted = some k → k < os.foldl (fun a o => match o.2.accepted with | some k => max a (k + 1) | none => a) m := by
  induction os generalizing m with
  | nil => exact ⟨Nat.le_refl _, fun _ _ h => absurd h List.not_mem_nil⟩
  | cons y r ih =>
    rw [List.foldl_cons]
    cases hy : y.2.accepted with
    | none =>
      obtain ⟨low, met⟩ := ih m
      refine ⟨low, fun o k ho hk => ?_⟩
      rcases List.mem_cons.mp ho with rfl | ho
      · exact absurd (hy.symm.trans hk) (by simp)
      · exact met o k ho hk
    | some j =>
      obtain ⟨low, met⟩ := ih (max m (j + 1))
      refine ⟨Nat.le_trans (Nat.le_max_left ..) low, fun o k ho hk => ?_⟩
      rcases List.mem_cons.mp ho with rfl | ho
      · obtain rfl : j = k := Option.some.inj (hy.symm.trans hk)
        exact Nat.le_trans (Nat.le_max_right m (j + 1)) low
      · exact met o k ho hk

theorem State.nextAccepted_above (s : State) {o : Nat × Cmd} {k : Nat} (ho : o ∈ s.cmds) (hk : o.2.accepted = some k) : k < s.nextAccepted :=
  (foldl_accepted_above s.cmds 0).2 o k ho hk

/-- A command waits for the journal: no earlier one of its group stands before it, and nothing stops it. -/
theorem State.cmdWaits_of (ha : c.accepted = none) (hd : s.svcDown c.die = false)
    (hg : ∀ g n a fl, c.src = some (g, n, a, fl) → (c.issuer = 0 ∨ s.runs c.issuer = true)
      ∧ ∀ j o m b e, (j, o) ∈ s.cmds → j < i → o.accepted = none → o.src ≠ some (g, m, b, e)) : s.cmdWaits i c = true := by
  unfold State.cmdWaits
  rw [ha, hd]
  simp only [Bool.and_eq_true, Bool.not_eq_true']
  refine ⟨⟨⟨rfl, List.any_eq_false.mpr fun o ho hh => ?_⟩, ?_⟩, trivial⟩
  · obtain ⟨hb, hsame⟩ := Bool.and_eq_true_iff.mp hh
    obtain ⟨hl, hn⟩ := Bool.and_eq_true_iff.mp hb
    split at hsame
    next g m k ho2 hs =>
      split at hs
      next k n hc =>
        cases hs
        obtain rfl : g = k := of_decide_eq_true hsame
        exact (hg g n.1 n.2.1 n.2.2 hc).2 o.1 o.2 m.1 m.2.1 m.2.2 ho (of_decide_eq_true hl) (Option.isNone_iff_eq_none.mp hn) ho2
      next => cases hs
    next => exact absurd hsame Bool.false_ne_true
  · cases hs : c.src with
    | none => rfl
    | some q =>
      rcases (hg q.1 q.2.1 q.2.2.1 q.2.2.2 hs).1 with h | h
      · rw [h]; rfl
      · rw [h]; exact Bool.and_false _

theorem State.svcCount_frame (s : State) (die x : Nat) : s.svcCount die x = { s with dies := (s.svcCount die x).dies } := rfl

theorem State.svcDown_svcCount (s : State) (die x d : Nat) : (s.svcCount die x).svcDown d = s.svcDown d := by
  by_cases hd : die < s.dies.length
  · unfold State.svcDown State.svcCount
    rw [State.dieAt_modDie _ _ _ _ hd]
    by_cases h : d = die
    · rw [if_pos h, h]
    · rw [if_neg h]
  · have same : (s.svcCount die x).dies = s.dies := List.set_eq_of_length_le (Nat.le_of_not_lt hd)
    unfold State.svcDown State.dieAt
    rw [same]

theorem commandJournal_accepts (hc : Tab.find s.cmds i = some c) (ha : c.accepted = none) (hd : s.svcDown c.die = false) (hn : s.svcNext c.die c.issuer = true)
    (hg : ∀ g n a fl, c.src = some (g, n, a, fl) → (c.issuer = 0 ∨ s.runs c.issuer = true)
      ∧ ∀ j o m b e, (j, o) ∈ s.cmds → j < i → o.accepted = none → o.src ≠ some (g, m, b, e)) :
    ∃ t n, (∀ o k, o ∈ s.cmds → o.2.accepted = some k → k < n) ∧ Tab.find t.cmds i = some { c with accepted := some n, dies := journalDies c.die }
      ∧ (∀ g m a fl h, c.src = some (g, m, a, fl) → Tab.find s.groups g = some h → Tab.find t.groups g = some (h.flagDown fl))
      ∧ exec (.commandJournal i) s = .next (if c.code = 0 ∨ 0x11 < c.code then t.cmdDone i { c with accepted := some n, dies := journalDies c.die } 1 [] else t) := by
  let v := s.svcCount c.die c.issuer
  let lowered : State := match c.src with | some (g, _, _, flag) => v.modGrp g (fun k => k.flagDown flag) | none => v
  let d : Cmd := { c with accepted := some s.nextAccepted, dies := journalDies c.die }
  have waits : s.cmdWaits i c = true := State.cmdWaits_of ha hd hg
  have again : (s.svcCount c.die c.issuer).cmdWaits i c = true := State.cmdWaits_of ha ((State.svcDown_svcCount ..).trans hd) hg
  refine ⟨{ lowered with cmds := Tab.put lowered.cmds i d }, s.nextAccepted, fun o k ho hk => s.nextAccepted_above ho hk, Tab.find_put_same, ?_, ?_⟩
  · intro g m a fl h hs hf
    have low : lowered = v.modGrp g (fun k => k.flagDown fl) := by simp only [lowered, hs]
    rw [low, State.modGrp_of_find (s := v) _ hf]
    exact Tab.find_put_same
  · show execCommandJournal i s = _
    have found : Tab.find v.cmds i = some c := hc
    simp only [execCommandJournal, hc, waits, hn, Bool.and_self, if_true]
    refine congrArg _ ?_
    unfold State.acceptCmd
    rw [found]
    simp only [again, Bool.not_true, Bool.false_eq_true, if_false]
    rfl

end

/-! ### The end of a command -/

theorem State.MemStep.cmds {s t : State} (h : s.MemStep t) : t.cmds = s.cmds := by rw [h.frame]

theorem State.writePieces_memStep (s : State) (x : Nat) (sup : Bool) (ps : List (Nat × Nat)) (bs : List Byte) : s.MemStep (s.writePieces x sup ps bs) := by
  induction ps generalizing s bs with
  | nil => exact .refl s
  | cons p r ih =>
    unfold State.writePieces
    split
    · exact ih s _
    · dsimp only
      refine MemStep.trans ?_ (ih _ _)
      split
      · exact .refl s
      · exact ((State.traced_memStep _ _).trans (State.homeWrite_memStep _ _ _ _)).trans (State.trackPath_memStep _ _ _)

theorem State.fwWrite_memStep {s u : State} {x va : Nat} {sup : Bool} {bs : List Byte} (h : s.fwWrite x sup va bs = some u) : s.MemStep u := by
  unfold State.fwWrite at h
  dsimp only at h
  split at h
  · cases h
  · cases h
    exact s.writePieces_memStep _ _ _ _

theorem State.fwWrite_getD_memStep (s : State) (x : Nat) (sup : Bool) (va : Nat) (bs : List Byte) : s.MemStep ((s.fwWrite x sup va bs).getD s) := by
  cases h : s.fwWrite x sup va bs with
  | none => exact .refl s
  | some u => exact State.fwWrite_memStep h

section
variable (s : State) (i st : Nat) (c : Cmd) (rs : List (Nat × List Byte))

/-- The command is out of the table. -/
def State.cmdGone : State := { s with cmds := Tab.drop s.cmds i }

/-- The status and the results as they go into the command's block. -/
def answers (st : Nat) (rs : List (Nat × List Byte)) : List (Nat × List Byte) := (0x08, leBytes 4 st) :: (if st = 0 then rs else [])

theorem answers_status {st : Nat} {rs : List (Nat × List Byte)} (h : st ≠ 0 ∨ rs = []) : answers st rs = [(0x08, leBytes 4 st)] := by
  rcases h with h | h
  · rw [answers, if_neg h]
  · rw [answers, h, ite_self]

/-- The answers are written into a group's block. -/
def State.answered (s : State) (c : Cmd) (a : Dword) (ws : List (Nat × List Byte)) : State :=
  match s.fwFault c.issuer true a.toNat 128 .write with
  | some _ => s
  | none => ws.foldl (fun (v : State) (w : Nat × List Byte) => (v.fwWrite c.issuer true (a.toNat + w.1) w.2).getD v) s

theorem State.answered_memStep (s : State) (c : Cmd) (a : Dword) (ws : List (Nat × List Byte)) : s.MemStep (s.answered c a ws) := by
  unfold State.answered
  split
  · exact .refl s
  · exact MemStep.foldl (fun u w => u.fwWrite_getD_memStep _ _ _ _) _ s

variable {s i st c rs}

theorem State.cmdDone_group {g n : Nat} {a : Dword} {fl : Option Nat} (hs : c.src = some (g, n, a, fl)) :
    s.cmdDone i c st rs = ((s.cmdGone i).answered c a (answers st rs)).modGrp g (fun k => k.tlComplete 7 n) := by
  unfold State.cmdDone
  simp only [hs]
  rfl

theorem State.cmdDone_page {fn : Nat} (hs : c.src = none) (hf : c.vf = some fn) :
    s.cmdDone i c st rs = ((s.cmdGone i).setPage fn { s.fnPage fn with
      block := (answers st rs).foldl (fun (b : List Byte) (w : Nat × List Byte) => patch b w.1 w.2) (s.fnPage fn).block }).msi fn 0 := by
  unfold State.cmdDone
  simp only [hs, hf]
  rfl

theorem State.cmdDone_gone (s : State) (i st : Nat) (c : Cmd) (rs : List (Nat × List Byte)) : Tab.find (s.cmdDone i c st rs).cmds i = none := by
  have out : Tab.find (s.cmdGone i).cmds i = none := Tab.find_drop.trans (if_pos rfl)
  have kept {t : State} (h : t.cmds = (s.cmdGone i).cmds) : Tab.find t.cmds i = none := by rw [h, out]
  cases hs : c.src with
  | some q =>
    obtain ⟨g, n, a, fl⟩ := q
    rw [State.cmdDone_group hs]
    refine kept (Eq.trans ?_ ((s.cmdGone i).answered_memStep c a (answers st rs)).cmds)
    unfold State.modGrp
    split <;> rfl
  | none =>
    cases hf : c.vf with
    | some fn => rw [State.cmdDone_page hs hf]; exact out
    | none =>
      unfold State.cmdDone
      simp only [hs, hf]
      exact out

theorem State.cmdDone_completes {g n : Nat} {a : Dword} {fl : Option Nat} {h : Grp} (hs : c.src = some (g, n, a, fl)) (hg : Tab.find s.groups g = some h) :
    Tab.find (s.cmdDone i c st rs).groups g = some (h.tlComplete 7 n) := by
  have found : Tab.find ((s.cmdGone i).answered c a (answers st rs)).groups g = some h := by rw [(State.answered_memStep ..).groups]; exact hg
  rw [State.cmdDone_group hs, State.modGrp_of_find _ found]
  exact Tab.find_put_same

theorem State.cmdDone_writes {g n : Nat} {a : Dword} {fl : Option Nat} {u : State} (hs : c.src = some (g, n, a, fl)) (hr : st ≠ 0 ∨ rs = [])
    (hf : (s.cmdGone i).fwFault c.issuer true a.toNat 128 .write = none) (hw : (s.cmdGone i).fwWrite c.issuer true (a.toNat + 8) (leBytes 4 st) = some u) :
    (s.cmdDone i c st rs).mem = u.mem := by
  have wrote : (s.cmdGone i).answered c a (answers st rs) = u := by
    unfold State.answered
    rw [hf, answers_status hr]
    show ((s.cmdGone i).fwWrite c.issuer true (a.toNat + 8) (leBytes 4 st)).getD _ = u
    rw [hw]
    rfl
  rw [State.cmdDone_group hs, wrote]
  unfold State.modGrp
  split <;> rfl

theorem State.cmdDone_tells {fn : Nat} (hs : c.src = none) (hf : c.vf = some fn) (hr : st ≠ 0 ∨ rs = []) :
    ((s.cmdDone i c st rs).fnPage fn).block = (s.fnPage fn).block.take 8 ++ leBytes 4 st ++ (s.fnPage fn).block.drop 12
      ∧ ((s.cmdDone i c st rs).fnPage fn).msix.getLsbD 0 = true := by
  have four : (leBytes 4 st).length = 4 := leBytes_length
  rw [State.cmdDone_page hs hf, answers_status hr, State.msi, State.fnPage_setPage, State.fnPage_setPage]
  refine ⟨?_, ?_⟩
  · show patch (s.fnPage fn).block 8 (leBytes 4 st) = _
    rw [patch, four]
  · show ((s.fnPage fn).msix ||| BitVec.twoPow 64 0).getLsbD 0 = true
    rw [BitVec.getLsbD_or, BitVec.getLsbD_twoPow]
    simp

end

/-- Settles O44: DCMD's command, the page's go word, the journal, and what the end of a command leaves. -/
theorem commandTraffic : Obligations.CommandTraffic := by
  unfold Obligations.CommandTraffic
  refine ⟨⟨fun x s g f r h => ?_, fun s fn hf => ⟨hostCommandGo_hands hf, hostCommandGo_fails hf⟩, fun s i c hc ha hd hn hg => commandJournal_accepts hc ha hd hn hg⟩,
    fun s i st c rs => ⟨s.cmdDone_gone i st c rs, fun g n a fl h hs hg => State.cmdDone_completes hs hg,
      fun g n a fl u hs hr hf hw => State.cmdDone_writes hs hr hf hw, fun fn hs hf hr => State.cmdDone_tells hs hf hr⟩⟩
  intro a q flag
  have run : exec (.dcmd x) s = execDcmd x s := rfl
  rw [execDcmd] at run
  refine ⟨fun hk => goesOn_of _ _ run h g (if_pos (by simp [hk])) rfl, fun hk ha ht hv hp => ?_⟩
  obtain ⟨v, hrel, hm, done⟩ := dcmd_hands h hk ha ht hv hp
  have only := (g.tlAssign 7 1).flagUp_only flag
  refine ⟨_, v.addCmd (cmdOf v g x f q.1.1), _, done, ⟨v, _, hrel, rfl, rfl, rfl, ?_, rfl, rfl, rfl⟩, hm.iss, finish_goesOn _ _, ?_, fun i => ?_, fun i => Grp.flagUp_get _ _ _⟩
  · show some (v.iss.g, _, _, _) = _
    rw [hm.iss, Grp.tlLast_assignCmd, if_pos rfl]
    rfl
  · have tln : ((g.tlAssign 7 1).flagUp flag).tln = (g.tlAssign 7 1).tln := by rw [only]
    rw [tln]
    exact only
  · show ((g.tlAssign 7 1).flagUp flag).tlLast i = _
    rw [only]
    exact g.tlLast_assignCmd i

end Sys2Proof.Machine
end

section
/-! PROOF. CREATE, DESTROY and REVOKE; isolating and resetting a subtree (21 R420, R432). -/
namespace Sys2Proof.Machine

open State (MemStep)

/-! ### Steps that post events -/

/-- `t` is `s` but for memory, records, and the tags that number a context's records. -/
structure State.EventStep (s t : State) : Prop where
  frame : t = { s with freeCtr := t.freeCtr, mem := t.mem, memPoison := t.memPoison, codeLog := t.codeLog, l2 := t.l2, dir := t.dir, cores := t.cores, dies := t.dies,
                       ctxs := t.ctxs, records := t.records }
  tags : ∀ y, ∃ n, t.ctxAt y = { s.ctxAt y with tag := n }
  canon : s.memOk → t.memOk

namespace State.EventStep

variable {s t u : State}

theorem ofMem (h : s.MemStep t) : s.EventStep t :=
  ⟨by rw [h.frame], fun y => ⟨(s.ctxAt y).tag, by rw [State.ctxAt, h.ctxs]; rfl⟩, h.canon⟩

theorem refl (s : State) : s.EventStep s := ofMem (.refl s)

theorem trans (a : s.EventStep t) (b : t.EventStep u) : s.EventStep u where
  frame := by rw [b.frame, a.frame]
  tags y := by
    obtain ⟨n, hn⟩ := a.tags y
    obtain ⟨m, hm⟩ := b.tags y
    exact ⟨m, by rw [hm, hn]⟩
  canon h := b.canon (a.canon h)

theorem groups (h : s.EventStep t) : t.groups = s.groups := by rw [h.frame]
theorem launches (h : s.EventStep t) : t.launches = s.launches := by rw [h.frame]
theorem st (h : s.EventStep t) (y : Nat) : (t.ctxAt y).st = (s.ctxAt y).st := by
  obtain ⟨n, hn⟩ := h.tags y
  rw [hn]

end State.EventStep

open State (EventStep)

theorem State.raiseEvent_eventStep (s : State) (x : Nat) (rs : List Rcd) : s.EventStep (s.raiseEvent x rs) := by
  unfold State.raiseEvent
  split
  · exact .refl s
  · refine ⟨rfl, fun y => ?_, id⟩
    refine ⟨if y = x then (s.ctxAt x).tag + 1 else (s.ctxAt y).tag, (State.ctxAt_modCtx s x y (fun c => { c with tag := c.tag + 1 })).trans ?_⟩
    split
    next h => rw [h]
    next => rfl

theorem State.queueRcd_eventStep (s : State) (x q : Nat) (addr : Dword) (e : XFault) : s.EventStep (s.queueRcd x q addr e) := s.raiseEvent_eventStep _ _

theorem State.trackVa_memStep (s : State) (x va : Nat) : s.MemStep (s.trackVa x va) := by
  unfold State.trackVa
  split
  · exact .refl s
  · exact s.trackPath_memStep _ _

theorem State.qStop_memStep (s : State) (x q pa st : Nat) : s.MemStep (s.qStop x q pa st) :=
  ((State.homeSetWord_memStep _ _ _).trans (State.homeSetWord_memStep _ _ _)).trans (State.trackVa_memStep _ _ _)

theorem State.bindSlot_memStep (s : State) (p : Nat × Nat) (x q pa : Nat) : s.MemStep (s.bindSlot p x q pa) := .beside rfl

theorem State.checkQueue_eventStep (s : State) (die x q pa : Nat) : s.EventStep (s.checkQueue die x q pa).2 := by
  unfold State.checkQueue
  split
  · split
    · exact .refl s
    · dsimp only
      split
      next e _ => exact (EventStep.ofMem ((s.traced_memStep e.tr).trans (State.qStop_memStep _ x q pa 3))).trans (State.queueRcd_eventStep _ _ _ _ _)
      · exact .refl s
  · exact .ofMem (s.qStop_memStep _ _ _ _)

theorem State.ring_eventStep (s : State) (x q : Nat) : s.EventStep (s.ring x q) := by
  unfold State.ring
  dsimp only
  split
  · exact (EventStep.ofMem (s.traced_memStep _)).trans (State.queueRcd_eventStep _ _ _ _ _)
  next r _ =>
    have checked := (EventStep.ofMem (s.traced_memStep r.tr)).trans (State.checkQueue_eventStep _ (s.bellDie x) x q r.pa)
    split
    · exact .ofMem (s.traced_memStep _)
    · split
      · exact checked
      · split
        · exact checked.trans (.ofMem (State.modDie_memStep _ _ _))
        · split
          next p _ => exact checked.trans (.ofMem (State.bindSlot_memStep _ p x q r.pa))
          · exact checked.trans (.ofMem (State.modDie_memStep _ _ _))

theorem State.ringAll_eventStep (s : State) (bs : List (Nat × Nat)) : s.EventStep (s.ringAll bs) := by
  induction bs generalizing s with
  | nil => exact .refl s
  | cons b r ih => exact (s.ring_eventStep _ _).trans (ih _)

theorem State.unbindCtx_eventStep (s : State) (x : Nat) : s.EventStep (s.unbindCtx x) :=
  (EventStep.ofMem (.beside rfl)).trans (State.ringAll_eventStep _ _)

/-! ### Resetting a subtree -/

section
variable {s : State} {xs : List Nat}

/-- What freeing the contexts of a list does to one of them. -/
def State.freeOne (v : State) (x : Nat) : State := (v.unbindCtx x).modCtx x (fun c => { ctxInit with gen := c.gen, tag := c.tag })

theorem State.freeOne_st (s : State) (x y : Nat) : ((s.freeOne x).ctxAt y).st = if y = x then .free else (s.ctxAt y).st := by
  unfold State.freeOne
  rw [State.ctxAt_modCtx]
  split
  · rfl
  · exact (s.unbindCtx_eventStep x).st y

theorem State.bumpCtx_st (s : State) (x y : Nat) : ((s.bumpCtx x).ctxAt y).st = (s.ctxAt y).st := by
  have kept : ∀ t : State, t.ctxs = s.ctxs → ((t.modCtx x (fun c => { c with gen := c.gen + 1 })).ctxAt y).st = (s.ctxAt y).st := fun t ht => by
    rw [State.ctxAt_modCtx, State.ctxAt, State.ctxAt, State.ctxAt, ht]
    split
    next h => rw [h]
    next => rfl
  unfold State.bumpCtx
  dsimp only
  split <;> exact kept _ rfl

theorem State.freeAll_st (ys : List Nat) (s : State) {y : Nat} (hy : y ∈ ys ∨ (s.ctxAt y).st = .free) : ((ys.foldl State.freeOne s).ctxAt y).st = .free := by
  induction ys generalizing s with
  | nil => exact hy.resolve_left List.not_mem_nil
  | cons x r ih =>
    refine ih (s.freeOne x) ?_
    rw [State.freeOne_st]
    by_cases h : y = x
    · exact .inr (if_pos h)
    · rw [if_neg h]
      exact hy.imp_left fun m => (List.mem_cons.mp m).resolve_left h

theorem State.bumpAll_st (ys : List Nat) (s : State) (y : Nat) : ((ys.foldl (fun (v : State) x => v.bumpCtx x) s).ctxAt y).st = (s.ctxAt y).st := by
  induction ys generalizing s with
  | nil => rfl
  | cons x r ih => exact (ih _).trans (s.bumpCtx_st x y)

/-- Freeing and renewing contexts leaves groups and launches. -/
theorem State.freeAll_tables (ys : List Nat) (s : State) :
    (ys.foldl State.freeOne s).groups = s.groups ∧ (ys.foldl State.freeOne s).launches = s.launches := by
  induction ys generalizing s with
  | nil => exact ⟨rfl, rfl⟩
  | cons x r ih =>
    have one := s.unbindCtx_eventStep x
    exact ⟨(ih _).1.trans one.groups, (ih _).2.trans one.launches⟩

theorem State.bumpAll_tables (ys : List Nat) (s : State) :
    (ys.foldl (fun (v : State) x => v.bumpCtx x) s).groups = s.groups ∧ (ys.foldl (fun (v : State) x => v.bumpCtx x) s).launches = s.launches := by
  induction ys generalizing s with
  | nil => exact ⟨rfl, rfl⟩
  | cons x r ih =>
    have one : (s.bumpCtx x).groups = s.groups ∧ (s.bumpCtx x).launches = s.launches := by
      unfold State.bumpCtx
      dsimp only
      split <;> exact ⟨rfl, rfl⟩
    exact ⟨(ih _).1.trans one.1, (ih _).2.trans one.2⟩

theorem State.reinit_frees (s : State) (xs : List Nat) :
    (∀ y, y ∈ xs → ((s.reinit xs true).ctxAt y).st = .free) ∧ (∀ p, p ∈ (s.reinit xs true).groups → p.2.ctx ∉ xs)
      ∧ (∀ p, p ∈ (s.reinit xs true).launches → p.2.ctx ∉ xs) := by
  have shape : ∃ t : State, s.reinit xs true = xs.foldl (fun (v : State) x => v.bumpCtx x) (xs.foldl State.freeOne t)
      ∧ t.groups = s.groups.filter (fun g => !xs.contains g.2.ctx) ∧ ∀ p, p ∈ t.launches → p.2.ctx ∉ xs := by
    refine ⟨_, rfl, rfl, fun p hp => ?_⟩
    obtain ⟨l, -, hl⟩ := List.mem_filterMap.mp hp
    split at hl
    next h => cases hl; exact fun m => absurd (List.contains_iff_mem.mpr m) (by simpa using h)
    next => cases hl
  obtain ⟨t, shape, groups, launches⟩ := shape
  obtain ⟨fg, fl⟩ := State.freeAll_tables xs t
  obtain ⟨bg, bl⟩ := State.bumpAll_tables xs (xs.foldl State.freeOne t)
  rw [shape]
  refine ⟨fun y hy => ?_, fun p hp => ?_, fun p hp => ?_⟩
  · rw [State.bumpAll_st]
    exact State.freeAll_st xs t (.inl hy)
  · rw [bg, fg, groups] at hp
    exact fun m => absurd (List.contains_iff_mem.mpr m) (by simpa using (List.mem_filter.mp hp).2)
  · rw [bl, fl] at hp
    exact launches p hp

theorem State.resetCtx_frees {x : Nat} (hp : (s.ctxAt x).part = none) :
    (∀ y, y ∈ s.subtree x → ((s.resetCtx x true).ctxAt y).st = .free) ∧ (∀ p, p ∈ (s.resetCtx x true).groups → p.2.ctx ∉ s.subtree x)
      ∧ (∀ p, p ∈ (s.resetCtx x true).launches → p.2.ctx ∉ s.subtree x) := by
  have none : s.partOf x = none := by rw [State.partOf, hp]
  unfold State.resetCtx
  simp only [none]
  exact State.reinit_frees _ (s.subtree x)

/-! ### Isolating a subtree -/

theorem State.fence_st (xs : List Nat) (s : State) {y : Nat} (hy : y ∈ xs ∨ (s.ctxAt y).st = .fenced) :
    ((xs.foldl (fun (u : State) x => u.modCtx x (fun c => { c with st := CtxSt.fenced, errFence := none })) s).ctxAt y).st = .fenced := by
  induction xs generalizing s with
  | nil => exact hy.resolve_left List.not_mem_nil
  | cons x r ih =>
    refine ih _ ?_
    rw [State.ctxAt_modCtx]
    by_cases h : y = x
    · exact .inr (by rw [if_pos h])
    · rw [if_neg h]
      exact hy.imp_left fun m => (List.mem_cons.mp m).resolve_left h

theorem State.signalAll_keeps (s : State) (xs : List Nat) : (s.signalAll xs).cmds = s.cmds ∧ (s.signalAll xs).mem = s.mem := by
  have fold : ∀ (ls : List Nat) (s : State), (ls.foldl (fun (t : State) l => t.signal l) s).cmds = s.cmds
      ∧ (ls.foldl (fun (t : State) l => t.signal l) s).mem = s.mem := fun ls => by
    induction ls with
    | nil => exact fun _ => ⟨rfl, rfl⟩
    | cons l r ih =>
      intro s
      have one : (s.signal l).cmds = s.cmds ∧ (s.signal l).mem = s.mem := by
        unfold State.signal State.modLaunch
        dsimp only
        split <;> exact ⟨rfl, rfl⟩
      exact ⟨(ih _).1.trans one.1, (ih _).2.trans one.2⟩
  exact fold (s.launchesOf xs) s

theorem State.fenceAll_keeps (xs : List Nat) (s : State) :
    (xs.foldl (fun (u : State) x => u.modCtx x (fun c => { c with st := CtxSt.fenced, errFence := none })) s).cmds = s.cmds
      ∧ (xs.foldl (fun (u : State) x => u.modCtx x (fun c => { c with st := CtxSt.fenced, errFence := none })) s).mem = s.mem := by
  induction xs generalizing s with
  | nil => exact ⟨rfl, rfl⟩
  | cons x r ih => exact ⟨(ih _).1, (ih _).2⟩

theorem State.isolate_fences (s : State) (xs : List Nat) : (∀ x, x ∈ xs → ((s.isolate xs).ctxAt x).st = .fenced)
    ∧ (∀ p, p ∈ (s.isolate xs).cmds ↔ p ∈ s.cmds ∧ p.2.issuer ∉ xs) ∧ (s.isolate xs).mem = s.mem := by
  obtain ⟨cmds, mem⟩ := s.signalAll_keeps xs
  obtain ⟨fcmds, fmem⟩ := State.fenceAll_keeps xs (s.signalAll xs)
  refine ⟨fun x hx => State.fence_st xs (s.signalAll xs) (.inl hx), fun p => ?_, fmem.trans mem⟩
  show p ∈ (State.cmds (xs.foldl _ (s.signalAll xs))).filter _ ↔ _
  rw [fcmds, cmds, List.mem_filter]
  simp

/-! ### Wiping -/

theorem State.zeroRanges_zero (rs : List (Nat × Nat)) (s : State) (a : Nat) (h : (∃ r ∈ rs, r.1 ≤ a ∧ a < r.1 + r.2) ∨ Sparse.get s.mem a = 0) :
    Sparse.get (s.zeroRanges rs).mem a = 0 := by
  induction rs generalizing s with
  | nil => exact h.resolve_left fun ⟨_, m, _⟩ => List.not_mem_nil m
  | cons r rest ih =>
    refine ih _ ?_
    show _ ∨ Sparse.get (Sparse.clear s.mem r.1 r.2) a = 0
    rw [Sparse.get_clear]
    by_cases hr : r.1 ≤ a ∧ a < r.1 + r.2
    · exact .inr (if_pos hr)
    · rw [if_neg hr]
      exact h.imp_left fun ⟨q, m, hq⟩ => ⟨q, (List.mem_cons.mp m).resolve_left fun e => hr (e ▸ hq), hq⟩

theorem State.zeroWindows_mem (s : State) (xs : List Nat) : (s.zeroWindows xs).mem = s.mem := by
  have inner : ∀ (c : Nat) (rs : List LocalRange) (s : State), (rs.foldl (fun (u : State) r => u.zeroWin c r.base r.size) s).mem = s.mem := fun c rs => by
    induction rs with
    | nil => exact fun _ => rfl
    | cons r rest ih => exact fun s => ih _
  have fold : ∀ (cs : List Nat) (s : State), (cs.foldl (fun (t : State) c =>
      let k := t.coreAt c
      let t1 := (k.ranges.filter (fun r => xs.contains r.ctx)).foldl (fun (u : State) r => u.zeroWin c r.base r.size) t
      let t2 := if k.splitOn && xs.contains k.owner then t1.zeroWin c expKey (2 ^ 21) else t1
      t2.modCore c (fun k => { k with savedExp := k.savedExp.filter (fun e => !xs.contains e.ctx) })) s).mem = s.mem := fun cs => by
    induction cs with
    | nil => exact fun _ => rfl
    | cons c rest ih =>
      intro s
      refine (ih _).trans ?_
      dsimp only
      rw [State.modCore_mem]
      split
      · exact inner c _ s
      · exact inner c _ s
  exact fold s.coreList s

theorem State.wipeCtx_zero {x f a : Nat} {more : List (Nat × Nat)} (hf : f ∈ s.mapFrames x) (hl : f ≤ a) (hh : a < f + 2 ^ 21) :
    Sparse.get (s.wipeCtx x xs more).mem a = 0 := by
  unfold State.wipeCtx
  rw [State.zeroWindows_mem]
  exact State.zeroRanges_zero _ _ a (.inl ⟨(f, 2 ^ 21), List.mem_append_left _ (List.mem_map.mpr ⟨f, hf, rfl⟩), hl, hh⟩)

end

/-! ### The commands -/

section
variable {s : State} {i : Nat} {c : Cmd}

/-- A ready command that its instruction picks is run. -/
theorem onCmd_runs {code : Nat} (h : s.cmdIs i c code) (body : Cmd → State) : onCmd i (fun c => decide (c.code = code)) s body = .next (body c) := by
  obtain ⟨found, is, ready⟩ := h
  unfold onCmd
  simp only [found, is, decide_true, ready, Bool.and_self, if_true]

theorem State.checked_begun {v t u : Bool} (h : c.begun = true) (k : State) : s.checked i c v t u k = k := by rw [State.checked, h]; rfl

theorem State.checked_good (k : State) : s.checked i c true true true k = k := by
  unfold State.checked
  cases c.begun <;> rfl

theorem State.bumpCtx_gen (s : State) (x : Nat) : (s.bumpCtx x).ctxAt x = { s.ctxAt x with gen := (s.ctxAt x).gen + 1 } := by
  unfold State.bumpCtx
  dsimp only
  rw [State.ctxAt_modCtx, if_pos rfl]
  split <;> rfl

theorem State.bumpCtx_other (s : State) {x y : Nat} (h : y ≠ x) : (s.bumpCtx x).ctxAt y = s.ctxAt y := by
  unfold State.bumpCtx
  dsimp only
  rw [State.ctxAt_modCtx, if_neg h]
  split <;> rfl

theorem State.bumpCtx_mem (s : State) (x : Nat) : (s.bumpCtx x).mem = s.mem ∧ (s.bumpCtx x).groups = s.groups := by
  unfold State.bumpCtx
  dsimp only
  split <;> exact ⟨rfl, rfl⟩

theorem create_makes {n : Nat} (h : s.cmdIs i c 0x01) (hc : c.clean 0 [(0x10, 8), (0x18, 2), (0x1C, 4)] = true)
    (ha : c.f 0x10 8 % 4096 = 0) (hw : s.worldOk c.issuer (c.f 0x18 2) = true) (ht : c.target = 0) (hn : s.freeId = some n) (hd : (s.ctxAt c.issuer).depth < 4) :
    ∃ t : State, exec (.create i) s = .next (t.cmdDone i c 0 [(0x1C, leBytes 4 (n + 2 ^ 16 * ((s.ctxAt n).gen + 1).toNat))])
      ∧ t.ctxAt n = { ctxInit with st := .frozen, parent := c.issuer, depth := (s.ctxAt c.issuer).depth + 1, gen := (s.ctxAt n).gen + 1
                                   tag := (s.ctxAt n).tag, world := c.f 0x18 2, save := c.f 0x10 8, mark := c.mark }
      ∧ (∀ y, y ≠ n → t.ctxAt y = s.ctxAt y) ∧ t.mem = s.mem ∧ t.groups = s.groups := by
  let made (k : Ctx) : Ctx := { ctxInit with
    st := CtxSt.frozen, parent := c.issuer, depth := (s.ctxAt c.issuer).depth + 1, gen := k.gen, tag := k.tag, world := c.f 0x18 2, save := c.f 0x10 8, mark := c.mark }
  let t := (s.bumpCtx n).modCtx n made
  have new : t.ctxAt n = made { s.ctxAt n with gen := (s.ctxAt n).gen + 1 } := by
    show ((s.bumpCtx n).modCtx n made).ctxAt n = _
    rw [State.ctxAt_modCtx, if_pos rfl, State.bumpCtx_gen]
  obtain ⟨mem, groups⟩ := s.bumpCtx_mem n
  refine ⟨t, ?_, new, fun y hy => ?_, mem, groups⟩
  · have ok : (c.clean 0 [(0x10, 8), (0x18, 2), (0x1C, 4)] && decide (c.f 0x10 8 % 4096 = 0) && s.worldOk c.issuer (c.f 0x18 2)) = true := by simp [hc, ha, hw]
    have target : decide (c.target = 0) = true := decide_eq_true ht
    have gen : (t.ctxAt n).gen = (s.ctxAt n).gen + 1 := by rw [new]
    show execCreate i s = _
    rw [execCreate, onCmd_runs h]
    simp only [ok, target, State.checked_good, hn, if_neg (Nat.not_le.mpr hd)]
    rw [← gen]
  · show ((s.bumpCtx n).modCtx n made).ctxAt y = _
    rw [State.ctxAt_modCtx, if_neg hy, State.bumpCtx_other s hy]

theorem destroy_begins (h : s.cmdIs i c 0x02) (hb : c.begun = false) (hc : c.clean 0 [] = true) (hx : s.isChild c.issuer c.target = true)
    (hf : (s.ctxAt c.target).st = .frozen) (hn : s.childrenOf c.target = []) : exec (.destroy i) s = .next ((s.isolate (s.subtree c.target)).beginCmd i c) := by
  have state : (decide ((s.ctxAt c.target).st = .frozen) && (s.childrenOf c.target).isEmpty) = true := by rw [hf, hn]; rfl
  show execDestroy i s = _
  rw [execDestroy, onCmd_runs h]
  simp only [hc, hx, state, State.checked_good, hb, Bool.not_false, if_true]

theorem destroy_ends (h : s.cmdIs i c 0x02) (hb : c.begun = true) (hq : s.quiet (s.subtree c.target) = true) :
    exec (.destroy i) s = .next ((s.resetCtx c.target true).cmdDone i c 0 []) := by
  show execDestroy i s = _
  rw [execDestroy, onCmd_runs h]
  simp only [State.checked_begun hb, hb, hq, Bool.not_true, Bool.false_eq_true, if_false, if_true]

theorem revoke_begins (h : s.cmdIs i c 0x0C) (hb : c.begun = false) (hc : c.clean 0 [] = true) (hx : s.isChild c.issuer c.target = true) :
    exec (.revoke i) s = .next ((s.isolate (s.subtree c.target)).beginCmd i c) := by
  show execRevoke i s = _
  rw [execRevoke, onCmd_runs h]
  simp only [hc, hx, State.checked_good, hb, Bool.not_false, if_true]

theorem revoke_ends (h : s.cmdIs i c 0x0C) (hb : c.begun = true) (hq : s.quiet (s.subtree c.target) = true) :
    exec (.revoke i) s = .next ((s.resetCtx c.target true).cmdDone i c 0 []) := by
  show execRevoke i s = _
  rw [execRevoke, onCmd_runs h]
  simp only [State.checked_begun hb, hb, hq, Bool.not_true, Bool.false_eq_true, if_false, if_true]

end

/-- Settles O45: the made child, the two steps of DESTROY and REVOKE, and what isolating, resetting and wiping leave. -/
theorem contextCommands : Obligations.ContextCommands := by
  unfold Obligations.ContextCommands
  refine ⟨fun s i n c h _ hc ha hw ht hn hd => create_makes h hc ha hw ht hn hd, fun s i c e h => ?_, fun s xs => s.isolate_fences xs,
    fun s x hp => State.resetCtx_frees hp, fun s x f a xs more hf hl hh => State.wipeCtx_zero hf hl hh⟩
  intro x
  rcases h with ⟨rfl, h⟩ | ⟨rfl, h⟩
  · exact ⟨fun hb hc hx hs => destroy_begins h hb hc hx (hs rfl).1 (hs rfl).2, destroy_ends h⟩
  · exact ⟨fun hb hc hx _ => revoke_begins h hb hc hx, revoke_ends h⟩

end Sys2Proof.Machine
end

section
/-! PROOF. The grant commands and SET_HANDLER (21 R420, R421, R423; 17 R359). -/
namespace Sys2Proof.Machine

section
variable {s : State} {i : Nat} {c : Cmd}

/-- A test on a command's flag that the flag's absence excuses. -/
theorem flag_excuses {b p : Bool} (h : b = true → p = true) : (!b || p) = true := by
  cases b
  · rfl
  · rw [h rfl]; rfl

/-! ### GRANT_CORE -/

theorem grantMask_short {n : Nat} (h : n < 2 ^ 48) : (BitVec.ofNat 64 n).extractLsb' 48 16 = 0#16 := by
  refine BitVec.eq_of_toNat_eq ?_
  rw [BitVec.extractLsb'_toNat, BitVec.toNat_ofNat, Nat.shiftRight_eq_div_pow]
  show n % 2 ^ 64 / 2 ^ 48 % 2 ^ 16 = 0
  omega

/-- The shares of the issuer's children, with the target's new one. -/
def State.shareSum (s : State) (c : Cmd) : Nat :=
  ((s.childrenOf c.issuer).filter (fun o => decide (o ≠ c.target))).foldl (fun a o => a + (s.ctxAt o).share) (c.f 0x18 8)

section
variable (h : s.cmdIs i c 0x03) (hc : c.clean 0 [(0x10, 16)] = true) (hm : c.f 0x10 8 < 2 ^ 48) (hq : c.f 0x18 8 ≤ 2 ^ 32) (hx : s.isChild c.issuer c.target = true)
  (hg : ∀ p, p ∈ s.groups → p.2.ctx ∈ s.subtree c.target →
    ((s.ctxAt c.target).clMask &&& ~~~(BitVec.ofNat 64 (c.f 0x10 8))).getLsbD (coreCluster p.2.core) = false)
include h hc hm hq hx hg

theorem grantCore_checked : exec (.grantCore i) s = .next (
    if BitVec.ofNat 64 (c.f 0x10 8) &&& ~~~(s.ctxAt c.issuer).clMask ≠ 0 ∨ 2 ^ 32 < s.shareSum c then s.cmdDone i c 4 []
    else if (s.ctxAt c.target).st = .active ∧ s.saveOk c.target (BitVec.ofNat 64 (c.f 0x10 8) &&& ~~~(s.ctxAt c.target).clMask) = false then s.cmdDone i c 5 []
    else ((s.modCtx c.target (fun k => { k with clMask := BitVec.ofNat 64 (c.f 0x10 8), share := c.f 0x18 8 })).noteAll).cmdDone i c 0 []) := by
  have valid : (c.clean 0 [(0x10, 16)] && decide ((BitVec.ofNat 64 (c.f 0x10 8)).extractLsb' 48 16 = 0#16) && decide (c.f 0x18 8 ≤ 2 ^ 32)) = true := by
    rw [hc, decide_eq_true (grantMask_short hm), decide_eq_true hq]; rfl
  have free : (!s.groups.any (fun g => (s.subtree c.target).contains g.2.ctx
      && ((s.ctxAt c.target).clMask &&& ~~~(BitVec.ofNat 64 (c.f 0x10 8))).getLsbD (coreCluster g.2.core))) = true := by
    rw [Bool.not_eq_true']
    refine List.any_eq_false.mpr fun p hp hh => ?_
    obtain ⟨hin, hbit⟩ := Bool.and_eq_true_iff.mp hh
    rw [hg p hp (List.contains_iff_mem.mp hin)] at hbit
    exact Bool.false_ne_true hbit
  show execGrantCore i s = _
  rw [execGrantCore, onCmd_runs h]
  simp only [valid, hx, free, State.checked_good]
  rfl

theorem grantCore_exceeds (hb : BitVec.ofNat 64 (c.f 0x10 8) &&& ~~~(s.ctxAt c.issuer).clMask ≠ 0 ∨ 2 ^ 32 < s.shareSum c) :
    exec (.grantCore i) s = .next (s.cmdDone i c 4 []) := by
  rw [grantCore_checked h hc hm hq hx hg, if_pos hb]

theorem grantCore_grants (hin : BitVec.ofNat 64 (c.f 0x10 8) &&& ~~~(s.ctxAt c.issuer).clMask = 0) (hs : s.shareSum c ≤ 2 ^ 32)
    (ha : (s.ctxAt c.target).st = .active → s.saveOk c.target (BitVec.ofNat 64 (c.f 0x10 8) &&& ~~~(s.ctxAt c.target).clMask) = true) :
    exec (.grantCore i) s = .next ((s.setCtx c.target { s.ctxAt c.target with clMask := BitVec.ofNat 64 (c.f 0x10 8), share := c.f 0x18 8 }).noteAll.cmdDone i c 0 []) := by
  have within : ¬(BitVec.ofNat 64 (c.f 0x10 8) &&& ~~~(s.ctxAt c.issuer).clMask ≠ 0 ∨ 2 ^ 32 < s.shareSum c) := fun o => o.elim (· hin) (Nat.not_lt.mpr hs)
  have saved : ¬((s.ctxAt c.target).st = .active ∧ s.saveOk c.target (BitVec.ofNat 64 (c.f 0x10 8) &&& ~~~(s.ctxAt c.target).clMask) = false) := fun o => by
    rw [ha o.1] at o
    exact absurd o.2 (by decide)
  rw [grantCore_checked h hc hm hq hx hg, if_neg within, if_neg saved]
  rfl

end

/-! ### GRANT_MEM -/

/-- The context that a GRANT_MEM leaves. -/
def Ctx.granted (k : Ctx) (c : Cmd) (pa : Nat) : Ctx := { k with
  root := if c.flags.testBit 0 then c.f 0x20 8 else k.root
  mapBase := if c.flags.testBit 1 then pa else k.mapBase, mapCount := if c.flags.testBit 1 then c.f 0x18 4 else k.mapCount
  dirtyMap := if c.flags.testBit 2 then (if c.f 0x28 8 = 0 then none else some (c.f 0x28 8)) else k.dirtyMap
  pool := if c.flags.testBit 3 then c.f 0x30 8 else k.pool, poolCount := if c.flags.testBit 3 then c.f 0x38 4 else k.poolCount
  gen := if c.flags.testBit 0 || c.flags.testBit 1 || c.flags.testBit 3 then k.gen + 1 else k.gen
  mark := if c.flags.testBit 0 || c.flags.testBit 1 || c.flags.testBit 3 then c.mark else k.mark }

theorem State.grantMemory_ctx (s : State) (c : Cmd) (pa : Nat) : (s.grantMemory c pa).ctxAt c.target = (s.ctxAt c.target).granted c pa := by
  unfold State.grantMemory Ctx.granted
  dsimp only
  cases c.flags.testBit 0 || c.flags.testBit 1 || c.flags.testBit 3 with
  | true =>
    rw [if_pos rfl, State.ctxAt_modCtx, if_pos rfl, State.bumpCtx_gen, State.ctxAt_modCtx, if_pos rfl]
    rfl
  | false =>
    rw [if_neg Bool.false_ne_true, State.ctxAt_modCtx, if_pos rfl]
    rfl

/-- The address of the map matters only where the map is granted. -/
theorem State.grantMemory_unmapped (s : State) (pa : Nat) (hb : c.flags.testBit 1 = false) : s.grantMemory c pa = s.grantMemory c 0 := by
  unfold State.grantMemory
  simp only [hb, Bool.false_eq_true, if_false]

section
variable {pa : Nat} (h : s.cmdIs i c 0x04) (hc : c.clean 0xF [(0x10, 12), (0x20, 28)] = true) (hx : s.isChild c.issuer c.target = true)
  (h0 : c.flags.testBit 0 = true → c.f 0x20 8 % 4096 = 0 ∧ c.f 0x20 8 < 2 ^ 52) (h2 : c.flags.testBit 2 = true → c.f 0x28 8 % 8 = 0)
  (h3 : c.flags.testBit 3 = true → c.f 0x30 8 % 2 ^ 21 = 0) (h1 : c.flags.testBit 1 = true → c.f 0x10 8 % 8 = 0)
include h hc hx h0 h1 h2 h3

theorem grantMem_checked : exec (.grantMem i) s = .next (
    match (if c.flags.testBit 1 && decide (c.f 0x18 4 ≠ 0) then s.contiguous c.issuer (c.f 0x10 8) (8 * c.f 0x18 4) else some (0, true)) with
    | none => s.cmdDone i c 5 []
    | some (_, false) => s.cmdDone i c 4 []
    | some (pa, true) =>
      if !c.flags.testBit 1 then (s.grantMemory c pa).cmdDone i c 0 []
      else
        match (s.grantMemory c pa).joining c.target with
        | none => s.cmdDone i c 4 []
        | some fs => (((s.grantMemory c pa).leaveWorlds).joinWorld c.target fs).cmdDone i c 0 []) := by
  have valid : (c.clean 0xF [(0x10, 12), (0x20, 28)]
      && (!c.flags.testBit 1 || decide (c.f 0x10 8 % 8 = 0)) && (!c.flags.testBit 0 || (decide (c.f 0x20 8 % 4096 = 0) && decide (c.f 0x20 8 < 2 ^ 52)))
      && (!c.flags.testBit 2 || decide (c.f 0x28 8 % 8 = 0)) && (!c.flags.testBit 3 || decide (c.f 0x30 8 % 2 ^ 21 = 0))) = true := by
    rw [hc, flag_excuses fun b => decide_eq_true (h1 b), flag_excuses fun b => by rw [decide_eq_true (h0 b).1, decide_eq_true (h0 b).2]; rfl,
      flag_excuses fun b => decide_eq_true (h2 b), flag_excuses fun b => decide_eq_true (h3 b)]
    rfl
  show execGrantMem i s = _
  rw [execGrantMem, onCmd_runs h]
  simp only [valid, hx, State.checked_good] <;> rfl

theorem grantMem_unmapped (hb : c.flags.testBit 1 = false) : exec (.grantMem i) s = .next ((s.grantMemory c pa).cmdDone i c 0 []) := by
  rw [grantMem_checked h hc hx h0 h2 h3 h1, s.grantMemory_unmapped pa hb, hb]
  rfl

theorem grantMem_maps {fs : List Nat} (hb : c.flags.testBit 1 = true)
    (hk : c.flags.testBit 1 = true ∧ c.f 0x18 4 ≠ 0 → s.contiguous c.issuer (c.f 0x10 8) (8 * c.f 0x18 4) = some (pa, true))
    (hz : c.flags.testBit 1 = true ∧ c.f 0x18 4 = 0 → pa = 0) (hj : (s.grantMemory c pa).joining c.target = some fs) :
    exec (.grantMem i) s = .next (((s.grantMemory c pa).leaveWorlds.joinWorld c.target fs).cmdDone i c 0 []) := by
  have base : (if c.flags.testBit 1 && decide (c.f 0x18 4 ≠ 0) then s.contiguous c.issuer (c.f 0x10 8) (8 * c.f 0x18 4) else some (0, true)) = some (pa, true) := by
    rw [hb, Bool.true_and]
    by_cases hn : c.f 0x18 4 = 0
    · rw [hz ⟨hb, hn⟩, decide_eq_false (Classical.not_not.mpr hn)]; rfl
    · rw [decide_eq_true hn, if_pos rfl, hk ⟨hb, hn⟩]
  rw [grantMem_checked h hc hx h0 h2 h3 h1, base]
  simp only [hb, hj, Bool.not_true, Bool.false_eq_true, if_false]

end

/-! ### GRANT_QUEUES and GRANT_LINK -/

/-- A sum that skips an entry begins where it is told. -/
theorem foldl_skip_from (cs : List (Nat × Ctx)) (x n m : Nat) :
    cs.foldl (fun a k => if k.1 = x then a else a + k.2.qcount) (n + m) = n + cs.foldl (fun a k => if k.1 = x then a else a + k.2.qcount) m := by
  induction cs generalizing m with
  | nil => rfl
  | cons k r ih =>
    rw [List.foldl_cons, List.foldl_cons, ← ih]
    split
    · rfl
    · rw [Nat.add_assoc]

theorem grantQueues_grants (h : s.cmdIs i c 0x05) (hc : c.clean 3 [(0x10, 12), (0x20, 8)] = true) (ha : c.f 0x10 8 % 64 = 0) (hn : 1 ≤ c.f 0x18 4)
    (ht : c.f 0x18 4 + (s.ctxs.foldl (fun a k => if k.1 = c.target then a else a + k.2.qcount) 0) ≤ 65536) (hd : c.f 0x20 8 % 4 = 0)
    (hx : s.isChild c.issuer c.target = true) :
    exec (.grantQueues i) s = .next ((s.setCtx c.target { s.ctxAt c.target with
      qtab := c.f 0x10 8, qcount := c.f 0x18 4, doorbell := c.f 0x20 8, restart := c.flags.testBit 0, qpriv := c.flags.testBit 1 }).cmdDone i c 0 []) := by
  have total : s.ctxs.foldl (fun a k => if k.1 = c.target then a else a + k.2.qcount) (c.f 0x18 4) ≤ 65536 := by
    have := foldl_skip_from s.ctxs c.target (c.f 0x18 4) 0
    rw [Nat.add_zero] at this
    rw [this]
    exact ht
  have few : c.f 0x18 4 ≤ 65536 := Nat.le_trans (Nat.le_add_right _ _) ht
  have valid : (c.clean 3 [(0x10, 12), (0x20, 8)] && decide (c.f 0x10 8 % 64 = 0) && decide (1 ≤ c.f 0x18 4) && decide (c.f 0x18 4 ≤ 65536)
      && decide (c.f 0x20 8 % 4 = 0)) = true := by
    rw [hc, decide_eq_true ha, decide_eq_true hn, decide_eq_true few, decide_eq_true hd]; rfl
  show execGrantQueues i s = _
  rw [execGrantQueues, onCmd_runs h]
  simp only [valid, hx, State.checked_good, if_neg (Nat.not_lt.mpr total)]
  rfl

theorem grantLink_grants (h : s.cmdIs i c 0x06) (hc : c.clean 0 [(0x10, 2), (0x18, 24)] = true) (hx : s.isChild c.issuer c.target = true)
    (hp : c.issuer = 0 ∨ BitVec.ofNat 16 (c.f 0x10 2) &&& ~~~(s.ctxAt c.issuer).ports = 0 ∧ BitVec.ofNat 64 (c.f 0x28 8) &&& ~~~(s.ctxAt c.issuer).packages = 0) :
    exec (.grantLink i) s = .next ((s.setCtx c.target { s.ctxAt c.target with
      ports := BitVec.ofNat 16 (c.f 0x10 2), packages := BitVec.ofNat 64 (c.f 0x28 8), portShares := (List.range 16).map (fun j => c.f (0x18 + j) 1) }).cmdDone i c 0 []) := by
  have within : ¬(c.issuer ≠ 0 ∧ (BitVec.ofNat 16 (c.f 0x10 2) &&& ~~~(s.ctxAt c.issuer).ports ≠ 0
      ∨ BitVec.ofNat 64 (c.f 0x28 8) &&& ~~~(s.ctxAt c.issuer).packages ≠ 0)) := fun ⟨h0, o⟩ => by
    obtain ⟨ports, packages⟩ := hp.resolve_left h0
    exact o.elim (· ports) (· packages)
  show execGrantLink i s = _
  rw [execGrantLink, onCmd_runs h]
  simp only [hc, hx, State.checked_good, if_neg within]
  rfl

/-! ### SET_HANDLER -/

/-- The context that a SET_HANDLER leaves. -/
def Ctx.handled (k : Ctx) (c : Cmd) (q p : Bool) : Ctx := { k with
  ring := if q then c.f 0x10 8 else k.ring, lgsz := if q then c.f 0x18 1 else k.lgsz, mask := if q then BitVec.ofNat 7 (c.f 0x1A 2) else k.mask
  replies := if q then c.f 0x20 8 else k.replies, notify := if q then c.f 0x28 8 else k.notify, replyBell := if q then c.f 0x30 8 else k.replyBell
  callRing := if q then c.f 0x58 8 else k.callRing, frames := if p then c.f 0x38 8 else k.frames
  stackBase := if p then c.f 0x40 8 else k.stackBase, tvec := if p then BitVec.ofNat 64 (c.f 0x48 8) else k.tvec
  parkns := if p then BitVec.ofNat 32 (c.f 0x50 4) else k.parkns, adopt := if p then BitVec.ofNat 32 (c.f 0x54 4) else k.adopt }

theorem setHandler_sets (h : s.cmdIs i c 0x07) (hc : c.clean 3 [(0x10, 9), (0x1A, 2), (0x20, 64)] = true) (hx : s.isSelfOrChild c.issuer c.target = true)
    (hq : c.flags.testBit 0 = true → c.f 0x10 8 % 64 = 0 ∧ 4 ≤ c.f 0x18 1 ∧ c.f 0x18 1 ≤ 16 ∧ c.f 0x1A 2 < 128 ∧ c.f 0x20 8 % 8 = 0 ∧ c.f 0x28 8 ≠ 0
      ∧ c.f 0x28 8 % 16 = 0 ∧ c.f 0x30 8 % 4 = 0 ∧ c.f 0x58 8 % 64 = 0)
    (hp : c.flags.testBit 1 = true → c.f 0x38 8 % 2 ^ 14 = 0 ∧ c.f 0x40 8 % 2 ^ 16 = 0) :
    ∃ t : State, exec (.setHandler i) s = .next (t.cmdDone i c 0 []) ∧ (∀ y, y ≠ c.target → t.ctxAt y = s.ctxAt y) ∧ t = { s with ctxs := t.ctxs }
      ∧ t.ctxAt c.target = (s.ctxAt c.target).handled c (c.flags.testBit 0) (c.flags.testBit 1) := by
  have valid : (c.clean 3 [(0x10, 9), (0x1A, 2), (0x20, 64)] && (!c.flags.testBit 0 || (decide (c.f 0x10 8 % 64 = 0) && decide (4 ≤ c.f 0x18 1)
      && decide (c.f 0x18 1 ≤ 16) && decide (c.f 0x1A 2 < 128) && decide (c.f 0x20 8 % 8 = 0) && decide (c.f 0x28 8 ≠ 0) && decide (c.f 0x28 8 % 16 = 0)
      && decide (c.f 0x30 8 % 4 = 0) && decide (c.f 0x58 8 % 64 = 0)))
      && (!c.flags.testBit 1 || (decide (c.f 0x38 8 % 2 ^ 14 = 0) && decide (c.f 0x40 8 % 2 ^ 16 = 0)))) = true := by
    rw [hc, flag_excuses fun b => by obtain ⟨a1, a2, a3, a4, a5, a6, a7, a8, a9⟩ := hq b; simp [a1, a2, a3, a4, a5, a6, a7, a8, a9],
      flag_excuses fun b => by rw [decide_eq_true (hp b).1, decide_eq_true (hp b).2]; rfl]
    rfl
  have run : exec (.setHandler i) s = execSetHandler i s := rfl
  rw [execSetHandler, onCmd_runs h] at run
  simp only [valid, hx, State.checked_good] at run
  refine ⟨_, run, fun y hy => ?_, ?_, ?_⟩
  · cases c.flags.testBit 0 <;> cases c.flags.testBit 1 <;> simp [State.ctxAt_modCtx, hy]
  · cases c.flags.testBit 0 <;> cases c.flags.testBit 1 <;> rfl
  · cases c.flags.testBit 0 <;> cases c.flags.testBit 1 <;> simp [State.ctxAt_modCtx, Ctx.handled]

end

/-- Settles O46: each grant by its checks, and what it sets. -/
theorem grantCommands : Obligations.GrantCommands := by
  unfold Obligations.GrantCommands
  refine ⟨fun s i c h _ => ?_, fun s i pa c h _ => ?_, fun s i c h _ hc ha hn ht hd hx => grantQueues_grants h hc ha hn ht hd hx, fun s i c h _ hc hx => ?_,
    fun s i c h _ hc hx hq hp => setHandler_sets h hc hx hq hp⟩
  · intro x k m hc hm hq hx hg sum
    exact ⟨grantCore_exceeds h hc hm hq hx hg, grantCore_grants h hc hm hq hx hg⟩
  · intro x k hc hx h0 h2 h3 h1 hk hz t
    exact ⟨s.grantMemory_ctx c pa, grantMem_unmapped h hc hx h0 h2 h3 h1, fun fs hb hj => grantMem_maps h hc hx h0 h2 h3 h1 hb hk hz hj⟩
  · intro ps pk hp
    exact grantLink_grants h hc hx hp

end Sys2Proof.Machine
end

section
/-! PROOF. FREEZE and THAW, CHECKPOINT and RESTORE (21 R421, R428, R430; 22 R443). -/
namespace Sys2Proof.Machine

section
variable {s : State} {i : Nat} {c : Cmd}

/-! ### FREEZE -/

/-- Signals leave contexts as they are, and a launch that runs stands pre-empted once its signal has come. -/
theorem State.signal_find (s : State) (k n : Nat) : Tab.find (s.signal k).launches n
    = if n = k then (Tab.find s.launches n).map (fun l => if l.st = .running then { l with st := .preempted, held := false, sliceAt := none } else l)
      else Tab.find s.launches n := State.modLaunch_find s k n _

theorem State.signal_ctxs (s : State) (k : Nat) : (s.signal k).ctxs = s.ctxs := by
  unfold State.signal State.modLaunch
  dsimp only
  split <;> rfl

theorem State.signals_ctxs (ls : List Nat) (s : State) : (ls.foldl (fun (t : State) l => t.signal l) s).ctxs = s.ctxs := by
  induction ls generalizing s with
  | nil => rfl
  | cons l r ih => exact (ih _).trans (s.signal_ctxs l)

theorem State.signals_stop (ls : List Nat) (s : State) {n : Nat} {l : Launch} (hl : Tab.find s.launches n = some l)
    (hs : l.st = .preempted ∨ l.st = .running ∧ n ∈ ls) :
    ∃ k, Tab.find (ls.foldl (fun (t : State) l => t.signal l) s).launches n = some k ∧ k.st = .preempted := by
  induction ls generalizing s l with
  | nil => exact ⟨l, hl, hs.resolve_right fun h => List.not_mem_nil h.2⟩
  | cons x r ih =>
    have next := s.signal_find x n
    rw [hl, Option.map_some] at next
    by_cases h : n = x
    · rw [if_pos h] at next
      refine ih _ next (.inl ?_)
      rcases hs with hs | ⟨hs, -⟩
      · rw [hs, if_neg (by decide)]; exact hs
      · rw [hs, if_pos rfl]
    · rw [if_neg h] at next
      exact ih _ next (hs.imp_right fun hs => ⟨hs.1, (List.mem_cons.mp hs.2).resolve_left h⟩)

theorem State.signalAll_ctxs (s : State) (xs : List Nat) : (s.signalAll xs).ctxs = s.ctxs := State.signals_ctxs (s.launchesOf xs) s

theorem State.mem_launchesOf {xs : List Nat} {n : Nat} {l : Launch} (hl : Tab.find s.launches n = some l) (hx : l.ctx ∈ xs) : n ∈ s.launchesOf xs :=
  List.mem_map.mpr ⟨(n, l), List.mem_filter.mpr ⟨Tab.mem_of_find hl, List.contains_iff_mem.mpr hx⟩, rfl⟩

theorem State.signalAll_stops {xs : List Nat} {n : Nat} {l : Launch} (hl : Tab.find s.launches n = some l) (hx : l.ctx ∈ xs) (hr : l.st = .running) :
    ∃ k, Tab.find (s.signalAll xs).launches n = some k ∧ k.st = .preempted :=
  State.signals_stop (s.launchesOf xs) s hl (.inr ⟨hr, State.mem_launchesOf hl hx⟩)

theorem freeze_begins (h : s.cmdIs i c 0x08) (hb : c.begun = false) (hc : c.clean 0 [] = true) (hx : s.isChild c.issuer c.target = true)
    (ha : (s.ctxAt c.target).st = .active) :
    exec (.freeze i) s = .next (((s.signalAll (s.subtree c.target)).modCtx c.target (fun k => { k with st := .frozen })).beginCmd i c) := by
  show execFreeze i s = _
  rw [execFreeze, onCmd_runs h]
  simp only [hc, hx, ha, decide_true, State.checked_good, hb, Bool.not_false, if_true]

theorem freeze_ends (h : s.cmdIs i c 0x08) (hb : c.begun = true) (hq : s.quiet (s.subtree c.target) = true) (hd : s.drainedPorts (s.subtree c.target) = true)
    (ho : ∀ p, p ∈ s.cmds → p.2.begun = true → p.2.src ≠ none → p.2.issuer ∉ s.subtree c.target) :
    exec (.freeze i) s = .next ((s.flushCtxs (s.subtree c.target)).cmdDone i c 0 []) := by
  have shut : s.cmdOpen (s.subtree c.target) = false := by
    refine List.any_eq_false.mpr fun p hp hh => ?_
    obtain ⟨hbs, hin⟩ := Bool.and_eq_true_iff.mp hh
    obtain ⟨hbegun, hsrc⟩ := Bool.and_eq_true_iff.mp hbs
    exact ho p hp hbegun (Option.isSome_iff_ne_none.mp hsrc) (List.contains_iff_mem.mp hin)
  show execFreeze i s = _
  rw [execFreeze, onCmd_runs h]
  simp only [State.checked_begun hb, hb, hq, hd, shut, Bool.not_true, Bool.not_false, Bool.and_self, Bool.false_eq_true, if_false, if_true]

/-! ### THAW -/

/-- A launch that was cut short runs again or is aborted when its context thaws. -/
def State.settleOne (restart : Bool) (t : State) (l : Nat) : State :=
  match Tab.find t.launches l with
  | none => t
  | some k =>
    if !k.cut then t
    else if restart then
      let ro := t.nextRoast
      let u := if k.r.tG then { t with roasts := Tab.put t.roasts ro ⟨l, false, [], [], [], none⟩, nextRoast := ro + 1 } else t
      u.modLaunch l (fun k => { k with cut := false, st := LaunchSt.running, roast := if k.r.tG then some ro else none })
    else t.modLaunch l (fun k => { k with cut := false, st := LaunchSt.aborting, aborted := true, next := k.r.teams })

/-- A launch as a thaw leaves it. -/
def Launch.thawed (k : Launch) (restart : Bool) : Prop :=
  k.cut = false ∧ if restart then k.st = .running else k.st = .aborting ∧ k.aborted = true

theorem State.modLaunch_ctxs (s : State) (k : Nat) (f : Launch → Launch) : (s.modLaunch k f).ctxs = s.ctxs := by
  unfold State.modLaunch
  split <;> rfl

theorem State.settleOne_ctxs (restart : Bool) (t : State) (x : Nat) : (t.settleOne restart x).ctxs = t.ctxs := by
  unfold State.settleOne
  split
  · rfl
  · split
    · rfl
    · split
      · rw [State.modLaunch_ctxs, apply_ite State.ctxs]
        exact ite_self _
      · exact State.modLaunch_ctxs ..

theorem State.settleOne_find (restart : Bool) (t : State) (x n : Nat) {l : Launch} (hl : Tab.find t.launches n = some l) :
    ∃ k, Tab.find (t.settleOne restart x).launches n = some k ∧ (k = l ∧ (n = x → l.cut = false) ∨ n = x ∧ l.cut = true ∧ k.thawed restart) := by
  by_cases h : n = x
  · subst h
    cases hc : l.cut with
    | false =>
      refine ⟨l, ?_, .inl ⟨rfl, fun _ => rfl⟩⟩
      unfold State.settleOne
      simp only [hl, hc, Bool.not_false, if_true]
    | true =>
      unfold State.settleOne
      simp only [hl, hc, Bool.not_true, Bool.false_eq_true, if_false]
      cases restart with
      | false =>
        rw [if_neg Bool.false_ne_true, State.modLaunch_find, if_pos rfl, hl]
        exact ⟨_, rfl, .inr ⟨trivial, trivial, rfl, rfl, rfl⟩⟩
      | true =>
        rw [if_pos rfl, State.modLaunch_find, if_pos rfl]
        have same : (if l.r.tG then { t with roasts := Tab.put t.roasts t.nextRoast ⟨n, false, [], [], [], none⟩, nextRoast := t.nextRoast + 1 } else t).launches
            = t.launches := by rw [apply_ite State.launches]; exact ite_self _
        rw [same, hl]
        exact ⟨_, rfl, .inr ⟨trivial, trivial, rfl, rfl⟩⟩
  · refine ⟨l, ?_, .inl ⟨rfl, fun e => absurd e h⟩⟩
    unfold State.settleOne
    split
    · exact hl
    · split
      · exact hl
      · split
        · rw [State.modLaunch_find, if_neg h]
          rw [apply_ite State.launches]
          exact (congrArg (Tab.find · n) (ite_self _)).trans hl
        · rw [State.modLaunch_find, if_neg h]
          exact hl

theorem State.settleAll_find (restart : Bool) (ls : List Nat) (t : State) {n : Nat} {l : Launch} (hl : Tab.find t.launches n = some l)
    (hs : l.thawed restart ∨ l.cut = true ∧ n ∈ ls) :
    ∃ k, Tab.find (ls.foldl (State.settleOne restart) t).launches n = some k ∧ k.thawed restart := by
  induction ls generalizing t l with
  | nil => exact ⟨l, hl, hs.resolve_right fun h => List.not_mem_nil h.2⟩
  | cons x r ih =>
    obtain ⟨k, hk, what⟩ := t.settleOne_find restart x n hl
    refine ih _ hk ?_
    rcases what with ⟨rfl, kept⟩ | ⟨-, -, done⟩
    · refine hs.imp_right fun ⟨cut, mem⟩ => ⟨cut, (List.mem_cons.mp mem).resolve_left fun e => ?_⟩
      rw [kept e] at cut
      exact Bool.false_ne_true cut
    · exact .inl done

theorem State.settleAll_ctxs (restart : Bool) (ls : List Nat) (t : State) : (ls.foldl (State.settleOne restart) t).ctxs = t.ctxs := by
  induction ls generalizing t with
  | nil => rfl
  | cons x r ih => exact (ih _).trans (t.settleOne_ctxs restart x)

theorem State.settleCut_eq (s : State) (x : Nat) : s.settleCut x = (s.launchesOf [x]).foldl (State.settleOne (s.ctxAt x).restart) s := rfl

theorem State.settleCut_ctxs (s : State) (x : Nat) : (s.settleCut x).ctxs = s.ctxs := by
  rw [State.settleCut_eq, State.settleAll_ctxs]

theorem State.settleCut_thaws {x n : Nat} {l : Launch} (hl : Tab.find s.launches n = some l) (hc : l.cut = true) (hx : l.ctx = x) :
    ∃ k, Tab.find (s.settleCut x).launches n = some k ∧ k.thawed (s.ctxAt x).restart :=
  State.settleAll_find _ _ s hl (.inr ⟨hc, State.mem_launchesOf hl (List.mem_singleton.mpr hx)⟩)

section
variable (h : s.cmdIs i c 0x09) (hc : c.clean 0 [] = true) (hx : s.isChild c.issuer c.target = true) (hf : (s.ctxAt c.target).st = .frozen)
include h hc hx hf

theorem thaw_unsaved (hs : s.saveOk c.target (s.ctxAt c.target).clMask = false) : exec (.thaw i) s = .next (s.cmdDone i c 5 []) := by
  show execThaw i s = _
  rw [execThaw, onCmd_runs h]
  simp only [hc, hx, hf, decide_true, State.checked_good, hs, Bool.not_false, if_true]

theorem thaw_runs (hs : s.saveOk c.target (s.ctxAt c.target).clMask = true) :
    exec (.thaw i) s = .next (((s.settleCut c.target).modCtx c.target (fun k => { k with st := .active })).noteAll.cmdDone i c 0 []) := by
  show execThaw i s = _
  rw [execThaw, onCmd_runs h]
  simp only [hc, hx, hf, decide_true, State.checked_good, hs, Bool.not_true, Bool.false_eq_true, if_false]

end

/-! ### CHECKPOINT -/

section
variable (h : s.cmdIs i c 0x0A) (hc : c.clean 1 [(0x10, 16), (0x20, 8)] = true) (ha : c.f 0x10 8 % 4096 = 0) (hx : s.isChild c.issuer c.target = true)
  (hf : (s.ctxAt c.target).st = .frozen) (hw : s.worldMay c = true) (hs : s.settled (s.subtree c.target) = true)
include h hc ha hx hf hw hs

theorem checkpoint_small (hn : c.f 0x18 8 < (s.takeImage c.target).size) : exec (.checkpoint i) s = .next (s.cmdDone i c 4 []) := by
  show execCheckpoint i s = _
  rw [execCheckpoint, onCmd_runs h]
  simp only [hc, ha, hx, hf, hw, hs, decide_true, Bool.and_self, State.checked_good, Bool.not_true, Bool.false_eq_true, if_false, if_pos hn]

theorem checkpoint_writes {u : State} (hn : (s.takeImage c.target).size ≤ c.f 0x18 8)
    (hu : s.fwWrite c.issuer true (c.f 0x10 8) (imageBytes s.pkg.nextImage (s.takeImage c.target).size) = some u) :
    ∃ v : State, exec (.checkpoint i) s = .next (v.cmdDone i c 0 [(0x20, leBytes 8 (s.takeImage c.target).size)])
      ∧ Tab.find v.pkg.images s.pkg.nextImage = some (s.takeImage c.target) ∧ v.mem = u.mem
      ∧ (c.flags.testBit 0 = true → (v.ctxAt c.target).recov = some s.pkg.nextImage) := by
  have run : exec (.checkpoint i) s = execCheckpoint i s := rfl
  rw [execCheckpoint, onCmd_runs h] at run
  simp only [hc, ha, hx, hf, hw, hs, decide_true, Bool.and_self, State.checked_good, Bool.not_true, Bool.false_eq_true, if_false,
    if_neg (Nat.not_lt.mpr hn), hu] at run
  refine ⟨_, run, ?_⟩
  cases c.flags.testBit 0 with
  | false => exact ⟨Tab.find_put_same, rfl, fun e => absurd e Bool.false_ne_true⟩
  | true =>
    refine ⟨Tab.find_put_same, rfl, fun _ => ?_⟩
    rw [if_pos rfl, State.ctxAt_modCtx, if_pos rfl]

end

/-! ### RESTORE -/

/-- Steps that leave memory and groups. -/
structure State.keepsGroups (s t : State) : Prop where
  mem : t.mem = s.mem
  groups : t.groups = s.groups

theorem State.keepsGroups.foldl {α : Type} {f : State → α → State} (hf : ∀ (s : State) x, s.keepsGroups (f s x)) (xs : List α) (s : State) :
    s.keepsGroups (xs.foldl f s) := by
  induction xs generalizing s with
  | nil => exact ⟨rfl, rfl⟩
  | cons x r ih => exact ⟨(ih _).mem.trans (hf s x).mem, (ih _).groups.trans (hf s x).groups⟩

theorem State.takeOver_keeps (s : State) (lid : Nat) : s.keepsGroups (s.takeOver lid) := by
  unfold State.takeOver
  split
  · exact ⟨rfl, rfl⟩
  · split <;> exact ⟨rfl, rfl⟩

/-- The launches of an image that are installed. -/
def State.imageKeeps (s : State) (im : Image) (m : Moved) (recov : Bool) : List Nat := (im.launches.filter (fun l => s.resumes m recov l.2)).map (fun l => l.1)

theorem State.install_keeps (s : State) (im : Image) (m : Moved) (recov : Bool) : (s.install im m recov).mem = s.mem
    ∧ (s.install im m recov).groups
      = s.groups ++ (im.groups.filter (fun g => (s.imageKeeps im m recov).contains g.2.launch)).map (fun g => (g.1 + m.g, m.grp g.2)) := by
  unfold State.install
  dsimp only
  obtain ⟨mem3, groups3⟩ := State.keepsGroups.foldl (fun (w : State) (p : Nat × Launch) => w.takeOver_keeps p.1) _ _
  obtain ⟨mem2, groups2⟩ := State.keepsGroups.foldl (f := fun (w : State) (p : Nat × Ctx) => w.modCtx (m.ctx p.1) (fun k => k.settle p.2 m (fun c => (s.coreAt c).copyNext)))
    (fun _ _ => ⟨rfl, rfl⟩) im.ctxs _
  obtain ⟨mem1, groups1⟩ := State.keepsGroups.foldl (f := fun (v : State) c => v.modCore (m.core c) (im.toCore m c)) (fun _ _ => ⟨rfl, rfl⟩) _ _
  exact ⟨mem3.trans (mem2.trans mem1), groups3.trans (groups2.trans groups1)⟩

theorem State.imageKeeps_of {im : Image} {m : Moved} {recov : Bool} {k : Nat} {l : Launch} (hl : (k, l) ∈ im.launches) (hr : recov = true ∨ l.queue = none) :
    (s.imageKeeps im m recov).contains k = true := by
  have resumes : s.resumes m recov l = true := by
    unfold State.resumes
    rcases hr with h | h
    · rw [h, Bool.true_or]
    · rw [h, Bool.or_true]
  exact List.contains_iff_mem.mpr (List.mem_map.mpr ⟨(k, l), List.mem_filter.mpr ⟨hl, resumes⟩, rfl⟩)

section
variable {n : Nat} {im : Image} (h : s.cmdIs i c 0x0B) (hc : c.clean 0 [(0x10, 8)] = true) (hx : s.isChild c.issuer c.target = true)
  (hf : (s.ctxAt c.target).st = .frozen) (hl : ∀ l, l ∈ s.launches → l.2.ctx ∈ s.subtree c.target → l.2.cut = true) (hw : s.worldMay c = true)
  (hi : s.imageAt c.issuer (c.f 0x10 8) = some (n, im))
include h hc hx hf hl hw hi

theorem restore_checked : exec (.restore i) s = .next (
    let m : Moved := ⟨s.nextLaunch, s.nextGroup, s.nextRoast, im.target, c.target, clustersOf im.clMask, clustersOf (s.ctxAt c.target).clMask⟩
    if !s.covers m im then s.cmdDone i c 4 [] else (s.install im m (decide ((s.ctxAt c.target).recov = some n))).cmdDone i c 0 []) := by
  have idle : s.launches.all (fun l => !(s.subtree c.target).contains l.2.ctx || l.2.cut) = true := by
    refine List.all_eq_true.mpr fun l hm => ?_
    cases hin : (s.subtree c.target).contains l.2.ctx with
    | false => rfl
    | true => exact hl l hm (List.contains_iff_mem.mp hin)
  show execRestore i s = _
  rw [execRestore, onCmd_runs h]
  simp only [hc, hx, hf, hw, idle, decide_true, Bool.and_self, State.checked_good, hi]

end

end

/-- Settles O47: the two steps of FREEZE, the thaw, the image that is taken, and the image that comes back. -/
theorem stoppingAndImages : Obligations.StoppingAndImages := by
  unfold Obligations.StoppingAndImages
  refine ⟨⟨fun s i c h => ?_, fun s i c h _ hc hx hf => ⟨thaw_unsaved h hc hx hf, fun hs => ?_⟩⟩,
    fun s u i c h _ hc ha hx hf hw hs => ?_, fun s i n c im h _ hc hx hf hl hw hi => ?_⟩
  · intro x xs
    refine ⟨fun hb hc hx ha => ⟨_, freeze_begins h hb hc hx ha, ?_, fun y hy => ?_, fun n l hl hin hr => State.signalAll_stops hl hin hr⟩, freeze_ends h⟩
    · rw [State.ctxAt_modCtx, if_pos rfl]
    · rw [State.ctxAt_modCtx, if_neg hy, State.ctxAt, State.signalAll_ctxs, State.ctxAt]
  · have same (y : Nat) : (s.settleCut c.target).ctxAt y = s.ctxAt y := by rw [State.ctxAt, State.settleCut_ctxs, State.ctxAt]
    refine ⟨_, thaw_runs h hc hx hf hs, ?_, fun y hy => ?_, fun n l hl hcut hctx => ?_⟩
    · rw [State.ctxAt_modCtx, if_pos rfl, same]
    · rw [State.ctxAt_modCtx, if_neg hy, same]
    · obtain ⟨k, hk, cut, st⟩ := State.settleCut_thaws hl hcut hctx
      exact ⟨k, hk, cut, st⟩
  · intro m n
    exact ⟨checkpoint_small h hc ha hx hf hw hs, fun hn hu => checkpoint_writes h hc ha hx hf hw hs hn hu⟩
  · intro m
    have run := restore_checked h hc hx hf hl hw hi
    refine ⟨fun hv => run.trans (by simp only [m] at hv; simp only [hv, Bool.not_false, if_true]),
      fun hv => ⟨_, run.trans (by simp only [m] at hv; simp only [hv, Bool.not_true, Bool.false_eq_true, if_false]; rfl), ?_, ?_⟩⟩
    · exact (s.install_keeps im m _).1
    · intro k g l hg hlaunch hr
      rw [(s.install_keeps im m _).2]
      refine List.mem_append_right _ (List.mem_map.mpr ⟨(k, g), List.mem_filter.mpr ⟨hg, State.imageKeeps_of hlaunch (hr.imp_left decide_eq_true)⟩, rfl⟩)

end Sys2Proof.Machine
end

section
/-! PROOF. DIRTYSCAN and QUERY; GENBUMP and the marks that lookups go by (17 R364, R365, R367, R369; 21 R424). -/
namespace Sys2Proof.Machine

open State (MemStep)

/-! ### DIRTYSCAN and QUERY -/

section
variable {s t u : State} {i : Nat} {c : Cmd}

theorem foldl_popCount (ws : List Nat) (n : Nat) : ws.foldl (fun a w => a + popCount w) n = n + (ws.map popCount).sum := by
  induction ws generalizing n with
  | nil => rfl
  | cons w r ih => rw [List.foldl_cons, ih, List.map_cons, List.sum_cons, Nat.add_assoc]

theorem dirtyscan_scans {b : Nat} {ws : List Nat} (h : s.cmdIs i c 0x0D) (hc : c.clean 0 [(0x10, 12), (0x20, 16)] = true) (h1 : 1 ≤ c.f 0x18 4) (hn : c.f 0x18 4 ≤ 4096)
    (ha : c.f 0x20 8 % 8 = 0) (hx : s.isChild c.issuer c.target = true) (hb : (s.ctxAt c.target).dirtyMap = some b)
    (hh : s.harvest c.issuer b (c.f 0x10 8) (c.f 0x18 4) = some (ws, t)) (hu : t.fwWrite c.issuer true (c.f 0x20 8) (ws.flatMap (fun w => leBytes 8 w)) = some u) :
    exec (.dirtyscan i) s = .next (u.cmdDone i c 0 [(0x28, leBytes 8 (ws.map popCount).sum)]) := by
  have sum : ws.foldl (fun a w => a + popCount w) 0 = (ws.map popCount).sum := (foldl_popCount ws 0).trans (Nat.zero_add _)
  show execDirtyscan i s = _
  rw [execDirtyscan, onCmd_runs h]
  simp only [hc, h1, hn, ha, decide_true, Bool.and_self, hx, hb, Option.isSome_some, State.checked_good, hh, hu, sum]

theorem State.harvest_one (s : State) (x b w : Nat) (e : NestOk) (h : s.physNest x (b + 8 * w) true = .ok e) :
    s.harvest x b w 1 = some (if e.void then ([0], s.traced e.tr) else ([s.homeDword e.pa], (s.traced e.tr).homeSetDword e.pa 0)) := by
  unfold State.harvest
  simp only [h]
  cases e.void <;> rfl

theorem query_tells (h : s.cmdIs i c 0x0E) (hc : c.clean 0 [(0x10, 8)] = true) (ha : c.f 0x10 8 % 64 = 0) (hf : (s.ctxAt c.target).st ≠ .free)
    (hx : c.target = c.issuer ∨ c.target ≠ 0 ∧ (s.ctxAt c.target).parent = c.issuer)
    (hu : s.fwWrite c.issuer true (c.f 0x10 8) (s.queryBytes c.target) = some u) : exec (.query i) s = .next (u.cmdDone i c 0 []) := by
  have may : (decide ((s.ctxAt c.target).st ≠ .free) && (decide (c.target = c.issuer) || (decide (c.target ≠ 0) && decide ((s.ctxAt c.target).parent = c.issuer)))) = true := by
    rcases hx with hx | ⟨h0, hp⟩
    · rw [decide_eq_true hf, decide_eq_true hx]; rfl
    · rw [decide_eq_true hf, decide_eq_true h0, decide_eq_true hp, Bool.and_self, Bool.or_true, Bool.and_self]
  show execQuery i s = _
  rw [execQuery, onCmd_runs h]
  simp only [hc, ha, decide_true, Bool.and_self, may, State.checked_good, hu]

/-- What a QUERY's summary holds before the weights and after them. -/
def State.queryHead (s : State) (x : Nat) : List Byte :=
  leBytes 1 (s.ctxAt x).st.code ++ leBytes 1 (s.ctxAt x).depth ++ leBytes 2 (s.ctxAt x).parent ++ leBytes 1 (s.ctxAt x).gen.toNat ++ leBytes 1 ((s.ctxAt x).part.getD 0xFF)
    ++ leBytes 2 (s.childrenOf x).length ++ leBytes 8 (s.subtreeWeight x) ++ leBytes 8 (s.weight x)

def State.queryTail (s : State) (x : Nat) : List Byte :=
  leBytes 4 (s.launchesOf [x]).length ++ (leBytes 4 (s.ctxAt x).fenceCount ++ (leBytes 8 (s.imageSize x) ++ leBytes 16 0))

theorem State.queryBytes_eq (s : State) (x : Nat) : s.queryBytes x = s.queryHead x ++ (leBytes 8 (s.ctxAt x).clMask.toNat ++ s.queryTail x) := by
  simp only [State.queryBytes, State.queryHead, State.queryTail, List.append_assoc]

theorem State.queryHead_length (s : State) (x : Nat) : (s.queryHead x).length = 24 := by
  simp only [State.queryHead, List.length_append, leBytes_length]

theorem State.queryBytes_fields (s : State) (x : Nat) :
    (s.queryBytes x).length = 64 ∧ (s.queryBytes x).getD 0 0 = BitVec.ofNat 8 (s.ctxAt x).st.code ∧ (s.queryBytes x).getD 4 0 = (s.ctxAt x).gen
      ∧ ((s.ctxAt x).parent < 2 ^ 16 → leNat (((s.queryBytes x).drop 2).take 2) = (s.ctxAt x).parent)
      ∧ leNat (((s.queryBytes x).drop 0x18).take 8) = (s.ctxAt x).clMask.toNat := by
  have two : ((s.queryBytes x).drop 2).take 2 = leBytes 2 (s.ctxAt x).parent := rfl
  have mask : ((s.queryBytes x).drop 0x18).take 8 = leBytes 8 (s.ctxAt x).clMask.toNat := by
    rw [State.queryBytes_eq, List.drop_left' (s.queryHead_length x), List.take_left' leBytes_length]
  refine ⟨?_, rfl, ?_, fun hp => ?_, ?_⟩
  · simp only [State.queryBytes_eq, State.queryTail, List.length_append, State.queryHead_length, leBytes_length]
  · show BitVec.ofNat 8 (s.ctxAt x).gen.toNat = _
    rw [BitVec.ofNat_toNat, BitVec.setWidth_eq]
  · rw [two, leNat_leBytes]
    exact Nat.mod_eq_of_lt hp
  · rw [mask, leNat_leBytes]
    exact Nat.mod_eq_of_lt (s.ctxAt x).clMask.isLt

end

/-! ### GENBUMP -/

section
variable {s : State} {i : Nat} {c : Cmd}

theorem genbump_runs {e : Instr} (h : s.cmdIs i c 0x11) (he : e = .genbump i ∧ c.flags.testBit 0 = false ∨ e = .genbumpCtx i ∧ c.flags.testBit 0 = true) :
    exec e s = .next (s.genbump i c) := by
  obtain ⟨found, is, ready⟩ := h
  rcases he with ⟨rfl, hb⟩ | ⟨rfl, hb⟩
  · show execGenbump i s = _
    simp only [execGenbump, onCmd, found, is, hb, ready, decide_true, Bool.not_false, Bool.and_self, if_true]
  · show execGenbumpCtx i s = _
    simp only [execGenbumpCtx, onCmd, found, is, hb, ready, decide_true, Bool.and_self, if_true]

theorem State.genbump_begins (hb : c.begun = false) (hc : c.clean 1 [(0x10, 12)] = true) (ha : c.f 0x10 8 % 2 ^ 21 = 0) (hn : c.f 0x18 4 ≤ 2 ^ 20)
    (h0 : c.flags.testBit 0 = false → c.f 0x18 4 ≠ 0) (hx : s.isSelfOrChild c.issuer c.target = true) :
    s.genbump i c = ((if c.flags.testBit 0 then s.bumpCtx c.target else s).bumpRegions c.target (c.f 0x10 8) (c.f 0x18 4)).beginCmd i
      { c with waits := s.openAccesses.1, copyWaits := s.openAccesses.2 } := by
  have valid : (c.clean 1 [(0x10, 12)] && decide (c.f 0x10 8 % 2 ^ 21 = 0) && decide (c.f 0x18 4 ≤ 2 ^ 20) && (c.flags.testBit 0 || decide (c.f 0x18 4 ≠ 0))) = true := by
    rw [hc, decide_eq_true ha, decide_eq_true hn]
    cases hf : c.flags.testBit 0 with
    | true => rfl
    | false => rw [decide_eq_true (h0 hf)]; rfl
  unfold State.genbump
  simp only [valid, hx, State.checked_good, hb, Bool.not_false, if_true]

theorem State.genbump_ends (hb : c.begun = true) (hd : s.accessesDone c = true) :
    s.genbump i c = (s.bumped c (c.f 0x10 8) (c.f 0x18 4) (c.flags.testBit 0)).cmdDone i c 0 [] := by
  unfold State.genbump
  simp only [State.checked_begun hb, hb, hd, Bool.not_true, Bool.false_eq_true, if_false, if_true]

/-! ### The marks that lookups go by -/

/-- A running maximum over what a test picks does not fall, and does not pass over what it picks. -/
theorem foldl_marks_mono (p : Bump → Prop) [DecidablePred p] (bs : List Bump) (m : Nat) : m ≤ bs.foldl (fun m b => if p b then max m b.mark else m) m := by
  induction bs generalizing m with
  | nil => exact Nat.le_refl _
  | cons b r ih =>
    refine Nat.le_trans ?_ (ih _)
    show m ≤ if p b then max m b.mark else m
    split
    · exact Nat.le_max_left _ _
    · exact Nat.le_refl _

/-- The regions of a completed command are noted where it names any. -/
def State.bumpNoted (s : State) (c : Cmd) (va n : Nat) : State := if n = 0 then s else { s with bumps := ⟨c.target, va / 2 ^ 21, n, c.mark⟩ :: s.bumps }

theorem State.bumpNoted_frame (s : State) (c : Cmd) (va n : Nat) :
    s.bumpNoted c va n = { s with bumps := (s.bumpNoted c va n).bumps } ∧ ∀ y, (s.bumpNoted c va n).ctxAt y = s.ctxAt y := by
  unfold State.bumpNoted
  split <;> exact ⟨rfl, fun _ => rfl⟩

theorem State.bumped_eq (s : State) (c : Cmd) (va n : Nat) (all : Bool) : s.bumped c va n all
    = if all then (s.bumpNoted c va n).modCtx c.target (fun (k : Ctx) => { k with mark := max k.mark c.mark }) else s.bumpNoted c va n := rfl

theorem State.bumped_frame (s : State) (c : Cmd) (va n : Nat) (all : Bool) :
    s.bumped c va n all = { s with bumps := (s.bumped c va n all).bumps, ctxs := (s.bumped c va n all).ctxs }
      ∧ (∀ y, (s.bumped c va n all).ctxAt y = { s.ctxAt y with mark := ((s.bumped c va n all).ctxAt y).mark })
      ∧ (all = true → c.mark ≤ ((s.bumped c va n all).ctxAt c.target).mark) := by
  obtain ⟨frame, same⟩ := s.bumpNoted_frame c va n
  rw [State.bumped_eq]
  generalize s.bumpNoted c va n = t at frame same
  cases all with
  | false => exact ⟨by rw [if_neg Bool.false_ne_true, frame], fun y => by rw [if_neg Bool.false_ne_true, same], fun h => absurd h Bool.false_ne_true⟩
  | true =>
    rw [if_pos rfl]
    refine ⟨by rw [frame]; rfl, fun y => ?_, fun _ => ?_⟩
    · rw [State.ctxAt_modCtx]
      split
      next h => rw [h, same]
      next => rw [same]
    · rw [State.ctxAt_modCtx, if_pos rfl]
      exact Nat.le_max_right _ _

theorem State.bumped_marks (s : State) (c : Cmd) (va n : Nat) (all : Bool) {a : Nat} (hl : va / 2 ^ 21 ≤ a / 2 ^ 21) (hh : a / 2 ^ 21 < va / 2 ^ 21 + n) :
    c.mark ≤ (s.bumped c va n all).tableMark c.target a := by
  have counted : n ≠ 0 := fun e => by omega
  have bumps : (s.bumped c va n all).bumps = ⟨c.target, va / 2 ^ 21, n, c.mark⟩ :: s.bumps := by
    have noted : s.bumpNoted c va n = { s with bumps := ⟨c.target, va / 2 ^ 21, n, c.mark⟩ :: s.bumps } := if_neg counted
    rw [State.bumped_eq, noted]
    cases all <;> rfl
  unfold State.tableMark
  rw [bumps, List.foldl_cons, if_pos ⟨rfl, hl, hh⟩]
  exact Nat.le_trans (Nat.le_max_right _ _) (foldl_marks_mono _ _ _)

end

/-! ### The generations of regions -/

/-- The region generations of the dies. -/
def State.gens (s : State) : List (Sparse 6) := s.dies.map (fun d => d.regionGen)

section
variable {s : State}

theorem State.gens_of_dies {t : State} (h : t.dies = s.dies) : t.gens = s.gens := by rw [State.gens, h, State.gens]

theorem State.modDie_gens (s : State) (d : Nat) {f : Die → Die} (hf : ∀ k, (f k).regionGen = k.regionGen) : (s.modDie d f).gens = s.gens := by
  show (s.dies.set d (f (s.dieAt d))).map (fun d => d.regionGen) = s.dies.map (fun d => d.regionGen)
  by_cases h : d < s.dies.length
  · refine List.ext_getElem (by simp) fun j hj _ => ?_
    rw [List.getElem_map, List.getElem_map, List.getElem_set]
    split
    next e =>
      subst e
      rw [hf, State.dieAt, List.getD_eq_getElem?_getD, List.getElem?_eq_getElem h]
      rfl
    next => rfl
  · rw [List.set_eq_of_length_le (Nat.le_of_not_lt h)]

theorem State.foldl_gens {α : Type} {f : State → α → State} (hf : ∀ (s : State) x, (f s x).gens = s.gens) (xs : List α) (s : State) : (xs.foldl f s).gens = s.gens := by
  induction xs generalizing s with
  | nil => rfl
  | cons x r ih => exact (ih _).trans (hf s x)

theorem State.homeWrite_gens (s : State) (pa : Nat) (bs : List Byte) (o : Bool) : (s.homeWrite pa bs o).gens = s.gens :=
  State.gens_of_dies (by rw [State.homeWrite_only])

theorem State.setDs_gens (s : State) (ds : List DSet) : (s.setDs ds).gens = s.gens := by
  induction ds generalizing s with
  | nil => rfl
  | cons d r ih => exact (ih _).trans (s.homeWrite_gens _ _ _)

theorem State.traced_gens (s : State) (tr : XTrace) : (s.traced tr).gens = s.gens := (State.setDs_gens s tr.dsets)

theorem State.markPage_gens (s : State) (c a : Nat) : (s.markPage c a).gens = s.gens := by
  unfold State.markPage
  split
  · rfl
  · dsimp only
    split
    · exact s.traced_gens _
    · split
      · exact s.traced_gens _
      · exact (State.homeWrite_gens _ _ _ _).trans (s.traced_gens _)

theorem State.trackPath_gens (s : State) (ch path : List Nat) : (s.trackPath ch path).gens = s.gens := State.foldl_gens (fun u _ => u.markPage_gens _ _) _ s

theorem State.putWord8_gens (s : State) (pa : Nat) (l : L1Line) (i : Nat) : (s.putWord8 pa l i).gens = s.gens := by
  unfold State.putWord8
  dsimp only
  split
  · rfl
  · rw [apply_ite State.gens]
    refine (ite_self _).trans ?_
    split
    · exact s.homeWrite_gens _ _ _
    · refine State.foldl_gens (fun u j => ?_) _ s
      split
      · exact u.homeWrite_gens _ _ _
      · rfl

theorem State.putDirty_gens (s : State) (l : L1Line) : (s.putDirty l).gens = s.gens := by
  unfold State.putDirty
  split
  · rfl
  · exact (State.trackPath_gens _ _ _).trans (State.foldl_gens (fun u i => u.putWord8_gens _ _ _) _ s)

theorem State.xCommit_gens (s : State) (core : Nat) (r : XOk) : (s.xCommit core r).gens = s.gens := by
  refine Eq.trans ?_ (s.traced_gens r.tr)
  unfold State.xCommit State.fillEntry
  split
  · rfl
  · exact State.modDie_gens (State.modCore _ _ _) _ fun _ => rfl

theorem State.writeBackLine_gens {t : State} {core : Nat} {sup : Bool} {l : L1Line} (h : s.writeBackLine core sup l = .ok t) : t.gens = s.gens := by
  unfold State.writeBackLine at h
  split at h
  · cases h; exact s.putDirty_gens l
  · split at h
    · cases h
    · cases h
      split
      · exact s.xCommit_gens _ _
      · exact (State.putDirty_gens _ _).trans (s.xCommit_gens _ _)

/-- A line whose place wraps goes home, or is held. -/
def State.wrapLine (c : Nat) (u : State) (l : L1Line) : State :=
  match u.writeBackLine c true l with
  | .ok v => v.l1Drop c l.ctx l.va
  | .error e => u.holdLine c l e

theorem State.wrapLine_gens (c : Nat) (u : State) (l : L1Line) : (u.wrapLine c l).gens = u.gens := by
  unfold State.wrapLine
  split
  next v h =>
    have wrote : v.gens = u.gens := State.writeBackLine_gens h
    exact wrote
  next e _ => exact u.traced_gens e.tr

theorem State.dropEntries_gens (s : State) (f : TEntry → Bool) : (s.dropEntries f).gens = s.gens := by
  unfold State.dropEntries State.gens
  rw [List.map_map]
  rfl

/-- The lines of a core whose place wraps. -/
def State.wrapCore (ix : Nat) (t : State) (c : Nat) : State := ((t.coreAt c).l1.filter (fun l => decide (regionIndex l.ctx l.va = ix))).foldl (State.wrapLine c) t

theorem State.wrapIndex_gens (s : State) (ix : Nat) : (s.wrapIndex ix).gens = s.gens := by
  have cores : (s.coreList.foldl (State.wrapCore ix) s).gens = s.gens := State.foldl_gens (fun t c => State.foldl_gens (State.wrapLine_gens c) _ t) _ s
  exact (State.dropEntries_gens _ _).trans cores

/-- What a bump of the regions that share place `r` does to a die's generations. -/
def genBump (G : Sparse 6) (x k r : Nat) : Sparse 6 :=
  if k = 0 then G else Sparse.set G (r ^^^ (x % 1024)) (BitVec.ofNat 6 (((Sparse.get G (r ^^^ (x % 1024))).toNat + k) % 64))

theorem xor_right_cancel {a b c : Nat} (e : a ^^^ c = b ^^^ c) : a = b := by
  have twice := congrArg (· ^^^ c) e
  simpa only [Nat.xor_assoc, Nat.xor_self, Nat.xor_zero] using twice

theorem genBump_get (G : Sparse 6) (x k r q : Nat) :
    Sparse.get (genBump G x k r) (q ^^^ (x % 1024)) = Sparse.get G (q ^^^ (x % 1024)) + if q = r then BitVec.ofNat 6 k else 0 := by
  unfold genBump
  by_cases hk : k = 0
  · subst hk
    rw [if_pos rfl]
    show _ = _ + if q = r then 0#6 else 0#6
    rw [ite_self, BitVec.add_zero]
  · rw [if_neg hk, Sparse.get_set]
    by_cases hq : q = r
    · subst hq
      rw [if_pos rfl, if_pos rfl]
      refine BitVec.eq_of_toNat_eq ?_
      rw [BitVec.toNat_add, BitVec.toNat_ofNat, BitVec.toNat_ofNat]
      omega
    · rw [if_neg (fun e => hq (xor_right_cancel e)), if_neg hq]
      exact (BitVec.add_zero _).symm

/-- One turn of the bump of regions. -/
def State.bumpPlace (x va n : Nat) (t : State) (r : Nat) : State :=
  let k := bumpTimes (va / 2 ^ 21) n r
  if k = 0 then t
  else
    let ix := r ^^^ (x % 1024)
    let g := (Sparse.get (t.dieAt 0).regionGen ix).toNat
    let u := if 64 ≤ g + k then t.wrapIndex ix else t
    { u with dies := u.dies.map (fun (d : Die) => { d with regionGen := Sparse.set d.regionGen ix (BitVec.ofNat 6 ((g + k) % 64)) }) }

theorem State.bumpRegions_eq (s : State) (x va n : Nat) : s.bumpRegions x va n = (List.range 1024).foldl (State.bumpPlace x va n) s := rfl

theorem State.dieAt_gen {G : Sparse 6} {m d : Nat} (h : s.gens = List.replicate m G) (hd : d < m) : (s.dieAt d).regionGen = G := by
  have len : d < s.dies.length := by
    have := congrArg List.length h
    rw [State.gens, List.length_map, List.length_replicate] at this
    omega
  have here : s.gens[d]? = some (s.dieAt d).regionGen := by
    rw [State.gens, List.getElem?_map, State.dieAt, List.getD_eq_getElem?_getD, List.getElem?_eq_getElem len]
    rfl
  rw [h, List.getElem?_replicate, if_pos hd] at here
  exact (Option.some.inj here).symm

theorem State.bumpPlace_gens {G : Sparse 6} {m : Nat} (x va n r : Nat) (hm : 0 < m) (h : s.gens = List.replicate m G) :
    (s.bumpPlace x va n r).gens = List.replicate m (genBump G x (bumpTimes (va / 2 ^ 21) n r) r) := by
  unfold State.bumpPlace genBump
  dsimp only
  rw [State.dieAt_gen h hm]
  split
  · exact h
  · have wrapped (u : State) (hu : u.gens = s.gens) (ix : Nat) (v : BitVec 6) :
        ({ u with dies := u.dies.map (fun (d : Die) => { d with regionGen := Sparse.set d.regionGen ix v }) } : State).gens = List.replicate m (Sparse.set G ix v) := by
      have : ({ u with dies := u.dies.map (fun (d : Die) => { d with regionGen := Sparse.set d.regionGen ix v }) } : State).gens = u.gens.map (fun g => Sparse.set g ix v) := by
        simp only [State.gens, List.map_map]
        rfl
      rw [this, hu, h, List.map_replicate]
    refine wrapped _ ?_ _ _
    split
    · exact s.wrapIndex_gens _
    · rfl

theorem State.bumpPlaces_gens {G : Sparse 6} {m : Nat} (x va n k : Nat) (hm : 0 < m) (h : s.gens = List.replicate m G) :
    ∃ G', ((List.range k).foldl (State.bumpPlace x va n) s).gens = List.replicate m G'
      ∧ ∀ q, Sparse.get G' (q ^^^ (x % 1024)) = Sparse.get G (q ^^^ (x % 1024)) + if q < k then BitVec.ofNat 6 (bumpTimes (va / 2 ^ 21) n q) else 0 := by
  induction k with
  | zero => exact ⟨G, h, fun q => (BitVec.add_zero _).symm⟩
  | succ k ih =>
    obtain ⟨G', hG, get⟩ := ih
    rw [List.range_succ, List.foldl_append]
    refine ⟨_, State.bumpPlace_gens x va n k hm hG, fun q => ?_⟩
    rw [genBump_get, get]
    by_cases hq : q = k
    · subst hq
      rw [if_neg (Nat.lt_irrefl _), if_pos rfl, if_pos (Nat.lt_succ_self _)]
      exact congrArg (· + _) (BitVec.add_zero _)
    · rw [if_neg hq]
      refine (BitVec.add_zero _).trans ?_
      by_cases hl : q < k
      · rw [if_pos hl, if_pos (Nat.lt_succ_of_lt hl)]
      · rw [if_neg hl, if_neg (by omega)]

theorem bumpTimes_succ_hit {r0 n r : Nat} (h : (r0 + n) % 1024 = r) : bumpTimes r0 (n + 1) r = bumpTimes r0 n r + 1 := by
  have here : (r + 1024 - r0 % 1024) % 1024 = n % 1024 := by omega
  unfold bumpTimes
  rw [here, if_neg (Nat.lt_irrefl _)]
  split
  · omega
  · omega

theorem bumpTimes_succ_miss {r0 n r : Nat} (h : (r0 + n) % 1024 ≠ r) (hr : r < 1024) : bumpTimes r0 (n + 1) r = bumpTimes r0 n r := by
  have off : (r + 1024 - r0 % 1024) % 1024 ≠ n % 1024 := by omega
  unfold bumpTimes
  split
  · split
    · omega
    · omega
  · split
    · omega
    · omega

/-- A range of regions meets place `r` as often as the bump counts it. -/
theorem bumpTimes_eq (r0 n r : Nat) (hr : r < 1024) : ((List.range n).filter (fun j => decide ((r0 + j) % 1024 = r))).length = bumpTimes r0 n r := by
  induction n with
  | zero => simp [bumpTimes]
  | succ n ih =>
    rw [List.range_succ, List.filter_append, List.length_append, ih]
    by_cases h : (r0 + n) % 1024 = r
    · rw [List.filter_cons_of_pos (by simpa using h), List.filter_nil, List.length_singleton]
      exact (bumpTimes_succ_hit h).symm
    · rw [List.filter_cons_of_neg (by simpa using h), List.filter_nil, List.length_nil]
      exact (bumpTimes_succ_miss h hr).symm

theorem State.bumpRegions_gen (x va n : Nat) {d r : Nat} (hd : d < s.dies.length) (hr : r < 1024)
    (hs : ∀ b, b < s.dies.length → (s.dieAt b).regionGen = (s.dieAt 0).regionGen) :
    Sparse.get ((s.bumpRegions x va n).dieAt d).regionGen (r ^^^ (x % 1024)) = Sparse.get (s.dieAt d).regionGen (r ^^^ (x % 1024))
      + BitVec.ofNat 6 ((List.range n).filter (fun j => decide ((va / 2 ^ 21 + j) % 1024 = r))).length := by
  have same : s.gens = List.replicate s.dies.length (s.dieAt 0).regionGen := by
    refine List.ext_getElem (by simp [State.gens]) fun j hj _ => ?_
    have hj' : j < s.dies.length := by simpa [State.gens] using hj
    have := hs j hj'
    rw [State.dieAt, List.getD_eq_getElem?_getD, List.getElem?_eq_getElem hj'] at this
    rw [List.getElem_replicate, ← this]
    exact List.getElem_map _
  have pos : 0 < s.dies.length := Nat.zero_lt_of_lt hd
  obtain ⟨G', hG, get⟩ := State.bumpPlaces_gens x va n 1024 pos same
  rw [State.bumpRegions_eq, State.dieAt_gen hG hd, get, if_pos hr, hs d hd, bumpTimes_eq _ _ _ hr]

end

/-- Settles O48: the scan, the summary's fields, the two steps of GENBUMP, the marks, and the generations place by place. -/
theorem scansAndBumps : Obligations.ScansAndBumps := by
  unfold Obligations.ScansAndBumps
  refine ⟨⟨fun s t u i b c ws h _ hc h1 hn ha hx hb hh hu => dirtyscan_scans h hc h1 hn ha hx hb hh hu, State.harvest_one,
      fun s u i c h _ hc ha hf hx hu => query_tells h hc ha hf hx hu, fun s x => ?_⟩,
    fun s i c e h he => ?_, fun s c va n all => ?_, State.bumpCtx_gen, fun s x va n d r hd hr hs => State.bumpRegions_gen x va n hd hr hs⟩
  · intro k q
    obtain ⟨len, st, rest⟩ := s.queryBytes_fields x
    refine ⟨len, st.trans ?_, rest⟩
    show BitVec.ofNat 8 k.st.code = _
    cases k.st <;> rfl
  · intro va n
    rw [genbump_runs h he]
    exact ⟨fun hb hc ha hn h0 hx => congrArg _ (State.genbump_begins hb hc ha hn h0 hx), fun hb hd => congrArg _ (State.genbump_ends hb hd)⟩
  · intro t
    obtain ⟨frame, ctxs, mark⟩ := s.bumped_frame c va n all
    exact ⟨frame, ctxs, mark, fun a hl hh => s.bumped_marks c va n all hl hh⟩

end Sys2Proof.Machine
end

section
/-! PROOF. BIND_VF, BIND_PARTITION and their UNBIND and RESET forms (21 R434 to R436). -/
namespace Sys2Proof.Machine

section
variable {s : State} {i : Nat} {c : Cmd}

/-! ### Functions -/

theorem bindVf_runs {e : Instr} {dest : Nat} (h : s.cmdIs i c 0x0F)
    (he : e = .bindVf i ∧ c.flags.testBit 0 = false ∧ dest = c.target ∨ e = .bindVfUnbind i ∧ c.flags.testBit 0 = true ∧ dest = c.issuer) :
    exec e s = .next (s.moveVf i c dest) := by
  obtain ⟨found, is, ready⟩ := h
  rcases he with ⟨rfl, hb, rfl⟩ | ⟨rfl, hb, rfl⟩
  · show execBindVf i s = _
    simp only [execBindVf, onCmd, found, is, hb, ready, decide_true, Bool.not_false, Bool.and_self, if_true]
  · show execBindVfUnbind i s = _
    simp only [execBindVfUnbind, onCmd, found, is, hb, ready, decide_true, Bool.and_self, if_true]

theorem State.moveVf_checked (hc : c.clean 1 [(0x10, 2)] = true) (hn : c.f 0x10 2 ≤ 383) (hl : s.live c.target = true)
    (hx : c.target = c.issuer ∨ c.issuer = 0 ∨ s.under c.issuer c.target = true) (dest : Nat) :
    s.moveVf i c dest = if s.holdsVf c.issuer (c.f 0x10 2) then (s.setVf (c.f 0x10 2) dest).cmdDone i c 0 [] else s.cmdDone i c 4 [] := by
  have target : (s.live c.target && (decide (c.target = c.issuer) || decide (c.issuer = 0) || s.under c.issuer c.target)) = true := by
    rw [hl, Bool.true_and, Bool.or_eq_true, Bool.or_eq_true, decide_eq_true_eq, decide_eq_true_eq, or_assoc]
    exact hx
  unfold State.moveVf
  simp only [hc, decide_eq_true hn, Bool.and_self, target, State.checked_good]

theorem State.setVf_moves (s : State) (n dest : Nat) : s.setVf n dest = { s with pkg := (s.setVf n dest).pkg }
    ∧ ∀ f, Tab.findD (s.setVf n dest).pkg.vfs f 0 = if f = n then dest else Tab.findD s.pkg.vfs f 0 := by
  refine ⟨rfl, fun f => ?_⟩
  show Tab.findD (if dest = 0 then Tab.drop s.pkg.vfs n else Tab.put s.pkg.vfs n dest) f 0 = _
  by_cases hd : dest = 0
  · rw [if_pos hd, Tab.findD, Tab.find_drop, hd]
    split <;> rfl
  · rw [if_neg hd, Tab.findD_put]

/-! ### Partitions -/

section
variable (hc : c.clean 3 [(0x10, 1)] = true) (hp : c.f 0x10 1 ≤ 15) (hi : c.issuer = 0) (hl : s.live c.target = true) (hd : (s.ctxAt c.target).depth = 1)
  (hf : c.flags ≠ 3)
include hc hp hi hl hd hf

theorem State.partChecked_good (k : State) : s.partChecked i c true k = k := by
  unfold State.partChecked
  simp only [hc, decide_eq_true hp, decide_eq_true hf, decide_eq_true hi, hl, decide_eq_true hd, Bool.and_self, State.checked_good]

end

theorem bindPartition_binds {q : Partition} (h : s.cmdIs i c 0x10) (hf : c.flags = 0) (hc : c.clean 3 [(0x10, 1)] = true) (hp : c.f 0x10 1 ≤ 15) (hi : c.issuer = 0)
    (hl : s.live c.target = true) (hd : (s.ctxAt c.target).depth = 1) (hidle : s.idleCtx c.target = true) (hq : Tab.find s.pkg.partitions (c.f 0x10 1) = some q)
    (hfree : q.ctx = none) (hnone : (s.ctxAt c.target).part = none) (hm : (s.ctxAt c.target).clMask &&& ~~~q.clMask = 0) (hin : s.mapWithin c.target q = true) :
    exec (.bindPartition i) s = .next (({ s with pkg := { s.pkg with partitions := Tab.put s.pkg.partitions (c.f 0x10 1) { q with ctx := some c.target } } }.modCtx c.target
      (fun k => { k with part := some (c.f 0x10 1) })).cmdDone i c 0 []) := by
  obtain ⟨found, is, ready⟩ := h
  have three : c.flags ≠ 3 := by omega
  have within : ¬((s.ctxAt c.target).clMask &&& ~~~q.clMask ≠ 0 ∨ s.mapWithin c.target q = false) := by rw [hm, hin]; simp
  have pick : (decide (c.code = 0x10) && !(decide (c.flags = 1) || decide (c.flags = 2)) && s.cmdReady c) = true := by rw [is, hf, ready]; rfl
  show execBindPartition i s = _
  simp only [execBindPartition, onCmd, found, pick, if_true, hidle, State.partChecked_good hc hp hi hl hd three, hq, hfree, hnone, Option.isSome_none, Bool.or_self,
    Bool.false_eq_true, if_false, if_neg within]

theorem partition_begins {e : Instr} (h : s.cmdIs i c 0x10) (he : e = .bindPartitionUnbind i ∧ c.flags = 1 ∨ e = .bindPartitionReset i ∧ c.flags = 2)
    (hb : c.begun = false) (hc : c.clean 3 [(0x10, 1)] = true) (hp : c.f 0x10 1 ≤ 15) (hi : c.issuer = 0) (hl : s.live c.target = true)
    (hd : (s.ctxAt c.target).depth = 1) (hpart : (s.ctxAt c.target).part = some (c.f 0x10 1)) (hidle : c.flags = 1 → s.idleCtx c.target = true) :
    exec e s = .next ((s.isolate (s.subtree c.target)).beginCmd i c) := by
  obtain ⟨found, is, ready⟩ := h
  have three : c.flags ≠ 3 := by rcases he with ⟨-, h⟩ | ⟨-, h⟩ <;> omega
  rcases he with ⟨rfl, hf⟩ | ⟨rfl, hf⟩
  · have state : (s.idleCtx c.target && decide ((s.ctxAt c.target).part = some (c.f 0x10 1))) = true := by rw [hidle hf, decide_eq_true hpart]; rfl
    show execBindPartitionUnbind i s = _
    simp only [execBindPartitionUnbind, onCmd, found, is, decide_eq_true hf, ready, decide_true, Bool.and_self, if_true, state,
      State.partChecked_good hc hp hi hl hd three, hb, Bool.not_false]
  · show execBindPartitionReset i s = _
    simp only [execBindPartitionReset, onCmd, found, is, decide_eq_true hf, ready, decide_true, Bool.and_self, if_true, decide_eq_true hpart,
      State.partChecked_good hc hp hi hl hd three, hb, Bool.not_false]

theorem partition_ends {e : Instr} (h : s.cmdIs i c 0x10) (he : e = .bindPartitionUnbind i ∧ c.flags = 1 ∨ e = .bindPartitionReset i ∧ c.flags = 2)
    (hb : c.begun = true) (hq : s.quiet (s.subtree c.target) = true) :
    exec e s = .next ((if c.flags = 1 then (s.resetCtx c.target false).unbindPart c.target (c.f 0x10 1) else s.resetCtx c.target false).cmdDone i c 0 []) := by
  have begun {v : Bool} (k : State) : s.partChecked i c v k = k := State.checked_begun hb k
  obtain ⟨found, is, ready⟩ := h
  rcases he with ⟨rfl, hf⟩ | ⟨rfl, hf⟩
  · show execBindPartitionUnbind i s = _
    simp only [execBindPartitionUnbind, onCmd, found, is, decide_eq_true hf, ready, decide_true, Bool.and_self, if_true, begun, hb, hq, Bool.not_true,
      Bool.false_eq_true, if_false, if_pos hf]
  · have one : c.flags ≠ 1 := by omega
    show execBindPartitionReset i s = _
    simp only [execBindPartitionReset, onCmd, found, is, decide_eq_true hf, ready, decide_true, Bool.and_self, if_true, begun, hb, hq, Bool.not_true,
      Bool.false_eq_true, if_false, if_neg one]

end

/-- Settles O49: functions moved or held by another, the partition that is bound, and the two steps of unbinding and resetting. -/
theorem bindCommands : Obligations.BindCommands := by
  unfold Obligations.BindCommands
  refine ⟨fun s i dest c e h _ he hc hn hl hx => ?_, fun s i c q h _ hf hc => ?_, fun s i c e h he => ?_⟩
  · have run := (bindVf_runs h he).trans (congrArg _ (State.moveVf_checked hc hn hl hx dest))
    refine ⟨fun hh => ⟨_, run.trans (by rw [if_pos hh]), s.setVf_moves _ dest⟩, fun hh => run.trans (by rw [if_neg (by rw [hh]; exact Bool.false_ne_true)])⟩
  · intro p x hp hi hl hd hidle hq hfree hnone hm hin
    refine ⟨_, bindPartition_binds h hf hc hp hi hl hd hidle hq hfree hnone hm hin, ?_, Tab.find_put_same, fun y hy => ?_⟩
    · exact (State.ctxAt_modCtx ..).trans (if_pos rfl)
    · exact (State.ctxAt_modCtx ..).trans (if_neg hy)
  · intro p x
    exact ⟨fun hb hc hp hi hl hd hpart hidle => partition_begins h he hb hc hp hi hl hd hpart hidle, partition_ends h he⟩

end Sys2Proof.Machine
end

section
/-! PROOF. The service round, second copies of the journal, the throttle, and records and replies (17 R354; 18 R394; 21 R425, R427, R431, R433). -/
namespace Sys2Proof.Machine

section
variable {s : State} {die i : Nat}

/-! ### The service round -/

section
variable (hd : s.svcDown die = false)
include hd

theorem serviceRoundPriority_call {e : CallEntry} {t : State} (he : (s.dieAt die).calls[i]? = some e) (hl : s.lateIn die e.issued = true)
    (ht : s.takeCall die e = some t) : exec (.serviceRoundPriority die i) s = .next (t.svcCount die e.ctx) := by
  obtain ⟨range, -⟩ := List.getElem?_eq_some_iff.mp he
  show execServiceRoundPriority die i s = _
  simp only [execServiceRoundPriority, hd, Bool.false_eq_true, if_false, if_pos range, he, hl, if_true, ht]

theorem serviceRoundPriority_record {r : Rcd} (hi : (s.dieAt die).calls.length ≤ i) (hr : s.records[i - (s.dieAt die).calls.length]? = some r) (hw : r.die = die)
    (hl : s.lateIn die r.since = true) (hb : s.recordBehind (i - (s.dieAt die).calls.length) r = false) :
    exec (.serviceRoundPriority die i) s = .next ((s.svcCount die r.ctx).postRecord (i - (s.dieAt die).calls.length)) := by
  obtain ⟨range, -⟩ := List.getElem?_eq_some_iff.mp hr
  show execServiceRoundPriority die i s = _
  simp only [execServiceRoundPriority, hd, Bool.false_eq_true, if_false, if_neg (Nat.not_lt.mpr hi), if_pos range, hr, decide_eq_true hw, hl, hb, Bool.not_false,
    Bool.and_self, if_true]

theorem serviceRoundPriority_command {k : Nat} {c : Cmd} (hi : (s.dieAt die).calls.length + s.records.length ≤ i)
    (hc : (s.cmds.filter (fun c => decide (c.2.die = die) && c.2.accepted.isNone))[i - (s.dieAt die).calls.length - s.records.length]? = some (k, c))
    (hl : s.lateIn die c.since = true) (hw : s.cmdWaits k c = true) :
    exec (.serviceRoundPriority die i) s = .next ((s.svcCount die c.issuer).acceptCmd k) := by
  have calls : ¬i < (s.dieAt die).calls.length := by omega
  have records : ¬i - (s.dieAt die).calls.length < s.records.length := by omega
  show execServiceRoundPriority die i s = _
  simp only [execServiceRoundPriority, hd, Bool.false_eq_true, if_false, if_neg calls, if_neg records, hc, hl, hw, Bool.and_self, if_true]

end

theorem State.svcCount_counts (x : Nat) (hd : die < s.dies.length) :
    let t := s.svcCount die x
    let tag := max (s.dieAt die).svcTime (Tab.findD (s.dieAt die).svcTags x 0)
    t = { s with dies := t.dies } ∧ t.dieAt die = { s.dieAt die with svcTime := tag, svcTags := (t.dieAt die).svcTags } ∧
      (∀ y, Tab.findD (t.dieAt die).svcTags y 0 = if y = x then tag + 2 ^ 40 / max 1 (s.weight x) else Tab.findD (s.dieAt die).svcTags y 0) := by
  intro t tag
  have here : t.dieAt die = { s.dieAt die with svcTime := tag, svcTags := Tab.put (s.dieAt die).svcTags x (tag + 2 ^ 40 / max 1 (s.weight x)) } :=
    (State.dieAt_modDie _ _ _ _ hd).trans (if_pos rfl)
  refine ⟨rfl, by rw [here], fun y => ?_⟩
  rw [here, Tab.findD_put]

/-! ### Second copies, and the throttle -/

theorem journalRecopy_copies {c : Cmd} (hd : die < 4) (hu : s.svcDown die = false) (hc : Tab.find s.cmds i = some c) (ha : c.accepted ≠ none) (hl : c.dies.length < 2)
    (hn : die ∉ c.dies) : exec (.journalRecopy i die) s = .next { s with cmds := Tab.put s.cmds i { c with dies := c.dies ++ [die] } } := by
  have up : ¬(4 ≤ die ∨ s.svcDown die = true) := by rw [hu]; exact fun h => h.elim (Nat.not_le.mpr hd) Bool.false_ne_true
  have more : c.dies.length < 2 ∧ c.dies.contains die = false := ⟨hl, Bool.eq_false_iff.mpr fun h => hn (List.contains_iff_mem.mp h)⟩
  have accepted : c.accepted.isSome = true := Option.isSome_iff_ne_none.mpr ha
  show execJournalRecopy i die s = _
  simp only [execJournalRecopy, if_neg up, hc, accepted, if_true, if_pos more]

theorem bandwidthPublication_throttles (hd : die < s.dies.length) (occ : List Nat) : ∃ t : State, exec (.bandwidthPublication die occ) s = .next t
    ∧ t = { s with dies := t.dies } ∧ (∀ p, p ∈ (t.dieAt die).throttle → p.2.1 ∈ s.tenants ∧ 1 ≤ p.2.2) ∧ ∀ b, b ≠ die → t.dieAt b = s.dieAt b := by
  have run : exec (.bandwidthPublication die occ) s = execBandwidthPublication die occ s := rfl
  rw [execBandwidthPublication] at run
  refine ⟨_, run, rfl, fun p hp => ?_, fun b hb => (State.dieAt_modDie _ _ _ _ hd).trans (if_neg hb)⟩
  rw [State.dieAt_modDie _ _ _ _ hd, if_pos rfl] at hp
  obtain ⟨hin, hz⟩ := List.mem_filter.mp hp
  obtain ⟨j, -, hj⟩ := List.mem_flatMap.mp hin
  obtain ⟨x, hx, rfl⟩ := List.mem_map.mp hj
  exact ⟨hx, Nat.pos_of_ne_zero (of_decide_eq_true hz)⟩

section
variable {q share : Nat} {os : List (Nat × Nat)}

theorem nextThrottle_up (h : ∃ o, o ∈ os ∧ 64 * share < o.1 ∧ 48 * 256 < o.2) : nextThrottle q share os = min 7 (q + 1) := by
  obtain ⟨o, hm, hl, hh⟩ := h
  exact if_pos (List.any_eq_true.mpr ⟨o, hm, by rw [decide_eq_true hl, decide_eq_true hh]; rfl⟩)

theorem nextThrottle_down (h : ∀ o, o ∈ os → o.1 ≤ 64 * share ∨ o.2 < 32 * 256) : nextThrottle q share os = q - 1 := by
  have calm : ¬os.any (fun o => decide (64 * share < o.1) && decide (48 * 256 < o.2)) = true := fun ha => by
    obtain ⟨o, hm, ho⟩ := List.any_eq_true.mp ha
    obtain ⟨hl, hh⟩ := Bool.and_eq_true_iff.mp ho
    have := of_decide_eq_true hl
    have := of_decide_eq_true hh
    have := h o hm
    omega
  have low : os.all (fun o => decide (o.1 ≤ 64 * share) || decide (o.2 < 32 * 256)) = true :=
    List.all_eq_true.mpr fun o hm => by rw [Bool.or_eq_true, decide_eq_true_eq, decide_eq_true_eq]; exact h o hm
  exact (if_neg calm).trans (if_pos low)

theorem nextThrottle_le (hq : q ≤ 7) : nextThrottle q share os ≤ 7 := by
  unfold nextThrottle
  split
  · exact Nat.min_le_left _ _
  · split
    · exact Nat.le_trans (Nat.sub_le q 1) hq
    · exact hq

end

/-! ### Records and replies -/

theorem State.queueOf_svcCount (s : State) (d x fuel c : Nat) (r : Rcd) : (s.svcCount d x).queueOf fuel c r = s.queueOf fuel c r := by
  induction fuel generalizing c with
  | zero => rfl
  | succ f ih =>
    have same : (s.svcCount d x).ctxAt c = s.ctxAt c := rfl
    simp only [State.queueOf, same, ih]

theorem State.recordBehind_svcCount (s : State) (d x i : Nat) (r : Rcd) : (s.svcCount d x).recordBehind i r = s.recordBehind i r := by
  have same : (s.svcCount d x).records = s.records := rfl
  unfold State.recordBehind
  simp only [State.queueOf_svcCount, same]

theorem recordPost_posts {n : Nat} {r : Rcd} {t : State} (hr : s.records[i]? = some r) (hu : s.svcDown r.die = false) (hb : s.recordBehind i r = false)
    (hn : s.svcNext r.die r.ctx = true) (hm : (s.ctxAt r.dest).mask.getLsbD r.cls.bit = true) (hp : (s.ctxAt r.dest).posted.length < 2 ^ (s.ctxAt r.dest).lgsz)
    (he : (s.ctxAt r.dest).backlog = [])
    (ht : ({ s.svcCount r.die r.ctx with records := s.records.eraseIdx i } : State).ringPut r.dest (s.ctxAt r.dest).ring 64
      (fun n => (Tab.find (s.ctxAt r.dest).posted n).isSome) r.bytes = some (some (n, t))) :
    exec (.recordPost i) s = .next ((t.setCtx r.dest { t.ctxAt r.dest with posted := Tab.put (t.ctxAt r.dest).posted n r }).notified r.dest) := by
  have dropped : (s.svcCount r.die r.ctx).dropRecord i = { s.svcCount r.die r.ctx with records := s.records.eraseIdx i } := rfl
  have same : State.ctxAt { s.svcCount r.die r.ctx with records := s.records.eraseIdx i } r.dest = s.ctxAt r.dest := rfl
  have there : (s.svcCount r.die r.ctx).records[i]? = some r := hr
  have room : ¬((s.ctxAt r.dest).ringSize ≤ (s.ctxAt r.dest).posted.length ∨ (s.ctxAt r.dest).backlog.isEmpty = false) := by
    rw [he]
    exact fun h => h.elim (Nat.not_le.mpr hp) (fun e => by cases e)
  have behind := (s.recordBehind_svcCount r.die r.ctx i r).trans hb
  show execRecordPost i s = _
  simp only [execRecordPost, hr, hu, hb, hn, Bool.not_true, Bool.or_self, Bool.false_eq_true, if_false]
  refine congrArg _ ?_
  unfold State.postRecord
  simp only [there, behind, Bool.false_eq_true, if_false, dropped]
  unfold State.postTo
  simp only [same, hm, Bool.true_eq_false, if_false, if_neg room, ht]
  rfl

section
variable {c slot : Nat} {r : Rcd} {t : State}

/-- A reply with its slot's tag frees the slot and acts. -/
theorem State.takeReply_acts (ht : s.fwWrite c true ((s.ctxAt c).replies + 8 * slot) (leBytes 8 0) = some t) (act : State → State) :
    s.takeReply c slot act = (act (t.setCtx c { t.ctxAt c with posted := Tab.drop (t.ctxAt c).posted slot })).postBacklog c := by
  unfold State.takeReply
  rw [ht]
  rfl

theorem retryReply_retries (hr : s.replyAt c slot = some (r, 1)) (ht : s.fwWrite c true ((s.ctxAt c).replies + 8 * slot) (leBytes 8 0) = some t) :
    exec (.retryReply c slot) s = .next (((t.setCtx c { t.ctxAt c with posted := Tab.drop (t.ctxAt c).posted slot }).retry r).postBacklog c) := by
  show execRetryReply c slot s = _
  simp only [execRetryReply, hr, State.takeReply_acts ht]

theorem endReply_ends (hr : s.replyAt c slot = some (r, 2)) (ht : s.fwWrite c true ((s.ctxAt c).replies + 8 * slot) (leBytes 8 0) = some t) :
    exec (.endReply c slot) s = .next (((t.setCtx c { t.ctxAt c with posted := Tab.drop (t.ctxAt c).posted slot }).endRecord r).postBacklog c) := by
  show execEndReply c slot s = _
  simp only [execEndReply, hr, State.takeReply_acts ht]

theorem passReply_passes (hr : s.replyAt c slot = some (r, 3)) (ht : s.fwWrite c true ((s.ctxAt c).replies + 8 * slot) (leBytes 8 0) = some t)
    (hc : c ≠ 0) (hk : r.kind < 4) :
    let u := t.setCtx c { t.ctxAt c with posted := Tab.drop (t.ctxAt c).posted slot }
    exec (.passReply c slot) s = .next (({ u with records := u.records ++ [{ r with flags := r.flags ||| fUnhandled, dest := (u.ctxAt c).parent }] } : State).postBacklog c) := by
  intro u
  show execPassReply c slot s = _
  simp only [execPassReply, hr, State.takeReply_acts ht, if_neg (Nat.not_le.mpr hk), if_neg hc]
  rfl

end

/-! ### Error fences -/

section
variable {x : Nat} (hx : x ≠ 0)
include hx

theorem errorFence_isolates (hs : (s.ctxAt x).st = .active ∨ (s.ctxAt x).st = .frozen) :
    exec (.errorFence x) s = .next ((s.isolate (s.subtree x)).setCtx x { (s.isolate (s.subtree x)).ctxAt x with
      errFence := some ((s.ctxAt x).errFence.getD ⟨0, 0x08, 0, 0xFF, none, 15, 0⟩) }) := by
  show execErrorFence x s = _
  simp only [execErrorFence, if_neg hx, if_pos hs]
  rfl

theorem errorFence_resets {w : FenceWhy} (hw : (s.ctxAt x).errFence = some w) (hs : (s.ctxAt x).st = .fenced) (hq : s.quiet (s.subtree x) = true) :
    exec (.errorFence x) s = .next (if w.reason = 2 then s.resetCtx x false else (s.resetCtx x false).childRcd x w (s.ctxAt x).parent) := by
  have live : ¬((s.ctxAt x).st = .active ∨ (s.ctxAt x).st = .frozen) := by rw [hs]; decide
  have still : ¬((s.ctxAt x).st ≠ .fenced ∨ s.quiet (s.subtree x) = false) := by rw [hs, hq]; decide
  show execErrorFence x s = _
  simp only [execErrorFence, if_neg hx, if_neg live, hw, if_neg still]

end

end

/-- Settles O50: the round's three kinds of items, the tags, the second copy, the throttle's step, and records from their posting to their replies. -/
theorem firmwareRounds : Obligations.FirmwareRounds := by
  unfold Obligations.FirmwareRounds
  refine ⟨⟨fun s die i hd => ?_, fun s die x hd => State.svcCount_counts x hd, fun s i die c hd hu hc ha hl hn => journalRecopy_copies hd hu hc ha hl hn,
      fun s die occ hd => bandwidthPublication_throttles hd occ, fun q share os hq => ⟨nextThrottle_up, nextThrottle_down, nextThrottle_le hq⟩⟩,
    fun s i n r t hr hu hb hn => ?_, fun s c slot code r t hr ht => ?_, fun s r gid g hg hf => ?_, fun s x hx => ⟨errorFence_isolates hx, fun w => errorFence_resets hx⟩⟩
  · intro d
    exact ⟨fun e t => serviceRoundPriority_call hd, fun r => serviceRoundPriority_record hd, fun k c => serviceRoundPriority_command hd⟩
  · intro u c k hm hp he hput
    exact recordPost_posts hr hu hb hn hm hp he hput
  · intro u
    refine ⟨fun h => ?_, fun h => ?_, fun h hc hk => ?_⟩
    · exact retryReply_retries (h ▸ hr) ht
    · exact endReply_ends (h ▸ hr) ht
    · exact passReply_passes (h ▸ hr) ht hc hk
  · unfold State.retry
    rw [hg]
    show Tab.find (s.modGrp gid _).groups gid = _
    rw [State.modGrp_of_find _ hf]
    exact Tab.find_put_same

end Sys2Proof.Machine
end

section
/-! PROOF. Cold reset, life cycle, SPDM and IDE keys (22 R437, R439, R444 to R446; 24 R461, R462). -/
namespace Sys2Proof.Machine

/-- What no step of a fold changes, the fold does not change. -/
theorem foldl_keeps {α β γ : Type} {f : β → α → β} (p : β → γ) (hf : ∀ b a, p (f b a) = p b) (xs : List α) (b : β) : p (xs.foldl f b) = p b := by
  induction xs generalizing b with
  | nil => rfl
  | cons x r ih => exact (ih _).trans (hf b x)

section
variable {s : State}

/-! ### Life cycle and SPDM -/

theorem lifeCycleChange_advances {l : LifeCycle} (hb : s.pkg.boot = .ready) (alone : ∀ c, c ∈ s.ctxs → c.1 = 0 ∨ c.2.st = .free) (hl : s.pkg.lifeCycle.next = some l) :
    exec (.lifeCycleChange l.code) s = .next (s.cold .ready l) := by
  have run : exec (.lifeCycleChange l.code) s = execLifeCycleChange l.code s := rfl
  have none_else : ¬(s.pkg.boot ≠ .ready ∨ s.ctxs.any (fun c => decide (c.1 ≠ 0) && decide (c.2.st ≠ CtxSt.free)) = true) := by
    rintro (h | h)
    · exact h hb
    · obtain ⟨c, hc, other⟩ := List.any_eq_true.mp h
      rw [Bool.and_eq_true, decide_eq_true_eq, decide_eq_true_eq] at other
      exact (alone c hc).elim other.1 other.2
  rw [execLifeCycleChange, if_neg none_else] at run
  simp only [hl, if_true] at run
  exact run

theorem State.spdmAnswer_of (hb : s.pkg.boot = .ready) (bs : List Byte) : s.spdmAnswer bs = { s with pkg := { s.pkg with spdm := bs } } := if_pos hb

theorem getMeasurements_answers (hb : s.pkg.boot = .ready) (n : Nat) :
    ∃ bs, exec (.getMeasurements n) s = .next { s with pkg := { s.pkg with spdm := bs } } ∧ (n = 0 ∨ 4 < n → bs = []) :=
  ⟨_, congrArg Host.Outcome.next (State.spdmAnswer_of hb _), fun hn => if_neg fun h => by omega⟩

theorem keyExchange_session (hb : s.pkg.boot = .ready) (n : Nat) {key : List Byte} (hk : key.length = 32) :
    exec (.keyExchange none n key) s = .next { s with pkg := { s.pkg with sessions := Tab.put s.pkg.sessions n key } } := by
  have run : exec (.keyExchange none n key) s = execKeyExchange none n key s := rfl
  simp only [execKeyExchange, hb, if_pos hk] at run
  rw [run, ← hb]

theorem keyExchange_port (hb : s.pkg.boot = .ready) {p : Nat} (n : Nat) {key : List Byte} (hp : p < 16) (hs : (s.portAt p).st = .keying) (hk : key.length = 32) :
    exec (.keyExchange (some p) n key) s = .next (s.setPort p { s.portAt p with
      st := .up, rxKey := key, txKey := key, rxCtr := 0, txCtr := 0, rxNext := none, txNext := none, sent := [], fails := 0 }) := by
  have run : exec (.keyExchange (some p) n key) s = execKeyExchange (some p) n key s := rfl
  have waits : ¬(16 ≤ p ∨ ¬((s.portAt p).st = .keying ∨ ((s.portAt p).st = .isolated ∧ s.portPosted p = true))) :=
    not_or.mpr ⟨Nat.not_le.mpr hp, Classical.not_not.mpr (.inl hs)⟩
  simp only [execKeyExchange, hb, State.portKeys, if_neg waits, if_pos hk] at run
  exact run

theorem keyUpdate_sets {p : Nat} (seq : Nat) {key : List Byte} (hp : p < 16) (hk : key.length = 32) (hs : (s.portAt p).st = .up ∨ (s.portAt p).st = .retrain) :
    exec (.keyUpdate p seq key) s = .next (s.setPort p { s.portAt p with rxNext := some (seq % 2 ^ 32, key), txNext := some (seq % 2 ^ 32, key) }) :=
  congrArg Host.Outcome.next (if_pos ⟨hp, hk, hs⟩)

/-! ### IDE -/

theorem ideStream_iff {n : Nat} : ideStream n = true ↔ n ≤ 8 ∨ 16 ≤ n ∧ n < 20 := by
  simp [ideStream]

theorem ideKm_sets (hb : s.pkg.boot = .ready) {n : Nat} {key : List Byte} (hn : n ≤ 8 ∨ 16 ≤ n ∧ n < 20) (hk : key.length = 32) (hs : s.pkg.sessions ≠ []) :
    exec (.ideKm n key) s = .next { s with pkg := { s.pkg with
      ide := Tab.put s.pkg.ide n key, ideInsecure := s.pkg.ideInsecure.filter (fun m => decide (m ≠ n)) } } :=
  congrArg Host.Outcome.next (if_pos ⟨hb, ideStream_iff.mpr hn, hk, hs⟩)

/-- What a fabric's answers and records leave: the package, the L2 lines and memory. -/
def State.stores (s : State) : Pkg × List L2Line × Sparse 8 := (s.pkg, s.l2, s.mem)

theorem State.raiseEvent_stores (s : State) (x : Nat) (rs : List Rcd) : (s.raiseEvent x rs).stores = s.stores := by
  unfold State.raiseEvent
  split <;> rfl

theorem State.linkFault_stores (s : State) (x port peer count reason : Nat) : (s.linkFault x port peer count reason).stores = s.stores := s.raiseEvent_stores _ _

theorem State.answer_stores (s : State) (r : Sent) : (s.answer r).stores = s.stores := by
  show (s.modOp r.g r.op _).stores = s.stores
  unfold State.modOp State.modGrp
  split <;> rfl

theorem State.answerAll_stores (s : State) (rs : List Sent) : (s.answerAll rs).stores = s.stores := foldl_keeps State.stores State.answer_stores rs s

/-- A lost CXL port answers its requests, drops the lines of its memory and posts its records; the package and memory stay. -/
theorem State.cxlLost_stores (s : State) (p : Nat) : (s.cxlLost p).stores = (s.pkg, s.l2.filter (fun l => !s.behind p l.pa), s.mem) := by
  have logged : ∀ (ls : List L2Line) (t : State), (ls.foldl (fun (v : State) l => v.fenceLog 0 0 l.pa 1) t).stores = t.stores := foldl_keeps State.stores fun _ _ => rfl
  unfold State.cxlLost
  refine (foldl_keeps State.stores (fun (v : State) x => v.linkFault_stores x _ _ _ _) _ _).trans ?_
  exact congrArg (fun k : Pkg × List L2Line × Sparse 8 => (k.1, k.2.1.filter (fun l => !s.behind p l.pa), k.2.2))
    ((logged (((s.answerAll _).l2.filter _).filter _) _).trans (s.answerAll_stores (s.sentAll.filter _)))

theorem State.cxlLost_pkg (s : State) (p : Nat) : (s.cxlLost p).pkg = s.pkg := congrArg Prod.fst (s.cxlLost_stores p)

theorem ideIntegrityFailure_marks {n : Nat} (hn : n ≤ 8 ∨ 16 ≤ n ∧ n < 20) (hk : Tab.find s.pkg.ide n ≠ none) (hm : n ∉ s.pkg.ideInsecure) :
    ∃ t : State, exec (.ideIntegrityFailure n) s = .next t ∧ n ∈ t.pkg.ideInsecure
      ∧ (n ≤ 8 → t = { s with pkg := { s.pkg with ideInsecure := n :: s.pkg.ideInsecure } }) := by
  have run : exec (.ideIntegrityFailure n) s = execIdeIntegrityFailure n s := rfl
  have secure : ¬(ideStream n = false ∨ (Tab.find s.pkg.ide n).isNone = true ∨ s.pkg.ideInsecure.contains n = true) := by
    rw [← Bool.not_eq_true, ideStream_iff, Option.isNone_iff_eq_none, List.contains_iff_mem]
    exact not_or.mpr ⟨Classical.not_not.mpr hn, not_or.mpr ⟨hk, hm⟩⟩
  rw [execIdeIntegrityFailure, if_neg secure] at run
  by_cases port : 16 ≤ n
  · refine ⟨_, run.trans (congrArg Host.Outcome.next (if_pos port)), ?_, fun low => by omega⟩
    rw [State.cxlLost_pkg]
    exact List.mem_cons_self
  · exact ⟨_, run.trans (congrArg Host.Outcome.next (if_neg port)), List.mem_cons_self, fun _ => rfl⟩

end

/-- Settles O51: cold reset and power-off, the life cycle, SPDM's answers and keys, the streams of IDE, and the keys of a port. -/
theorem trustSteps : Obligations.TrustSteps := by
  unfold Obligations.TrustSteps
  refine ⟨fun s ok => ⟨_, rfl, rfl, rfl, rfl, rfl, rfl, rfl, rfl, rfl, rfl, rfl, rfl⟩, fun s => ⟨_, rfl, rfl, rfl, rfl, rfl, rfl⟩,
    fun s l hb alone hl => ⟨_, lifeCycleChange_advances hb alone ?_, rfl, rfl, rfl, rfl⟩, fun s hb => ⟨?_, ?_, ?_, ?_, ?_, ?_⟩,
    fun s n hn hk hm => ideIntegrityFailure_marks hn hk hm, fun s p seq key hp hk hs => keyUpdate_sets seq hp hk hs⟩
  · obtain ⟨now, rfl⟩ | ⟨now, rfl⟩ := hl <;> rw [now] <;> rfl
  · exact fun _ => ⟨_, congrArg Host.Outcome.next (State.spdmAnswer_of hb _)⟩
  · exact fun _ => ⟨_, congrArg Host.Outcome.next (State.spdmAnswer_of hb _)⟩
  · exact getMeasurements_answers hb
  · exact fun n key hk => keyExchange_session hb n hk
  · exact fun p n key hp hs hk => keyExchange_port hb n hp hs hk
  · exact fun n key hn hk hs => ideKm_sets hb hn hk hs

end Sys2Proof.Machine
end

section
/-! PROOF. The clocks, operating points and refresh, and soft errors (22 R447, R448, R452 to R454; 06 R172; 07 R211). -/
namespace Sys2Proof.Machine

/-! ### Clocks -/

theorem State.measured_dieAt (s : State) (o : Int) {d : Nat} (hd : d < s.dies.length) : (s.measured o).dieAt d =
    if 1000000 < o then { s.dieAt d with clock := (s.dieAt d).clock + o.toNat, slew := 0 } else { s.dieAt d with slew := o } := by
  simp only [State.dieAt, State.measured, List.getD_eq_getElem?_getD, List.getElem?_map, List.getElem?_eq_getElem hd, Option.map_some, Option.getD_some]

theorem measures {s : State} {o : Int} {e : Instr} (he : e = .ptpMessage o ∧ 1 ≤ s.pkg.src ∧ s.pkg.src ≤ 3 ∨ e = .ptmResponse o ∧ s.pkg.src = 4) :
    exec e s = .next (s.measured o) := by
  obtain ⟨rfl, low, high⟩ | ⟨rfl, ptm⟩ := he
  · exact congrArg Host.Outcome.next (if_pos ⟨low, high⟩)
  · exact congrArg Host.Outcome.next (if_pos ptm)

theorem State.msi_pends (s : State) (f : Nat) {v : Nat} (hv : v < 64) : ((s.msi f v).fnPage f).msix.getLsbD v = true := by
  rw [State.msi, State.fnPage_setPage]
  simp [hv]

theorem clockLockChange_sets {s : State} {b : Bool} (hl : s.pkg.lock ≠ b) (ho : b = true → s.pkg.ofs < 100) :
    exec (.clockLockChange b) s = .next (({ s with pkg := { s.pkg with lock := b } } : State).msi physFn 3) :=
  congrArg Host.Outcome.next (if_neg (not_or.mpr ⟨hl, fun h => Nat.not_le.mpr (ho h.1) h.2⟩))

theorem tctlWrite_sets (s : State) (v : Word) :
    ((v.extractLsb' 28 3).toNat ≤ 4 → exec (.tctlWrite v) s = .next { s with pkg := { s.pkg with src := (v.extractLsb' 28 3).toNat } })
      ∧ (4 < (v.extractLsb' 28 3).toNat → exec (.tctlWrite v) s = .next s) :=
  ⟨fun h => congrArg Host.Outcome.next (if_pos h), fun h => congrArg Host.Outcome.next (if_neg (Nat.not_le.mpr h))⟩

/-! ### Operating points, refresh and counted errors -/

/-- A die changes by what the function gives for its present value. -/
theorem State.modDie_congr {s : State} {d : Nat} {f g : Die → Die} (h : f (s.dieAt d) = g (s.dieAt d)) : s.modDie d f = s.modDie d g := by
  rw [State.modDie, State.modDie, h]

section
variable {s : State} {die : Nat} (h4 : die < 4)
include h4

theorem powerLimit_lowers {pt : Nat} (h1 : 1 ≤ pt) (h15 : pt ≤ 15) (hp : pt < (s.dieAt die).limits.1) :
    exec (.powerLimit die pt) s = .next (s.modDie die (fun d => { d with limits := (pt, d.limits.2) })) := by
  have ok : ¬(4 ≤ die ∨ pt = 0 ∨ 15 < pt) := by omega
  have run : exec (.powerLimit die pt) s = execPowerLimit die pt s := rfl
  rw [execPowerLimit, if_neg ok] at run
  exact run.trans (congrArg Host.Outcome.next (State.modDie_congr (if_pos hp)))

theorem thermalThrottle_lowers {pt : Nat} (h1 : 1 ≤ pt) (h15 : pt ≤ 15) : exec (.thermalThrottle die pt) s = .next (s.modDie die (fun d => { d with
    point := min d.point pt, limits := (min d.limits.1 pt, min d.limits.2.1 pt, min d.limits.2.2 pt) })) :=
  congrArg Host.Outcome.next (if_neg (show ¬(4 ≤ die ∨ pt = 0 ∨ 15 < pt) by omega))

variable (hd : die < s.dies.length)
include hd

theorem dramOvertemp_refreshes (n : Nat) : ∃ t : State, exec (.dramOvertemp die n) s = .next t ∧ n ∈ (t.dieAt die).refresh
    ∧ ∀ m, m ≠ n → (m ∈ (t.dieAt die).refresh ↔ m ∈ (s.dieAt die).refresh) := by
  refine ⟨_, congrArg Host.Outcome.next (if_neg (Nat.not_le.mpr h4)), ?_⟩
  rw [State.dieAt_modDie _ _ _ _ hd, if_pos rfl]
  by_cases h : (s.dieAt die).refresh.contains n = true
  · rw [if_pos h]
    exact ⟨List.contains_iff_mem.mp h, fun m _ => Iff.rfl⟩
  · rw [if_neg h]
    exact ⟨by simp, fun m hm => by simp [hm]⟩

theorem correctedError_counts (n : Nat) : ∃ t : State, exec (.correctedError die n) s = .next t
    ∧ Tab.findD (t.dieAt die).corrected n 0 = Tab.findD (s.dieAt die).corrected n 0 + 1 := by
  refine ⟨_, congrArg Host.Outcome.next (if_neg (Nat.not_le.mpr h4)), ?_⟩
  rw [State.dieAt_modDie _ _ _ _ hd, if_pos rfl]
  exact (Tab.findD_put ..).trans (if_pos rfl)

end

/-! ### The error log -/

theorem State.errorLog_dieAt (s : State) (d e : Nat) (p : ErrAt) :
    (s.errorLog d p).dieAt e = (s.modDie d (fun k => { k with errors := k.errors ++ [(p, k.clock)] })).dieAt e := rfl

theorem State.errorLog_coreAt (s : State) (d c : Nat) (p : ErrAt) : (s.errorLog d p).coreAt c = s.coreAt c := rfl

theorem State.errorLog_logs {s : State} {d : Nat} (hd : d < s.dies.length) (p : ErrAt) :
    ((s.errorLog d p).dieAt d).errors = (s.dieAt d).errors ++ [(p, (s.dieAt d).clock)] := by
  rw [State.errorLog_dieAt, State.dieAt_modDie _ _ _ _ hd, if_pos rfl]

/-! ### Poisoned memory, windows and lines -/

theorem State.poisonMem_contains (s : State) (a w : Nat) : (s.poisonMem a).memPoison.contains w = true ↔ w = a / 8 ∨ s.memPoison.contains w = true := by
  unfold State.poisonMem
  dsimp only
  split
  next h => exact ⟨.inr, fun k => k.elim (fun e => e ▸ h) id⟩
  next => simp

theorem State.memPoisoned_of_contains {s : State} {a : Nat} (h : s.memPoison.contains (a / 8) = true) : s.memPoisoned a 1 = true :=
  List.any_eq_true.mpr ⟨a / 8, List.contains_iff_mem.mp h, by rw [Bool.and_eq_true, decide_eq_true_eq, decide_eq_true_eq]; omega⟩

/-- The words of a transfer that went wrong too often (22 R453). -/
def State.poisonTransfer (s : State) (a n : Nat) : State := (List.range n).foldl (fun (t : State) i => t.poisonMem (a / 64 * 64 + 8 * i)) s

theorem State.poisonTransfer_contains (s : State) (a n : Nat) {i : Nat} (hi : i < n) :
    (s.poisonTransfer a n).memPoison.contains ((a / 64 * 64 + 8 * i) / 8) = true := by
  induction n with
  | zero => exact absurd hi (Nat.not_lt_zero i)
  | succ n ih =>
    rw [State.poisonTransfer, List.range_succ, List.foldl_append]
    refine (State.poisonMem_contains _ _ _).mpr ?_
    obtain earlier | rfl := Nat.lt_succ_iff_lt_or_eq.mp hi
    · exact .inr (ih earlier)
    · exact .inl rfl

section
variable {s : State}

theorem uncorrectableError_dram {a : Nat} (ha : reachOf s.pkg.id a = .dram) :
    exec (.uncorrectableError (.dram a)) s = .next ((s.poisonMem a).errorLog (s.homeDie a) (.dram a)) :=
  congrArg Host.Outcome.next (if_pos (decide_eq_true ha))

theorem dramCrcRetry_poisons {a n : Nat} (ha : reachOf s.pkg.id a = .dram) (hn : 8 < n) :
    exec (.dramCrcRetry a n) s = .next ((s.poisonTransfer a 8).errorLog (s.homeDie a) (.dram a)) := by
  have fails : ¬(n ≤ 8 ∨ s.owns a = false) := by
    rw [State.owns, decide_eq_true ha]
    simp [hn]
  exact congrArg Host.Outcome.next (if_neg fails)

theorem dramCrcRetry_holds {a n : Nat} (hn : n ≤ 8) : exec (.dramCrcRetry a n) s = .next s := congrArg Host.Outcome.next (if_pos (.inl hn))

theorem uncorrectableError_window {c : Nat} (w : Nat) (hc : c < 384) :
    ∃ t : State, exec (.uncorrectableError (.window c w)) s = .next t ∧ w ∈ (t.coreAt c).winPoison ∧ (t.coreAt c).win = (s.coreAt c).win := by
  refine ⟨_, congrArg Host.Outcome.next (if_pos hc), ?_⟩
  rw [State.errorLog_coreAt, State.poisonWin, State.coreAt_modCore, if_pos rfl, Nat.mul_div_cancel_left w (by decide)]
  refine ⟨?_, rfl⟩
  dsimp only
  split
  next h => exact List.contains_iff_mem.mp h
  next => exact List.mem_cons_self

theorem Grp.poisonLine_mem (g : Grp) (n : Nat) : n ∈ (g.poisonLine n).poison := by
  unfold Grp.poisonLine
  dsimp only
  split
  next h => exact List.contains_iff_mem.mp h
  next => exact List.mem_cons_self

theorem uncorrectableError_line {gid n : Nat} {g : Grp} (hg : Tab.find s.groups gid = some g) (hn : n < g.nlines) :
    exec (.uncorrectableError (.line gid n)) s = .next ((s.setGrp gid (g.poisonLine n)).errorLog (coreDie g.core) (.line gid n)) := by
  have run : exec (.uncorrectableError (.line gid n)) s = execUncorrectableError (.line gid n) s := rfl
  simp only [execUncorrectableError, hg, if_pos hn, State.modGrp_of_find _ hg] at run
  exact run

/-! ### Errors that fence a context -/

theorem State.errIsolate_fences (s : State) (x : Nat) (w : FenceWhy) :
    ((s.errIsolate x w).ctxAt x).errFence = some w ∧ (x ∈ s.subtree x → ((s.errIsolate x w).ctxAt x).st = .fenced) := by
  rw [State.errIsolate, State.ctxAt_modCtx, if_pos rfl]
  exact ⟨rfl, fun h => (s.isolate_fences (s.subtree x)).1 x h⟩

theorem State.subtree_errorLog (s : State) (d : Nat) (p : ErrAt) (x : Nat) : (s.errorLog d p).subtree x = s.subtree x := rfl

variable {die x : Nat}

theorem serviceCoreCacheError_fences (h4 : die < 4) (hx : x ≠ 0) (hl : s.live x = true) :
    exec (.serviceCoreCacheError die (some x)) s = .next ((s.errorLog die (.svcCache die)).errIsolate x fenceError) := by
  have run : exec (.serviceCoreCacheError die (some x)) s = execServiceCoreCacheError die (some x) s := rfl
  have begun : ¬(x = 0 ∨ s.live x = false) := by rw [hl]; exact not_or.mpr ⟨hx, Bool.noConfusion⟩
  rw [execServiceCoreCacheError, if_neg (Nat.not_le.mpr h4)] at run
  exact run.trans (congrArg Host.Outcome.next (if_neg begun))

theorem uncorrectableError_channel {n p : Nat} {q : Partition} (hn : n < 128) (hf : s.pkg.partitions.find? (fun e => e.2.channels.contains n) = some (p, q))
    (hq : q.ctx = some x) (hl : s.live x = true) :
    exec (.uncorrectableError (.channel n)) s = .next ((s.errorLog (n / 32) (.channel n)).errIsolate x fencePartition) := by
  have bound : ((s.errorLog (n / 32) (.channel n)).pkg.partitions.find? (fun e => e.2.channels.contains n)).bind (fun e => e.2.ctx) = some x :=
    (congrArg (·.bind (fun e => e.2.ctx)) hf).trans hq
  have run : exec (.uncorrectableError (.channel n)) s = execUncorrectableError (.channel n) s := rfl
  simp only [execUncorrectableError, if_pos hn, State.setError, bound] at run
  exact run.trans (congrArg Host.Outcome.next (if_pos hl))

theorem serviceCoreCacheError_resets (h4 : die < 4) (hd : die < s.dies.length) : ∃ t : State, exec (.serviceCoreCacheError die none) s = .next t
    ∧ (t.dieAt die).svcBack ≤ (s.dieAt die).clock + 20000000 ∧ (t.dieAt die).harts = List.replicate 16 hartInit ∧ t.mem = s.mem := by
  have run : exec (.serviceCoreCacheError die none) s = execServiceCoreCacheError die none s := rfl
  rw [execServiceCoreCacheError, if_neg (Nat.not_le.mpr h4)] at run
  have logged : die < (s.errorLog die (.svcCache die)).dies.length := Nat.lt_of_lt_of_eq hd (List.length_set ..).symm
  have clock : ((s.errorLog die (.svcCache die)).dieAt die).clock = (s.dieAt die).clock := by
    rw [State.errorLog_dieAt, State.dieAt_modDie _ _ _ _ hd, if_pos rfl]
  have reset := State.dieAt_modDie (s.errorLog die (.svcCache die)) die die
    (fun k => { k with svcBack := k.clock + Config.freeNat s.freeCtr % 20000001, harts := List.replicate 16 hartInit }) logged
  rw [if_pos rfl] at reset
  refine ⟨_, run, ?_, congrArg Die.harts reset, rfl⟩
  refine Nat.le_trans (Nat.le_of_eq (congrArg Die.svcBack reset)) ?_
  dsimp only
  rw [clock]
  omega

end

/-- Settles O52: the clocks, the operating points and refresh, the poison that an error leaves, and the contexts and harts that it stops. -/
theorem timeAndErrors : Obligations.TimeAndErrors := by
  unfold Obligations.TimeAndErrors
  refine ⟨⟨fun s o e he => ⟨_, measures he, rfl, fun d hd => ?_⟩, fun s b hl ho => ⟨_, clockLockChange_sets hl ho, rfl, State.msi_pends _ 384 (by decide)⟩,
      fun s v => (tctlWrite_sets s v).1, fun s v => (tctlWrite_sets s v).2⟩,
    fun s die pt hd h4 h1 h15 => ?_, fun s die n hd h4 => ⟨dramOvertemp_refreshes h4 hd n, correctedError_counts h4 hd n⟩, fun s a n ha => ⟨?_, ?_, ?_⟩,
    fun s c w hc => uncorrectableError_window w hc, fun s gid n g hg hn => ?_, fun s die x h4 hx hl => ?_, fun s n p x q hn hf hq hl => ?_,
    fun s die h4 hd => serviceCoreCacheError_resets h4 hd⟩
  · rw [s.measured_dieAt o hd]
    exact ⟨fun h => if_pos h, fun h => if_neg (Int.not_lt.mpr h)⟩
  · intro d
    exact ⟨powerLimit_lowers h4 h1 h15, thermalThrottle_lowers h4 h1 h15⟩
  · exact ⟨_, uncorrectableError_dram ha, State.memPoisoned_of_contains ((State.poisonMem_contains _ _ _).mpr (.inl rfl)), rfl,
      fun hd => State.errorLog_logs (s := s.poisonMem a) hd _⟩
  · refine fun hn => ⟨_, dramCrcRetry_poisons ha hn, fun j hj => State.memPoisoned_of_contains ?_⟩
    have word : (a / 64 * 64 + j) / 8 = (a / 64 * 64 + 8 * (j / 8)) / 8 := by omega
    rw [word]
    exact s.poisonTransfer_contains a 8 (by omega)
  · exact fun hn => dramCrcRetry_holds hn
  · exact ⟨_, _, uncorrectableError_line hg hn, Tab.find_put_same .., g.poisonLine_mem n, rfl⟩
  · exact ⟨_, serviceCoreCacheError_fences h4 hx hl, State.errIsolate_fences (s.errorLog die _) x fenceError⟩
  · exact ⟨_, uncorrectableError_channel hn hf hq hl, State.errIsolate_fences (s.errorLog (n / 32) _) x fencePartition⟩

end Sys2Proof.Machine
end

section
/-! PROOF. The host port, control words and time-stamped ingress (03 R6; 11 R273; 13 R321; 19 R400; 22 R447, R450, R451). -/
namespace Sys2Proof.Machine

/-! ### Host reads and writes -/

/-- An access within 64 aligned bytes is one piece. -/
theorem physPieces_one {a n : Nat} (h : a % 64 + n ≤ 64) (hn : 0 < n) : physPieces a n = [(a, n)] := by
  have fit : min n (64 - a % 64) = n := by omega
  have go : ∀ f, pieces64 (f + 1) a n = (a, n) :: pieces64 f (a + n) 0 := fun f => by
    rw [pieces64, if_neg (Nat.ne_of_gt hn), fit]
    dsimp only
    rw [Nat.sub_self]
  rw [physPieces, go, pieces64, if_pos rfl]

section
variable {s : State} {fn a : Nat}

theorem State.bar2_low {n : Nat} (h : s.bar2 fn a n = true) : ¬2 ^ 53 ≤ a := by
  have within : a + n ≤ 2 ^ 39 := by
    simp only [State.bar2, Bool.and_eq_true, decide_eq_true_eq] at h
    exact h.1.2
  omega

theorem hostMemoryRead_answers {n : Nat} (h : s.bar2 fn a n = true) (hf : s.physFault (s.fnCtx fn) false (physPieces a n) = none)
    (hw : (s.physRead (s.fnCtx fn) 0 (physPieces a n)).2.2 = false) :
    exec (.hostMemoryRead fn a n) s = .next { s with pkg := { s.pkg with
      hostRead := (s.physRead (s.fnCtx fn) 0 (physPieces a n)).1, hostPoison := (s.physRead (s.fnCtx fn) 0 (physPieces a n)).2.1 } } := by
  show execHostMemoryRead fn a n s = _
  simp only [execHostMemoryRead, if_neg (State.bar2_low h), h, Bool.not_true, Bool.false_eq_true, if_false, hf, hw]

theorem State.physRead_one {x w n : Nat} {k : NestOk} (h : a % 64 + n ≤ 64) (hn : 0 < n) (ha : s.physAt x a false = .ok k)
    (hw : worldAllows w (s.frameWorld k.pa) false = true) : s.physRead x w (physPieces a n) = (s.homeRead k.pa n, s.memPoisoned k.pa n, false) := by
  simp only [physPieces_one h hn, State.physRead, ha, hw, if_true, List.append_nil, Bool.or_false]

theorem hostMemoryWrite_stores {bs : List Byte} {bad : Bool} (h : s.bar2 fn a bs.length = true)
    (hf : s.physFault (s.fnCtx fn) true (physPieces a bs.length) = none) (hw : (s.physWrite (s.fnCtx fn) 0 (physPieces a bs.length) bs bad).2 = false) :
    exec (.hostMemoryWrite fn a bs bad) s = .next (s.physWrite (s.fnCtx fn) 0 (physPieces a bs.length) bs bad).1 := by
  show execHostMemoryWrite fn a bs bad s = _
  simp only [execHostMemoryWrite, h, hf, hw, Option.isSome_none, Bool.not_true, Bool.or_self, Bool.false_eq_true, if_false]

theorem State.homeWrite_unheld {pa : Nat} (h : s.l2Held pa = false) (bs : List Byte) (o : Bool) : s.homeWrite pa bs o = s.memWrite pa bs := by
  rw [State.homeWrite, h]
  exact if_neg Bool.false_ne_true

theorem State.physWrite_one {x w pa : Nat} {bs : List Byte} (h : a % 64 + bs.length ≤ 64) (hn : bs ≠ []) (ha : s.physAt x a true = .ok ⟨pa, true, true, false, [], .none⟩)
    (hw : worldAllows w (s.frameWorld pa) false = true) (hl : s.l2Held pa = false) : (s.physWrite x w (physPieces a bs.length) bs false).1 = s.memWrite pa bs := by
  simp only [physPieces_one h (List.length_pos_iff.mpr hn), State.physWrite, ha, hw, if_true, Bool.false_eq_true, if_false, List.take_length, State.trackPath,
    List.zip_nil_right, List.foldl_nil]
  exact (s.traced XTrace.none).homeWrite_unheld hl bs true

/-! ### Control words -/

theorem registerWrite_block {o v : Nat} (hv : v < 2 ^ 32) (hf : fn ≤ 384) (h4 : o % 4 = 0) (ho : o < 0x80) (hb : s.pkg.boot = .ready) :
    exec (.registerWrite (2 ^ 53 + 2 ^ 20 * fn + o) v) s = .next (s.setPage fn { s.fnPage fn with block := patch (s.fnPage fn).block o (leBytes 4 v) }) := by
  have fnOf : (2 ^ 53 + 2 ^ 20 * fn + o - 2 ^ 53) / 2 ^ 20 = fn := by omega
  have offset : (2 ^ 53 + 2 ^ 20 * fn + o) % 2 ^ 20 = o := by omega
  have window : 2 ^ 53 ≤ 2 ^ 53 + 2 ^ 20 * fn + o ∧ 2 ^ 53 + 2 ^ 20 * fn + o - 2 ^ 53 < 385 * 2 ^ 20 ∧ s.pkg.boot ≠ .off :=
    ⟨by omega, by omega, by rw [hb]; decide⟩
  have block : s.barWrite fn o v = s.setPage fn { s.fnPage fn with block := patch (s.fnPage fn).block o (leBytes 4 v) } := by
    have no_vector : msixWord fn o = none := by
      unfold msixWord
      dsimp only
      exact if_neg fun h => by split at h <;> omega
    rw [State.barWrite, if_neg (Classical.not_not.mpr h4), no_vector, if_neg (by decide), if_pos ho]
  have run : exec (.registerWrite (2 ^ 53 + 2 ^ 20 * fn + o) v) s = execRegisterWrite (2 ^ 53 + 2 ^ 20 * fn + o) v s := rfl
  rw [execRegisterWrite, if_neg (by omega), if_neg (by omega), if_neg (by omega), if_pos window, fnOf, offset, block] at run
  exact run

theorem ictlWrite_sets {core : Nat} {v : Word} (hc : core < 384) (h : (v.extractLsb' 0 12).toNat < (v.extractLsb' 12 12).toNat) :
    exec (.ictlWrite core v) s = .next (s.setCore core { s.coreAt core with
      ten := v.getLsbD 31, thi := (v.extractLsb' 12 12).toNat, tlo := (v.extractLsb' 0 12).toNat, level := if v.getLsbD 31 then (s.coreAt core).level else 32 }) :=
  congrArg Host.Outcome.next (if_neg (not_or.mpr ⟨Nat.not_le.mpr hc, Nat.not_le.mpr h⟩))

theorem sctlWrite_sets {die slot : Nat} {v : Word} (hd : die < 4) (hs : slot < 24) (h : (v.extractLsb' 0 2).toNat ≠ 3) :
    exec (.sctlWrite die slot v) s = .next (s.setSlot die slot { s.slotAt die slot with flim := (v.extractLsb' 2 4).toNat, pace := (v.extractLsb' 0 2).toNat }) :=
  congrArg Host.Outcome.next (if_neg (not_or.mpr ⟨Nat.not_le.mpr hd, not_or.mpr ⟨Nat.not_le.mpr hs, h⟩⟩))

/-! ### Ingress -/

theorem getD_set_self {α : Type} {xs : List α} {n : Nat} (x d : α) (h : n < xs.length) : (xs.set n x).getD n d = x := by
  rw [List.getD_eq_getElem?_getD, List.getElem?_set_self h, Option.getD_some]

theorem State.ingressAt_setIngress {w : Nat} (g : Ingress) (hw : w < s.pkg.ingress.length) : (s.setIngress w g).ingressAt w = g :=
  getD_set_self g ingressInit hw

theorem ingressDropRead_clears {w : Nat} (hw : w < 16) (hl : w < s.pkg.ingress.length) : ∃ t : State, exec (.ingressDropRead w) s = .next t
    ∧ t.pkg.dropRead = (s.ingressAt w).drops ∧ t.ingressAt w = { s.ingressAt w with drops := 0 } :=
  ⟨_, congrArg Host.Outcome.next (if_neg (Nat.not_le.mpr hw)), rfl,
    State.ingressAt_setIngress (s := { s with pkg := { s.pkg with dropRead := (s.ingressAt w).drops } }) _ hl⟩

/-- The time of a write into a window is within 8 ns of the device's (22 R451). -/
def State.ingressTime (s : State) : Nat := (s.dieAt 0).clock + Config.freeNat s.freeCtr % 17 - 8

theorem ingressWrite_delivers {w off : Nat} {bs : List Byte} {t : State} (hw : w < 16) (he : (s.ingressAt w).en = true) (hn : bs ≠ [])
    (hl : off + bs.length ≤ 2 ^ (s.ingressAt w).lwin) (hb : s.pkg.boot = .ready) (ht : (s.useFree 1).ingressParts w (cutParts off bs) s.ingressTime = .ok t) :
    exec (.ingressWrite w off bs) s = .next t := by
  have taken : ¬(16 ≤ w ∨ (s.ingressAt w).en = false ∨ bs.isEmpty = true ∨ 2 ^ (s.ingressAt w).lwin < off + bs.length ∨ s.pkg.boot ≠ .ready) := by
    rw [he, List.isEmpty_iff, hb]
    simp [hn, hw, hl]
  rw [State.ingressTime] at ht
  show execIngressWrite w off bs s = _
  simp only [execIngressWrite, if_neg taken, ht]

section
variable {w : Nat} {wi ri : List Byte} (hwi : s.ringRead (s.ingressAt w).ctx (s.ingressAt w).ring 8 = .ok wi)
  (hri : s.ringRead (s.ingressAt w).ctx ((s.ingressAt w).ring + 8) 8 = .ok ri)
include hwi hri

theorem State.ingressPart_drops (part : List Byte) (time : Nat) (full : (leNat wi + 2 ^ 64 - leNat ri) % 2 ^ 64 = 2 ^ (s.ingressAt w).lgsz) :
    s.ingressPart w part time = .ok (s.setIngress w { s.ingressAt w with
      drops := ((s.ingressAt w).drops + 1) % 2 ^ 32, trailDrops := (s.ingressAt w).trailDrops + 1, seq := ((s.ingressAt w).seq + 1) % 2 ^ 32 }) := by
  simp only [State.ingressPart, hwi, hri, if_pos full]

theorem State.ingressPart_stores {part : List Byte} {time : Nat} {t u : State} (room : (leNat wi + 2 ^ 64 - leNat ri) % 2 ^ 64 ≠ 2 ^ (s.ingressAt w).lgsz)
    (ht : s.ringWrite (s.ingressAt w).ctx ((s.ingressAt w).ring + 128 + 128 * (leNat wi % 2 ^ (s.ingressAt w).lgsz)) (ingressEntry (s.ingressAt w) part time) = .ok t)
    (hu : t.ringWrite (s.ingressAt w).ctx (s.ingressAt w).ring (leBytes 8 ((leNat wi + 1) % 2 ^ 64)) = .ok u) :
    s.ingressPart w part time = .ok (u.setIngress w { s.ingressAt w with trailDrops := 0, seq := ((s.ingressAt w).seq + 1) % 2 ^ 32 }) := by
  simp only [State.ingressPart, hwi, hri, if_neg room, ht, hu]

end

end

/-- Settles O53: host reads and writes, the control words, and the entries of an ingress ring. -/
theorem hostAndIngress : Obligations.HostAndIngress := by
  unfold Obligations.HostAndIngress
  refine ⟨⟨fun s fn a n h hf hw => hostMemoryRead_answers h hf hw, fun s a n pa h hn x w d v ps tr ha hw => State.physRead_one h hn ha hw,
      fun s fn a bs bad h hf hw => hostMemoryWrite_stores h hf hw, fun s a pa bs h hn ha hw hl _ => ?_, fun s o v fn hv hf h4 ho hb => ?_, fun s core v hc => ?_,
      fun s die slot v hd hs => ?_⟩,
    fun s w hw hl => ingressDropRead_clears hw hl, fun s w off bs hw he hn hl hb => ?_, fun s w time part wi ri hl => ?_⟩
  · dsimp only
    rw [State.physWrite_one h hn ha hw hl]
    refine ⟨fun j hj => ?_, fun b hb => ?_⟩
    · rw [State.memWrite_get, if_pos ⟨Nat.le_add_right .., Nat.add_lt_add_left hj pa⟩, Nat.add_sub_cancel_left]
    · rw [State.memWrite_get, if_neg fun inside => by omega]
  · refine ⟨_, registerWrite_block hv hf h4 ho hb, ?_⟩
    have four : (leBytes 4 v).length = 4 := leBytes_length
    rw [State.fnPage_setPage, patch, four]
  · exact ⟨fun h => congrArg Host.Outcome.next (if_pos (.inr h)), fun h => ictlWrite_sets hc h⟩
  · exact ⟨fun h => congrArg Host.Outcome.next (if_pos (.inr (.inr h))), fun h => sctlWrite_sets hd hs h⟩
  · intro near parts good
    have hnear : near s.ingressTime := by
      show (s.dieAt 0).clock ≤ (s.dieAt 0).clock + Config.freeNat s.freeCtr % 17 - 8 + 8 ∧ (s.dieAt 0).clock + Config.freeNat s.freeCtr % 17 - 8 ≤ (s.dieAt 0).clock + 8
      omega
    obtain ⟨t, ht⟩ := good _ hnear
    exact ⟨_, t, hnear, ht, ingressWrite_delivers hw he hn hl hb ht⟩
  · intro g hwi hri
    exact ⟨fun full => ⟨_, State.ingressPart_drops hwi hri part time full, State.ingressAt_setIngress _ hl⟩,
      fun t u room ht hu => State.ingressPart_stores hwi hri room ht hu⟩

end Sys2Proof.Machine
end

section
/-! PROOF. The states and flits of a fabric port (24 R460 to R463). -/
namespace Sys2Proof.Machine

section
variable {s : State} {i seq : Nat}

theorem State.portAt_setPort (p : Port) (hl : i < s.pkg.ports.length) : (s.setPort i p).portAt i = p :=
  getD_set_self p portInit hl

/-- A port's answers and records leave the package's state. -/
theorem State.portAnswers_pkg (s : State) (i reason : Nat) : (s.portAnswers i reason).pkg = s.pkg := by
  unfold State.portAnswers
  exact congrArg Prod.fst ((foldl_keeps State.stores (fun (v : State) x => v.linkFault_stores x _ _ _ _) _ _).trans (s.answerAll_stores _))

/-- Setting a port after its answers leaves what was set. -/
theorem State.portAt_afterAnswers (reason : Nat) (p : Port) (hl : i < s.pkg.ports.length) : ((s.portAnswers i reason).setPort i p).portAt i = p :=
  State.portAt_setPort p (by rwa [State.portAnswers_pkg])

theorem Port.accept_of_none {p : Port} (h : p.rxNext = none) : p.accept = { p with rxSeq := (p.rxSeq + 1) % 2 ^ 32, rxCtr := p.rxCtr + 1 } := by
  simp only [Port.accept, h]

/-! ### Flits -/

section
variable (hi : i < 16)
include hi

/-- A flit at a port that is UP: accepted in its turn, dropped out of it, and a failed tag isolates the port (24 R460, R463). -/
theorem flitReceive_up (hu : (s.portAt i).st = .up) (ok : Bool) : exec (.flitReceive i seq ok) s = .next (
    if seq ≠ (s.portAt i).rxSeq then
      (if 0 < seqDist seq (s.portAt i).rxSeq ∧ seqDist seq (s.portAt i).rxSeq ≤ 512 then s else s.setPort i { s.portAt i with nacked := some (s.portAt i).rxSeq })
    else if ok then
      (s.setPort i { (s.portAt i).accept with sent := (s.portAt i).sent.drop (Config.freeNat s.freeCtr % ((s.portAt i).sent.length + 1)) }).useFree 1
    else (s.portAnswers i 0).setPort i { s.portAt i with st := .isolated }) := by
  have up : ¬(s.portAt i).st = .isolated := by rw [hu]; decide
  show execFlitReceive i seq ok s = _
  rw [execFlitReceive, if_neg (Nat.not_le.mpr hi), if_neg up, if_neg (Classical.not_not.mpr hu)]

theorem flitReceive_accepts (hu : (s.portAt i).st = .up) (hs : seq = (s.portAt i).rxSeq) (hn : (s.portAt i).rxNext = none) (hl : i < s.pkg.ports.length) :
    ∃ t q, exec (.flitReceive i seq true) s = .next t ∧ t.portAt i = { s.portAt i with
      rxSeq := ((s.portAt i).rxSeq + 1) % 2 ^ 32, rxCtr := (s.portAt i).rxCtr + 1, sent := q } ∧ (∀ f, f ∈ q → f ∈ (s.portAt i).sent) := by
  refine ⟨_, (s.portAt i).sent.drop (Config.freeNat s.freeCtr % ((s.portAt i).sent.length + 1)), (flitReceive_up hi hu true).trans (congrArg Host.Outcome.next ((if_neg (Classical.not_not.mpr hs)).trans (if_pos rfl))), ?_, fun f hf => List.mem_of_mem_drop hf⟩
  rw [Port.accept_of_none hn]
  exact State.portAt_setPort _ hl

theorem flitReceive_drops (hu : (s.portAt i).st = .up) (hs : seq ≠ (s.portAt i).rxSeq)
    (hd : seqDist seq (s.portAt i).rxSeq = 0 ∨ 512 < seqDist seq (s.portAt i).rxSeq) :
    exec (.flitReceive i seq true) s = .next (s.setPort i { s.portAt i with nacked := some (s.portAt i).rxSeq }) :=
  (flitReceive_up hi hu true).trans (congrArg Host.Outcome.next ((if_pos hs).trans (if_neg (by omega))))

theorem flitReceive_isolates (hu : (s.portAt i).st = .up) (hs : seq = (s.portAt i).rxSeq) (hl : i < s.pkg.ports.length) :
    ∃ t : State, exec (.flitReceive i seq false) s = .next t ∧ (t.portAt i).st = .isolated :=
  ⟨_, (flitReceive_up hi hu false).trans (congrArg Host.Outcome.next ((if_neg (Classical.not_not.mpr hs)).trans (if_neg Bool.false_ne_true))),
    congrArg Port.st (State.portAt_afterAnswers 0 { s.portAt i with st := .isolated } hl)⟩

theorem nack_up (hu : (s.portAt i).st = .up) : exec (.nack i seq) s = .next (s.nackAt i seq) := congrArg Host.Outcome.next (if_pos ⟨hi, hu⟩)

theorem ackTimeout_nacks {f : Nat × Nat} {r : List (Nat × Nat)} (hu : (s.portAt i).st = .up) (hs : (s.portAt i).sent = f :: r) :
    exec (.ackTimeout i) s = exec (.nack i f.1) s := by
  rw [nack_up hi hu]
  show execAckTimeout i s = _
  rw [execAckTimeout, if_pos ⟨hi, hu⟩, hs]

end

section
variable {k : Nat} (hk : (s.portAt i).sent.findIdx? (fun f => decide (f.1 = seq)) = some k)
include hk

theorem State.nackAt_resends (h : ∀ f, f ∈ (s.portAt i).sent.drop k → f.2 < 8) :
    s.nackAt i seq = s.setPort i { s.portAt i with sent := ((s.portAt i).sent.drop k).map (fun f => (f.1, f.2 + 1)) } := by
  have few : ¬((s.portAt i).sent.drop k).any (fun f => decide (8 ≤ f.2)) = true := fun many => by
    obtain ⟨f, hf, eight⟩ := List.any_eq_true.mp many
    exact Nat.not_le.mpr (h f hf) (of_decide_eq_true eight)
  simp only [State.nackAt, hk, if_neg few]

theorem State.nackAt_retrains (h : ∃ f, f ∈ (s.portAt i).sent.drop k ∧ 8 ≤ f.2) :
    s.nackAt i seq = s.setPort i { s.portAt i with st := .retrain, sent := (s.portAt i).sent.drop k } := by
  have many : ((s.portAt i).sent.drop k).any (fun f => decide (8 ≤ f.2)) = true := by
    obtain ⟨f, hf, eight⟩ := h
    exact List.any_eq_true.mpr ⟨f, hf, decide_eq_true eight⟩
  simp only [State.nackAt, hk, if_pos many]

end

/-! ### Port states -/

theorem linkTrained_keys (hi : i < 16) (hs : (s.portAt i).st = .training) :
    exec (.linkTrained i) s = .next (s.setPort i { s.portAt i with st := .keying, rxSeq := 0, txSeq := 0 }) := by
  show execLinkTrained i s = _
  simp only [execLinkTrained, if_neg (Nat.not_le.mpr hi), hs]

theorem linkTrained_resumes (hi : i < 16) (hs : (s.portAt i).st = .retrain) :
    exec (.linkTrained i) s = .next (s.setPort i { s.portAt i with st := .up, sent := (s.portAt i).sent.map (fun f => (f.1, 0)) }) := by
  show execLinkTrained i s = _
  simp only [execLinkTrained, if_neg (Nat.not_le.mpr hi), hs]

end

/-- Settles O54: the flits that a port takes, drops and sends again, and the changes of its state. -/
theorem linkSteps : Obligations.LinkSteps := by
  unfold Obligations.LinkSteps
  intro s i seq hi hl p
  refine ⟨fun hu hs hn => flitReceive_accepts hi hu hs hn hl, fun hu hs hd => flitReceive_drops hi hu hs hd, fun hu hs => flitReceive_isolates hi hu hs hl,
    fun k hu hk => ⟨fun few => ?_, fun many => ?_⟩, fun f r hu hs => ackTimeout_nacks hi hu hs, fun h => congrArg Host.Outcome.next (if_pos ⟨hi, h⟩),
    fun h => linkTrained_keys hi h, fun h => linkTrained_resumes hi h, fun h => congrArg Host.Outcome.next (if_pos ⟨hi, h⟩), fun h => ?_⟩
  · rw [nack_up hi hu, State.nackAt_resends hk few]
  · rw [nack_up hi hu, State.nackAt_retrains hk many]
  · refine ⟨_, congrArg Host.Outcome.next (if_pos ⟨hi, h⟩), ?_⟩
    rw [State.portAt_afterAnswers 1 _ hl]
    exact ⟨rfl, rfl, rfl⟩

end Sys2Proof.Machine
end

section
/-! PROOF. Requests of other packages, withdrawn exports and CXL ports (13 R322; 22 R442; 24 R465, R467 to R469, R472, R473). -/
namespace Sys2Proof.Machine

/-! ### Requests of other packages -/

section
variable {s : State} {pk w pa n : Nat}

theorem State.l2Held_dram (hr : reachOf s.pkg.id pa = .dram) : s.l2Held pa = false := by
  rw [State.l2Held, hr]

theorem State.remoteOk_of (hr : reachOf s.pkg.id pa = .dram) (hn : pa % 128 + n ≤ 128) : s.remoteOk pa n = true := by
  rw [State.remoteOk, State.owns, decide_eq_true hr, decide_eq_true hn]
  rfl

section
variable (hr : reachOf s.pkg.id pa = .dram) (hn : pa % 128 + n ≤ 128) (hg : s.isWithdrawn pa = false)
include hr hn hg

theorem remoteRequest_read (c : Bool) : exec (.remoteRequest (.read pk w pa n c)) s = .next (
    if s.remoteMay w pa then
      (if c then (s.setAnswer (s.homeRead pa n) (s.memPoisoned pa n)).noteCopy pk pa else s.setAnswer (s.homeRead pa n) (s.memPoisoned pa n))
    else s.setAnswer (List.replicate n 0) false) := by
  show execRemoteRequest (.read pk w pa n c) s = _
  simp only [execRemoteRequest, State.remoteOk_of hr hn, hg, Bool.not_true, Bool.false_eq_true, if_false]
  cases s.remoteMay w pa <;> rfl

theorem remoteRequest_write {bs : List Byte} (hb : bs.length = n) (hw : worldAllows w (s.frameWorld pa) false = true) :
    exec (.remoteRequest (.write pk w pa bs)) s = .next { ((s.invalidate pk pa).memWrite pa bs).setAnswer [] false with dir := (s.invalidate pk pa).dir } := by
  subst hb
  show execRemoteRequest (.write pk w pa bs) s = _
  simp only [execRemoteRequest, State.remoteOk_of hr hn, hg, State.remoteMay, hw, Bool.not_true, Bool.false_eq_true, if_false]

end

theorem remoteRequest_atomic (op : Nat) (x : Word) (hr : reachOf s.pkg.id pa = .dram) (hn : pa % 128 + 4 ≤ 128) (hg : s.isWithdrawn pa = false)
    (hw : worldAllows w (s.frameWorld pa) false = true) (hp : s.memPoisoned pa 4 = false) :
    exec (.remoteRequest (.atomic pk w pa op x)) s = .next
      { ((s.invalidate pk pa).memWrite pa (leBytes 4 (atomNew op (BitVec.ofNat 32 (s.homeWord pa)) x).toNat)).setAnswer
          (leBytes 4 (BitVec.ofNat 32 (s.homeWord pa)).toNat) false with dir := (s.invalidate pk pa).dir } := by
  show execRemoteRequest (.atomic pk w pa op x) s = _
  simp only [execRemoteRequest, State.remoteOk_of hr hn, hg, State.remoteMay, hw, hp, Bool.not_true, Bool.false_eq_true, if_false]

theorem State.noteCopy_mem (s : State) (pk pa : Nat) : (pa / 128 * 128, pk) ∈ (s.noteCopy pk pa).dir := by
  unfold State.noteCopy
  dsimp only
  split
  next h => exact List.contains_iff_mem.mp h
  next => exact List.mem_cons_self

theorem State.invalidate_dir (s : State) (pk pa : Nat) (d : Nat × Nat) : d ∈ (s.invalidate pk pa).dir ↔ d ∈ s.dir ∧ (d.1 ≠ pa / 128 * 128 ∨ d.2 = pk) := by
  simp only [State.invalidate, List.mem_filter, Bool.or_eq_true, decide_eq_true_eq]

theorem leNat_lt (bs : List Byte) : leNat bs < 256 ^ bs.length := by
  induction bs with
  | nil => exact Nat.one_pos
  | cons b r ih =>
    have low := b.isLt
    rw [leNat, List.length_cons, Nat.pow_succ]
    omega

theorem State.homeWord_lt (s : State) (pa : Nat) : s.homeWord pa < 2 ^ 32 := by
  have low := leNat_lt (s.homeRead pa 4)
  rwa [show (s.homeRead pa 4).length = 4 from rfl, show (256 : Nat) ^ 4 = 2 ^ 32 from by decide] at low

theorem State.homeWord_memWrite (hn : pa % 128 + 4 ≤ 128) (hr : reachOf s.pkg.id pa = .dram) (v : Word) : (s.memWrite pa (leBytes 4 v.toNat)).homeWord pa = v.toNat := by
  have same : s.memWrite pa (leBytes 4 v.toNat) = s.homeSetWord pa v.toNat := (s.homeWrite_unheld (State.l2Held_dram hr) _ true).symm
  rw [same, State.homeWord_homeSetWord _ _ _ hn, Nat.mod_eq_of_lt v.isLt]

end

/-! ### Withdrawn exports -/

theorem State.bumpPools_keeps (s : State) (base n : Nat) : (s.bumpPools base n).pkg = s.pkg ∧ (s.bumpPools base n).mem = s.mem := by
  have step : ∀ (v : State) ix, ((v.bumpPool ix).pkg, (v.bumpPool ix).mem) = (v.pkg, v.mem) := fun v ix => by
    unfold State.bumpPool
    dsimp only
    split <;> rfl
  exact Prod.mk.inj (foldl_keeps (fun v : State => (v.pkg, v.mem)) (fun v i => step v _) _ s)

section
variable {s : State} {base n : Nat}

theorem exportWithdraw_local (hr : reachOf s.pkg.id base = .dram) : exec (.exportWithdraw base n) s = .next { s with
    pkg := { s.pkg with withdrawn := s.pkg.withdrawn ++ [(base, n)] }, dir := s.dir.filter (fun d => decide (d.1 < base) || decide (base + n ≤ d.1)) } := by
  show execExportWithdraw base n s = _
  simp only [execExportWithdraw, hr]

theorem exportWithdraw_remote {pk : Nat} (hr : reachOf s.pkg.id base = .remote pk) : ∃ t : State, exec (.exportWithdraw base n) s = .next t
    ∧ t.pkg = { s.pkg with withdrawn := s.pkg.withdrawn ++ [(base, n)] } ∧ t.mem = s.mem := by
  have run : exec (.exportWithdraw base n) s = execExportWithdraw base n s := rfl
  simp only [execExportWithdraw, hr] at run
  have told (xs : List Nat) (u : State) : (xs.foldl (fun (v : State) x => v.linkFault x 0xFF pk 0 2) u).pkg = u.pkg
      ∧ (xs.foldl (fun (v : State) x => v.linkFault x 0xFF pk 0 2) u).mem = u.mem := by
    have kept := foldl_keeps State.stores (fun (v : State) x => v.linkFault_stores x 0xFF pk 0 2) xs u
    exact ⟨congrArg Prod.fst kept, congrArg (·.2.2) kept⟩
  obtain ⟨pkg, mem⟩ := State.bumpPools_keeps { s with pkg := { s.pkg with withdrawn := s.pkg.withdrawn ++ [(base, n)] } } base n
  exact ⟨_, run, (told _ _).1.trans pkg, (told _ _).2.trans mem⟩

end

/-! ### CXL ports -/

/-- The first `n` bytes of a line brought home, where they are dirty. -/
def State.bringHome (s : State) (l : L2Line) (n : Nat) : State :=
  (List.range n).foldl (fun (u : State) i => if l.dirty.getLsbD i then u.memWrite (l.pa + i) [lineByte l.data i] else u) s

theorem State.bringHome_succ (s : State) (l : L2Line) (n : Nat) : s.bringHome l (n + 1) =
    if l.dirty.getLsbD n then (s.bringHome l n).memWrite (l.pa + n) [lineByte l.data n] else s.bringHome l n := by
  rw [State.bringHome, List.range_succ, List.foldl_append]
  rfl

theorem State.memWrite_l2 (s : State) (pa : Nat) (bs : List Byte) : (s.memWrite pa bs).l2 = s.l2 := by
  rw [State.memWrite_only]

theorem State.bringHome_l2 (s : State) (l : L2Line) (n : Nat) : (s.bringHome l n).l2 = s.l2 :=
  foldl_keeps State.l2 (fun u i => by split; exact u.memWrite_l2 _ _; rfl) _ s

theorem State.bringHome_get (s : State) (l : L2Line) (n b : Nat) : Sparse.get (s.bringHome l n).mem b =
    if l.pa ≤ b ∧ b < l.pa + n ∧ l.dirty.getLsbD (b - l.pa) = true then lineByte l.data (b - l.pa) else Sparse.get s.mem b := by
  induction n with
  | zero => exact (if_neg fun h => by omega).symm
  | succ n ih =>
    rw [State.bringHome_succ]
    by_cases here : b = l.pa + n
    · subst here
      have old : ¬(l.pa ≤ l.pa + n ∧ l.pa + n < l.pa + n ∧ l.dirty.getLsbD (l.pa + n - l.pa) = true) := by omega
      rw [if_neg old] at ih
      rw [Nat.add_sub_cancel_left]
      by_cases hd : l.dirty.getLsbD n = true
      · rw [if_pos hd, State.memWrite_get, if_pos ⟨Nat.le_refl _, Nat.lt_succ_self _⟩, if_pos ⟨Nat.le_add_right .., by omega, hd⟩, Nat.sub_self]
        rfl
      · rw [if_neg hd, ih, if_neg fun h => hd h.2.2]
    · have same : Sparse.get (if l.dirty.getLsbD n then (s.bringHome l n).memWrite (l.pa + n) [lineByte l.data n] else s.bringHome l n).mem b
          = Sparse.get (s.bringHome l n).mem b := by
        split
        · rw [State.memWrite_get, if_neg (by rw [List.length_singleton]; omega)]
        · rfl
      rw [same, ih]
      exact ite_congr (propext ⟨fun ⟨h1, h2, h3⟩ => ⟨h1, by omega, h3⟩, fun ⟨h1, h2, h3⟩ => ⟨h1, by omega, h3⟩⟩) (fun _ => rfl) (fun _ => rfl)

theorem freeBytes_length (k n : Nat) : (Config.freeBytes k n).length = n := by
  induction n generalizing k with
  | zero => rfl
  | succ n ih => rw [Config.freeBytes, List.length_cons, ih]

section
variable {s : State}

theorem State.l2Find_pa {a : Nat} {l : L2Line} (h : s.l2Find a = some l) : l.pa = a / 128 * 128 :=
  of_decide_eq_true ((Bool.and_eq_true _ _ ▸ List.find?_some h : _ ∧ _).1)

theorem State.l2Clean_drops {a : Nat} {l : L2Line} (h : s.l2Find a = some l) :
    s.l2Clean a true = { s.bringHome l 128 with l2 := s.l2.filter (fun k => decide (k.pa ≠ l.pa)) } := by
  rw [State.l2Clean, h, ← s.bringHome_l2 l 128]
  rfl

/-- A line that is not among the lines of the L2 is not found. -/
theorem State.l2Find_none {a : Nat} (h : ∀ l, l ∈ s.l2 → l.pa ≠ a / 128 * 128) : s.l2Find a = none :=
  List.find?_eq_none.mpr fun l hl both => h l hl (of_decide_eq_true (Bool.and_eq_true _ _ ▸ both : _ ∧ _).1)

/-- The peer's write leaves memory, or gives the line 128 bytes (13 R322). -/
theorem State.peerWrite_writes (s : State) (line : Nat) : (s.peerWrite line).l2 = s.l2 ∧ ((s.peerWrite line).mem = s.mem ∨ ∃ bs : List Byte, bs.length = 128
    ∧ (∀ j, j < 128 → Sparse.get (s.peerWrite line).mem (line + j) = bs.getD j 0)
    ∧ ∀ b, b < line ∨ line + 128 ≤ b → Sparse.get (s.peerWrite line).mem b = Sparse.get s.mem b) := by
  unfold State.peerWrite
  split
  · have long := freeBytes_length (s.freeCtr + 1) 128
    refine ⟨State.memWrite_l2 _ _ _, .inr ⟨_, long, fun j hj => ?_, fun b hb => ?_⟩⟩
    · rw [State.memWrite_get, if_pos (by rw [long]; omega), Nat.add_sub_cancel_left]
    · rw [State.memWrite_get, if_neg (by rw [long]; omega)]
      rfl
  · exact ⟨rfl, .inl rfl⟩

theorem cxlBackInvalidate_runs {a p : Nat} (hr : reachOf s.pkg.id a = .pooled p) :
    exec (.cxlBackInvalidate a) s = .next ((s.l2Clean (a / 128 * 128) true).peerWrite (a / 128 * 128)) := by
  show execCxlBackInvalidate a s = _
  simp only [execCxlBackInvalidate, hr]

theorem cxlPortDown_loses {p : Nat} (hp : p < 4) (hu : s.pkg.cxlUp.getD p true = true) :
    exec (.cxlPortDown p) s = .next (({ s with pkg := { s.pkg with cxlUp := s.pkg.cxlUp.set p false } } : State).cxlLost p) := by
  have up : ¬(4 ≤ p ∨ s.pkg.cxlUp.getD p true = false) := by
    rw [hu]
    exact not_or.mpr ⟨Nat.not_le.mpr hp, Bool.noConfusion⟩
  exact congrArg Host.Outcome.next (if_neg up)

end

/-- Settles O55: requests of other packages at their home, withdrawn ranges, and what a snoop and a lost CXL port drop. -/
theorem remoteSteps : Obligations.RemoteSteps := by
  unfold Obligations.RemoteSteps
  refine ⟨fun s pk w pa n hr hn hg => ⟨fun c hw => ?_, fun c hw => ?_, fun bs hb hw => ?_, fun op x h4 hw hp => ?_⟩, fun s i r h => ?_, fun s base n hr => ?_,
    fun s a p l hr hf => ?_, fun s p hp hl hu => ?_⟩
  · refine ⟨_, (remoteRequest_read hr hn hg c).trans (congrArg Host.Outcome.next (if_pos hw)), ?_⟩
    cases c
    · exact ⟨rfl, rfl, fun h => absurd h Bool.false_ne_true⟩
    · exact ⟨rfl, rfl, fun _ => State.noteCopy_mem _ pk pa⟩
  · exact ⟨_, (remoteRequest_read hr hn hg c).trans (congrArg Host.Outcome.next (if_neg (Bool.not_eq_true _ ▸ hw))), rfl, rfl⟩
  · subst hb
    refine ⟨_, remoteRequest_write hr hn hg rfl hw, fun j hj => ?_, fun b hb => ?_, s.invalidate_dir pk pa⟩
    · exact ((s.invalidate pk pa).memWrite_get pa bs (pa + j)).trans (by rw [if_pos (by omega), Nat.add_sub_cancel_left])
    · exact ((s.invalidate pk pa).memWrite_get pa bs b).trans (if_neg (by omega))
  · subst h4
    have word : (BitVec.ofNat 32 (s.homeWord pa)).toNat = s.homeWord pa := Nat.mod_eq_of_lt (s.homeWord_lt pa)
    exact ⟨_, remoteRequest_atomic op x hr hn hg hw hp, congrArg (leBytes 4) word,
      (s.invalidate pk pa).homeWord_memWrite hn hr (atomNew op (BitVec.ofNat 32 (s.homeWord pa)) x)⟩
  · show execNoRoute i s = _
    unfold execNoRoute
    dsimp only
    split
    next e => cases h.symm.trans e
    next e =>
      cases Option.some.inj (h.symm.trans e)
      rfl
  · obtain hr | ⟨pk, hr⟩ := hr
    · refine ⟨_, exportWithdraw_local hr, List.mem_append_right _ List.mem_cons_self, rfl, fun _ d => ?_⟩
      simp only [List.mem_filter, Bool.or_eq_true, decide_eq_true_eq]
    · obtain ⟨t, run, pkg, mem⟩ := exportWithdraw_remote (n := n) hr
      exact ⟨t, run, by rw [pkg]; exact List.mem_append_right _ List.mem_cons_self, mem, fun own => by rw [hr] at own; cases own⟩
  · have line : l.pa = a / 128 * 128 := (State.l2Find_pa hf).trans (by omega)
    obtain ⟨l2, wrote⟩ := (s.l2Clean (a / 128 * 128) true).peerWrite_writes (a / 128 * 128)
    have clean := State.l2Clean_drops hf
    refine ⟨_, cxlBackInvalidate_runs hr, State.l2Find_none fun k hk => ?_, _, fun j hj hd => ?_, fun b hb => ?_, wrote⟩
    · rw [l2, clean] at hk
      rw [← line]
      exact of_decide_eq_true (List.mem_filter.mp hk).2
    · rw [clean]
      exact (s.bringHome_get l 128 (l.pa + j)).trans (by rw [Nat.add_sub_cancel_left, if_pos ⟨by omega, by omega, hd⟩])
    · rw [clean]
      refine (s.bringHome_get l 128 b).trans (if_neg fun h => ?_)
      exact hb (b - l.pa) (by omega) h.2.2 (by omega)
  · have lost := ({ s with pkg := { s.pkg with cxlUp := s.pkg.cxlUp.set p false } } : State).cxlLost_stores p
    refine ⟨_, cxlPortDown_loses hp hu, ?_, fun l => ?_, congrArg (·.2.2) lost⟩
    · rw [State.cxlLost_pkg]
      exact getD_set_self false true hl
    · have l2 : (({ s with pkg := { s.pkg with cxlUp := s.pkg.cxlUp.set p false } } : State).cxlLost p).l2
          = s.l2.filter (fun k => !s.behind p k.pa) := congrArg (·.2.1) lost
      rw [l2, List.mem_filter, State.behind, Bool.not_eq_true', decide_eq_false_iff_not]

end Sys2Proof.Machine
end

section
/-! PROOF. The canonical form of memory under the shapes that the model's steps have (17 R349).

The obligation is about every step, so each function `f` that a step can call gets one lemma, `State.memOk.f`: what `f` answers
has its memory in canonical form where the state that it begins with has. A chain of calls is then a chain of lemmas: `h.f.g` is
about `(s.f …).g …`. The predicates here say the same of an outcome, of a partial result and of a fragment's turn. -/
namespace Sys2Proof.Machine

variable {s t : State}

/-- The state that an outcome goes on with, if any, has its memory in canonical form. -/
def Leaves (o : Out) : Prop := ∀ t, o = .next t → t.memOk

/-- The state in an optional result has its memory in canonical form. -/
def Gives {β : Type} (p : β → State) (o : Option β) : Prop := ∀ b, o = some b → (p b).memOk

/-- The state in a result that is no error has its memory in canonical form. -/
def Yields {ε β : Type} (p : β → State) (o : Except ε β) : Prop := ∀ b, o = .ok b → (p b).memOk

/-- What a fragment's turn goes on with has its memory in canonical form. -/
def Turns : Turned → Prop
  | .nothing => True
  | .done t => t.memOk
  | .run _ t => t.memOk

theorem Turns.of_done {r : Turned} (h : Turns r) (e : r = .done t) : t.memOk := by subst e; exact h
theorem Turns.of_run {r : Turned} {i : Instr} (h : Turns r) (e : r = .run i t) : t.memOk := by subst e; exact h

theorem State.memOk.next (h : t.memOk) : Leaves (.next t) := by rintro _ ⟨⟩; exact h
theorem Leaves.fault {r : Fault} : Leaves (.fault r) := nofun
theorem Leaves.refused {r : Refusal} : Leaves (.refused r) := nofun

section
variable {ε β : Type} {p : β → State} {b : β}

theorem Gives.some (h : (p b).memOk) : Gives p (some b) := by rintro _ ⟨⟩; exact h
theorem Gives.none : Gives p none := nofun
theorem Gives.map {γ : Type} {o : Option γ} {f : γ → β} (h : ∀ c, o = Option.some c → (p (f c)).memOk) : Gives p (o.map f) := by
  cases o with
  | none => exact nofun
  | some c => exact Gives.some (h c rfl)
theorem Gives.getD {o : Option State} (h : Gives id o) {d : State} (hd : d.memOk) : (o.getD d).memOk := by
  cases o with
  | none => exact hd
  | some u => exact h u rfl
theorem Gives.bind {o : Option State} {f : State → Option State} (h : Gives id o) (hf : ∀ u, u.memOk → Gives id (f u)) : Gives id (o.bind f) := by
  cases o with
  | none => exact nofun
  | some u => exact hf u (h u rfl)
theorem Gives.foldl {α : Type} {o : Option State} {f : State → α → Option State} {xs : List α} (h : Gives id o) (hf : ∀ u x, u.memOk → Gives id (f u x)) :
    Gives id (xs.foldl (fun o x => o.bind (fun u => f u x)) o) := by
  induction xs generalizing o with
  | nil => exact h
  | cons x r ih => exact ih (h.bind fun u => hf u x)
theorem Yields.ok (h : (p b).memOk) : Yields p (.ok b : Except ε β) := by rintro _ ⟨⟩; exact h
theorem Yields.error {e : ε} : Yields p (.error e) := nofun

end

section
variable {c : Prop} [Decidable c]

theorem State.memOk.ite {a b : State} (ha : a.memOk) (hb : b.memOk) : (if c then a else b).memOk := by split <;> assumption
theorem Leaves.ite {a b : Out} (ha : Leaves a) (hb : Leaves b) : Leaves (if c then a else b) := by split <;> assumption
theorem Gives.ite {β : Type} {p : β → State} {a b : Option β} (ha : Gives p a) (hb : Gives p b) : Gives p (if c then a else b) := by split <;> assumption
theorem Yields.ite {ε β : Type} {p : β → State} {a b : Except ε β} (ha : Yields p a) (hb : Yields p b) : Yields p (if c then a else b) := by
  split <;> assumption

end

theorem State.memOk.foldl {α : Type} {f : State → α → State} {xs : List α} (h : s.memOk) (hf : ∀ u x, u.memOk → (f u x).memOk) : (xs.foldl f s).memOk :=
  State.foldl_memOk f hf xs s h

/-- The state of a pair that a step answers. -/
theorem State.memOk.snd {α : Type} {q : α × State} {a : α} (h : q.2.memOk) (e : q = (a, t)) : t.memOk := by subst e; exact h
theorem State.memOk.fst {α : Type} {q : State × α} {a : α} (h : q.1.memOk) (e : q = (t, a)) : t.memOk := by subst e; exact h

end Sys2Proof.Machine
end

section
/-! PROOF. Memory, its levels and translation: memory stays in its canonical form (17 R349). -/
namespace Sys2Proof.Machine

variable {s : State}

/-! ### State -/

theorem State.memOk.reset : State.reset.memOk := reset_memOk

/-! ### Access -/

theorem State.memOk.setGrp {n g} (h : s.memOk) : (s.setGrp n g).memOk := (State.setGrp_pourStep ..).canon h
theorem State.memOk.modGrp {n f} (h : s.memOk) : (s.modGrp n f).memOk := (State.modGrp_pourStep ..).canon h
theorem State.memOk.setCore {c k} (h : s.memOk) : (s.setCore c k).memOk := (State.setCore_memStep ..).canon h
theorem State.memOk.modCore {c f} (h : s.memOk) : (s.modCore c f).memOk := (State.modCore_memStep ..).canon h
theorem State.memOk.setCtx {x c} (h : s.memOk) : (s.setCtx x c).memOk := h
theorem State.memOk.modCtx {x f} (h : s.memOk) : (s.modCtx x f).memOk := h.setCtx
theorem State.memOk.modDie {d f} (h : s.memOk) : (s.modDie d f).memOk := (State.modDie_memStep ..).canon h
theorem State.memOk.modLaunch {l f} (h : s.memOk) : (s.modLaunch l f).memOk := (State.modLaunch_pourStep ..).canon h
theorem State.memOk.useFree {n} (h : s.memOk) : (s.useFree n).memOk := (State.useFree_memStep ..).canon h
theorem State.memOk.memWrite {pa bs} (h : s.memOk) : (s.memWrite pa bs).memOk := (State.memWrite_memStep ..).canon h
theorem State.memOk.homeWrite {pa bs owner} (h : s.memOk) : (s.homeWrite pa bs owner).memOk := (State.homeWrite_memStep ..).canon h
theorem State.memOk.poisonMem {pa} (h : s.memOk) : (s.poisonMem pa).memOk := (State.poisonMem_memStep ..).canon h
theorem State.memOk.homeSetDword {pa v} (h : s.memOk) : (s.homeSetDword pa v).memOk := (State.homeSetDword_memStep ..).canon h
theorem State.memOk.homeSetWord {pa v} (h : s.memOk) : (s.homeSetWord pa v).memOk := (State.homeSetWord_memStep ..).canon h

/-! ### Translate -/

theorem State.memOk.traced {t} (h : s.memOk) : (s.traced t).memOk := (State.traced_memStep ..).canon h
theorem State.memOk.xCommit {core r} (h : s.memOk) : (s.xCommit core r).memOk := (State.xCommit_memStep ..).canon h

theorem State.memOk.fetchWordPa {l pa} (h : s.memOk) : (s.fetchWordPa l pa).2.memOk := by
  unfold State.fetchWordPa
  split
  · exact h
  · exact h.useFree
  · exact h.useFree

theorem State.memOk.fetchWord {g va} (h : s.memOk) : Yields Prod.snd (s.fetchWord g va) := by
  unfold State.fetchWord
  split
  · exact Yields.error
  · exact Yields.ok h.xCommit.fetchWordPa

/-! ### Memory -/

theorem State.memOk.trackPath {chain path} (h : s.memOk) : (s.trackPath chain path).memOk := (State.trackPath_memStep ..).canon h
theorem State.memOk.l1Put {core l} (h : s.memOk) : (s.l1Put core l).memOk := (State.l1Put_memStep ..).canon h
theorem State.memOk.l1Drop {core x va} (h : s.memOk) : (s.l1Drop core x va).memOk := (State.l1Drop_memStep ..).canon h
theorem State.memOk.putDirty {l} (h : s.memOk) : (s.putDirty l).memOk := (State.putDirty_memStep ..).canon h
theorem State.memOk.writeBackLine {core sup l} (h : s.memOk) : Yields id (s.writeBackLine core sup l) := fun _ e => (State.writeBackLine_memStep e).canon h
theorem State.memOk.holdLine {core l e} (h : s.memOk) : (s.holdLine core l e).memOk := (State.holdLine_memStep ..).canon h
theorem State.memOk.releaseL1 {core x sup} (h : s.memOk) : (s.releaseL1 core x sup).1.memOk := (State.releaseL1_memStep ..).canon h
theorem State.memOk.acquireL1 {core x sup} (h : s.memOk) : (s.acquireL1 core x sup).memOk := (State.acquireL1_memStep ..).canon h
theorem State.memOk.l2Touch {pa} (h : s.memOk) : (s.l2Touch pa).memOk := (State.l2Touch_memStep ..).canon h
theorem State.memOk.readGlobal {k va pa n} (h : s.memOk) : (s.readGlobal k va pa n).2.memOk := (State.readGlobal_memStep ..).canon h
theorem State.memOk.writeGlobal {k va pa bs} (h : s.memOk) : (s.writeGlobal k va pa bs).memOk := (State.writeGlobal_memStep ..).canon h
theorem State.memOk.flushLine {k va} (h : s.memOk) : (s.flushLine k va).memOk := (State.flushLine_memStep ..).canon h
theorem State.memOk.winWrite {core key bs} (h : s.memOk) : (s.winWrite core key bs).memOk := (State.winWrite_memStep ..).canon h
theorem State.memOk.poisonWin {core key} (h : s.memOk) : (s.poisonWin core key).memOk := (State.poisonWin_memStep ..).canon h
theorem State.memOk.objArrive {core key due arr} (h : s.memOk) : (s.objArrive core key due arr).memOk := (State.objArrive_memStep ..).canon h
theorem State.memOk.objLand {core key n} (h : s.memOk) : (s.objLand core key n).memOk := (State.objLand_memStep ..).canon h

/-! ### CapOps -/

theorem State.memOk.setLock {pa w} (h : s.memOk) : (s.setLock pa w).memOk := h.homeSetDword

theorem State.memOk.capDesched {gid ended} (h : s.memOk) : (s.capDesched gid ended).memOk := by
  unfold State.capDesched
  extract_lets
  split
  · split
    · exact h
    · exact .ite h.setLock.homeSetDword h
  · exact h

theorem State.memOk.homeSetWords {pa ws} (h : s.memOk) : (s.homeSetWords pa ws).memOk := by
  induction ws generalizing s pa with
  | nil => exact h
  | cons _ _ ih =>
    rw [State.homeSetWords]
    exact ih h.homeSetWord

theorem State.memOk.capAdopt {gid pa st save} (h : s.memOk) : (s.capAdopt gid pa st save).memOk := h.setLock.setGrp

theorem State.memOk.capReturn {gid} (h : s.memOk) : (s.capReturn gid).1.memOk := by
  unfold State.capReturn
  dsimp only
  split
  · exact h
  · split
    · exact h.setGrp
    · split
      · exact h.setLock
      · split
        · exact h.setGrp
        · split
          · exact h.capAdopt.acquireL1
          · exact h.setGrp

theorem State.memOk.capOutcome {o st ws} (h : s.memOk) : (s.capOutcome o st ws).memOk := .ite h.setGrp h.setGrp.acquireL1

theorem State.memOk.capFail {gid} (h : s.memOk) : (s.capFail gid).memOk := by
  unfold State.capFail
  refine State.memOk.modGrp ?_
  split
  · exact h
  · extract_lets _ u
    have hu : u.memOk := h.setLock
    split
    · split
      · exact h.setLock
      · split
        · exact hu.capOutcome
        · exact h.setLock
    · exact h

/-! ### PercRun -/

theorem State.memOk.percEnd {gid opn k0 code} (h : s.memOk) : (s.percEnd gid opn k0 code).memOk := h.setGrp.modCore

theorem State.memOk.percAfter {p x r lx lw bad} (h : s.memOk) : (s.percAfter p x r lx lw bad).memOk :=
  .ite h.setGrp.modCore (.ite (.ite h.setGrp.percEnd h.setGrp.modCore) (.ite h.setGrp.percEnd (.ite h.setGrp.percEnd h.setGrp.modCore)))

theorem State.memOk.percAdvance {core p g o x} (h : s.memOk) : (s.percAdvance core p g o x).memOk := .ite h.modCore.modGrp h.percAfter

theorem State.memOk.percStop {gid} (h : s.memOk) : (s.percStop gid).memOk := by
  unfold State.percStop
  dsimp only
  split
  · exact h
  · split
    · exact h
    · split
      · exact h
      · split
        · exact h.modCore.percAdvance
        · exact h

end Sys2Proof.Machine
end

section
/-! PROOF. The issue of instructions: memory stays in its canonical form (17 R349). -/
namespace Sys2Proof.Machine

variable {s : State}

/-! ### Ops -/

theorem State.memOk.raiseEvent {x rs} (h : s.memOk) : (s.raiseEvent x rs).memOk := (State.raiseEvent_eventStep ..).canon h
theorem State.memOk.raiseGroup {gid rs} (h : s.memOk) : (s.raiseGroup gid rs).memOk := .ite h h.releaseL1.raiseEvent.modGrp
theorem State.memOk.worldRcds {g k pc opcode fs} (h : s.memOk) : (s.worldRcds g k pc opcode fs).memOk := h.raiseEvent

theorem State.memOk.ownRead {g va} (h : s.memOk) : Gives Prod.snd (s.ownRead g va) := by
  unfold State.ownRead
  split
  · exact Gives.none
  · exact .ite (Gives.some h) (Gives.some h.xCommit.readGlobal)

theorem State.memOk.ownWrite {g va bs} (h : s.memOk) : Gives id (s.ownWrite g va bs) := by
  unfold State.ownWrite
  split
  · exact Gives.none
  · exact .ite (Gives.some h) (Gives.some h.xCommit.writeGlobal)

theorem State.memOk.writeLines {g base ds i n} (h : s.memOk) : Gives id (s.writeLines g base ds i n) := by
  induction n generalizing s i with
  | zero => exact Gives.some h
  | succ _ ih =>
    rw [State.writeLines]
    split
    · exact Gives.none
    next e => exact ih (h.ownWrite _ e)

theorem State.memOk.readDwords {g base i n} (h : s.memOk) : Gives Prod.snd (s.readDwords g base i n) := by
  induction n generalizing s i with
  | zero => exact Gives.some h
  | succ _ ih =>
    rw [State.readDwords]
    split
    · exact Gives.none
    next e => exact Gives.map fun b eb => ((ih (h.ownRead _ e)) b eb)

theorem State.memOk.target {far g a} (h : s.memOk) : (s.target far g a).2.memOk := by
  unfold State.target
  split
  · exact h
  · split
    · exact h.useFree
    next e => exact h.fetchWord _ e

theorem State.memOk.testAll {far g ts fl} (h : s.memOk) : (s.testAll far g ts fl).2.memOk := by
  induction ts generalizing s fl with
  | nil => exact h
  | cons _ _ ih =>
    rw [State.testAll]
    split
    next e => exact ih (h.target.snd e)
    next e => exact ih (h.target.snd e)
    next e => exact ih (h.target.snd e)

theorem State.memOk.vector {g cause} (h : s.memOk) : (s.vector g cause).2.memOk := by
  unfold State.vector
  extract_lets
  split
  · exact h
  · split
    · exact h
    next e =>
      split
      · exact (h.ownRead _ e)
      next e1 =>
        split
        · exact (((h.ownRead _ e).ownRead) _ e1)
        · split
          · exact (((h.ownRead _ e).ownRead) _ e1)
          · split
            next e2 => exact ((((h.ownRead _ e).ownRead) _ e1).target).snd e2
            next e2 => exact ((((h.ownRead _ e).ownRead) _ e1).target).snd e2

theorem State.memOk.commitStep {gid n o pa} (h : s.memOk) : (s.commitStep gid n o pa).memOk := by
  unfold State.commitStep
  split
  · exact .ite h.writeGlobal.homeSetWords.homeSetWord.modGrp.acquireL1 h.modGrp
  · exact .ite h.homeSetWords.homeSetWord.modGrp.acquireL1 h.modGrp

theorem State.memOk.tryCommit {gid n} (h : s.memOk) : (s.tryCommit gid n).1.memOk := by
  unfold State.tryCommit
  extract_lets
  split
  · exact h
  · split
    · exact h.modGrp
    · split
      · exact h.modGrp
      · dsimp only
        exact h.commitStep

theorem State.memOk.capStop {gid ended} (h : s.memOk) : (s.capStop gid ended).memOk := by
  unfold State.capStop
  refine State.memOk.capDesched ?_
  split
  · exact h.tryCommit
  · exact h

theorem State.memOk.takeTrap {sIn : State} {gid rs0 behind} (h : sIn.memOk) : (sIn.takeTrap gid rs0 behind).memOk := by
  unfold State.takeTrap
  extract_lets s0 more rs s g0 g1 q held dfr firsts multi s1
  have hs : s.memOk := h.percStop.capStop
  split
  · exact hs
  · extract_lets _ f cause tc fr v w s2 g2
    have hv : v.2.memOk := hs.setGrp.modCore.vector
    have hw : Gives id w := .ite (Gives.some hv) hv.writeLines
    clear_value w
    have hs2 : s2.memOk := by
      unfold s2
      split
      · exact hw _ rfl
      · exact hv
    split
    · exact hs2.setGrp
    · exact .ite hs2.setGrp.raiseGroup (.ite hs2.setGrp.raiseGroup hs2.setGrp)

theorem State.memOk.percReinject {gid i x e} (h : s.memOk) : Gives id (s.percReinject gid i x e) :=
  .ite (Gives.some h.setGrp.percEnd) (.ite Gives.none (.ite (Gives.some h.setGrp.percEnd) (Gives.some h.setGrp.modCore)))

theorem State.memOk.reinject {gid e} (h : s.memOk) : Gives id (s.reinject gid e) := by
  unfold State.reinject
  split
  · exact Gives.none
  · extract_lets
    split
    · exact Gives.none
    · split
      · exact h.percReinject
      · exact .ite (Gives.some h.setGrp) (Gives.some h.setGrp)

theorem State.memOk.reinjectAll {gid es} (h : s.memOk) : (s.reinjectAll gid es).1.memOk := by
  induction es generalizing s with
  | nil => exact h
  | cons _ _ ih =>
    rw [State.reinjectAll]
    split
    next e => exact ih (h.reinject _ e)
    · exact h

theorem State.memOk.replayTraps {gid es} (h : s.memOk) : (s.replayTraps gid es).memOk := by
  unfold State.replayTraps
  split
  · exact h
  · exact h.takeTrap

theorem State.memOk.resume {gid f} (h : s.memOk) : (s.resume gid f).memOk := by
  unfold State.resume
  refine (State.memOk.reinjectAll ?_).modGrp.replayTraps
  split
  · exact .ite h.setGrp.modGrp.capReturn.modGrp h.setGrp.modGrp.capReturn
  · exact .ite h.setGrp.capReturn.modGrp h.setGrp.capReturn

theorem State.memOk.frameNow {gid} (h : s.memOk) : (s.frameNow gid).2.memOk := by
  unfold State.frameNow
  extract_lets
  split
  · exact h
  · split
    · exact h
    · split
      · exact h
      next e => exact h.readDwords _ e

theorem State.memOk.badFrame {gid} (h : s.memOk) : (s.badFrame gid).memOk := h.raiseGroup

theorem State.memOk.retryResume {gid} (h : s.memOk) : (s.retryResume gid).memOk := by
  unfold State.retryResume
  extract_lets _ s1
  have hs1 : s1.memOk := h.acquireL1
  split
  next e => exact .ite ((hs1.frameNow.snd e).resume) (hs1.frameNow.snd e)
  next e => exact (hs1.frameNow.snd e).badFrame

theorem State.memOk.raiseIssue {cause code lanes pc faddr win opcode posted} (h : s.memOk) : (s.raiseIssue cause code lanes pc faddr win opcode posted).memOk :=
  h.takeTrap

theorem State.memOk.trapHere {cause code} (h : s.memOk) : (s.trapHere cause code).memOk := h.raiseIssue

theorem State.memOk.trapAddr {k f} (h : s.memOk) : (s.trapAddr k f).memOk := by
  unfold State.trapAddr
  refine (State.memOk.raiseGroup ?_).raiseIssue
  split
  · exact h.traced
  · exact h

theorem State.memOk.trapFetch {f pc a opcode} (h : s.memOk) : (s.trapFetch f pc a opcode).memOk := by
  unfold State.trapFetch
  exact h.useFree.raiseGroup.raiseIssue

theorem State.memOk.finish {g} (h : s.memOk) : (s.finish g).memOk := h.setGrp
theorem State.memOk.waitHere {w} (h : s.memOk) : (s.waitHere w).memOk := h.modGrp

theorem State.memOk.targetsFirst {k : State} {i g f} (h : s.memOk) (hk : k.memOk) : (s.targetsFirst i g f k).memOk := by
  unfold State.targetsFirst
  split
  next e => exact (h.testAll.snd e).trapFetch
  next e => exact (h.testAll.snd e).trapHere
  · exact hk

theorem State.memOk.issue {i act body} (h : s.memOk) (hbody : ∀ (u : State) (x : Grp) (y : Frag), u.memOk → (body u x y).memOk) : Leaves (issue i s act body) := by
  unfold Machine.issue
  extract_lets
  split
  · exact Leaves.fault
  · split
    · exact Leaves.fault
    · split
      · exact h.raiseIssue.next
      · exact h.trapHere.next
      · split
        · exact h.raiseIssue.next
        · split
          · exact h.trapHere.next
          · split
            · exact h.next
            · split
              · exact (h.targetsFirst h.capFail.trapHere).next
              · split
                · exact h.next
                · split
                  · exact (h.targetsFirst h.trapHere).next
                  · exact (hbody _ _ _ h).next

theorem State.memOk.issueF {i act f} (h : s.memOk) : Leaves (issueF i s act f) := h.issue (fun _ _ _ w => w.finish)

/-! ### Waits -/

theorem State.memOk.acquire {gid sc} (h : s.memOk) : (s.acquire gid sc).memOk := (State.acquire_memStep ..).canon h

theorem State.memOk.fetchBody {g hdr len n fuel acc bad} (h : s.memOk) : (s.fetchBody g hdr len n fuel acc bad).2.memOk := by
  induction fuel generalizing s n acc bad with
  | zero => exact h
  | succ _ ih =>
    rw [State.fetchBody]
    split
    · exact h
    · split
      · exact h
      next e =>
        extract_lets
        split
        · exact (h.fetchWord _ e)
        · exact (h.fetchWord _ e)
        · split
          · exact (h.fetchWord _ e)
          · split
            · split
              · exact (h.fetchWord _ e)
              · exact (h.fetchWord _ e)
            · exact (h.fetchWord _ e)
        · split
          · exact (h.fetchWord _ e)
          · exact (ih (h.fetchWord _ e))

theorem State.memOk.clauseLen {g hdr} (h : s.memOk) : Yields Prod.snd (s.clauseLen g hdr) := by
  unfold State.clauseLen
  split
  · exact Yields.error
  next e => exact Yields.ok (h.fetchWord _ e)

theorem State.memOk.yieldSwap {gid slot} (h : s.memOk) : (s.yieldSwap gid slot).memOk := by
  unfold State.yieldSwap
  extract_lets
  split
  · exact h.setGrp
  · exact h

theorem State.memOk.bringIn {gid n} (h : s.memOk) : (s.bringIn gid n).memOk := by
  unfold State.bringIn
  extract_lets
  split
  · split
    · exact h.setGrp
    · exact h
  · exact h

theorem State.memOk.settleGroup {gid} (h : s.memOk) : (s.settleGroup gid).memOk :=
  .ite h (.ite (.ite h.retryResume (.ite h h.setGrp)) (.ite (.ite h.bringIn.bringIn h.bringIn.bringIn.setGrp) (.ite h.bringIn.bringIn h.bringIn.bringIn.setGrp)))

theorem State.memOk.settleAll (h : s.memOk) : s.settleAll.memOk := h.foldl (fun _ _ w => .ite w.settleGroup w)

theorem State.memOk.enterClause {gid slot g f} (h : s.memOk) : (s.enterClause gid slot g f).memOk := by
  unfold State.enterClause
  extract_lets _ s0
  have h0 : s0.memOk := h
  refine .ite h0.raiseIssue ?_
  split
  · exact h0.trapFetch
  next e => exact (h0.clauseLen _ e).raiseIssue
  next e =>
    have ht := h0.clauseLen _ e
    exact .ite ht.raiseIssue (.ite ht.setGrp ht.setGrp)

theorem State.memOk.turnOf {gid slot} (h : s.memOk) : Turns (s.turnOf gid slot) := by
  unfold State.turnOf
  split
  · trivial
  · split
    · trivial
    · split
      · trivial
      · split
        · exact h.setGrp.acquire
        · split
          · split
            · trivial
            · exact h.setGrp
          · split
            · exact h.enterClause
            · extract_lets _ _ s0
              have h0 : s0.memOk := h
              split
              · exact h0.raiseIssue
              · split
                · exact h0.trapFetch
                next e => exact (h0.clauseLen _ e).raiseIssue
                next e =>
                  have ht := h0.clauseLen _ e
                  split
                  next e => exact (ht.fetchBody.snd e).trapFetch
                  next e => exact (ht.fetchBody.snd e).raiseIssue
                  next e =>
                    have hu := ht.fetchBody.snd e
                    exact hu

theorem State.memOk.clauseYield {before f} (h : s.memOk) : (s.clauseYield before f).memOk := by
  unfold State.clauseYield
  extract_lets
  split
  · split
    · exact .ite h h.yieldSwap
    · exact h
  · exact h

theorem State.memOk.capCounted {i before f} (h : s.memOk) : (s.capCounted i before f).memOk := .ite h.modGrp h
theorem State.memOk.fileUse {core gid rs ws} (h : s.memOk) : (s.fileUse core gid rs ws).memOk := .ite h h.modCore

theorem State.memOk.fileIssued {i before f} (h : s.memOk) : (s.fileIssued i before f).memOk := by
  unfold State.fileIssued
  extract_lets
  split
  · exact .ite h h.fileUse
  · exact h

theorem State.memOk.fileLanded {before : State} (h : s.memOk) : (s.fileLanded before).memOk := h.foldl (fun _ _ w => .ite w w.fileUse)
theorem State.memOk.settle (h : s.memOk) : s.settle.memOk := h.settleAll

/-! ### LaneForms -/

theorem State.memOk.issueLane3 {i x f32 fn} (h : s.memOk) : Leaves (issueLane3 i x f32 fn s) := h.issueF
theorem State.memOk.issueLane2 {i x fn} (h : s.memOk) : Leaves (issueLane2 i x fn s) := h.issueF
theorem State.memOk.issueCmp {i x f32 c} (h : s.memOk) : Leaves (issueCmp i x f32 c s) := h.issueF
theorem State.memOk.issueFcmp {i x c} (h : s.memOk) : Leaves (issueFcmp i x c s) := h.issueCmp
theorem State.memOk.issueScmp {i x c} (h : s.memOk) : Leaves (issueScmp i x c s) := h.issueF
theorem State.memOk.issueS3 {i x f32 fn} (h : s.memOk) : Leaves (issueS3 i x f32 fn s) := h.issueF

/-! ### ControlIns -/

theorem State.memOk.withTarget {far g a k} (h : s.memOk) (hk : ∀ (u : State), u.memOk → (k u).memOk) : (s.withTarget far g a k).memOk := by
  unfold State.withTarget
  split
  next e => exact hk _ (h.target.snd e)
  next e => exact (h.target.snd e).trapHere
  next e => exact (h.target.snd e).trapFetch

theorem State.memOk.jumpTo {a} (h : s.memOk) : (s.jumpTo a).memOk := h.modGrp

theorem State.memOk.execBr {x} (h : s.memOk) : Leaves (execBr x s) :=
  h.issue (fun _ _ _ w => .ite w.finish (w.withTarget (fun _ w1 => .ite w1.jumpTo (.ite w1.trapHere (.ite w1.setGrp w1.setGrp)))))

theorem State.memOk.execRcv {x} (h : s.memOk) : Leaves (execRcv x s) :=
  h.issue (fun _ _ _ w => w.withTarget (fun _ w1 => .ite w1.finish (.ite w1.trapHere w1.finish)))

theorem State.memOk.execRet {x} (h : s.memOk) : Leaves (execRet x s) := by
  unfold Machine.execRet
  refine h.issue (fun _ _ _ w => ?_)
  dsimp only
  split
  next e => exact (w.testAll.snd e).trapFetch
  next e => exact (w.testAll.snd e).trapHere
  next e =>
    split
    · exact (w.testAll.snd e).trapHere
    · split
      · exact (w.testAll.snd e)
      · exact (w.testAll.snd e).setGrp

theorem State.memOk.execYield {x} (h : s.memOk) : Leaves (execYield x s) := by
  unfold Machine.execYield
  refine h.issue (fun _ _ _ w => ?_)
  extract_lets t
  have ht : t.memOk := w.finish
  split
  · exact .ite ht ht.yieldSwap
  · exact ht

theorem State.memOk.softTrap {g f cause code} (h : s.memOk) : (s.softTrap g f cause code).memOk := h.finish.takeTrap

theorem State.memOk.execTret {x} (h : s.memOk) : Leaves (execTret x s) := by
  unfold Machine.execTret
  refine h.issue (fun _ _ _ w => ?_)
  extract_lets
  split
  · exact w.trapHere
  · split
    next e => exact (w.frameNow.snd e).modGrp.badFrame
    next e =>
      exact .ite ((w.frameNow.snd e).waitHere) (.ite (w.frameNow.snd e) ((State.memOk.ite ((w.frameNow.snd e).acquireL1) (w.frameNow.snd e)).resume))

/-! ### FloatIns -/

theorem State.memOk.issueSfu {i x} (h : s.memOk) : Leaves (issueSfu i x s) := h.issue (fun _ _ _ w => w.finish)
theorem State.memOk.issueCvtef {i x ef} (h : s.memOk) : Leaves (issueCvtef i x ef s) := h.issueF

/-! ### MatrixIns -/

theorem State.memOk.withWindows {g us k} (h : s.memOk) (hk : ∀ (u : State), u.memOk → (k u).memOk) : (s.withWindows g us k).memOk := by
  unfold State.withWindows
  split
  · exact h.trapHere
  · split
    · exact h.trapAddr
    · split
      · exact h.trapAddr
      · exact (hk _ h)

theorem State.memOk.enqueueDirect {g o} (h : s.memOk) : (s.enqueueDirect g o).memOk := h.modCore.finish

theorem State.memOk.issueDirect {i kg us slots} (h : s.memOk) : Leaves (issueDirect i kg us slots s) :=
  h.issue (fun _ _ _ w => .ite w.finish (w.withWindows (fun _ w1 => w1.enqueueDirect)))

theorem State.memOk.withHeader {g f a k} (h : s.memOk) (hk : ∀ (u : State), u.memOk → (k u).memOk) : (s.withHeader g f a k).memOk := .ite (hk _ h) h.raiseIssue

theorem State.memOk.execMmas {x} (h : s.memOk) : Leaves (execMmas x s) :=
  h.issue (fun _ _ _ w => .ite w.finish (w.withWindows (fun _ w1 => w1.withHeader (fun _ w2 => w2.enqueueDirect))))

theorem State.memOk.execMloop {x} (h : s.memOk) : Leaves (execMloop x s) :=
  h.issue (fun _ _ _ w => .ite w.finish (w.withWindows (fun _ w1 => .ite (w1.withHeader (fun _ w2 => w2.modCore.finish)) w1.modCore.finish)))

theorem State.memOk.loopEnd {core l} (h : s.memOk) : (s.loopEnd core l).memOk := h.modCore.modGrp

theorem State.memOk.takeLoop {core q l} (h : s.memOk) : (s.takeLoop core q l).memOk := by
  unfold State.takeLoop
  extract_lets
  split
  · exact h.modCore
  · extract_lets
    split
    · exact .ite h.loopEnd.modGrp h.modCore
    · exact h

theorem State.memOk.takeDirect {core q gid n} (h : s.memOk) : (s.takeDirect core q gid n).memOk := by
  unfold State.takeDirect
  extract_lets _ t
  have ht : t.memOk := h.modCore
  split
  · exact ht
  · exact ht.modCore

theorem State.memOk.takePerc {core p} (h : s.memOk) : (s.takePerc core p).memOk := h.modCore

theorem State.memOk.execMatrixUnitOperation {core} (h : s.memOk) : Leaves (execMatrixUnitOperation core s) := by
  unfold Machine.execMatrixUnitOperation
  refine State.memOk.next ?_
  extract_lets
  split
  · exact h
  · split
    · exact h
    · split
      · exact .ite h.takeDirect h.takeLoop
      · exact h.takeLoop
      · exact h.takeDirect
      · split
        · exact h.takePerc
        · exact h

theorem State.memOk.putWin {ws} (h : s.memOk) : (s.putWin ws).memOk := h.foldl (fun _ _ w => .ite w.winWrite.poisonWin.poisonWin w.winWrite)

theorem State.memOk.execMatrixOperationComplete {core} (h : s.memOk) : Leaves (execMatrixOperationComplete core s) := by
  unfold Machine.execMatrixOperationComplete
  refine State.memOk.next ?_
  dsimp only
  split
  · exact h
  · split
    · split
      · exact h.putWin.modCore.modGrp
      · exact .ite h.putWin.modCore.modGrp.loopEnd h.putWin.modCore.modGrp.modCore
    · exact .ite h.putWin.modCore.modGrp h.putWin.modCore.modGrp.modGrp

theorem State.memOk.execMloopStart {core} (h : s.memOk) : Leaves (execMloopStart core s) := by
  unfold Machine.execMloopStart
  refine State.memOk.next ?_
  extract_lets
  split
  · exact h
  · exact h.setCore

/-! ### MemOps -/

theorem State.memOk.checkLanes {g o ls acc} (h : s.memOk) : (s.checkLanes g o ls acc).2.memOk := (State.checkLanes_memStep ..).canon h
theorem State.memOk.modOp {gid n f} (h : s.memOk) : (s.modOp gid n f).memOk := h.modGrp
theorem State.memOk.raiseOp {gid n o cause fl faddr win} (h : s.memOk) : (s.raiseOp gid n o cause fl faddr win).memOk := h.modGrp

theorem State.memOk.opRelease {gid n g o sc} (h : s.memOk) : (s.opRelease gid n g o sc).memOk := by
  unfold State.opRelease
  split
  · exact h.modOp
  · split
    next e => exact (h.releaseL1.fst e).modOp
    next e => exact (h.releaseL1.fst e).raiseGroup.raiseOp

theorem State.memOk.opFaults {gid n o fs} (h : s.memOk) : (s.opFaults gid n o fs).memOk := by
  unfold State.opFaults
  extract_lets _ _ _ t
  have ht : t.memOk := h.raiseGroup
  split
  · exact h
  · exact .ite ht.modGrp ht.raiseOp

theorem State.memOk.faultPoint {gid n g o} (h : s.memOk) : (s.faultPoint gid n g o).memOk :=
  .ite (.ite ((State.memOk.ite h.checkLanes h.checkLanes.worldRcds).modOp) ((State.memOk.ite h.checkLanes h.checkLanes.worldRcds).modOp.opFaults)) ((State.memOk.ite h.checkLanes h.checkLanes.worldRcds).opFaults)

theorem State.memOk.readLoc {k va l n} (h : s.memOk) : (s.readLoc k va l n).2.memOk := (State.readLoc_memStep ..).canon h
theorem State.memOk.readWords {k va l n} (h : s.memOk) : (s.readWords k va l n).2.memOk := (State.readWords_memStep ..).canon h
theorem State.memOk.readLanes {k addr locs n} (h : s.memOk) : (s.readLanes k addr locs n).2.memOk := (State.readLanes_memStep ..).canon h
theorem State.memOk.atomLanes {k addr o locs} (h : s.memOk) : (s.atomLanes k addr o locs).2.memOk := (State.atomLanes_memStep ..).canon h
theorem State.memOk.l2Clean {pa inv} (h : s.memOk) : (s.l2Clean pa inv).memOk := (State.l2Clean_memStep ..).canon h
theorem State.memOk.maintLanes {k addr i locs} (h : s.memOk) : (s.maintLanes k addr i locs).memOk := (State.maintLanes_memStep ..).canon h

/-! ### Routes -/

theorem State.memOk.setPort {i p} (h : s.memOk) : (s.setPort i p).memOk := h
theorem State.memOk.fenceLog {die x addr kind} (h : s.memOk) : (s.fenceLog die x addr kind).memOk := h.modDie.modCtx
theorem State.memOk.answer {r} (h : s.memOk) : (s.answer r).memOk := h.modOp.fenceLog
theorem State.memOk.answerAll {rs} (h : s.memOk) : (s.answerAll rs).memOk := h.foldl (fun _ _ w => w.answer)

theorem State.memOk.goOut {gid g n o pick} (h : s.memOk) : Gives id (s.goOut gid g n o pick) := by
  unfold State.goOut
  dsimp only
  split
  · exact Gives.some h
  · split
    · refine Gives.some (h.answerAll.foldl (fun _ _ w => ?_))
      split
      · exact w.setPort
      · exact w
    · exact Gives.none

theorem State.memOk.linkFault {x port peer count reason} (h : s.memOk) : (s.linkFault x port peer count reason).memOk := h.raiseEvent

/-! ### Sampler -/

theorem State.memOk.texLane {g t l ts acc} (h : s.memOk) : (s.texLane g t l ts acc).2.memOk := by
  induction ts generalizing s acc with
  | nil => exact h
  | cons p _ ih =>
    cases p with
    | none => exact ih h
    | some p =>
      rw [State.texLane]
      split
      · exact ih h.traced
      · exact ih h.xCommit

theorem State.memOk.texLanes {g o t fr ls acc} (h : s.memOk) : (s.texLanes g o t fr ls acc).2.memOk := by
  induction ls generalizing s acc with
  | nil => exact h
  | cons _ _ ih =>
    rw [State.texLanes]
    exact ih h.texLane

theorem State.memOk.texFaultPoint {gid n g o} (h : s.memOk) : (s.texFaultPoint gid n g o).memOk := by
  unfold State.texFaultPoint
  extract_lets
  split
  · exact h.modOp
  · split
    · exact h.traced.opFaults
    · extract_lets t r _ _ _ c _ _ u
      have ht0 : t.memOk := h.xCommit
      have hr : r.2.memOk := ht0.readLoc
      have hc : c.2.memOk := by
        unfold c
        split
        · exact hr.texLanes
        · exact hr
      have hu : u.memOk := hc.useFree.worldRcds
      exact .ite ht0.opFaults (.ite hu.modOp (.ite hu.modOp.opFaults hu.opFaults))

theorem State.memOk.texResults {k o t ls} (h : s.memOk) : (s.texResults k o t ls).2.memOk := (State.texResults_memStep ..).canon h
theorem State.memOk.issueTex {i x} (h : s.memOk) : Leaves (issueTex i x s) := h.issue (fun _ _ _ w => .ite w.finish w.finish)

end Sys2Proof.Machine
end

section
/-! PROOF. Accesses, teams, the dray and roasts: memory stays in its canonical form (17 R349). -/
namespace Sys2Proof.Machine

variable {s : State}

/-! ### EvMem -/

theorem State.memOk.withOp {gid n k} (h : s.memOk) (hk : ∀ (u : Grp) (x : Op), (k u x).memOk) : (s.withOp gid n k).memOk := by
  unfold State.withOp
  split
  · exact h
  · split
    · exact h
    · exact (hk _ _)

theorem State.memOk.withDue {gid n m k} (h : s.memOk) (hk : ∀ (u : State) (x : Grp) (y : Op) (z : BitVec 32), u.memOk → (k u x y z).memOk) : (s.withDue gid n m k).memOk := by
  unfold State.withDue
  refine h.withOp (fun _ _ => ?_)
  extract_lets
  split
  · split
    · exact h
    next e => exact (h.goOut _ e).withOp (fun _ _ => (hk _ _ _ _ (h.goOut _ e)))
  · exact h

theorem State.memOk.modFrag {gid slot f} (h : s.memOk) : (s.modFrag gid slot f).memOk := h.modGrp

theorem State.memOk.execFragmentStarved {gid slot} (h : s.memOk) : Leaves (execFragmentStarved gid slot s) := by
  unfold Machine.execFragmentStarved
  refine State.memOk.next ?_
  split
  · exact h
  · exact .ite h.modFrag h

theorem State.memOk.execThrottleOverride {gid slot} (h : s.memOk) : Leaves (execThrottleOverride gid slot s) := by
  unfold Machine.execThrottleOverride
  refine State.memOk.next ?_
  split
  · exact .ite h.modFrag h
  · exact h

theorem State.memOk.arrvPoint {gid n g o} (h : s.memOk) : (s.arrvPoint gid n g o).memOk := by
  unfold State.arrvPoint
  split
  · exact h.modOp
  · exact h.opFaults

theorem State.memOk.pointOf {gid n o} (h : s.memOk) : (s.pointOf gid n o).memOk := by
  unfold State.pointOf
  split
  · exact h.texFaultPoint
  · exact h.texFaultPoint
  · exact h.arrvPoint
  · exact h.faultPoint

theorem State.memOk.opWalk {gid n g o} (h : s.memOk) : (s.opWalk gid n g o).memOk := by
  unfold State.opWalk
  extract_lets t
  have ht : t.memOk := h.opRelease
  split
  · exact h
  · split
    · exact h.pointOf
    · split
      · exact h
      · split
        · exact .ite ht ht.pointOf
        · exact ht

theorem State.memOk.opAcquire {gid o} (h : s.memOk) : (s.opAcquire gid o).memOk := .ite h.acquire h
theorem State.memOk.lanesDone {gid n o now f} (h : s.memOk) : (s.lanesDone gid n o now f).memOk := .ite h.modGrp.opAcquire h.modGrp.modOp
theorem State.memOk.countHits {k o addr locs} (h : s.memOk) : (s.countHits k o addr locs).memOk := (State.countHits_memStep ..).canon h

theorem State.memOk.execLoadCompletion {gid op} (h : s.memOk) : Leaves (execLoadCompletion gid op s) := by
  unfold Machine.execLoadCompletion
  refine (h.withDue (fun _ _ _ _ w => ?_)).next
  split
  · exact w.countHits.readLanes.lanesDone
  · exact w.countHits.readLanes.lanesDone
  · exact w.countHits.readLanes.lanesDone
  · exact w.countHits.readLanes.lanesDone
  · exact w.countHits.readLanes.lanesDone
  · exact w.countHits.readLanes.lanesDone
  · refine (w.countHits.foldl (fun _ _ w1 => ?_)).lanesDone
    split
    · exact .ite w1.l2Touch w1.readGlobal
    · exact w1
  · exact w.countHits

theorem State.memOk.storeLanes {k addr o slot locs} (h : s.memOk) : (s.storeLanes k addr o slot locs).memOk := (State.storeLanes_memStep ..).canon h

theorem State.memOk.execStorePerformed {gid op} (h : s.memOk) : Leaves (execStorePerformed gid op s) := by
  unfold Machine.execStorePerformed
  refine (h.withDue (fun _ _ _ _ w => ?_)).next
  split
  · exact w.storeLanes.lanesDone
  · exact w.storeLanes.lanesDone
  · exact w.storeLanes.lanesDone
  · exact w.storeLanes.lanesDone
  · exact w.storeLanes.lanesDone
  · exact w.storeLanes.lanesDone
  · exact w.maintLanes.lanesDone
  · exact w.maintLanes.lanesDone
  · exact w.maintLanes.lanesDone
  · exact w

theorem State.memOk.withUpward {gid n m k} (h : s.memOk) (hk : ∀ (u : State) (x : Grp) (y : Op) (z : BitVec 32), u.memOk → (k u x y z).memOk) : (s.withUpward gid n m k).memOk :=
  h.withOp (fun _ _ => h.withDue (fun _ _ _ _ w => (hk _ _ _ _ w)))

theorem State.memOk.execAtomicPerformed {gid op} (h : s.memOk) : Leaves (execAtomicPerformed gid op s) := by
  unfold Machine.execAtomicPerformed
  refine (h.withUpward (fun _ _ _ _ w => ?_)).next
  split
  · exact w.atomLanes.lanesDone
  · exact w.atomLanes.lanesDone
  · exact w.atomLanes.lanesDone
  · exact w.atomLanes.lanesDone
  · exact w

theorem State.memOk.arrvPerform {gid n o} (h : s.memOk) : (s.arrvPerform gid n o).memOk := by
  unfold State.arrvPerform
  split
  · exact h.objArrive.modGrp
  · exact h.modGrp

theorem State.memOk.arrvStart {gid n g o} (h : s.memOk) : (s.arrvStart gid n g o).memOk := by
  unfold State.arrvStart
  split
  · exact h
  · split
    · exact .ite h.arrvPerform (.ite h h)
    · exact h.arrvPerform

theorem State.memOk.execWindowAccessPerformed {gid op} (h : s.memOk) : Leaves (execWindowAccessPerformed gid op s) := by
  unfold Machine.execWindowAccessPerformed
  refine (h.withOp (fun _ _ => ?_)).next
  split
  · exact h.withUpward (fun _ _ _ _ w => w.atomLanes.lanesDone)
  · exact h.withUpward (fun _ _ _ _ w => w.atomLanes.lanesDone)
  · exact h.withDue (fun _ _ _ _ w => w.readLanes.lanesDone)
  · exact h.withDue (fun _ _ _ _ w => w.storeLanes.lanesDone)
  · exact h.withDue (fun _ _ _ _ w => w.arrvStart)
  · exact h

theorem State.memOk.execRemoteBarrierStep {i} (h : s.memOk) : Leaves (execRemoteBarrierStep i s) := by
  unfold Machine.execRemoteBarrierStep
  refine State.memOk.next ?_
  split
  · exact h
  · extract_lets t
    have ht : t.memOk := h
    exact ht.withOp (fun _ _ => ht.arrvPerform)

theorem State.memOk.ldwLand {gid n lane g o c k c2 k2} (h : s.memOk) : (s.ldwLand gid n lane g o c k c2 k2).memOk :=
  ((State.memOk.ite ((State.memOk.ite h.countHits.readWords.winWrite.poisonWin h.countHits.readWords.winWrite).poisonWin) (.ite h.countHits.readWords.winWrite.poisonWin h.countHits.readWords.winWrite)).objLand).lanesDone

theorem State.memOk.execLdwLaneLanding {gid n lane} (h : s.memOk) : Leaves (execLdwLaneLanding gid n lane s) := by
  unfold Machine.execLdwLaneLanding
  refine (h.withOp (fun _ _ => ?_)).next
  split
  · split
    · exact h
    · refine h.withDue (fun _ _ _ _ w => ?_)
      split
      · exact .ite w.lanesDone w.ldwLand
      · exact w.lanesDone
  · exact h.withDue (fun _ _ _ _ w => w.lanesDone)
  · exact h

theorem State.memOk.execSamplerCompletion {gid op} (h : s.memOk) : Leaves (execSamplerCompletion gid op s) :=
  (h.withOp (fun _ _ => .ite h (h.withDue (fun _ _ _ _ w => w.texResults.lanesDone)))).next

theorem State.memOk.fillLine {core gid line} (h : s.memOk) : (s.fillLine core gid line).memOk := by
  unfold State.fillLine
  split
  · exact h
  · exact .ite h h.modCore

theorem State.memOk.fillLines {core gid ls} (h : s.memOk) : (s.fillLines core gid ls).memOk := h.foldl (fun _ _ w => w.fillLine)

theorem State.memOk.execL1EvictionWriteback {core i} (h : s.memOk) : Leaves (execL1EvictionWriteback core i s) := by
  unfold Machine.execL1EvictionWriteback
  refine State.memOk.next ?_
  split
  · split
    · exact h.l2Clean
    · exact h
  · split
    · exact h
    · split
      · exact h
      · split
        · exact h.holdLine
        next e => exact (h.writeBackLine _ e).l1Drop.modCore

/-! ### SyncIns -/

theorem State.memOk.withRelease {g sc k} (h : s.memOk) (hk : ∀ (u : State), u.memOk → (k u).memOk) : (s.withRelease g sc k).memOk := by
  unfold State.withRelease
  extract_lets
  split
  · exact (hk _ h)
  · split
    next e => exact hk _ (h.releaseL1.fst e)
    next e => exact (h.releaseL1.fst e).raiseGroup.raiseIssue

theorem State.memOk.execFence {x} (h : s.memOk) : Leaves (execFence x s) :=
  h.issue (fun _ _ _ w => .ite (w.withRelease (fun _ w1 => (State.memOk.ite w1.acquire w1).finish)) ((State.memOk.ite w.acquire w).finish))

theorem State.memOk.waitOr {g w sc} (h : s.memOk) : (s.waitOr g w sc).memOk := by
  unfold State.waitOr
  extract_lets t
  have ht : t.memOk := by
    unfold t
    split
    · exact h.acquire
    · exact h
  exact .ite ht.finish h.waitHere

theorem State.memOk.withObject {g a k} (h : s.memOk) (hk : ∀ (u : State) (x y : Nat), u.memOk → (k u x y).memOk) : (s.withObject g a k).memOk := by
  unfold State.withObject
  split
  · exact h.trapAddr
  · exact .ite h.trapAddr (hk _ _ _ h)

theorem State.memOk.execWaitc {x} (h : s.memOk) : Leaves (execWaitc x s) := by
  unfold Machine.execWaitc
  refine h.issue (fun _ _ _ w => ?_)
  extract_lets
  split
  · split
    · exact w.trapAddr
    · split
      · exact w.trapAddr
      · exact w.xCommit.waitOr
  · exact w.finish

theorem State.memOk.setPool {core p} (h : s.memOk) : (s.setPool core p).memOk := h.modCore

theorem State.memOk.regxResize {g0 new} (h : s.memOk) : (s.regxResize g0 new).memOk :=
  .ite (.ite h.finish h.setPool.finish) (.ite h.finish (.ite h.finish h.setPool.waitHere))

theorem State.memOk.execRegx {x} (h : s.memOk) : Leaves (execRegx x s) := by
  unfold Machine.execRegx
  refine h.issue (fun _ _ _ w => ?_)
  extract_lets
  split
  · exact w.finish
  · split
    · exact w.finish
    · exact .ite w w.acquire.regxResize
    · exact w.withObject (fun _ _ _ w1 => w1.withRelease (fun _ w2 => (State.memOk.ite w2.setPool w2).objArrive.waitHere))

theorem State.memOk.execRegxGrow {gid} (h : s.memOk) : Leaves (execRegxGrow gid s) := by
  unfold Machine.execRegxGrow
  refine State.memOk.next ?_
  split
  · exact h
  · dsimp only
    split
    · exact h
    · exact .ite h h.setPool.setGrp

/-! ### Teams -/

theorem State.memOk.putRange {core v b} (h : s.memOk) : (s.putRange core v b).memOk := by
  unfold State.putRange
  extract_lets _ t
  have ht : t.memOk := h.modCore
  exact .ite ht ht

theorem State.memOk.newSplit {c x r} (h : s.memOk) : (s.newSplit c x r).memOk := h.setCore
theorem State.memOk.readySplit {c x r} (h : s.memOk) : (s.readySplit c x r).memOk := .ite h.newSplit h
theorem State.memOk.zeroWin {c key n} (h : s.memOk) : (s.zeroWin c key n).memOk := h.modCore

theorem State.memOk.addRange {c x lid team place r} (h : s.memOk) : (s.addRange c x lid team place r).memOk := by
  unfold State.addRange
  extract_lets t
  have ht : t.memOk := h.readySplit
  split
  · exact ht
  · exact ht.modCore.zeroWin

theorem State.memOk.saveArea {x as} (h : s.memOk) : (s.saveArea x as).memOk := by
  induction as generalizing s with
  | nil => exact h
  | cons _ _ ih =>
    rw [State.saveArea]
    split
    · exact h
    · split
      · exact (ih h.traced)
      · exact h.traced.modCtx

theorem State.memOk.moveOut {o} (h : s.memOk) : (s.moveOut o).memOk := by
  unfold State.moveOut
  split
  · exact h
  · exact h.modGrp.modCore.saveArea

theorem State.memOk.startTeam {lid team} (h : s.memOk) : (s.startTeam lid team).memOk := (State.startTeam_pourStep ..).canon h

theorem State.memOk.admitTeam {lid num fit} (h : s.memOk) : (s.admitTeam lid num fit).memOk := by
  unfold State.admitTeam
  extract_lets t
  have ht : t.memOk := h.foldl (fun u _ w => w.moveOut)
  split
  · exact h
  · exact (ht.foldl (fun _ _ w => w.addRange)).modLaunch.startTeam

/-! ### Dray -/

theorem State.memOk.execCopy {i x n} (h : s.memOk) : Leaves (execCopy i x n s) := by
  unfold Machine.execCopy
  refine h.issue (fun _ _ _ w => ?_)
  extract_lets
  split
  · exact w.finish
  · split
    · exact w.trapHere
    · exact w.trapAddr
    · split
      · exact w.modCore.finish
      · exact w.withRelease (fun _ w1 => w1.modCore.finish)

theorem State.memOk.sweepTeam {core launch team} (h : s.memOk) : (s.sweepTeam core launch team).memOk := .ite h h.modCore

theorem State.memOk.copyDone {core k c} (h : s.memOk) : (s.copyDone core k c).memOk := by
  unfold State.copyDone
  refine State.memOk.sweepTeam ?_
  split
  · exact h.modCore.modGrp
  · exact h.modCore

theorem State.memOk.copyRange {core c} (h : s.memOk) : Gives id (s.copyRange core c) := by
  unfold State.copyRange
  extract_lets
  split
  · exact Gives.some h
  · split
    · exact Gives.some h
    · exact Gives.map fun b _ => h.putRange.modCore

theorem State.memOk.acceptCopy {core q n} (h : s.memOk) : (s.acceptCopy core q n).memOk := by
  unfold State.acceptCopy
  extract_lets
  split
  · exact h.setCore
  · exact .ite h.setCore.modCore.modGrp.copyDone h.setCore.modCore.modGrp
  · exact .ite h.setCore.modCore.modGrp.copyDone h.setCore.modCore.modGrp

theorem State.memOk.execCopyAccept {core quarter} (h : s.memOk) : Leaves (execCopyAccept core quarter s) := by
  unfold Machine.execCopyAccept
  refine State.memOk.next ?_
  extract_lets
  split
  · exact h
  · split
    · exact h
    · split
      · exact h
      · split
        · exact h
        next e => exact (h.copyRange _ e).acceptCopy

theorem State.memOk.putCopy {core k c} (h : s.memOk) : (s.putCopy core k c).memOk := h.modCore

theorem State.memOk.copyWalk {core k} (h : s.memOk) : (s.copyWalk core k).memOk := by
  unfold State.copyWalk
  split
  · exact h
  · extract_lets
    split
    · exact h
    · split
      · exact h.putCopy
      · split
        · exact .ite h h.traced.putCopy.raiseEvent.modLaunch
        · exact .ite h.xCommit.putCopy.raiseEvent h.xCommit.putCopy

theorem State.memOk.execTranslationWalk {w} (h : s.memOk) : Leaves (execTranslationWalk w s) := by
  unfold Machine.execTranslationWalk
  refine State.memOk.next ?_
  split
  · exact h.withOp (fun _ _ => h.opWalk)
  · exact h.copyWalk

theorem State.memOk.copyOut {core c q} (h : s.memOk) : (s.copyOut core c q).memOk := by
  unfold State.copyOut
  extract_lets _ _ t
  have ht : t.memOk := h.fenceLog
  split
  · split
    · exact .ite ht ht.linkFault
    · exact ht
  · split
    · exact h.setPort
    · exact h
  · exact h

theorem State.memOk.readChunk {l} (h : s.memOk) : (s.readChunk l).2.memOk := by
  unfold State.readChunk
  split
  · exact h
  · exact h
  · exact h.l2Touch
  · exact h

theorem State.memOk.writeChunk {core c va l v} (h : s.memOk) : (s.writeChunk core c va l v).memOk := by
  unfold State.writeChunk
  split
  · exact h
  · exact h
  · exact (State.memOk.ite ((State.memOk.ite h.flushLine.homeWrite.poisonMem h.flushLine.homeWrite).poisonMem) (.ite h.flushLine.homeWrite.poisonMem h.flushLine.homeWrite)).trackPath
  · exact .ite ((State.memOk.ite h.winWrite.poisonWin h.winWrite).poisonWin) (.ite h.winWrite.poisonWin h.winWrite)

theorem State.memOk.landChunk {core c q} (h : s.memOk) : (s.landChunk core c q).memOk := by
  unfold State.landChunk
  extract_lets
  split
  · exact h.readChunk.writeChunk
  · exact h

theorem State.memOk.execCopyUnitLanding {core k q} (h : s.memOk) : Leaves (execCopyUnitLanding core k q s) := by
  unfold Machine.execCopyUnitLanding
  refine State.memOk.next ?_
  split
  · exact h
  · extract_lets _ _ t _ v
    have ht : t.memOk := (h.foldl (fun _ _ w => w.landChunk)).copyOut
    have hv : v.memOk := by
      unfold v
      split
      · split
        · exact ht.objLand
        · exact ht
      · exact ht
    exact .ite h (.ite hv.copyDone hv.putCopy)

/-! ### RoastIns -/

theorem State.memOk.pourDue {lid} (h : s.memOk) : (s.pourDue lid).memOk := (State.pourDue_pourStep ..).canon h

theorem State.memOk.sealGrid {lid ro l} (h : s.memOk) : (s.sealGrid lid ro l).memOk := by
  unfold State.sealGrid
  split
  · exact h
  · extract_lets _ t
    have ht : t.memOk := h
    exact ht.pourDue

theorem State.memOk.execFreezeG {x} (h : s.memOk) : Leaves (execFreezeG x s) := by
  unfold Machine.execFreezeG
  refine h.issue (fun _ _ _ w => ?_)
  extract_lets
  split
  · exact .ite w w.acquire.finish
  · split
    · exact w.trapHere
    · refine .ite w.trapHere (.ite w.trapHere ?_)
      split
      · exact w.trapHere
      · refine w.withRelease (fun _ w => ?_)
        extract_lets _ _ _ t
        have ht : t.memOk := w
        exact .ite ht.setGrp.waitHere ht.setGrp.sealGrid.acquire.finish

theorem State.memOk.execFreezeT {x} (h : s.memOk) : Leaves (execFreezeT x s) := by
  unfold Machine.execFreezeT
  refine h.issue (fun _ _ _ w => ?_)
  extract_lets
  split
  · exact w.trapHere
  · refine .ite w.trapHere (.ite w.trapHere (w.withRelease (fun _ w => ?_)))
    extract_lets _ _ _ t
    have ht : t.memOk := w
    exact ht.setGrp.modLaunch.pourDue.finish

theorem State.memOk.freeRoastsOnce (h : s.memOk) : s.freeRoastsOnce.memOk := .ite h h
theorem State.memOk.freeRoasts (h : s.memOk) : s.freeRoasts.memOk := h.freeRoastsOnce.freeRoastsOnce

end Sys2Proof.Machine
end

section
/-! PROOF. Groups, capsules, launches, pre-emption and queues: memory stays in its canonical form (17 R349). -/
namespace Sys2Proof.Machine

variable {s : State}

/-! ### Lifecycle -/

theorem State.memOk.launchWbRcds {core lid l ls} (h : s.memOk) : (s.launchWbRcds core lid l ls).memOk := by
  induction ls generalizing s with
  | nil => exact h
  | cons _ _ ih =>
    rw [State.launchWbRcds]
    extract_lets
    split
    · exact (ih h)
    · exact (ih h.traced.raiseEvent.modLaunch)

theorem State.memOk.launchLeaves {core lid} (h : s.memOk) : (s.launchLeaves core lid).memOk := by
  unfold State.launchLeaves
  split
  · exact h
  · exact .ite h h.releaseL1.launchWbRcds

theorem State.memOk.teamDone {lid team} (h : s.memOk) : (s.teamDone lid team).memOk := by
  unfold State.teamDone
  extract_lets u
  have hu : u.memOk := h.modLaunch
  split
  · exact h
  · split
    · exact h
    · split
      · split
        · exact .ite hu hu.homeSetDword
        · exact hu
      · exact h

theorem State.memOk.loseCalls {gid} (h : s.memOk) : (s.loseCalls gid).memOk := h

theorem State.memOk.dropGroup {gid ended} (h : s.memOk) : (s.dropGroup gid ended).memOk := by
  unfold State.dropGroup
  extract_lets t
  have ht : t.memOk := h
  split
  · exact h
  · exact ht.modCore.modDie.modLaunch.sweepTeam.launchLeaves.teamDone.freeRoasts

theorem State.memOk.endGroup {gid} (h : s.memOk) : (s.endGroup gid).memOk := h.capStop.loseCalls.dropGroup

theorem State.memOk.endLaunch {lid} (h : s.memOk) : (s.endLaunch lid).memOk := by
  unfold State.endLaunch
  split
  · exact h
  · extract_lets t u v
    have hu : u.memOk := h.modLaunch.foldl (fun _ _ w => w.endGroup)
    have hv : v.memOk := hu.foldl (fun _ _ w => (w.foldl (fun _ _ w => w.sweepTeam)).teamDone)
    exact State.memOk.freeRoasts hv

theorem State.memOk.execRetire {gid} (h : s.memOk) : Leaves (execRetire gid s) := by
  unfold Machine.execRetire
  refine State.memOk.next ?_
  extract_lets t
  have ht : t.memOk := h.dropGroup
  split
  · exact h
  · split
    · exact h
    · split
      · exact .ite ht.endLaunch ht
      · exact ht

theorem State.memOk.signal {lid} (h : s.memOk) : (s.signal lid).memOk := h.modLaunch

theorem State.memOk.threshold {lid} (h : s.memOk) : (s.threshold lid).memOk := by
  unfold State.threshold
  extract_lets
  split
  · exact h
  · exact .ite h.modLaunch.signal h

theorem State.memOk.execPark {gid} (h : s.memOk) : Leaves (execPark gid s) := by
  unfold Machine.execPark
  refine State.memOk.next ?_
  split
  · exact h
  · exact .ite h (.ite h.setGrp.capStop.threshold h.setGrp.capStop)

theorem State.memOk.bodyReturn {gid} (h : s.memOk) : (s.bodyReturn gid).1.memOk := by
  unfold State.bodyReturn
  extract_lets
  split
  · exact h
  · exact h.capReturn

theorem State.memOk.regrow {gid} (h : s.memOk) : (s.regrow gid).memOk := .ite (.ite h.setGrp.setPool h.setGrp) h

theorem State.memOk.execParkReturn {gid} (h : s.memOk) : Leaves (execParkReturn gid s) := by
  unfold Machine.execParkReturn
  refine State.memOk.next ?_
  split
  · exact h
  · split
    · exact h
    · split
      · exact h
      · exact h.setGrp.bodyReturn.regrow

theorem State.memOk.trackVa {x va} (h : s.memOk) : (s.trackVa x va).memOk := (State.trackVa_memStep ..).canon h

theorem State.memOk.completeBlock {die x sup cblk inc last} (h : s.memOk) : (s.completeBlock die x sup cblk inc last).memOk :=
  (State.completeBlock_memStep ..).canon h

theorem State.memOk.countMiss {die x q} (h : s.memOk) : (s.countMiss die x q).memOk := by
  unfold State.countMiss
  split
  · exact h.homeSetDword
  · exact h

theorem State.memOk.launcherDone {l} (h : s.memOk) : (s.launcherDone l).memOk := by
  unfold State.launcherDone
  split
  · exact h.modGrp
  · exact h

theorem State.memOk.finishLaunch {lid l last} (h : s.memOk) : (s.finishLaunch lid l last).memOk := by
  have ht : ((s.completeBlock l.die l.ctx l.r.priv l.r.cblk l.r.inc last).launcherDone l.launcher).memOk :=
    h.completeBlock.launcherDone
  unfold State.finishLaunch
  cases l.queue with
  | none => exact ht
  | some qi =>
    extract_lets _ late v
    have hv : v.memOk := .ite ht.countMiss ht
    exact hv

theorem State.memOk.execLaunchCompletion {lid} (h : s.memOk) : Leaves (execLaunchCompletion lid s) := by
  unfold Machine.execLaunchCompletion
  refine State.memOk.next ?_
  split
  · exact h
  · exact .ite h.finishLaunch h

/-! ### Capsule -/

theorem State.memOk.capTake {gid pa rcd here} (h : s.memOk) : (s.capTake gid pa rcd here).memOk := h.setLock.homeSetWord.homeSetWord.homeSetWords.setGrp

theorem State.memOk.capTry {g f rcd pa} (h : s.memOk) : (s.capTry g f rcd pa).memOk := by
  unfold State.capTry
  extract_lets
  split
  · exact h.waitHere
  · split
    next e => exact (h.testAll.snd e).trapFetch
    next e => exact (h.testAll.snd e).trapHere
    next e => exact (State.memOk.ite ((h.testAll.snd e).modGrp.capAdopt) ((h.testAll.snd e).capTake)).acquire

theorem State.memOk.capFlush {g rcd} (h : s.memOk) : (s.capFlush g rcd).memOk := h.flushLine.flushLine

theorem State.memOk.execCapb {x} (h : s.memOk) : Leaves (execCapb x s) := by
  unfold Machine.execCapb
  refine h.issue (fun _ _ _ w => ?_)
  extract_lets
  split
  · exact w.finish
  · split
    · exact w.trapAddr
    · split
      · exact w.trapAddr
      · exact .ite w.xCommit.capFlush.worldRcds.trapHere (.ite w.xCommit.capFlush.trapHere (.ite w.xCommit.capFlush.trapHere w.xCommit.capFlush.capTry))

theorem State.memOk.ownerReenter {gid g} (h : s.memOk) : (s.ownerReenter gid g).memOk := by
  unfold State.ownerReenter
  extract_lets t
  have ht : t.memOk := h.modGrp
  split
  · exact h
  · exact .ite ht.capAdopt.acquire h

theorem State.memOk.execCapbAttempt {gid} (h : s.memOk) : Leaves (execCapbAttempt gid s) := by
  unfold Machine.execCapbAttempt
  split
  · exact h.next
  · refine .ite h.ownerReenter.next ?_
    split
    · exact h.next
    · split
      · refine .ite h.next ?_
        split
        · exact h.next
        next e =>
          have hu := h.setGrp.turnOf.of_done e
          exact State.memOk.next hu
        next e =>
          have hu := h.setGrp.turnOf.of_run e
          split
          · split
            next e =>
              have hv := hu.execCapb _ e
              exact State.memOk.next hv
            · exact hu.execCapb
          · exact h.next
      · exact h.next

theorem State.memOk.execCstep {x} (h : s.memOk) : Leaves (execCstep x s) := by
  unfold Machine.execCstep
  refine h.issue (fun _ _ _ w => ?_)
  extract_lets
  split
  · split
    · exact w.trapHere
    · split
      · exact w.withRelease (fun _ w1 => w1.finish)
      · split
        · exact w.trapAddr
        · split
          · exact w.trapAddr
          · exact .ite (w.xCommit.worldRcds.withRelease (fun _ w1 => w1.finish)) (w.xCommit.withRelease (fun _ w2 => w2.finish))
  · split
    · exact w.trapHere
    · split
      · exact w.withRelease (fun _ w1 => w1.finish)
      · split
        · exact w.trapAddr
        · split
          · exact w.trapAddr
          · exact .ite (w.xCommit.worldRcds.withRelease (fun _ w1 => w1.finish)) (w.xCommit.withRelease (fun _ w2 => w2.finish))

theorem State.memOk.stepAgain {gid n o} (h : s.memOk) : Gives id (s.stepAgain gid n o) := by
  unfold State.stepAgain
  extract_lets
  split
  · split
    · exact Gives.some h.modGrp
    · split
      · exact Gives.none
      · exact Gives.some h.xCommit.modGrp
  · exact Gives.none

theorem State.memOk.stepFaults {gid n o cause} (h : s.memOk) : (s.stepFaults gid n o cause).memOk := h.modGrp

theorem State.memOk.execCstepCommit {gid n} (h : s.memOk) : Leaves (execCstepCommit gid n s) := by
  unfold Machine.execCstepCommit
  refine State.memOk.next ?_
  split
  · exact h
  · split
    · split
      · exact h
      · split
        · exact .ite h.tryCommit.stepFaults h.tryCommit
        · dsimp only
          split
          · split
            · exact h.traced.raiseGroup.modGrp
            · exact h
          next e => exact .ite ((h.stepAgain _ e).tryCommit.stepFaults) ((h.stepAgain _ e).tryCommit)
    · exact h

theorem State.memOk.capeRecord {g pa} (h : s.memOk) : (s.capeRecord g pa).memOk := by
  unfold State.capeRecord
  split
  · exact h.homeSetWords.homeSetWord.setLock
  · dsimp only
    split
    · exact h.homeSetWords.homeSetWord.setLock.capOutcome
    · exact h.homeSetWords.homeSetWord.setLock

theorem State.memOk.execCape {x} (h : s.memOk) : Leaves (execCape x s) := by
  unfold Machine.execCape
  refine h.issue (fun _ _ _ w => ?_)
  extract_lets
  split
  · exact w.modGrp
  · exact .ite w.trapHere (.ite (w.withRelease (fun _ w1 => w1.capeRecord.modGrp)) w.modGrp)

theorem State.memOk.execCres {x} (h : s.memOk) : Leaves (execCres x s) := by
  unfold Machine.execCres
  refine h.issue (fun _ _ _ w => ?_)
  extract_lets _ t
  have ht : t.memOk := w.setGrp.acquire
  split
  · exact w.finish
  · exact ht.finish

/-! ### LaunchOps -/

theorem State.memOk.preloadWords {die x r i n} (h : s.memOk) : (s.preloadWords die x r i n).2.memOk := by
  induction n generalizing s i with
  | zero => exact h
  | succ _ ih =>
    rw [State.preloadWords]
    split
    · exact h.traced
    · exact (ih h.traced.l2Touch)

theorem State.memOk.acceptRecord {a r deadlined} (h : s.memOk) : (s.acceptRecord a r deadlined).memOk := by
  unfold State.acceptRecord
  extract_lets _ _ pre t _ _ _ u v _ w _ _ _ w'
  have hpre : pre.2.memOk := by
    unfold pre
    split
    · exact h.preloadWords
    · exact h
  have ht : t.memOk := hpre
  have hu : u.memOk := ht
  have hv : v.memOk := by
    unfold v
    split
    · exact hu
    · exact hu
  have hw : w.memOk := hv
  have hw' : w'.memOk := hv
  exact .ite (.ite hw hw.finishLaunch) (.ite hw'.modDie hw')

theorem State.memOk.dropPending {die e} (h : s.memOk) : (s.dropPending die e).memOk := h.modGrp.modDie

theorem State.memOk.execLaunchAccept {die} (h : s.memOk) : Leaves (execLaunchAccept die s) := by
  unfold Machine.execLaunchAccept
  refine State.memOk.next ?_
  extract_lets
  split
  · exact h
  · exact .ite h h.dropPending.acceptRecord

theorem State.memOk.execLaunch {x} (h : s.memOk) : Leaves (execLaunch x s) := by
  unfold Machine.execLaunch
  refine h.issue (fun _ _ _ w => ?_)
  extract_lets
  split
  · exact w.finish
  · split
    · exact w.waitHere
    · split
      · exact w.trapAddr
      · split
        · exact w.trapAddr
        · refine State.memOk.withRelease ?_ (fun _ w1 => w1.finish)
          split
          · exact w.xCommit.worldRcds
          · exact w.xCommit.readGlobal

/-! ### Percolate -/

theorem State.memOk.percBegin {core p} (h : s.memOk) : (s.percBegin core p).memOk := by
  unfold State.percBegin
  extract_lets t
  have ht : t.memOk := h.modCore
  split
  · exact ht.fillLines
  · exact ht

theorem State.memOk.percPut {core p} (h : s.memOk) : (s.percPut core p).memOk := .ite h.percBegin h.setCore

theorem State.memOk.execPercStart {core} (h : s.memOk) : Leaves (execPercStart core s) := by
  unfold Machine.execPercStart
  refine State.memOk.next ?_
  extract_lets
  split
  · exact h
  · split
    · exact h
    · exact h.setCore.percBegin

theorem State.memOk.execPercIteration {core} (h : s.memOk) : Leaves (execPercIteration core s) := by
  unfold Machine.execPercIteration
  refine State.memOk.next ?_
  extract_lets
  split
  · exact h
  · split
    · exact h
    · split
      · exact h.setCore
      · refine h.withOp (fun _ _ => ?_)
        split
        · exact .ite h.percAdvance h
        · exact h

/-! ### Preempt -/

theorem State.memOk.preemptGroup {gid} (h : s.memOk) : (s.preemptGroup gid).memOk := (State.memOk.ite h.percStop.takeTrap h.percStop).capStop.setGrp
theorem State.memOk.saveCore {core lid} (h : s.memOk) : (s.saveCore core lid).memOk := h.setCore

theorem State.memOk.execCorePreempt {core lid} (h : s.memOk) : Leaves (execCorePreempt core lid s) := by
  unfold Machine.execCorePreempt
  refine State.memOk.next ?_
  extract_lets _ t
  have ht : t.memOk := h.foldl (fun u _ w => w.preemptGroup)
  split
  · exact h
  · exact .ite h ht.saveCore.launchLeaves.saveArea

theorem State.memOk.backRange {core r v} (h : s.memOk) : Gives id (s.backRange core r v) := by
  unfold State.backRange
  split
  · exact Gives.none
  · exact Gives.some h.putRange

theorem State.memOk.backSplit {core x r} (h : s.memOk) : Gives id (s.backSplit core x r) := by
  unfold State.backSplit
  extract_lets _ _ t
  have ht : t.memOk := h.newSplit
  split
  · exact .ite Gives.none (Gives.some ht.modCore)
  · exact .ite (Gives.some h.newSplit) (.ite (Gives.some h) Gives.none)

theorem State.memOk.backPut {lid b slot} (h : s.memOk) : (s.backPut lid b slot).memOk := by
  unfold State.backPut
  split
  · exact h.modGrp
  · exact h.modLaunch

theorem State.memOk.backCore {core lid l} (h : s.memOk) : Gives id (s.backCore core lid l) := by
  unfold State.backCore
  split
  · exact Gives.none
  · split
    · exact Gives.none
    next t e =>
      have ht : t.memOk := h.backSplit _ e
      extract_lets
      split
      · exact Gives.none
      next u e =>
        have hu : u.memOk := Gives.foldl (Gives.some ht) (fun _ _ w => w.backRange) _ e
        extract_lets
        split
        · exact Gives.none
        · exact Gives.some (hu.foldl fun _ _ w => w.backPut)

theorem State.memOk.backLoops {core ls} (h : s.memOk) : (s.backLoops core ls).memOk := h.modCore

theorem State.memOk.backPercs {core ps} (h : s.memOk) : (s.backPercs core ps).memOk := by
  unfold State.backPercs
  extract_lets t
  have ht : t.memOk := h.modCore
  split
  · exact h
  · exact .ite ht.modCore.percBegin ht

theorem State.memOk.backEngines {core lid} (h : s.memOk) : (s.backEngines core lid).memOk := h.setCore.backLoops.backPercs

theorem State.memOk.backGroup {gid} (h : s.memOk) : (s.backGroup gid).memOk := by
  unfold State.backGroup
  refine (State.memOk.modGrp ?_).reinjectAll.replayTraps
  split
  · exact h
  · exact h.bodyReturn

theorem State.memOk.comeBack {lid l} (h : s.memOk) : Gives id (s.comeBack lid l) :=
  .ite Gives.none (Gives.foldl (Gives.some h) fun _ _ w => w.backCore)

theorem State.memOk.execPreemptResume {lid} (h : s.memOk) : Leaves (execPreemptResume lid s) := by
  unfold Machine.execPreemptResume
  refine State.memOk.next ?_
  split
  · exact h
  · extract_lets
    split
    · exact h
    next e =>
      exact .ite h (((State.memOk.ite (((h.comeBack _ e).modLaunch.foldl (fun _ _ w => w.backEngines)).modLaunch.modDie) ((h.comeBack _ e).modLaunch.foldl (fun _ _ w1 => w1.backEngines))).foldl (fun _ _ w2 => w2.backGroup)).pourDue)

/-! ### Sched -/

theorem State.memOk.noteElig {die} (h : s.memOk) : (s.noteElig die).memOk := h.modDie
theorem State.memOk.noteAll (h : s.memOk) : s.noteAll.memOk := h.foldl (fun _ _ w => w.noteElig)

theorem State.memOk.admitted {lid die l} (h : s.memOk) : (s.admitted lid die l).memOk := by
  have ht {f} : (s.modLaunch lid f).memOk := h.modLaunch
  exact ht

theorem State.memOk.admitWhole {lid cls n} (h : s.memOk) : Gives id (s.admitWhole lid cls n) := by
  induction n generalizing s with
  | zero => exact Gives.some h
  | succ _ ih =>
    rw [State.admitWhole]
    split
    · exact Gives.none
    · split
      · exact Gives.none
      · exact (ih h.admitTeam.admitted)

theorem State.memOk.tryAdmit {lid cl l} (h : s.memOk) : Gives id (s.tryAdmit lid cl l) := .ite h.admitWhole (Gives.map fun _ _ => h.admitTeam.admitted)

theorem State.memOk.pickFrom {die cl ids} (h : s.memOk) : (s.pickFrom die cl ids).1.memOk := by
  induction ids generalizing s with
  | nil => exact h
  | cons _ _ ih =>
    rw [State.pickFrom]
    extract_lets t
    have ht : t.memOk := h.modLaunch
    split
    · exact (ih h)
    · split
      next e => exact h.tryAdmit _ e
      · split
        · exact ht.modDie
        · exact (ih ht)

theorem State.memOk.pickClasses {die cl cs} (h : s.memOk) : (s.pickClasses die cl cs).memOk := by
  induction cs generalizing s with
  | nil => exact h
  | cons _ _ ih =>
    rw [State.pickClasses]
    exact .ite h.pickFrom (ih h.pickFrom)

theorem State.memOk.deadlinePreempt {die cl} (h : s.memOk) : (s.deadlinePreempt die cl).memOk := by
  unfold State.deadlinePreempt
  dsimp only
  split
  · exact h
  · split
    · exact h
    · split
      · exact h.signal
      · exact h

theorem State.memOk.execTeamAdmission {die cl} (h : s.memOk) : Leaves (execTeamAdmission die cl s) :=
  (State.memOk.ite h h.noteAll.pickClasses.deadlinePreempt.noteAll).next

theorem State.memOk.execOperatingPointHoldEnd {die} (h : s.memOk) : Leaves (execOperatingPointHoldEnd die s) :=
  (h.foldl (fun _ _ w => w.modLaunch)).modDie.noteAll.next

theorem State.memOk.execSliceEnd {lid} (h : s.memOk) : Leaves (execSliceEnd lid s) := by
  unfold Machine.execSliceEnd
  refine State.memOk.next ?_
  split
  · exact h
  · extract_lets
    split
    · exact h
    · exact .ite h (.ite h.signal.noteAll h.modLaunch)

/-! ### Queues -/

theorem State.memOk.checkQueue {die x q pa} (h : s.memOk) : (s.checkQueue die x q pa).2.memOk := (State.checkQueue_eventStep ..).canon h

theorem State.memOk.entryBytes {k i pa} (h : s.memOk) : (s.entryBytes k i pa).2.memOk := by
  unfold State.entryBytes
  split
  · exact h
  · exact h.useFree

theorem State.memOk.setSlot {die n k} (h : s.memOk) : (s.setSlot die n k).memOk := h.modDie
theorem State.memOk.ring {x q} (h : s.memOk) : (s.ring x q).memOk := (State.ring_eventStep ..).canon h
theorem State.memOk.unbindCtx {x} (h : s.memOk) : (s.unbindCtx x).memOk := (State.unbindCtx_eventStep ..).canon h

theorem State.memOk.execDoorbell {addr val} (h : s.memOk) : Leaves (execDoorbell addr val s) := by
  unfold Machine.execDoorbell
  refine State.memOk.next ?_
  split
  · exact h
  · split
    · exact h
    · exact .ite h h.ring

theorem State.memOk.execQueueFetch {die n} (h : s.memOk) : Leaves (execQueueFetch die n s) := by
  unfold Machine.execQueueFetch
  refine State.memOk.next ?_
  extract_lets k x c t
  have ht : t.memOk := h.checkQueue
  refine .ite h (.ite ht ?_)
  extract_lets
  split
  · exact ht
  · extract_lets b r u v
    have hb : b.2.memOk := by
      unfold b
      split
      · exact ht.traced
      · exact ht.traced.entryBytes
    exact .ite ht hb.l2Touch.homeSetDword.trackVa.setSlot.acceptRecord

end Sys2Proof.Machine
end

section
/-! PROOF. Firmware, services, records and commands: memory stays in its canonical form (17 R349). -/
namespace Sys2Proof.Machine

variable {s : State}

/-! ### FwMem -/

theorem State.memOk.fwWrite {x sup va bs} (h : s.memOk) : Gives id (s.fwWrite x sup va bs) := fun _ e => (State.fwWrite_memStep e).canon h
theorem State.memOk.setPage {f p} (h : s.memOk) : (s.setPage f p).memOk := h
theorem State.memOk.msi {f v} (h : s.memOk) : (s.msi f v).memOk := h.setPage
theorem State.memOk.notified {x} (h : s.memOk) : (s.notified x).memOk := h.foldl (fun _ _ w => w.msi)

theorem State.memOk.ringPut {x base size busy bs n t} (h : s.memOk) (put : s.ringPut x base size busy bs = some (some (n, t))) : t.memOk := by
  simp only [State.ringPut] at put
  split at put
  · cases put
  · split at put
    · cases put
    · split at put
      · cases put
      next e =>
        obtain ⟨u, written, same⟩ := Option.map_eq_some_iff.mp put
        cases same
        exact (h.fwWrite _ e).fwWrite _ written

/-! ### Service -/

theorem State.memOk.requestCall {x} (h : s.memOk) : (s.requestCall x).memOk := by
  unfold State.requestCall
  extract_lets
  split
  · exact h
  · exact h.setGrp.modDie

theorem State.memOk.awaitReply {n} (h : s.memOk) : (s.awaitReply n).memOk := h.modGrp

theorem State.memOk.execSvcD {x} (h : s.memOk) : Leaves (execSvcD x s) :=
  h.issue (fun _ _ _ w => .ite w.waitHere (w.withRelease (fun _ w1 => w1.requestCall.awaitReply)))

theorem State.memOk.execSvcC {x} (h : s.memOk) : Leaves (execSvcC x s) :=
  h.issue (fun _ _ _ w => .ite w.waitHere (w.withRelease (fun _ w1 => w1.requestCall.finish)))

theorem State.memOk.takeCall {die e} (h : s.memOk) : Gives id (s.takeCall die e) := by
  unfold State.takeCall
  split
  · exact Gives.some h
  · refine Gives.ite Gives.none ?_
    split
    · exact Gives.some h
    · exact Gives.none
    next put => exact Gives.some (h.ringPut put).modDie.modCtx.notified

theorem State.memOk.callDone {w e} (h : s.memOk) : (s.callDone w e).memOk := by
  unfold State.callDone
  refine State.memOk.modLaunch ?_
  split
  · exact h.modDie
  · exact h.modCtx

theorem State.memOk.execServiceCallReply {g n} (h : s.memOk) : Leaves (execServiceCallReply g n s) := by
  unfold Machine.execServiceCallReply
  refine State.memOk.next ?_
  split
  · exact h
  · split
    · exact h
    · split
      · exact h.callDone.modGrp
      · dsimp only
        split
        · exact h
        · exact h.callDone.modGrp

theorem State.memOk.replyBlock {e status results} (h : s.memOk) : (s.replyBlock e status results).memOk := .ite h (h.fwWrite.getD h)

theorem State.memOk.execControlReply {g n status results} (h : s.memOk) : Leaves (execControlReply g n status results s) := by
  unfold Machine.execControlReply
  refine State.memOk.next ?_
  split
  · exact h
  · split
    · exact h
    · split
      · exact .ite h.callDone h.callDone.replyBlock.modGrp
      · split
        · dsimp only
          split
          · exact h
          · exact h.callDone
        · dsimp only
          split
          · exact h
          · exact h.callDone.replyBlock.modGrp

/-! ### Records -/

theorem State.memOk.groupReply {g} (h : s.memOk) : (s.groupReply g).memOk := h.modGrp
theorem State.memOk.unhold {l} (h : s.memOk) : (s.unhold l).memOk := h.modLaunch

theorem State.memOk.retry {r} (h : s.memOk) : (s.retry r).memOk := by
  unfold State.retry
  split
  · exact h.groupReply
  · split
    · exact h
    · exact h.modCore.unhold
  · split
    · exact h
    · dsimp only
      split
      · exact h.unhold
      · split
        next e => exact (h.unhold.writeBackLine _ e).l1Put
        · exact h.unhold.launchWbRcds
  · exact h

theorem State.memOk.discardLine {core x va r} (h : s.memOk) : (s.discardLine core x va r).memOk := by
  have ht : (s.l1Drop core x va).memOk := h.l1Drop
  exact ht

theorem State.memOk.dropDenied {r} (h : s.memOk) : (s.dropDenied r).memOk := .ite h.discardLine h

theorem State.memOk.endRecord {r} (h : s.memOk) : (s.endRecord r).memOk := by
  unfold State.endRecord
  split
  · split
    · exact h
    · exact h.groupReply.dropDenied.endLaunch
  · split
    · exact h
    · exact h.modCore.unhold.endLaunch
  · split
    · exact h
    · exact h.discardLine.unhold
  · exact h

theorem State.memOk.noRing {r} (h : s.memOk) : (s.noRing r).memOk := by
  unfold State.noRing
  extract_lets
  split
  · exact h
  · exact h.endRecord

theorem State.memOk.postTo {fuel c r} (h : s.memOk) : (s.postTo fuel c r).memOk := by
  induction fuel generalizing s c r with
  | zero => exact h.noRing
  | succ _ ih =>
    rw [State.postTo]
    refine .ite (.ite h.noRing (ih h)) (.ite h.modCtx ?_)
    split
    · exact .ite h.modCtx.noRing (ih h.modCtx)
    · exact h.modCtx
    next e => exact (h.ringPut e).modCtx.notified

theorem State.memOk.postBacklog {c} (h : s.memOk) : (s.postBacklog c).memOk := h.modCtx.foldl (fun _ _ w => w.postTo)
theorem State.memOk.dropRecord {i} (h : s.memOk) : (s.dropRecord i).memOk := h

theorem State.memOk.postRecord {i} (h : s.memOk) : (s.postRecord i).memOk := by
  unfold State.postRecord
  split
  · exact h
  · exact .ite h h.dropRecord.postTo

theorem State.memOk.takeReply {c slot act} (h : s.memOk) (hact : ∀ (u : State), u.memOk → (act u).memOk) : (s.takeReply c slot act).memOk :=
  (hact _ ((h.fwWrite.getD h).modCtx)).postBacklog

theorem State.memOk.execRetryReply {c slot} (h : s.memOk) : Leaves (execRetryReply c slot s) := by
  unfold Machine.execRetryReply
  refine State.memOk.next ?_
  split
  · exact h.takeReply (fun _ w => w.retry)
  · exact h

theorem State.memOk.execEndReply {c slot} (h : s.memOk) : Leaves (execEndReply c slot s) := by
  unfold Machine.execEndReply
  refine State.memOk.next ?_
  split
  · exact h.takeReply (fun _ w => w.endRecord)
  · exact h

theorem State.memOk.execPassReply {c slot} (h : s.memOk) : Leaves (execPassReply c slot s) := by
  unfold Machine.execPassReply
  refine State.memOk.next ?_
  split
  · exact h.takeReply (fun _ w => .ite w (.ite w.noRing w))
  · exact h

/-! ### Fence -/

theorem State.memOk.signalAll {xs} (h : s.memOk) : (s.signalAll xs).memOk := h.foldl (fun _ _ w => w.signal)
theorem State.memOk.flushCtxs {xs} (h : s.memOk) : (s.flushCtxs xs).memOk := h.foldl (fun _ _ w => w.foldl (fun _ _ w => w.releaseL1))
theorem State.memOk.dropEntries {f} (h : s.memOk) : (s.dropEntries f).memOk := h
theorem State.memOk.bumpCtx {x} (h : s.memOk) : (s.bumpCtx x).memOk := (State.memOk.ite h.dropEntries h).modCtx
theorem State.memOk.zeroRanges {rs} (h : s.memOk) : (s.zeroRanges rs).memOk := s.zeroRanges_memOk _ h
theorem State.memOk.settleLines {rs mine} (h : s.memOk) : (s.settleLines rs mine).memOk := h.foldl (fun _ _ w => (w.foldl (fun _ _ w => w.putDirty.l1Put)).modCore)

theorem State.memOk.isolate {xs} (h : s.memOk) : (s.isolate xs).memOk := by
  unfold State.isolate
  extract_lets t u
  have ht : t.memOk := h.signalAll.foldl (fun _ _ w => w.modCtx)
  have hu : u.memOk := ht.dropEntries
  exact hu

theorem State.memOk.answerFabric {xs} (h : s.memOk) : (s.answerFabric xs).memOk := h.answerAll

theorem State.memOk.zeroWindows {xs} (h : s.memOk) : (s.zeroWindows xs).memOk :=
  h.foldl (fun _ _ w => (State.memOk.ite ((w.foldl (fun _ _ w => w.zeroWin)).zeroWin) (w.foldl (fun _ _ w1 => w1.zeroWin))).modCore)

theorem State.memOk.wipeCtx {x xs more} (h : s.memOk) : (s.wipeCtx x xs more).memOk := h.settleLines.zeroRanges.zeroWindows

theorem State.memOk.reinit {xs free} (h : s.memOk) : (s.reinit xs free).memOk := by
  unfold State.reinit
  extract_lets _ _ _ _ t u
  have ht : t.memOk := h
  exact .ite ((ht.foldl (fun _ _ w => w.unbindCtx.modCtx)).foldl (fun _ _ w => w.bumpCtx)) (ht.foldl (fun _ _ w => w.modCtx))

theorem State.memOk.completeQueued {xs} (h : s.memOk) : (s.completeQueued xs).memOk := h.foldl (fun _ _ w => w.completeBlock)

theorem State.memOk.fenceReset {x free more} (h : s.memOk) : (s.fenceReset x free more).memOk :=
  ((State.memOk.ite ((h.foldl (fun _ _ w => w.capStop)).answerFabric.flushCtxs.completeQueued) ((h.foldl (fun _ _ w => w.capStop)).answerFabric.flushCtxs)).wipeCtx).reinit

theorem State.memOk.childRcd {x w parent} (h : s.memOk) : (s.childRcd x w parent).memOk := h.raiseEvent
theorem State.memOk.zeroClusters {m} (h : s.memOk) : (s.zeroClusters m).memOk := h.foldl (fun _ _ w => .ite w.zeroWin w)

theorem State.memOk.resetCtx {x free} (h : s.memOk) : (s.resetCtx x free).memOk := by
  unfold State.resetCtx
  extract_lets
  split
  · exact h.fenceReset
  · extract_lets t _ u
    have ht : t.memOk := h.fenceReset.zeroClusters
    have hu : u.memOk := .ite ht ht
    exact hu.childRcd

theorem State.memOk.errIsolate {x w} (h : s.memOk) : (s.errIsolate x w).memOk := h.isolate.modCtx

theorem State.memOk.execErrorFence {x} (h : s.memOk) : Leaves (execErrorFence x s) := by
  unfold Machine.execErrorFence
  refine State.memOk.next ?_
  extract_lets
  split
  · exact h
  · split
    · exact h.errIsolate
    · split
      · exact h
      · exact .ite h (.ite h.resetCtx h.resetCtx.childRcd)

theorem State.memOk.clearFrames {rs} (h : s.memOk) : (s.clearFrames rs).memOk := (h.settleLines.foldl (fun _ _ w => w.modCore)).dropEntries
theorem State.memOk.leaveWorlds (h : s.memOk) : s.leaveWorlds.memOk := .ite h h.clearFrames.zeroRanges

/-! ### Commands -/

theorem State.memOk.addCmd {c} (h : s.memOk) : (s.addCmd c).memOk := h

theorem State.memOk.execDcmd {x} (h : s.memOk) : Leaves (execDcmd x s) := by
  unfold Machine.execDcmd
  refine h.issue (fun _ _ _ w => ?_)
  extract_lets
  split
  · exact w.finish
  · split
    · exact w.trapAddr
    · split
      · exact w.trapAddr
      · refine State.memOk.withRelease ?_ (fun _ w1 => w1.finish.addCmd)
        split
        · exact w.xCommit.worldRcds
        · exact w.xCommit.readGlobal

theorem State.memOk.execHostCommandGo {fn} (h : s.memOk) : Leaves (execHostCommandGo fn s) := by
  unfold Machine.execHostCommandGo
  refine State.memOk.next ?_
  extract_lets
  split
  · exact h
  · split
    · exact h
    · exact h.setPage
    · exact h.addCmd

theorem State.memOk.cmdDone {i c status results} (h : s.memOk) : (s.cmdDone i c status results).memOk := by
  unfold State.cmdDone
  extract_lets _ t
  have ht : t.memOk := h
  split
  · refine State.memOk.modGrp ?_
    split
    · exact h
    · exact ht.foldl (fun _ _ w => w.fwWrite.getD w)
  · exact ht.setPage.msi
  · exact ht

theorem State.memOk.acceptCmd {i} (h : s.memOk) : (s.acceptCmd i).memOk := by
  unfold State.acceptCmd
  split
  · exact h
  next c _ =>
    refine .ite h ?_
    cases c.src with
    | none =>
      extract_lets _ _ t u
      have hu : u.memOk := h
      exact .ite hu.cmdDone hu
    | some b =>
      extract_lets _ _ t u
      have hu : u.memOk := h.modGrp
      exact .ite hu.cmdDone hu

theorem State.memOk.onCmd {i pick body} (h : s.memOk) (hbody : ∀ (u : Cmd), (body u).memOk) : Leaves (onCmd i pick s body) := by
  unfold Machine.onCmd
  refine State.memOk.next ?_
  split
  · exact h
  · exact .ite (hbody _) h

theorem State.memOk.checked {k : State} {i c valid target state} (h : s.memOk) (hk : k.memOk) : (s.checked i c valid target state k).memOk :=
  .ite hk (.ite h.cmdDone (.ite h.cmdDone (.ite h.cmdDone hk)))

theorem State.memOk.beginCmd {i c} (h : s.memOk) : (s.beginCmd i c).memOk := h

theorem State.memOk.execCreate {i} (h : s.memOk) : Leaves (execCreate i s) := by
  unfold Machine.execCreate
  refine h.onCmd (fun _ => h.checked ?_)
  extract_lets
  split
  · exact h.cmdDone
  · exact .ite h.cmdDone h.bumpCtx.modCtx.cmdDone

theorem State.memOk.execGrantCore {i} (h : s.memOk) : Leaves (execGrantCore i s) :=
  h.onCmd (fun _ => h.checked (.ite h.cmdDone (.ite h.cmdDone h.modCtx.noteAll.cmdDone)))

theorem State.memOk.settleCut {x} (h : s.memOk) : (s.settleCut x).memOk := by
  unfold State.settleCut
  refine h.foldl (fun t _ w => ?_)
  split
  · exact w
  · refine .ite w (.ite ?_ w.modLaunch)
    extract_lets _ u
    have hu : u.memOk := .ite w w
    exact hu.modLaunch

theorem State.memOk.execFreeze {i} (h : s.memOk) : Leaves (execFreeze i s) :=
  h.onCmd (fun _ => h.checked (.ite h.signalAll.modCtx.beginCmd (.ite h.flushCtxs.cmdDone h)))

theorem State.memOk.joinWorld {x fs} (h : s.memOk) : (s.joinWorld x fs).memOk := .ite h (h.clearFrames.foldl (fun _ _ w => w))
theorem State.memOk.grantMemory {c pa} (h : s.memOk) : (s.grantMemory c pa).memOk := .ite h.modCtx.bumpCtx.modCtx h.modCtx

theorem State.memOk.execGrantMem {i} (h : s.memOk) : Leaves (execGrantMem i s) := by
  unfold Machine.execGrantMem
  refine h.onCmd (fun _ => h.checked ?_)
  split
  · exact h.cmdDone
  · exact h.cmdDone
  · extract_lets t
    have ht : t.memOk := h.grantMemory
    split
    · exact ht.cmdDone
    · split
      · exact h.cmdDone
      · exact ht.leaveWorlds.joinWorld.cmdDone

theorem State.memOk.execSetHandler {i} (h : s.memOk) : Leaves (execSetHandler i s) :=
  h.onCmd (fun _ => h.checked ((State.memOk.ite ((State.memOk.ite h.modCtx h).modCtx) (.ite h.modCtx h)).cmdDone))

theorem State.memOk.harvest {x b w n} (h : s.memOk) : Gives Prod.snd (s.harvest x b w n) := by
  induction n generalizing s w with
  | zero => exact Gives.some h
  | succ _ ih =>
    rw [State.harvest]
    split
    · exact Gives.none
    · exact Gives.map fun b1 eb => ((ih (.ite h.traced h.traced.homeSetDword)) b1 eb)

theorem State.memOk.execDirtyscan {i} (h : s.memOk) : Leaves (execDirtyscan i s) := by
  unfold Machine.execDirtyscan
  refine h.onCmd (fun _ => h.checked ?_)
  split
  · exact h.cmdDone
  · split
    · exact h.cmdDone
    next e =>
      split
      · exact h.cmdDone
      next e1 => exact (((h.harvest _ e).fwWrite) _ e1).cmdDone

theorem State.memOk.execQuery {i} (h : s.memOk) : Leaves (execQuery i s) := by
  unfold Machine.execQuery
  refine h.onCmd (fun _ => h.checked ?_)
  split
  · exact h.cmdDone
  next e => exact (h.fwWrite _ e).cmdDone

theorem State.memOk.setVf {f x} (h : s.memOk) : (s.setVf f x).memOk := h
theorem State.memOk.moveVf {i c dest} (h : s.memOk) : (s.moveVf i c dest).memOk := h.checked (.ite h.setVf.cmdDone h.cmdDone)
theorem State.memOk.partChecked {k : State} {i c state} (h : s.memOk) (hk : k.memOk) : (s.partChecked i c state k).memOk := h.checked hk

theorem State.memOk.execBindPartition {i} (h : s.memOk) : Leaves (execBindPartition i s) := by
  unfold Machine.execBindPartition
  refine h.onCmd (fun _ => h.partChecked ?_)
  split
  · exact h.cmdDone
  · refine .ite h.cmdDone (.ite h.cmdDone (State.memOk.cmdDone (State.memOk.modCtx ?_)))
    exact h

theorem State.memOk.unbindPart {t p} (h : s.memOk) : (s.unbindPart t p).memOk := by
  unfold State.unbindPart
  refine State.memOk.modCtx ?_
  extract_lets
  split
  · exact h
  · exact h

theorem State.memOk.execBindPartitionUnbind {i} (h : s.memOk) : Leaves (execBindPartitionUnbind i s) :=
  h.onCmd (fun _ => h.partChecked (.ite h.isolate.beginCmd (.ite h.resetCtx.unbindPart.cmdDone h)))

theorem State.memOk.execBindPartitionReset {i} (h : s.memOk) : Leaves (execBindPartitionReset i s) :=
  h.onCmd (fun _ => h.partChecked (.ite h.isolate.beginCmd (.ite h.resetCtx.cmdDone h)))

theorem State.memOk.wrapIndex {ix} (h : s.memOk) : (s.wrapIndex ix).memOk := by
  unfold State.wrapIndex
  refine (h.foldl (fun _ _ w => w.foldl (fun _ _ w1 => ?_))).dropEntries
  split
  next e => exact (w1.writeBackLine _ e).l1Drop
  · exact w1.holdLine

theorem State.memOk.bumpRegions {x va n} (h : s.memOk) : (s.bumpRegions x va n).memOk := h.foldl (fun _ _ w => .ite w (.ite w.wrapIndex w))

theorem State.memOk.bumped {c va n all} (h : s.memOk) : (s.bumped c va n all).memOk := by
  unfold State.bumped
  extract_lets t
  have ht : t.memOk := .ite h h
  exact .ite ht.modCtx ht

theorem State.memOk.genbump {i c} (h : s.memOk) : (s.genbump i c).memOk :=
  h.checked (.ite ((State.memOk.ite h.bumpCtx h).bumpRegions.beginCmd) (.ite h.bumped.cmdDone h))

theorem State.memOk.execJournalRecopy {i die} (h : s.memOk) : Leaves (execJournalRecopy i die s) := by
  unfold Machine.execJournalRecopy
  refine State.memOk.next ?_
  extract_lets
  split
  · exact h
  · split
    · exact .ite h h
    · exact .ite h h

/-! ### Images -/

theorem State.memOk.execCheckpoint {i} (h : s.memOk) : Leaves (execCheckpoint i s) := by
  unfold Machine.execCheckpoint
  refine h.onCmd (fun _ => h.checked (.ite h.beginCmd (.ite h.cmdDone ?_)))
  extract_lets n
  split
  · exact h.cmdDone
  next u e =>
    have hu : u.memOk := h.fwWrite _ e
    extract_lets _ v
    have hv : v.memOk := hu
    exact (State.memOk.ite hv.modCtx hv).cmdDone

theorem State.memOk.takeOver {lid} (h : s.memOk) : (s.takeOver lid).memOk := by
  unfold State.takeOver
  split
  · exact h
  · split
    · exact h
    · exact h

theorem State.memOk.install {im m recov} (h : s.memOk) : (s.install im m recov).memOk := by
  unfold State.install
  extract_lets _ _ _ _ _ _ t u v
  have ht : t.memOk := h
  have hv : v.memOk := (ht.foldl (fun _ _ w => w.modCore)).foldl (fun _ _ w => w.modCtx)
  exact hv.foldl (fun _ _ w => w.takeOver)

theorem State.memOk.execRestore {i} (h : s.memOk) : Leaves (execRestore i s) := by
  unfold Machine.execRestore
  refine h.onCmd (fun _ => h.checked ?_)
  split
  · exact h.cmdDone
  · exact .ite h.cmdDone h.install.cmdDone

end Sys2Proof.Machine
end

section
/-! PROOF. The package: memory stays in its canonical form (17 R349). -/
namespace Sys2Proof.Machine

variable {s : State}

/-! ### Fabric -/

theorem State.memOk.errorLog {die p} (h : s.memOk) : (s.errorLog die p).memOk := h.modDie.msi
theorem State.memOk.portAnswers {i reason} (h : s.memOk) : (s.portAnswers i reason).memOk := h.answerAll.foldl (fun _ _ w => w.linkFault)

theorem State.memOk.execFlitReceive {i seq tagOk} (h : s.memOk) : Leaves (execFlitReceive i seq tagOk s) :=
  (State.memOk.ite h (.ite h.setPort (.ite h (.ite (.ite h h.setPort) (.ite h.setPort.useFree h.portAnswers.setPort))))).next

theorem State.memOk.nackAt {i seq} (h : s.memOk) : (s.nackAt i seq).memOk := by
  unfold State.nackAt
  extract_lets
  split
  · exact .ite h.setPort h
  · exact .ite h.setPort h.setPort

theorem State.memOk.execAckTimeout {i} (h : s.memOk) : Leaves (execAckTimeout i s) := by
  unfold Machine.execAckTimeout
  refine State.memOk.next ?_
  split
  · split
    · exact h.nackAt
    · exact h
  · exact h

theorem State.memOk.execLinkTrained {i} (h : s.memOk) : Leaves (execLinkTrained i s) := by
  unfold Machine.execLinkTrained
  refine State.memOk.next ?_
  extract_lets
  split
  · exact h
  · split
    · exact h.setPort
    · exact h.setPort
    · exact h

theorem State.memOk.portKeys {i key} (h : s.memOk) : (s.portKeys i key).memOk := .ite h (.ite h.setPort (.ite h.setPort h.setPort.errorLog))

theorem State.memOk.execKeyExchange {port sess key} (h : s.memOk) : Leaves (execKeyExchange port sess key s) := by
  unfold Machine.execKeyExchange
  refine State.memOk.next ?_
  extract_lets
  split
  · exact h.portKeys
  · exact .ite h h
  · exact h

theorem State.memOk.setAnswer {bs poison} (h : s.memOk) : (s.setAnswer bs poison).memOk := h
theorem State.memOk.invalidate {pk pa} (h : s.memOk) : (s.invalidate pk pa).memOk := h
theorem State.memOk.noteCopy {pk pa} (h : s.memOk) : (s.noteCopy pk pa).memOk := h

theorem State.memOk.execRemoteRequest {r} (h : s.memOk) : Leaves (execRemoteRequest r s) := by
  have written {pk pa bs} : ((s.invalidate pk pa).memWrite pa bs).memOk := h.invalidate.memWrite
  unfold Machine.execRemoteRequest
  refine State.memOk.next ?_
  split
  · exact .ite h (.ite h.setAnswer.fenceLog (.ite h.setAnswer (.ite h.setAnswer.noteCopy h.setAnswer)))
  · exact .ite h (.ite h.setAnswer.fenceLog (.ite h.setAnswer written))
  · exact .ite h (.ite h.setAnswer.fenceLog (.ite h.setAnswer (.ite h.setAnswer written)))

theorem State.memOk.execNoRoute {i} (h : s.memOk) : Leaves (execNoRoute i s) := by
  unfold Machine.execNoRoute
  refine State.memOk.next ?_
  extract_lets
  split
  · exact h
  · exact h.answer.linkFault

theorem State.memOk.bumpPool {ix} (h : s.memOk) : (s.bumpPool ix).memOk := .ite h h
theorem State.memOk.bumpPools {base n} (h : s.memOk) : (s.bumpPools base n).memOk := h.foldl (fun _ _ w => w.bumpPool)

theorem State.memOk.execExportWithdraw {base n} (h : s.memOk) : Leaves (execExportWithdraw base n s) := by
  unfold Machine.execExportWithdraw
  refine State.memOk.next ?_
  extract_lets _ t
  have ht : t.memOk := h
  split
  · exact ht.bumpPools.foldl (fun _ _ w => w.linkFault)
  · exact h
  · exact h.bumpPools
  · exact h

theorem State.memOk.peerWrite {line} (h : s.memOk) : (s.peerWrite line).memOk := .ite h.useFree.memWrite h.useFree

theorem State.memOk.execCxlBackInvalidate {addr} (h : s.memOk) : Leaves (execCxlBackInvalidate addr s) := by
  unfold Machine.execCxlBackInvalidate
  refine State.memOk.next ?_
  split
  · exact h.l2Clean.peerWrite
  · exact h

theorem State.memOk.cxlLost {p} (h : s.memOk) : (s.cxlLost p).memOk := by
  unfold State.cxlLost
  extract_lets _ t _ u w
  have hu : u.memOk := h.answerAll.foldl (fun _ _ w => w.fenceLog)
  have hw : w.memOk := hu
  exact hw.foldl (fun _ _ w => w.linkFault)

theorem State.memOk.execCxlPortDown {p} (h : s.memOk) : Leaves (execCxlPortDown p s) := by
  unfold Machine.execCxlPortDown
  refine State.memOk.next (.ite h (State.memOk.cxlLost ?_))
  exact h

/-! ### Trust -/

theorem State.memOk.cold {b l} : (s.cold b l).memOk := State.memOk.reset

theorem State.memOk.execLifeCycleChange {code} (h : s.memOk) : Leaves (execLifeCycleChange code s) := by
  unfold Machine.execLifeCycleChange
  refine State.memOk.next ?_
  split
  · exact h
  · split
    · exact .ite State.memOk.cold h
    · exact h

theorem State.memOk.spdmAnswer {bs} (h : s.memOk) : (s.spdmAnswer bs).memOk := .ite h h

theorem State.memOk.execIdeKm {stream key} (h : s.memOk) : Leaves (execIdeKm stream key s) := by
  unfold Machine.execIdeKm
  exact State.memOk.next (.ite h h)

theorem State.memOk.execIdeIntegrityFailure {stream} (h : s.memOk) : Leaves (execIdeIntegrityFailure stream s) := by
  unfold Machine.execIdeIntegrityFailure
  refine State.memOk.next (.ite h ?_)
  extract_lets _ t
  have ht : t.memOk := h
  exact .ite ht.cxlLost ht

theorem State.memOk.measured {offset} (h : s.memOk) : (s.measured offset).memOk := h

theorem State.memOk.execClockLockChange {lock} (h : s.memOk) : Leaves (execClockLockChange lock s) := by
  unfold Machine.execClockLockChange
  refine State.memOk.next (.ite h (State.memOk.msi ?_))
  exact h

theorem State.memOk.execTctlWrite {val} (h : s.memOk) : Leaves (execTctlWrite val s) := by
  unfold Machine.execTctlWrite
  exact State.memOk.next (.ite h h)

theorem State.memOk.execDramCrcRetry {addr fails} (h : s.memOk) : Leaves (execDramCrcRetry addr fails s) :=
  (State.memOk.ite h ((h.foldl (fun _ _ w => w.poisonMem)).errorLog)).next

theorem State.memOk.poisonRoast {ro k n} (h : s.memOk) : (s.poisonRoast ro k n).memOk := by
  unfold State.poisonRoast
  split
  · exact h
  · split
    · exact h
    · exact h

theorem State.memOk.poisonTemplate {ro place w} (h : s.memOk) : (s.poisonTemplate ro place w).memOk := by
  unfold State.poisonTemplate
  split
  · exact h
  · exact .ite h h

theorem State.memOk.setError {n} (h : s.memOk) : (s.setError n).memOk := by
  unfold State.setError
  split
  · exact .ite h.errIsolate h
  · exact h

theorem State.memOk.execUncorrectableError {p} (h : s.memOk) : Leaves (execUncorrectableError p s) := by
  unfold Machine.execUncorrectableError
  refine State.memOk.next ?_
  split
  · exact .ite h.poisonMem.errorLog h
  · exact .ite h.poisonWin.errorLog h
  · split
    · exact .ite h.modGrp.errorLog h
    · exact h
  · exact h.poisonRoast.errorLog
  · exact h.poisonTemplate.errorLog
  · exact .ite h.errorLog.setError h
  · exact h

theorem State.memOk.execServiceCoreCacheError {die ctx} (h : s.memOk) : Leaves (execServiceCoreCacheError die ctx s) := by
  unfold Machine.execServiceCoreCacheError
  refine State.memOk.next ?_
  extract_lets t
  have ht : t.memOk := h.errorLog
  split
  · exact h
  · split
    · exact .ite ht ht.errIsolate
    · exact ht.modDie.useFree

/-! ### HostPort -/

theorem State.memOk.physWrite {x w ps bs poisoned} (h : s.memOk) : (s.physWrite x w ps bs poisoned).1.memOk := s.physWrite_memOk _ _ _ _ _ h
theorem State.memOk.hostWorld {x a write} (h : s.memOk) : (s.hostWorld x a write).memOk := h.raiseEvent

theorem State.memOk.barRead {fn o} (h : s.memOk) : (s.barRead fn o).memOk :=
  State.memOk_of_mem (by simp only [State.barRead, apply_ite State.mem, ite_self]) h

theorem State.memOk.execHostMemoryRead {fn a n} (h : s.memOk) : Leaves (execHostMemoryRead fn a n s) := by
  unfold Machine.execHostMemoryRead
  refine State.memOk.next ?_
  extract_lets _ _ _ _ t
  have ht : t.memOk := h
  refine .ite (.ite h.barRead h) (.ite h ?_)
  split
  · refine State.memOk.useFree ?_
    exact h
  · exact .ite ht.hostWorld ht

theorem State.memOk.execHostMemoryWrite {fn a bs poisoned} (h : s.memOk) : Leaves (execHostMemoryWrite fn a bs poisoned s) :=
  (State.memOk.ite h (.ite h.physWrite.hostWorld h.physWrite)).next

theorem State.memOk.barWrite {fn o v} (h : s.memOk) : (s.barWrite fn o v).memOk :=
  State.memOk_of_mem (by simp only [State.barWrite, State.setPage, apply_ite State.mem, ite_self]) h

theorem State.memOk.dieWrite {die o v} (h : s.memOk) : (s.dieWrite die o v).memOk := .ite h.setSlot (.ite h.modDie (.ite h.modDie h))
theorem State.memOk.placePart {p v} (h : s.memOk) : (s.placePart p v).memOk := .ite h (.ite h (.ite h (.ite h h)))

theorem State.memOk.partClusters {p m} (h : s.memOk) : (s.partClusters p m).memOk := by
  unfold State.partClusters
  extract_lets
  split
  · exact .ite h h
  · exact h

theorem State.memOk.partChannels {p i v} (h : s.memOk) : (s.partChannels p i v).memOk := by
  unfold State.partChannels
  extract_lets
  split
  · exact .ite h h
  · exact h

theorem State.memOk.tableWrite {o v} (h : s.memOk) : (s.tableWrite o v).memOk := by
  unfold State.tableWrite
  extract_lets
  split
  · exact .ite h h
  · split
    · exact h.setPort
    · split
      · exact h
      · split
        · split
          · exact h.placePart
          · exact h.partClusters
          · exact h.partClusters
          · exact h
        · exact .ite h.partChannels (.ite h h)

theorem State.memOk.execRegisterWrite {addr val} (h : s.memOk) : Leaves (execRegisterWrite addr val s) :=
  (State.memOk.ite h (.ite (.ite h.tableWrite h) (.ite (.ite h.dieWrite h) (.ite h.barWrite h)))).next

theorem State.memOk.setIngress {w g} (h : s.memOk) : (s.setIngress w g).memOk := h

theorem State.memOk.execIngressDropRead {w} (h : s.memOk) : Leaves (execIngressDropRead w s) := by
  unfold Machine.execIngressDropRead
  refine State.memOk.next (.ite h (State.memOk.setIngress ?_))
  exact h

theorem State.memOk.ringWrite {x a bs} (h : s.memOk) : Yields id (s.ringWrite x a bs) := by
  unfold State.ringWrite
  split
  · exact Yields.error
  · exact Yields.ok h.physWrite

theorem State.memOk.ingressPart {w part time} (h : s.memOk) : Yields id (s.ingressPart w part time) := by
  unfold State.ingressPart
  extract_lets _ next
  split
  · exact Yields.error
  · exact Yields.error
  · split
    · exact Yields.ok h.setIngress
    · split
      · exact Yields.error
      next e =>
        split
        · exact Yields.error
        next e1 => exact Yields.ok ((((h.ringWrite _ e).ringWrite) _ e1).setIngress)

theorem State.memOk.ingressParts {w ps time} (h : s.memOk) : Yields id (s.ingressParts w ps time) := by
  induction ps generalizing s with
  | nil => exact Yields.ok h
  | cons _ _ ih =>
    rw [State.ingressParts]
    split
    · exact Yields.error
    next e => exact ih (h.ingressPart _ e)

theorem State.memOk.execIngressWrite {w off bs} (h : s.memOk) : Leaves (execIngressWrite w off bs s) := by
  unfold Machine.execIngressWrite
  refine State.memOk.next ?_
  extract_lets
  split
  · exact h
  · split
    next e => exact h.useFree.ingressParts _ e
    · exact h.useFree.setIngress.raiseEvent

/-! ### MemIns -/

theorem State.memOk.issueMem {i gd a data base} (h : s.memOk) : Leaves (issueMem i gd a data base s) := h.issue (fun _ _ _ w => w.finish)
theorem State.memOk.issueScalarMem {i x readsD} (h : s.memOk) : Leaves (issueScalarMem i x readsD s) := h.issue (fun _ _ _ w => .ite w.finish w.finish)
theorem State.memOk.issueStack {i x data} (h : s.memOk) : Leaves (issueStack i x data s) := h.issue (fun _ _ _ w => .ite w.trapHere w.finish)

/-! ### Rounds -/

theorem State.memOk.svcCount {die x} (h : s.memOk) : (s.svcCount die x).memOk := h.modDie

theorem State.memOk.execServiceRequestTake {die} (h : s.memOk) : Leaves (execServiceRequestTake die s) := by
  unfold Machine.execServiceRequestTake
  refine State.memOk.next ?_
  split
  · exact h
  · split
    · exact h
    · split
      next e => exact (h.takeCall _ e).svcCount
      · exact h

theorem State.memOk.execRecordPost {i} (h : s.memOk) : Leaves (execRecordPost i s) := by
  unfold Machine.execRecordPost
  refine State.memOk.next ?_
  split
  · exact h
  · exact .ite h h.svcCount.postRecord

theorem State.memOk.execCommandJournal {i} (h : s.memOk) : Leaves (execCommandJournal i s) := by
  unfold Machine.execCommandJournal
  refine State.memOk.next ?_
  split
  · exact h
  · exact .ite h.svcCount.acceptCmd h

theorem State.memOk.execServiceRoundPriority {die i} (h : s.memOk) : Leaves (execServiceRoundPriority die i s) := by
  unfold Machine.execServiceRoundPriority
  refine State.memOk.next ?_
  extract_lets
  split
  · exact h
  · split
    · split
      · split
        · split
          next e => exact (h.takeCall _ e).svcCount
          · exact h
        · exact h
      · exact h
    · split
      · split
        · exact .ite h.svcCount.postRecord h
        · exact h
      · split
        · exact .ite h.svcCount.acceptCmd h
        · exact h

/-! ### ServiceRv -/

theorem State.memOk.setHart {d n k} (h : s.memOk) : (s.setHart d n k).memOk := h.modDie

/-! ### Spawn -/

theorem State.memOk.hartStep {body} (h : s.memOk) (hbody : ∀ (u : State) (k : Hart), u.memOk → (body u k).1.memOk) : Leaves (hartStep s body) := by
  unfold Machine.hartStep
  split
  · extract_lets _ _ k r
    have hr : r.1.memOk := by
      unfold r
      split
      · exact h
      · exact hbody _ _ h
    exact hr.setHart.next
  · exact Leaves.fault

theorem State.memOk.hartIllegal {d n} (h : s.memOk) : (s.hartIllegal d n).memOk := h.setHart

theorem State.memOk.spawn {die bs} (h : s.memOk) : (s.spawn die bs).2.memOk := by
  unfold State.spawn
  extract_lets _ _ _ _ _ _ _ t
  have ht : t.memOk := h
  split
  · exact h
  · split
    · exact h
    · exact ht.admitTeam

theorem State.memOk.execGspawn {x} (h : s.memOk) : Leaves (execGspawn x s) := by
  unfold Machine.execGspawn
  refine h.hartStep (fun _ _ w => ?_)
  extract_lets _ r
  have hr : r.2.memOk := w.spawn
  split
  · exact w
  · exact hr

theorem State.memOk.execGjoin {x} (h : s.memOk) : Leaves (execGjoin x s) := by
  unfold Machine.execGjoin
  refine h.hartStep (fun _ _ w => ?_)
  extract_lets
  split
  · exact w
  · split
    · exact w
    · exact w

theorem State.memOk.execVlt {x} (h : s.memOk) : Leaves (execVlt x s) := by
  unfold Machine.execVlt
  refine h.hartStep (fun _ _ w => ?_)
  extract_lets
  split
  · exact w
  · split
    · exact w
    · exact w

theorem State.memOk.execVstT {x} (h : s.memOk) : Leaves (execVstT x s) := by
  unfold Machine.execVstT
  refine h.hartStep (fun _ _ w => ?_)
  extract_lets
  split
  · exact w
  · split
    · exact w
    · exact w.winWrite

end Sys2Proof.Machine
end

section
/-! PROOF. Every instruction and every step: memory stays in its canonical form (17 R349). -/
namespace Sys2Proof.Machine

variable {s : State}

/-! ### Dispatch -/

theorem State.memOk.exec {i : Instr} (h : s.memOk) : Leaves (exec i s) := by
  unfold Machine.exec
  cases i with
  | nop | mov | sel | getl | shfl | vote | redux | rdsr | wrsr | plop | p2v | v2p | rdtime | iaddw | imadw | cvt
  | smovw | bkoff | bkoffClr | pset => exact h.issueF
  | setl => exact h.issue (fun _ _ _ w => .ite w.finish w.finish)
  | cape => exact h.execCape
  | cres => exact h.execCres
  | iadd | isub | imul | imulh | imulhu | imad | imin | imax | umin | umax | iand | ior | ixor | ishl | ishr
  | isra | irot | ibfx | ubfx | ibfi | idot4 | isad | iaddsat | isubsat | fadd | fsub | fmul | ffma | fmin
  | fmax | fscale | hadd2 | hmul2 | hfma2 | hmin2 | hmax2 | badd2 | bmul2 | bfma2 | bmin2 | bmax2 | pack => exact h.issueLane3
  | iabs | ineg | inot | iclz | ipopc | ibrev | fabs | fneg | ffloor | fceil | ftrunc | frint | fclass => exact h.issueLane2
  | frcp | frsq | fsqrt | fex2 | flg2 | fsin | fcos | ftanh => exact h.issueSfu
  | cvtefF8a | cvtefF8b | cvtefF4 | cvtefH16 | cvtefB16 | cvtefI8 => exact h.issueCvtef
  | icmpEq | icmpNe | icmpLt | icmpLe | icmpGt | icmpGe | icmpLtu | icmpLeu | icmpGtu | icmpGeu => exact h.issueCmp
  | fcmpEq | fcmpNe | fcmpLt | fcmpLe | fcmpGt | fcmpGe | fcmpUn | fcmpOr => exact h.issueFcmp
  | scmpEq | scmpNe | scmpLt | scmpLtu => exact h.issueScmp
  | tex | tld => exact h.issueTex
  | sadd | ssub | smul | smulh | sand | sor | sxor | sshl | sshr | ssra | smin | smax | sfadd | sfmul | sffma => exact h.issueS3
  | bra | jmpi => exact h.issue (fun _ _ _ w => .ite (w.withTarget (fun _ w1 => w1.jumpTo)) w.finish)
  | br => exact h.execBr
  | rcv => exact h.execRcv
  | call => exact h.issue (fun _ _ _ w => .ite (w.withTarget (fun _ w1 => w1.modGrp.jumpTo)) w.finish)
  | ret => exact h.execRet
  | exit => exact h.issue (fun _ _ _ w => .ite w.trapHere (.ite w.finish (.ite w.setGrp w.finish)))
  | yield => exact h.execYield
  | trap | bkpt => exact h.issue (fun _ _ _ w => w.softTrap)
  | svcD => exact h.execSvcD
  | svcC => exact h.execSvcC
  | tret => exact h.execTret
  | dcmd => exact h.execDcmd
  | setview => exact h.issue (fun _ _ _ w => .ite (.ite w.trapHere w.finish) w.finish)
  | tlinc => exact h.issue (fun _ _ _ w => .ite w.finish (.ite w.trapHere w.finish))
  | ldW | ldD | ldQ | ldN | stW | stD | stQ | stN | ldl | stl | pref | atom | atomr | atoml | cas | casl | cwb
  | cinv | cinvP => exact h.issueMem
  | ldw => exact h.issue (fun _ _ _ w => w.finish)
  | ldk | stk => exact h.issueStack
  | sld | sst | satom => exact h.issueScalarMem
  | fence => exact h.execFence
  | waitp => exact h.issue (fun _ _ _ w => w.waitOr)
  | arrv => exact h.issue (fun _ _ _ w => .ite (w.withObject (fun _ _ _ w1 => w1.finish)) w.finish)
  | waitb => exact h.issue (fun _ _ _ w => .ite (w.withObject (fun _ _ _ w1 => w1.waitOr)) w.finish)
  | waittl => exact h.issue (fun _ _ _ w => .ite w.waitOr w.finish)
  | waitc => exact h.execWaitc
  | freezeG => exact h.execFreezeG
  | freezeT => exact h.execFreezeT
  | regx => exact h.execRegx
  | mma | mzero | mldt | mstt | scalc | mtrn => exact h.issueDirect
  | mmas => exact h.execMmas
  | mloop => exact h.execMloop
  | perc => exact h.issue (fun _ _ _ w => .ite w.finish (.ite w.trapHere w.finish.percPut))
  | cpy | cpyt | cpyx => exact h.execCopy
  | launch => exact h.execLaunch
  | capb => exact h.execCapb
  | cstep => exact h.execCstep
  | gspawn => exact h.execGspawn
  | gjoin => exact h.execGjoin
  | vlt => exact h.execVlt
  | vstT => exact h.execVstT
  | teamAdmission => exact h.execTeamAdmission
  | park => exact h.execPark
  | parkReturn => exact h.execParkReturn
  | retire => exact h.execRetire
  | backoffExpiry => exact h.modFrag.next
  | fragmentStarved => exact h.execFragmentStarved
  | trapEntry => exact (State.memOk.ite h h.takeTrap).next
  | deferredTrapTaken => exact (State.memOk.ite h (.ite h.takeTrap h)).next
  | loadCompletion => exact h.execLoadCompletion
  | storePerformed => exact h.execStorePerformed
  | atomicPerformed => exact h.execAtomicPerformed
  | windowAccessPerformed => exact h.execWindowAccessPerformed
  | ldwLaneLanding => exact h.execLdwLaneLanding
  | remoteBarrierStep => exact h.execRemoteBarrierStep
  | regxGrow => exact h.execRegxGrow
  | samplerCompletion => exact h.execSamplerCompletion
  | sfuCompletion => exact (h.withOp (fun _ _ => .ite h h.lanesDone)).next
  | lineMissFill => exact h.fillLine.next
  | l1EvictionWriteback => exact h.execL1EvictionWriteback
  | translationWalk => exact h.execTranslationWalk
  | matrixUnitOperation => exact h.execMatrixUnitOperation
  | matrixOperationComplete => exact h.execMatrixOperationComplete
  | mloopStart => exact h.execMloopStart
  | percStart => exact h.execPercStart
  | percIteration => exact h.execPercIteration
  | copyAccept => exact h.execCopyAccept
  | copyUnitLanding => exact h.execCopyUnitLanding
  | capbAttempt => exact h.execCapbAttempt
  | cstepCommit => exact h.execCstepCommit
  | launchAccept => exact h.execLaunchAccept
  | launchCompletion => exact h.execLaunchCompletion
  | serviceRequestTake => exact h.execServiceRequestTake
  | serviceCallReply => exact h.execServiceCallReply
  | controlReply => exact h.execControlReply
  | serviceRoundPriority => exact h.execServiceRoundPriority
  | doorbell => exact h.execDoorbell
  | queueFetch => exact h.execQueueFetch
  | sliceEnd => exact h.execSliceEnd
  | corePreempt => exact h.execCorePreempt
  | preemptResume => exact h.execPreemptResume
  | staggerExpiry => exact (h.modDie.foldl (fun _ _ w => w.pourDue)).noteAll.next
  | operatingPointHoldEnd => exact h.execOperatingPointHoldEnd
  | throttleWindowEnd => exact h.modCore.next
  | throttleOverride => exact h.execThrottleOverride
  | bandwidthPublication => exact h.modDie.next
  | commandJournal => exact h.execCommandJournal
  | hostCommandGo => exact h.execHostCommandGo
  | create => exact h.execCreate
  | destroy | revoke => exact h.onCmd (fun _ => h.checked (.ite h.isolate.beginCmd (.ite h.resetCtx.cmdDone h)))
  | grantCore => exact h.execGrantCore
  | grantMem => exact h.execGrantMem
  | grantQueues | grantLink => exact h.onCmd (fun _ => h.checked (.ite h.cmdDone h.modCtx.cmdDone))
  | setHandler => exact h.execSetHandler
  | freeze => exact h.execFreeze
  | thaw => exact h.onCmd (fun _ => h.checked (.ite h.cmdDone h.settleCut.modCtx.noteAll.cmdDone))
  | checkpoint => exact h.execCheckpoint
  | restore => exact h.execRestore
  | dirtyscan => exact h.execDirtyscan
  | query => exact h.execQuery
  | bindVf | bindVfUnbind => exact h.onCmd (fun _ => h.moveVf)
  | bindPartition => exact h.execBindPartition
  | bindPartitionUnbind => exact h.execBindPartitionUnbind
  | bindPartitionReset => exact h.execBindPartitionReset
  | genbump | genbumpCtx => exact h.onCmd (fun _ => h.genbump)
  | recordPost => exact h.execRecordPost
  | retryReply => exact h.execRetryReply
  | endReply => exact h.execEndReply
  | passReply => exact h.execPassReply
  | errorFence => exact h.execErrorFence
  | journalRecopy => exact h.execJournalRecopy
  | coldReset | modulePowerOff => exact State.memOk.cold.next
  | getCertificate | challenge | getMeasurements => exact h.spdmAnswer.next
  | keyExchange => exact h.execKeyExchange
  | ideKm => exact h.execIdeKm
  | keyUpdate | peerDetected | trainingTimeout => exact (State.memOk.ite h.setPort h).next
  | lifeCycleChange => exact h.execLifeCycleChange
  | ideIntegrityFailure => exact h.execIdeIntegrityFailure
  | hostMemoryRead => exact h.execHostMemoryRead
  | hostMemoryWrite => exact h.execHostMemoryWrite
  | registerWrite => exact h.execRegisterWrite
  | tctlWrite => exact h.execTctlWrite
  | ictlWrite => exact (State.memOk.ite h h.modCore).next
  | sctlWrite => exact (State.memOk.ite h h.setSlot).next
  | ingressDropRead => exact h.execIngressDropRead
  | ingressWrite => exact h.execIngressWrite
  | ptpMessage | ptmResponse => exact (State.memOk.ite h.measured h).next
  | clockLockChange => exact h.execClockLockChange
  | powerLimit | dramOvertemp | thermalThrottle | correctedError => exact (State.memOk.ite h h.modDie).next
  | dramCrcRetry => exact h.execDramCrcRetry
  | uncorrectableError => exact h.execUncorrectableError
  | serviceCoreCacheError => exact h.execServiceCoreCacheError
  | flitReceive => exact h.execFlitReceive
  | nack => exact (State.memOk.ite h.nackAt h).next
  | ackTimeout => exact h.execAckTimeout
  | linkTrained => exact h.execLinkTrained
  | retrainTimeout => exact (State.memOk.ite h.portAnswers.setPort h).next
  | remoteRequest => exact h.execRemoteRequest
  | noRoute => exact h.execNoRoute
  | exportWithdraw => exact h.execExportWithdraw
  | cxlBackInvalidate => exact h.execCxlBackInvalidate
  | cxlPortDown => exact h.execCxlPortDown

/-! ### Policy -/

theorem State.memOk.bothIssue {gid} (h : s.memOk) : (s.bothIssue gid).memOk := by
  unfold State.bothIssue
  refine .ite h ?_
  extract_lets t
  have ht : t.memOk := by
    unfold t
    split
    next e => exact .ite (h.turnOf.of_run e).finish h
    next e => exact .ite (h.turnOf.of_run e).finish h
    · exact h
  exact ht

theorem State.memOk.pass {ns} (h : s.memOk) : (s.pass ns).memOk := h

/-! ### Riscv -/

theorem State.memOk.rvLoad {k n a f} (h : s.memOk) : (s.rvLoad k n a f).1.memOk := by
  unfold State.rvLoad
  split
  · exact h
  · exact h

theorem State.memOk.rvStore {k n a v len} (h : s.memOk) : (s.rvStore k n a v len).1.memOk := by
  unfold State.rvStore
  split
  · exact h
  · exact h.homeWrite

theorem State.memOk.rvAtomic {k w len} (h : s.memOk) : (s.rvAtomic k w len).1.memOk := by
  unfold State.rvAtomic
  extract_lets n a _ _ _ _ _ new
  clear_value new
  split
  · exact h
  · split
    · split
      · exact h
      · exact h.rvLoad
    · split
      · cases s.rvFault 6 n a with
        | some c => exact h
        | none =>
          dsimp only
          split
          · exact h
          · split
            · exact h.useFree
            · exact h.useFree.homeWrite
      · cases new with
        | none => exact h
        | some v =>
          cases s.rvFault 6 n a with
          | some c => exact h
          | none => exact h.homeWrite

theorem State.memOk.rvCsr {k w len id} (h : s.memOk) : (s.rvCsr k w len id).1.memOk := by
  unfold State.rvCsr
  extract_lets
  split
  · exact h
  · extract_lets
    split
    · exact h
    · exact h.useFree

theorem State.memOk.rvFloat {k w len store} (h : s.memOk) : Gives Prod.fst (s.rvFloat k w len store) := by
  unfold State.rvFloat
  extract_lets
  split
  · exact .ite (Gives.some h) Gives.none
  · exact .ite (Gives.some h) Gives.none
  · exact .ite (Gives.some h) Gives.none
  · exact .ite (Gives.some h) Gives.none
  · exact .ite (Gives.some h) (.ite (Gives.some h.rvStore) (Gives.some h.rvLoad))

theorem State.memOk.rvExec {k w len id} (h : s.memOk) : Gives Prod.fst (s.rvExec k w len id) := by
  unfold State.rvExec
  split
  · exact Gives.some h
  · exact Gives.some h
  · exact Gives.some h
  · exact .ite (Gives.some h) (Gives.some h)
  · dsimp only
    split
    · exact Gives.some h
    · exact Gives.some h
  · exact .ite (Gives.some h) (Gives.some h.rvLoad)
  · exact .ite (Gives.some h) (Gives.some h.rvStore)
  · exact .ite (Gives.some h) (Gives.some h)
  · exact .ite (Gives.some h) (Gives.some h)
  · exact .ite (Gives.some h) (.ite (Gives.some h) (Gives.some h))
  · exact .ite (Gives.some h) (.ite (Gives.some h) (Gives.some h))
  · exact .ite (Gives.some h) (Gives.some h)
  · exact Gives.some h.rvAtomic
  · exact .ite (Gives.some h) (.ite (Gives.some h) (Gives.some h.rvCsr))
  · exact h.rvFloat
  · exact h.rvFloat
  · exact Gives.map fun b _ => h
  · exact .ite (Gives.some h) Gives.none
  · exact .ite (Gives.some h) Gives.none
  · exact .ite (Gives.some h) Gives.none
  · exact .ite (Gives.some h) Gives.none
  · exact .ite (Gives.some h) (.ite (Gives.some h) Gives.none)
  · exact Gives.some h

theorem State.memOk.hartBase {d n} (h : s.memOk) : Gives id (s.hartBase d n) := by
  unfold State.hartBase
  extract_lets
  split
  · exact Gives.some h.setHart
  · split
    · exact Gives.map fun b eb => (h.rvExec b eb).setHart
    · split
      · exact Gives.some h.setHart
      · exact Gives.map fun b eb => (h.rvExec b eb).setHart

/-! ### Step -/

theorem State.memOk.afterIssue {i before f} (h : s.memOk) : (s.afterIssue i before f).memOk := h.capCounted.fileIssued.clauseYield.settle

theorem State.memOk.runIssue {g n} (h : s.memOk) : Leaves (runIssue g n s) := by
  unfold Machine.runIssue
  split
  · exact State.memOk.next h
  next e => exact State.memOk.next (h.turnOf.of_done e).settle
  next e =>
    have hu := h.turnOf.of_run e
    split
    next e => exact (hu.exec _ e).afterIssue.next
    · exact hu.exec

theorem State.memOk.runClock {core q busy} (h : s.memOk) : Leaves (runClock core q busy s) := by
  unfold Machine.runClock
  split
  · exact h.settle.next
  · exact h.runIssue
  · split
    next e => exact (((State.memOk.ite h.bothIssue h).runIssue) _ e).runIssue
    · exact (State.memOk.ite h.bothIssue h).runIssue

theorem State.memOk.runTurn {t} (h : s.memOk) : Leaves (runTurn t s) := by
  unfold Machine.runTurn
  split
  · exact h.pass.settle.next
  · split
    · exact h.next
    · split
      next e => exact (h.exec _ e).fileLanded.settle.next
      · exact h.exec
  · exact h.runIssue
  · exact h.bothIssue.runIssue
  · exact h.runClock
  next d n =>
    split
    · split
      · exact h.hartIllegal.next
      · split
        next e => exact (h.hartBase _ e).settle.next
        · exact Leaves.fault
    · extract_lets
      generalize hu : ({ s with iss := _ } : State) = u
      have ht : u.memOk := by subst hu; exact h
      split
      next e =>
        have hv := (ht.exec _ e).settle
        exact State.memOk.next hv
      · exact ht.exec

theorem State.memOk.step (h : s.memOk) : Leaves (step s) := by
  unfold Machine.step
  split
  next t r _ => exact State.memOk.runTurn (s := { s with agenda := r }) h
  · exact h.runTurn

/-- Settles O58: every function that a step calls keeps memory in its canonical form. -/
theorem memoryStaysCanonical : Obligations.MemoryStaysCanonical := by
  unfold Obligations.MemoryStaysCanonical
  exact fun s t h e => h.step t e

end Sys2Proof.Machine
end
